-- ==== Sys2Proof/Word.lean ====
section
/-!
DEFINITION. The word types of the Zorari Z9 and their plainest arithmetic (R10: bit 0 is the least significant bit,
memory is little-endian).
-/
namespace Sys2Proof

/-- One byte of memory. -/
abbrev Byte := BitVec 8
/-- A scalar register, an address, a control register (R79). -/
abbrev Word := BitVec 64
/-- A vector register, an accumulator slot, a vector flit (R180, R285). -/
abbrev Vec := BitVec 1024

/-- A 5-bit field that names a scalar register x0-x31 (R46); x28-x31 are the ports pn, pe, ps, pw. -/
abbrev Reg := Fin 32
/-- A 5-bit field that names a vector: 0 lat, 1-7 q1-q7, 8-27 v0-v19, 28-31 the vector ports (R47). -/
abbrev VReg := Fin 32
/-- A field that names a mask m0-m7 (R46). -/
abbrev MReg := Fin 8

/-- Bits [hi:lo] of a number (R10). -/
def bitsOf (w hi lo : Nat) : Nat := w / 2 ^ lo % 2 ^ (hi + 1 - lo)

/-- Bit `i` of a number. -/
def bitOf (w i : Nat) : Bool := w / 2 ^ i % 2 == 1

/-- The signed value of the `n`-bit number `v`. -/
def signedOf (n v : Nat) : Int := if v < 2 ^ (n - 1) then (v : Int) else (v : Int) - (2 ^ n : Nat)

/-- 0 or 1. -/
def boolNat (b : Bool) : Nat := if b then 1 else 0

/-- 0 or 1 as a word. -/
def boolWord (b : Bool) : Word := if b then 1 else 0

end Sys2Proof
end

