-- ==== Sys2Proof/Syntax.lean ====
section
/-!
DEFINITION. The syntax of the Zorari Z9: one constructor of `Instr` per row of spec/opcode_table.json, which are the 232
instructions of R49 and the 110 steps of the part's agents (spec/95_what_each_step_holds.md).

An instruction's operand record has one field per field of its encoding (R41, R42, R50 to R54) and none for a field it does
not use. An `ext` that is `none` is the one-word form and `some` the three-word form (R43); `long` says the same where word 1
holds nothing. Which file a register field names is part of the instruction (R46).
-/
namespace Sys2Proof

/-- The two contexts of a core: N normal (0) and U urgent (1) (R79, R80). -/
inductive Ctx where
  | n | u
  deriving DecidableEq, Repr

/-- The four mesh directions, in the order of the ports pn, pe, ps, pw: x28 to x31 (R46). -/
inductive Dir where
  | north | east | south | west
  deriving DecidableEq, Repr

/-- Rounding mode field rm (R42). -/
inductive RM where
  | rne | rtz | rdn | rup | dyn
  deriving DecidableEq, Repr

/-- Scope field (R42, R293). -/
inductive Scope where
  | core | cluster | die | package | system
  deriving DecidableEq, Repr

/-- Scalar floating format, func8[7:5] (R50); also the formats of majors 0x20 and 0x21 (R53). -/
inductive FFmt where
  | f32 | bf16
  deriving DecidableEq, Repr

/-- Integer lane format of major 0x22 (R53). -/
inductive IFmt where
  | i32 | i16 | i8
  deriving DecidableEq, Repr

/-- Lane format of majors 0x24 to 0x26 (R53). -/
inductive VFmt where
  | f32 | bf16 | i32 | i16 | i8
  deriving DecidableEq, Repr

/-- Format code of word 2 of major 0x23 (R54). -/
inductive CFmt where
  | f32 | bf16 | i32 | i16 | i8 | f16 | i4 | e2m1 | ts8 | s8
  deriving DecidableEq, Repr

/-- The immediate of a format I instruction: imm13, or the literal that replaces it (R45). -/
inductive Imm where
  | short (v : BitVec 13)
  | lit (v : BitVec 64)
  deriving DecidableEq, Repr

/-- The offset of a format M instruction: imm10, or the literal that replaces it (R45). -/
inductive Off where
  | short (v : BitVec 10)
  | lit (v : BitVec 64)
  deriving DecidableEq, Repr

/-- Word 1 of a masked rounding vector instruction: rm, m and mz (R42, R51). -/
structure RExt where
  rm : RM
  m : MReg
  mz : Bool
  deriving DecidableEq, Repr

/-- Word 1 of a masked vector instruction: m and mz (R42, R51). -/
structure MExt where
  m : MReg
  mz : Bool
  deriving DecidableEq, Repr

/-- No field but the switch marker w. -/
structure OpsW where
  w : Bool
  deriving DecidableEq, Repr
/-- `trap code` (R170). -/
structure OpsTrap where
  w : Bool
  code : BitVec 8
  deriving DecidableEq, Repr
/-- `getc xd, creg` (R170). -/
structure OpsGetc where
  w : Bool
  d : Reg
  creg : BitVec 8
  deriving DecidableEq, Repr
/-- `setc creg, xa` (R170). -/
structure OpsSetc where
  w : Bool
  a : Reg
  creg : BitVec 8
  deriving DecidableEq, Repr
/-- `xinv xd, xa, kind, scope` (R175): kind 0, 1 or 2; scope as its field. -/
structure OpsXinv where
  w : Bool
  d : Reg
  a : Reg
  kind : Fin 3
  scope : Scope
  deriving DecidableEq, Repr
/-- A destination only. -/
structure OpsD where
  w : Bool
  d : Reg
  deriving DecidableEq, Repr
/-- A source only. -/
structure OpsA where
  w : Bool
  a : Reg
  deriving DecidableEq, Repr
/-- Fields d and a. -/
structure OpsDA where
  w : Bool
  d : Reg
  a : Reg
  deriving DecidableEq, Repr
/-- Fields d, a and b (format A). -/
structure OpsDAB where
  w : Bool
  d : Reg
  a : Reg
  b : Reg
  deriving DecidableEq, Repr
/-- Format I (R155, R160). -/
structure OpsI where
  w : Bool
  d : Reg
  a : Reg
  imm : Imm
  deriving DecidableEq, Repr
/-- `slli`, `srli`, `srai` (R156). -/
structure OpsShift where
  w : Bool
  d : Reg
  a : Reg
  sh : BitVec 6
  deriving DecidableEq, Repr
/-- Format U (R157). -/
structure OpsU where
  w : Bool
  d : Reg
  imm : BitVec 18
  deriving DecidableEq, Repr
/-- Format J (R160). -/
structure OpsJ where
  w : Bool
  d : Reg
  off : BitVec 18
  deriving DecidableEq, Repr
/-- Format B (R159). -/
structure OpsB where
  w : Bool
  a : Reg
  b : Reg
  off : BitVec 10
  deriving DecidableEq, Repr
/-- `loop xa, label` (R161): `dist` is end13. -/
structure OpsLoop where
  w : Bool
  a : Reg
  dist : BitVec 13
  deriving DecidableEq, Repr
/-- `loopi cnt, label` (R161): `dist` is end13. -/
structure OpsLoopi where
  w : Bool
  cnt : BitVec 9
  dist : BitVec 13
  deriving DecidableEq, Repr
/-- Two floating sources and a rounding mode (R165 funcs 0-3). -/
structure OpsF2R where
  w : Bool
  fmt : FFmt
  d : Reg
  a : Reg
  b : Reg
  ext : Option RM
  deriving DecidableEq, Repr
/-- Two floating sources, no rounding (R165). -/
structure OpsF2 where
  w : Bool
  fmt : FFmt
  d : Reg
  a : Reg
  b : Reg
  long : Bool
  deriving DecidableEq, Repr
/-- One floating source and a rounding mode (`fsqrt`). -/
structure OpsF1R where
  w : Bool
  fmt : FFmt
  d : Reg
  a : Reg
  ext : Option RM
  deriving DecidableEq, Repr
/-- One floating source, no rounding (`fclass`, `frsqe`, `frcpe`). -/
structure OpsF1 where
  w : Bool
  fmt : FFmt
  d : Reg
  a : Reg
  long : Bool
  deriving DecidableEq, Repr
/-- A conversion that rounds and has no pk (R165 funcs 13, 14). -/
structure OpsCvtR where
  w : Bool
  d : Reg
  a : Reg
  ext : Option RM
  deriving DecidableEq, Repr
/-- A widening conversion (R165 funcs 15, 17). -/
structure OpsCvt where
  w : Bool
  d : Reg
  a : Reg
  long : Bool
  deriving DecidableEq, Repr
/-- A narrowing conversion with rm and pk (R165 funcs 16, 18). -/
structure OpsCvtP where
  w : Bool
  d : Reg
  a : Reg
  ext : Option (RM × Bool)
  deriving DecidableEq, Repr
/-- Fused multiply-add (R169). -/
structure OpsF3 where
  w : Bool
  fmt : FFmt
  d : Reg
  a : Reg
  b : Reg
  c : Reg
  rm : RM
  deriving DecidableEq, Repr
/-- Scalar load or store (R205, R208): d is the destination or the data. -/
structure OpsM where
  w : Bool
  d : Reg
  a : Reg
  off : Off
  long : Bool
  deriving DecidableEq, Repr
/-- `ld.acq`, `st.rel`: `scope` is none in the one-word forms, which have package scope (R43). -/
structure OpsMS where
  w : Bool
  d : Reg
  a : Reg
  off : Off
  scope : Option Scope
  deriving DecidableEq, Repr
/-- Integer atomics (R210): `dbl` is the size bit. -/
structure OpsAmo where
  w : Bool
  d : Reg
  a : Reg
  b : Reg
  dbl : Bool
  deriving DecidableEq, Repr
/-- The three kinds of `fence` (R213). -/
inductive FenceKind where
  | acq | rel | full
  deriving DecidableEq, Repr
/-- `fence` (R213). -/
structure OpsFence where
  w : Bool
  kind : FenceKind
  scope : Scope
  deriving DecidableEq, Repr
/-- `fe.clr`, `fe.set` (R215): `n1` is n - 1. -/
structure OpsFe where
  w : Bool
  a : Reg
  n1 : BitVec 8
  deriving DecidableEq, Repr
/-- `win.set` (R216). -/
structure OpsWinSet where
  w : Bool
  d : Reg
  a : Reg
  e : Fin 8
  deriving DecidableEq, Repr
/-- `win.drop`, `win.touch` (R216). -/
structure OpsWin where
  w : Bool
  e : Fin 8
  deriving DecidableEq, Repr
/-- `win.state` (R216). -/
structure OpsWinState where
  w : Bool
  d : Reg
  e : Fin 8
  deriving DecidableEq, Repr
/-- `send` (R218): b = 0 names the place, any other b a register. -/
structure OpsSend where
  w : Bool
  a : Reg
  b : Reg
  dx : BitVec 8
  dy : BitVec 8
  bytes : BitVec 7
  ctx : Ctx
  cls : Fin 32
  deriving DecidableEq, Repr
/-- `sendv` (R218). -/
structure OpsSendv where
  w : Bool
  a : VReg
  b : Reg
  dx : BitVec 8
  dy : BitVec 8
  ctx : Ctx
  cls : Fin 32
  deriving DecidableEq, Repr
/-- `mcast` (R218, R220). -/
structure OpsMcast where
  w : Bool
  a : Reg
  gid : Fin 64
  bytes : BitVec 7
  ctx : Ctx
  cls : Fin 32
  deriving DecidableEq, Repr
/-- `grp.arm` (R221): `i64` is type, `yfirst` is shape. -/
structure OpsArm where
  w : Bool
  d : Reg
  a : Reg
  b : Reg
  dx : BitVec 8
  dy : BitVec 8
  timeout : BitVec 24
  i64 : Bool
  yfirst : Bool
  gid : Fin 64
  deriving DecidableEq, Repr
/-- `red.f32`, `red.i64` (R224). -/
structure OpsRed where
  w : Bool
  a : VReg
  gid : Fin 64
  deriving DecidableEq, Repr
/-- `grp.wait`, `grp.free` (R225). -/
structure OpsGrp where
  w : Bool
  d : VReg
  gid : Fin 64
  deriving DecidableEq, Repr
/-- `rng.push` (R229). -/
structure OpsPush where
  w : Bool
  d : Reg
  a : Reg
  cls : BitVec 8
  deriving DecidableEq, Repr
/-- `launch` (R231). -/
structure OpsLaunch where
  w : Bool
  d : Reg
  a : Reg
  notify : Bool
  deriving DecidableEq, Repr
/-- `replay` (R233): n is the patch length in doublewords. -/
structure OpsReplay where
  w : Bool
  d : Reg
  a : Reg
  n : BitVec 8
  deriving DecidableEq, Repr
/-- `lnstat` (R234): `sel1` is sel = 1. -/
structure OpsLnstat where
  w : Bool
  d : Reg
  a : Reg
  sel1 : Bool
  deriving DecidableEq, Repr
/-- `ch.res` (R252): `n1` is n - 1. -/
structure OpsRes where
  w : Bool
  d : Reg
  a : Reg
  n1 : BitVec 8
  deriving DecidableEq, Repr
/-- `ch.pub` (R252): `vec` is creg8[0]. -/
structure OpsPub where
  w : Bool
  d : Reg
  a : Reg
  vec : Bool
  deriving DecidableEq, Repr
/-- `vadd`, `vsub`, `vmul` (R187). -/
structure OpsVR where
  w : Bool
  fmt : FFmt
  d : VReg
  a : VReg
  b : VReg
  ext : Option RExt
  deriving DecidableEq, Repr
/-- `vmin`, `vmax` (R187). -/
structure OpsVF2 where
  w : Bool
  fmt : FFmt
  d : VReg
  a : VReg
  b : VReg
  ext : Option MExt
  deriving DecidableEq, Repr
/-- Unary floating lane operations (R187). -/
structure OpsVF1 where
  w : Bool
  fmt : FFmt
  d : VReg
  a : VReg
  ext : Option MExt
  deriving DecidableEq, Repr
/-- Floating lane comparisons: d is a mask (R187, R183). -/
structure OpsVFC where
  w : Bool
  fmt : FFmt
  d : MReg
  a : VReg
  b : VReg
  ext : Option MExt
  deriving DecidableEq, Repr
/-- Lane fused multiply-add (R188). -/
structure OpsVF3 where
  w : Bool
  fmt : FFmt
  d : VReg
  a : VReg
  b : VReg
  c : VReg
  rm : RM
  m : MReg
  mz : Bool
  deriving DecidableEq, Repr
/-- Integer lane operations (R189). -/
structure OpsVI where
  w : Bool
  fmt : IFmt
  d : VReg
  a : VReg
  b : VReg
  ext : Option MExt
  deriving DecidableEq, Repr
/-- Integer lane comparisons (R189). -/
structure OpsVIC where
  w : Bool
  fmt : IFmt
  d : MReg
  a : VReg
  b : VReg
  ext : Option MExt
  deriving DecidableEq, Repr
/-- `vcvt` (R190). -/
structure OpsVcvt where
  w : Bool
  d : VReg
  a : VReg
  rm : RM
  pk : Bool
  m : MReg
  mz : Bool
  sfmt : CFmt
  dfmt : CFmt
  deriving DecidableEq, Repr
/-- `vquant` (R190): c is the scale register. -/
structure OpsVquant where
  w : Bool
  d : VReg
  a : VReg
  c : VReg
  rm : RM
  pk : Bool
  m : MReg
  mz : Bool
  sfmt : CFmt
  dfmt : CFmt
  deriving DecidableEq, Repr
/-- `vdequant` (R190). -/
structure OpsVdequant where
  w : Bool
  d : VReg
  a : VReg
  c : VReg
  m : MReg
  mz : Bool
  sfmt : CFmt
  dfmt : CFmt
  deriving DecidableEq, Repr
/-- Reductions (R194): word 1 may carry a mask only. -/
structure OpsVRed where
  w : Bool
  fmt : VFmt
  d : VReg
  a : VReg
  ext : Option MReg
  deriving DecidableEq, Repr
/-- One-source lane instructions (R194 `vscan`, R196). -/
structure OpsV1 where
  w : Bool
  fmt : VFmt
  d : VReg
  a : Reg
  ext : Option MExt
  deriving DecidableEq, Repr
/-- Two-source lane moves (R196): which file each field names is part of the instruction. -/
structure OpsV2 where
  w : Bool
  fmt : VFmt
  d : Reg
  a : Reg
  b : Reg
  ext : Option MExt
  deriving DecidableEq, Repr
/-- `viota` (R196). -/
structure OpsV0 where
  w : Bool
  fmt : VFmt
  d : VReg
  ext : Option MExt
  deriving DecidableEq, Repr
/-- `vsel` (R198). -/
structure OpsVsel where
  w : Bool
  fmt : VFmt
  d : VReg
  a : VReg
  b : VReg
  ext : Option MReg
  deriving DecidableEq, Repr
/-- `mand`, `mor`, `mxor` (R198). -/
structure OpsMM where
  w : Bool
  d : MReg
  a : MReg
  b : MReg
  long : Bool
  deriving DecidableEq, Repr
/-- `mnot` (R198). -/
structure OpsMM1 where
  w : Bool
  d : MReg
  a : MReg
  long : Bool
  deriving DecidableEq, Repr
/-- `mpopc`, `mfirst`, `mget`: a mask into a scalar (R198). -/
structure OpsXM where
  w : Bool
  d : Reg
  a : MReg
  long : Bool
  deriving DecidableEq, Repr
/-- `mset`: a scalar into a mask (R198). -/
structure OpsMX where
  w : Bool
  d : MReg
  a : Reg
  long : Bool
  deriving DecidableEq, Repr
/-- Vector loads (R199). -/
structure OpsVL where
  w : Bool
  d : VReg
  a : Reg
  off : Off
  ext : Option MExt
  deriving DecidableEq, Repr
/-- Vector stores (R199): word 1 may carry a mask only (R51). -/
structure OpsVS where
  w : Bool
  d : VReg
  a : Reg
  off : Off
  ext : Option MReg
  deriving DecidableEq, Repr
/-- `vanc` (R203). -/
structure OpsVanc where
  w : Bool
  d : MReg
  a : VReg
  b : Reg
  deriving DecidableEq, Repr
/-- `acc.rd`, `acc.wr` (R287): d is a vector, `slot` names a0-a63. -/
structure OpsAcc where
  w : Bool
  d : VReg
  slot : Fin 64
  deriving DecidableEq, Repr

/-- Where a message in flight waits: in an injection slot of a context (R219), or with an engine (scheduler, service
hart, monitor: R67, R124, R345). -/
inductive MsgSrc where
  | ctx (c : Nat) (x : Ctx)
  | engine
  deriving DecidableEq, Repr

/-- Where a channel record in flight comes from: a posted write of a context (R254), or the churn of a delta queue (R259). -/
inductive RecSrc where
  | ctx (c : Nat) (x : Ctx)
  | churn (p ch : Nat)
  deriving DecidableEq, Repr

/-- An array with an error log (R129). -/
inductive ErrArray where
  | core (c a : Nat)
  | cluster (cl : Nat)
  | die (d a : Nat)
  deriving DecidableEq, Repr

/-- What kind of error strikes (R128, R129: the log's kinds). -/
inductive ErrKind where
  | corrected | uncorrectable | parity | crcResent | crcAbandoned
  deriving DecidableEq, Repr

/-- What an error hits besides being logged (R128, R335). -/
inductive ErrTarget where
  /-- a protected word of memory -/
  | memory (pa : Nat)
  /-- a scalar register, a vector register or a mask of a context -/
  | xreg (c : Nat) (x : Ctx) (r : Reg)
  | vreg (c : Nat) (x : Ctx) (r : Fin 28)
  | mreg (c : Nat) (x : Ctx) (r : MReg)
  /-- a return-buffer entry, or a port FIFO -/
  | buffer (c : Nat) (x : Ctx)
  | fifo (c : Nat) (x : Ctx) (d : Dir)
  /-- a slot or the weight block of a frozen cell -/
  | cell (c : Nat)
  /-- a pulse-lane flit arriving at a frozen member -/
  | pulse (c : Nat) (d : Dir)
  /-- a translation-cache entry -/
  | tcache (cl k : Nat)
  /-- nothing the model's state holds: a lane, a crossbar flit, a link -/
  | path
  deriving DecidableEq, Repr

/-- One error as the hardware reports it (R128, R129). -/
structure ErrorReport where
  array : ErrArray
  kind : ErrKind
  target : ErrTarget
  address : Nat
  /-- the firing tag of the access that met it, or 0 -/
  tag : BitVec 32
  deriving DecidableEq, Repr

/-- What gates a die (R361). -/
inductive GateCause where
  | temperature | current
  deriving DecidableEq, Repr

/-- A host access through BAR0 or BAR2 (R347, R349). -/
structure HostAcc where
  bar2 : Bool
  offset : Nat
  write : Bool
  size : Nat
  value : BitVec 64
  deriving DecidableEq, Repr

/-- Access kind of a peer (R353). -/
inductive PeerKind where
  | load | store | atomic (op : Fin 12) (opnd : BitVec 64) (cmp : BitVec 64)
  deriving DecidableEq, Repr

/-- A peer's access to this device's aperture (R353). -/
structure PeerAcc where
  dev : Nat
  offset : Nat
  size : Nat
  kind : PeerKind
  value : BitVec 64
  deriving DecidableEq, Repr

/-- A flit arriving on a device link for another device (R350, R351). -/
structure LinkFlit where
  dest : Nat
  header : BitVec 32
  payload : BitVec 1024
  deriving DecidableEq, Repr

/-- One load that a supervisor or the hypervisor asks the loader for (R20, R21), with the choices the spec leaves to the
loader: the virtual and physical place of the HBM sections, and whether range or page-table entries map them. -/
structure LoadReq where
  part : Nat
  sys : Bool
  image : List (BitVec 8)
  origins : List (Nat × Nat)
  hbmVa : Nat
  hbmPa : Nat
  /-- 0: no HBM section is expected; 1: range entries; 2: page-table entries -/
  mapKind : Fin 3
  /-- first free 4 KiB HBM page the loader may use for page tables and index arrays -/
  spare : Nat
  deriving DecidableEq, Repr

/-- One constructor per row of spec/opcode_table.json. -/
inductive Instr where
  /-- R170. Does nothing; the all-zero word, and nop! acts as a switch marker. -/
  | nop (o : OpsW)
  /-- R171. Completes, then enters the trap handler with cause 0x07 and the code in tval. -/
  | trap (o : OpsTrap)
  /-- R172. Returns from a trap to epc and restores the mode, the return buffer and the loop levels set aside. -/
  | eret (o : OpsW)
  /-- R173. Reads a control register into x[d] at issue. -/
  | getc (o : OpsGetc)
  /-- R173. Writes x[a] to a control register before the next instruction. -/
  | setc (o : OpsSetc)
  /-- R174. Waits for an event for the context and returns the set of events that ended it. -/
  | park (o : OpsDA)
  /-- R171. Takes a breakpoint trap with cause 0x08 without completing. -/
  | bkpt (o : OpsW)
  /-- R175. Invalidates cached translations or old range entries within a scope; the result is outstanding. -/
  | xinv (o : OpsXinv)
  /-- R154. x[d] := x[a] + x[b]. -/
  | add (o : OpsDAB)
  /-- R154. x[d] := x[a] - x[b]. -/
  | sub (o : OpsDAB)
  /-- R154. Bitwise AND of x[a] and x[b]. -/
  | and (o : OpsDAB)
  /-- R154. Bitwise OR of x[a] and x[b]. -/
  | or (o : OpsDAB)
  /-- R154. Bitwise exclusive OR of x[a] and x[b]. -/
  | xor (o : OpsDAB)
  /-- R154. x[a] AND NOT x[b]. -/
  | andn (o : OpsDAB)
  /-- R154. Shifts left logically by x[b][5:0]. -/
  | sll (o : OpsDAB)
  /-- R154. Shifts right logically by x[b][5:0]. -/
  | srl (o : OpsDAB)
  /-- R154. Shifts right arithmetically by x[b][5:0]. -/
  | sra (o : OpsDAB)
  /-- R154. Sets 1 when x[a] < x[b] signed. -/
  | slt (o : OpsDAB)
  /-- R154. Sets 1 when x[a] < x[b] unsigned. -/
  | sltu (o : OpsDAB)
  /-- R154. Signed minimum. -/
  | min (o : OpsDAB)
  /-- R154. Signed maximum. -/
  | max (o : OpsDAB)
  /-- R154. Unsigned minimum. -/
  | minu (o : OpsDAB)
  /-- R154. Unsigned maximum. -/
  | maxu (o : OpsDAB)
  /-- R154. Counts the leading zeros of x[a]. -/
  | clz (o : OpsDA)
  /-- R154. Counts the trailing zeros of x[a]. -/
  | ctz (o : OpsDA)
  /-- R154. Counts the set bits of x[a]. -/
  | popc (o : OpsDA)
  /-- R154. Sign-extends x[a][31:0]. -/
  | sextW (o : OpsDA)
  /-- R154. Zero-extends x[a][31:0]. -/
  | zextW (o : OpsDA)
  /-- R154. Extracts bit x[b][5:0] of x[a]. -/
  | bext (o : OpsDAB)
  /-- R155. x[d] := x[a] + the sign-extended immediate. -/
  | addi (o : OpsI)
  /-- R155. x[d] := x[a] AND the immediate. -/
  | andi (o : OpsI)
  /-- R155. x[d] := x[a] OR the immediate. -/
  | ori (o : OpsI)
  /-- R155. x[d] := x[a] XOR the immediate. -/
  | xori (o : OpsI)
  /-- R155. Sets 1 when x[a] is below the immediate, signed. -/
  | slti (o : OpsI)
  /-- R155. Sets 1 when x[a] is below the sign-extended immediate, unsigned. -/
  | sltiu (o : OpsI)
  /-- R156. Shifts x[a] left by a constant amount. -/
  | slli (o : OpsShift)
  /-- R156. Shifts x[a] right logically by a constant amount. -/
  | srli (o : OpsShift)
  /-- R156. Shifts x[a] right arithmetically by a constant amount. -/
  | srai (o : OpsShift)
  /-- R157. x[d] := sign-extended imm18 shifted left by 14. -/
  | lih (o : OpsU)
  /-- R158. Low 64 bits of the product. -/
  | mul (o : OpsDAB)
  /-- R158. High 64 bits of the signed product. -/
  | mulh (o : OpsDAB)
  /-- R158. High 64 bits of the unsigned product. -/
  | mulhu (o : OpsDAB)
  /-- R158. High 64 bits of the signed-by-unsigned product. -/
  | mulhsu (o : OpsDAB)
  /-- R158. Signed quotient with saturation; the result is outstanding. -/
  | div (o : OpsDAB)
  /-- R158. Unsigned quotient; the result is outstanding. -/
  | divu (o : OpsDAB)
  /-- R158. Signed remainder; the result is outstanding. -/
  | rem (o : OpsDAB)
  /-- R158. Unsigned remainder; the result is outstanding. -/
  | remu (o : OpsDAB)
  /-- R159. Branches when x[a] = x[b]. -/
  | beq (o : OpsB)
  /-- R159. Branches when x[a] differs from x[b]. -/
  | bne (o : OpsB)
  /-- R159. Branches when x[a] < x[b] signed. -/
  | blt (o : OpsB)
  /-- R159. Branches when x[a] >= x[b] signed. -/
  | bge (o : OpsB)
  /-- R159. Branches when x[a] < x[b] unsigned. -/
  | bltu (o : OpsB)
  /-- R159. Branches when x[a] >= x[b] unsigned. -/
  | bgeu (o : OpsB)
  /-- R159. Branches when bit x[b][5:0] of x[a] is set. -/
  | bbs (o : OpsB)
  /-- R159. Branches when bit x[b][5:0] of x[a] is clear. -/
  | bbc (o : OpsB)
  /-- R160. Jumps to a pc-relative target and writes the return address. -/
  | jal (o : OpsJ)
  /-- R160. Jumps to x[a] plus the immediate and writes the return address. -/
  | jalr (o : OpsI)
  /-- R161. Starts a hardware loop with its count taken from x[a]. -/
  | loop (o : OpsLoop)
  /-- R161. Starts a hardware loop with an immediate count. -/
  | loopi (o : OpsLoopi)
  /-- R166. Floating addition, rounded once. -/
  | fadd (o : OpsF2R)
  /-- R166. Floating subtraction, rounded once. -/
  | fsub (o : OpsF2R)
  /-- R166. Floating multiplication, rounded once. -/
  | fmul (o : OpsF2R)
  /-- R166. Floating division; the result is outstanding. -/
  | fdiv (o : OpsF2R)
  /-- R166. Floating square root; the result is outstanding. -/
  | fsqrt (o : OpsF1R)
  /-- R167. Floating minimum. -/
  | fmin (o : OpsF2)
  /-- R167. Floating maximum. -/
  | fmax (o : OpsF2)
  /-- R167. Floating equality comparison. -/
  | feq (o : OpsF2)
  /-- R167. Floating less-than comparison. -/
  | flt (o : OpsF2)
  /-- R167. Floating less-or-equal comparison. -/
  | fle (o : OpsF2)
  /-- R167. Writes the class record of the operand. -/
  | fclass (o : OpsF1)
  /-- R167. Magnitude of a with the sign of b. -/
  | fsgnj (o : OpsF2)
  /-- R167. Magnitude of a with the opposite of b's sign. -/
  | fsgnjn (o : OpsF2)
  /-- R168. Converts a signed 64-bit integer to FP32. -/
  | fcvtF32I64 (o : OpsCvtR)
  /-- R168. Converts FP32 to a signed 64-bit integer, saturating. -/
  | fcvtI64F32 (o : OpsCvtR)
  /-- R168. Widens BF16 to FP32 exactly. -/
  | fcvtF32Bf16 (o : OpsCvt)
  /-- R168. Narrows FP32 to BF16, optionally updating peak. -/
  | fcvtBf16F32 (o : OpsCvtP)
  /-- R168. Widens FP16 to FP32 exactly. -/
  | fcvtF32F16 (o : OpsCvt)
  /-- R168. Narrows FP32 to FP16, optionally updating peak. -/
  | fcvtF16F32 (o : OpsCvtP)
  /-- R148. Reciprocal-square-root seed from the fixed table. -/
  | frsqe (o : OpsF1)
  /-- R149. Reciprocal seed from the fixed table. -/
  | frcpe (o : OpsF1)
  /-- R169. Fused multiply-add, rounded once; three words only. -/
  | fmadd (o : OpsF3)
  /-- R169. Fused multiply-subtract; three words only. -/
  | fmsub (o : OpsF3)
  /-- R169. Negated fused multiply-add; three words only. -/
  | fnmadd (o : OpsF3)
  /-- R169. Negated fused multiply-subtract; three words only. -/
  | fnmsub (o : OpsF3)
  /-- R206. Loads a sign-extended byte; the result is outstanding. -/
  | ldB (o : OpsM)
  /-- R206. Loads a zero-extended byte; the result is outstanding. -/
  | ldBu (o : OpsM)
  /-- R206. Loads a sign-extended halfword. -/
  | ldH (o : OpsM)
  /-- R206. Loads a zero-extended halfword. -/
  | ldHu (o : OpsM)
  /-- R206. Loads a sign-extended word. -/
  | ldW (o : OpsM)
  /-- R206. Loads a zero-extended word. -/
  | ldWu (o : OpsM)
  /-- R206. Loads a doubleword. -/
  | ldD (o : OpsM)
  /-- R207. Loads a doubleword with acquire at its scope. -/
  | ldAcq (o : OpsMS)
  /-- R208. Posts a byte store. -/
  | stB (o : OpsM)
  /-- R208. Posts a halfword store. -/
  | stH (o : OpsM)
  /-- R208. Posts a word store. -/
  | stW (o : OpsM)
  /-- R208. Posts a doubleword store. -/
  | stD (o : OpsM)
  /-- R209. Posts a doubleword store-release at its scope. -/
  | stRel (o : OpsMS)
  /-- R209. Posts a release store that also sets the line full. -/
  | stf (o : OpsM)
  /-- R211. Atomic add at the bank ALU, returning the old value. -/
  | amoAdd (o : OpsAmo)
  /-- R211. Atomic AND. -/
  | amoAnd (o : OpsAmo)
  /-- R211. Atomic OR. -/
  | amoOr (o : OpsAmo)
  /-- R211. Atomic exclusive OR. -/
  | amoXor (o : OpsAmo)
  /-- R211. Atomic signed minimum. -/
  | amoMin (o : OpsAmo)
  /-- R211. Atomic signed maximum. -/
  | amoMax (o : OpsAmo)
  /-- R211. Atomic unsigned minimum. -/
  | amoMinu (o : OpsAmo)
  /-- R211. Atomic unsigned maximum. -/
  | amoMaxu (o : OpsAmo)
  /-- R211. Atomic swap. -/
  | amoSwap (o : OpsAmo)
  /-- R211. Atomic compare-and-swap against x[d]. -/
  | amoCas (o : OpsAmo)
  /-- R211. Atomic FP32 add, RNE, no flags. -/
  | amoFaddF32 (o : OpsDAB)
  /-- R211. Atomic add of two BF16 halves. -/
  | amoFaddBf16x2 (o : OpsDAB)
  /-- R213. Acquire, release or full fence at a scope. -/
  | fence (o : OpsFence)
  /-- R214. Waits until every earlier store has passed its checks, taking any store-fault trap. -/
  | drain (o : OpsW)
  /-- R215. Empties n lines of the own scratchpad. -/
  | feClr (o : OpsFe)
  /-- R215. Sets n lines full and releases their waiting accesses. -/
  | feSet (o : OpsFe)
  /-- R215. Reads a line's full and fill-pending bits. -/
  | feTest (o : OpsDA)
  /-- R215. Reads a doubleword whatever the line's bit; outstanding. -/
  | fePeek (o : OpsDA)
  /-- R216. Writes a window entry from four registers. -/
  | winSet (o : OpsWinSet)
  /-- R216. Drops a window under R117. -/
  | winDrop (o : OpsWin)
  /-- R216. Starts the fill of a valid absent window. -/
  | winTouch (o : OpsWin)
  /-- R216. Reads a window entry's state and valid bit. -/
  | winState (o : OpsWinState)
  /-- R217. Kicks a copy descriptor to the service hart as a store-release. -/
  | copy (o : OpsA)
  /-- R217. Kicks a copy without holding and reports whether it entered the queue. -/
  | copySt (o : OpsDA)
  /-- R218. Sends a message of 0-64 bytes to a place or a core number. -/
  | send (o : OpsSend)
  /-- R218. Sends a 128-byte vector message. -/
  | sendv (o : OpsSendv)
  /-- R220. Sends a message to every member of a reduction group. -/
  | mcast (o : OpsMcast)
  /-- R221. Arms a reduction group over a member rectangle. -/
  | grpArm (o : OpsArm)
  /-- R224. Contributes an FP32 vector to a reduction group. -/
  | redF32 (o : OpsRed)
  /-- R224. Contributes an INT64 vector to a reduction group. -/
  | redI64 (o : OpsRed)
  /-- R225. Returns a group's combined value once it is complete. -/
  | grpWait (o : OpsGrp)
  /-- R225. Returns the missing bitmap and moves the group to draining. -/
  | grpFree (o : OpsGrp)
  /-- R227. Ends the firing after landing results and store checks. -/
  | done (o : OpsW)
  /-- R228. Moves the firing to the yield slot and queues a continuation when it can. -/
  | yield (o : OpsW)
  /-- R229. Pushes a range task at the owner end of the deque. -/
  | rngPush (o : OpsPush)
  /-- R230. Claims a chunk of the current range. -/
  | rngTake (o : OpsDA)
  /-- R231. Copies a launch record into the pool and enqueues it, returning a handle or a code. -/
  | launch (o : OpsLaunch)
  /-- R232. Waits for every live child to retire and returns a status. -/
  | join (o : OpsD)
  /-- R233. Requests a replay of a graph with a patch. -/
  | replay (o : OpsReplay)
  /-- R234. Reads the state of a launch or of the pool and children. -/
  | lnstat (o : OpsLnstat)
  /-- R253. Opens a channel for the firing. -/
  | chOpen (o : OpsDA)
  /-- R254. Writes a record from scalar registers. -/
  | chW (o : OpsDA)
  /-- R254. Writes a record from a vector register. -/
  | chWv (o : OpsDA)
  /-- R255. Reads an 8-byte record; outstanding. -/
  | chR (o : OpsDA)
  /-- R255. Reads a record into a vector register; outstanding. -/
  | chRv (o : OpsDA)
  /-- R256. Returns the records delivered and not yet read. -/
  | chAvail (o : OpsDA)
  /-- R256. Returns the writer's limit minus its known occupancy. -/
  | chSpace (o : OpsDA)
  /-- R257. Reserves n slots of a shared ring; outstanding. -/
  | chRes (o : OpsRes)
  /-- R257. Publishes a reserved slot of a shared ring. -/
  | chPub (o : OpsPub)
  /-- R253. Closes a channel for the firing. -/
  | chClose (o : OpsA)
  /-- R262. Sends a delta record to the queue's churn. -/
  | dqEmit (o : OpsDA)
  /-- R262. Reads the next delta record or cork; outstanding. -/
  | dqRead (o : OpsDA)
  /-- R262. Sends a cork to the queue's churn. -/
  | dqCork (o : OpsA)
  /-- R263. Reports the records and corks delivered. -/
  | dqCons (o : OpsDA)
  /-- R263. Waits for a cork at the head of every open delta input and removes them. -/
  | dqQuiet (o : OpsD)
  /-- R266. Adds a multiplicity to the matching index entry. -/
  | ixUpd (o : OpsDA)
  /-- R266. Reads the multiplicity of the matching index entry. -/
  | ixLook (o : OpsDA)
  /-- R267. Returns the next live entry at or after a cursor. -/
  | ixNext (o : OpsDA)
  /-- R267. Frees every entry of an index. -/
  | ixClear (o : OpsDA)
  /-- R187. Lane-wise floating addition. -/
  | vadd (o : OpsVR)
  /-- R187. Lane-wise floating subtraction. -/
  | vsub (o : OpsVR)
  /-- R187. Lane-wise floating multiplication. -/
  | vmul (o : OpsVR)
  /-- R187. Lane-wise floating minimum. -/
  | vmin (o : OpsVF2)
  /-- R187. Lane-wise floating maximum. -/
  | vmax (o : OpsVF2)
  /-- R187. Lane-wise absolute value. -/
  | vabs (o : OpsVF1)
  /-- R187. Lane-wise negation. -/
  | vneg (o : OpsVF1)
  /-- R187. Lane-wise reciprocal-square-root seed. -/
  | vrsqe (o : OpsVF1)
  /-- R187. Lane-wise reciprocal seed. -/
  | vrcpe (o : OpsVF1)
  /-- R150. Lane-wise power of two. -/
  | vexp2 (o : OpsVF1)
  /-- R187. Lane-wise floating equality into a mask. -/
  | vfeq (o : OpsVFC)
  /-- R187. Lane-wise floating less-than into a mask. -/
  | vflt (o : OpsVFC)
  /-- R187. Lane-wise floating less-or-equal into a mask. -/
  | vfle (o : OpsVFC)
  /-- R188. Lane-wise fused multiply-add; three words only. -/
  | vfmadd (o : OpsVF3)
  /-- R188. Lane-wise fused multiply-subtract; three words only. -/
  | vfmsub (o : OpsVF3)
  /-- R188. Lane-wise negated fused multiply-add; three words only. -/
  | vfnmadd (o : OpsVF3)
  /-- R188. Lane-wise negated fused multiply-subtract; three words only. -/
  | vfnmsub (o : OpsVF3)
  /-- R189. Lane-wise integer addition. -/
  | vaddI (o : OpsVI)
  /-- R189. Lane-wise integer subtraction. -/
  | vsubI (o : OpsVI)
  /-- R189. Lane-wise integer multiplication, low bits. -/
  | vmulI (o : OpsVI)
  /-- R189. Lane-wise AND. -/
  | vand (o : OpsVI)
  /-- R189. Lane-wise OR. -/
  | vor (o : OpsVI)
  /-- R189. Lane-wise exclusive OR. -/
  | vxor (o : OpsVI)
  /-- R189. Lane-wise logical left shift. -/
  | vsll (o : OpsVI)
  /-- R189. Lane-wise logical right shift. -/
  | vsrl (o : OpsVI)
  /-- R189. Lane-wise arithmetic right shift. -/
  | vsra (o : OpsVI)
  /-- R189. Lane-wise signed minimum. -/
  | vminI (o : OpsVI)
  /-- R189. Lane-wise signed maximum. -/
  | vmaxI (o : OpsVI)
  /-- R189. Lane-wise unsigned minimum. -/
  | vminu (o : OpsVI)
  /-- R189. Lane-wise unsigned maximum. -/
  | vmaxu (o : OpsVI)
  /-- R189. Lane-wise integer equality into a mask. -/
  | vieq (o : OpsVIC)
  /-- R189. Lane-wise signed less-than into a mask. -/
  | vilt (o : OpsVIC)
  /-- R189. Lane-wise unsigned less-than into a mask. -/
  | viltu (o : OpsVIC)
  /-- R190. Converts elements between formats; three words only. -/
  | vcvt (o : OpsVcvt)
  /-- R192. Quantises elements to INT4, E2M1 or TS8; three words only. -/
  | vquant (o : OpsVquant)
  /-- R193. Dequantises elements exactly; three words only. -/
  | vdequant (o : OpsVdequant)
  /-- R194. Sums the active lanes by the fixed tree into lane 0. -/
  | vredsum (o : OpsVRed)
  /-- R194. Maximum of the active lanes into lane 0. -/
  | vredmax (o : OpsVRed)
  /-- R194. Minimum of the active lanes into lane 0. -/
  | vredmin (o : OpsVRed)
  /-- R195. Inclusive prefix sums in lane order. -/
  | vscan (o : OpsV1)
  /-- R196. Broadcasts a scalar to every lane. -/
  | vbcast (o : OpsV1)
  /-- R196. Permutes lanes by an index vector. -/
  | vperm (o : OpsV2)
  /-- R196. Slides lanes up by a scalar amount. -/
  | vslup (o : OpsV2)
  /-- R196. Slides lanes down by a scalar amount. -/
  | vsldn (o : OpsV2)
  /-- R197. Packs the active lanes to the bottom. -/
  | vcompress (o : OpsV1)
  /-- R197. Inserts a scalar into one lane. -/
  | vins (o : OpsV2)
  /-- R197. Extracts one lane into a scalar register. -/
  | vext (o : OpsV2)
  /-- R196. Writes the count of active lanes below each lane. -/
  | viota (o : OpsV0)
  /-- R196. Moves a vector, the only way besides vld to write q1-q7. -/
  | vmov (o : OpsV1)
  /-- R198. Selects lanes from a or b by the governing mask. -/
  | vsel (o : OpsVsel)
  /-- R198. Mask AND. -/
  | mand (o : OpsMM)
  /-- R198. Mask OR. -/
  | mor (o : OpsMM)
  /-- R198. Mask exclusive OR. -/
  | mxor (o : OpsMM)
  /-- R198. Mask complement. -/
  | mnot (o : OpsMM1)
  /-- R198. Counts the set bits of a mask. -/
  | mpopc (o : OpsXM)
  /-- R198. Index of the lowest set bit of a mask. -/
  | mfirst (o : OpsXM)
  /-- R198. Writes a mask from a scalar register. -/
  | mset (o : OpsMX)
  /-- R198. Reads a mask into a scalar register. -/
  | mget (o : OpsXM)
  /-- R201. Loads 128 bytes into a vector register; outstanding. -/
  | vld (o : OpsVL)
  /-- R202. Stores 128 bytes after checking every active element. -/
  | vst (o : OpsVS)
  /-- R201. Loads 32 words from lat-indexed addresses; outstanding. -/
  | vgather (o : OpsVL)
  /-- R202. Stores 32 words to lat-indexed addresses. -/
  | vscatter (o : OpsVS)
  /-- R201. Loads one word into all 32 lanes; outstanding. -/
  | vldbc (o : OpsVL)
  /-- R203. Builds the ancestor mask of a node from parent indices. -/
  | vanc (o : OpsVanc)
  /-- R271. Checks a gang descriptor and joins its barrier, completing with a status at the thaw. -/
  | gang (o : OpsDA)
  /-- R282. Reads the record of the core's last thaw. -/
  | gstat (o : OpsD)
  /-- R287. Reads an accumulator slot into a vector register; outstanding. -/
  | accRd (o : OpsAcc)
  /-- R287. Writes a vector register to an accumulator slot. -/
  | accWr (o : OpsAcc)
  /-- R287. Zeroes every accumulator slot. -/
  | accZero (o : OpsW)
  /-- R287. Stores the 64 slots to memory. -/
  | accSpill (o : OpsA)
  /-- R287. Loads the 64 slots from memory; outstanding. -/
  | accFill (o : OpsA)
  /-- R288. Claims or releases the accumulator. -/
  | accTag (o : OpsDA)
  /-- R289. Loads 256 bytes of the own hamper into two vector registers. -/
  | hLd (o : OpsDA)
  /-- R289. Stores two vector registers to 256 bytes of the own hamper. -/
  | hSt (o : OpsDA)
  /-- R289. Copies 4,096 scratchpad bytes into a hamper block. -/
  | hFill (o : OpsDAB)
  /-- R88. Each cycle the core chooses the U or N context to issue from. -/
  | issueCycle (c : Nat)
  /-- R97. An outstanding access or arithmetic result returns into its return-buffer entry. -/
  | accessReturn (c : Nat) (x : Ctx) (k : Nat)
  /-- R291. A home performs a load, store or atomic that has reached it. -/
  | accessPerform (c : Nat) (x : Ctx) (k : Nat)
  /-- R208. A posted store's translation, permission and grant checks complete. -/
  | storeCheckComplete (c : Nat) (x : Ctx) (k : Nat)
  /-- R324. The store-fault trap is taken at the twelfth instruction, drain, done or gang. -/
  | storeFaultTrap (c : Nat) (x : Ctx)
  /-- R84. A message reaches its core and enters the run queue or hold slot, or is discarded or refused. -/
  | messageArrival (src : MsgSrc) (k : Nat)
  /-- R84. After 64 cycles the sender's interface resends a refused message. -/
  | messageResend (src : MsgSrc) (k : Nat)
  /-- R219. A transmission fails by CRC or acknowledgement time-out, and after eight the message is abandoned. -/
  | sendFailure (c : Nat) (x : Ctx) (k : Nat)
  /-- R86. A context with no firing starts one from its run queue or deque and sets its initial state. -/
  | firingStart (c : Nat) (x : Ctx)
  /-- R87. An actor entry becomes ready, reserves its counts and is appended to the run queue. -/
  | actorReady (c : Nat) (cls : Nat)
  /-- R91. A kept remainder is pushed back when the deque has room. -/
  | rangeRemainderPush (c : Nat) (x : Ctx)
  /-- R94. An idle core sends a steal request to the next core of its cluster. -/
  | stealRequest (c : Nat)
  /-- R93. A victim serves a steal request by split, whole entry or refusal. -/
  | stealServe (thief : Nat)
  /-- R93. A thief receives a grant or refusal and pushes its part or tries the next victim. -/
  | stealReply (c : Nat)
  /-- R94. After 1,024 cycles a refused thief begins a new round. -/
  | stealRoundRetry (c : Nat)
  /-- R95. A fully idle cluster's service hart asks the most loaded cluster for a group. -/
  | donationRequest (cl : Nat)
  /-- R95. The victim ships its oldest unstarted eligible group or refuses. -/
  | donationServe (cl : Nat)
  /-- R174. An event ends a park and writes the event set. -/
  | parkWake (c : Nat) (x : Ctx)
  /-- R174. A park ends after 65,536 cycles with no event. -/
  | parkTimeout (c : Nat) (x : Ctx)
  /-- R348. The host writes a queue doorbell with its total of written records. -/
  | hostDoorbell (p q : Nat) (total : BitVec 64)
  /-- R61. A scheduler reads a host-queue record and enqueues or refuses it. -/
  | hostQueueRecord (p q : Nat)
  /-- R63. A die scheduler places the next group of a launch on a cluster or forwards it. -/
  | groupPlace (die p : Nat)
  /-- R65. A group bound for another die joins that die's scheduler queue. -/
  | groupForward (die k : Nat)
  /-- R72. A group retires when all its group-start firings have ended. -/
  | groupRetire (die : Nat) (gid : Nat)
  /-- R72. A retired launch writes its completion object, releases successors and frees its pool slot. -/
  | launchRetire (p handle : Nat)
  /-- R76. A graph's home scheduler accepts, queues or refuses a replay. -/
  | replayRequest (p k : Nat)
  /-- R75. A retiring node counts down its successors and completes the replay after the last. -/
  | graphNodeRetire (p handle : Nat)
  /-- R21. The loader verifies, places and binds an image at its origins. -/
  | imageLoad (r : LoadReq)
  /-- R365. The loader removes one load as a whole or refuses with status 3. -/
  | imageUnload (p load : Nat)
  /-- R121. A kick entering the service-hart queue has its descriptor read and lines claimed. -/
  | copyKick (c : Nat) (x : Ctx) (k : Nat)
  /-- R119. The service hart translates, reads and writes one 4 KiB chunk of a request. -/
  | serviceHartChunk (cl slot : Nat)
  /-- R126. The supervisor resumes a faulted request at its cursor. -/
  | shReplay (cl slot : Nat)
  /-- R126. The supervisor cancels a faulted request and releases its lines. -/
  | shCancel (cl slot : Nat)
  /-- R125. A write to offset 0x2808 pops the head copy-fault record. -/
  | copyFaultPop (p : Nat)
  /-- R110. The cluster walker completes a page-table walk. -/
  | translationWalk (cl p : Nat) (va : BitVec 64)
  /-- R128. An ECC, parity or CRC error is corrected, poisons the word or is reported. -/
  | errorDetected (e : ErrorReport)
  /-- R129. Writing all ones to count frees an error-log entry. -/
  | errorLogFree (a : ErrArray) (i : Nat)
  /-- R129. Any write clears an array's overflow counter. -/
  | errorOverflowClear (a : ErrArray)
  /-- R130. Arms one error to apply to the next write or flit of its target. -/
  | errorInjectArm (a : ErrArray) (v : BitVec 64)
  /-- R237. A descriptor write is accepted or ignored and enters endpoint tables. -/
  | channelDescriptorWrite (p ch dw : Nat) (v : BitVec 64) (hyp : Bool)
  /-- R242. The reader's unit writes an arriving record to the ring or forwards it to spill. -/
  | channelRecordArrival (src : RecSrc) (k : Nat)
  /-- R242. The spill engine moves its oldest record into a free ring slot. -/
  | spillRefill (p ch : Nat)
  /-- R242. A write of a channel number to 0x8_8018 resumes its spill. -/
  | spillResume (p : Nat) (v : BitVec 64)
  /-- R243. A credit lowers a writer's known occupancy and may unpark it. -/
  | creditArrival (p ch writer : Nat)
  /-- R248. A shared ring grants a reservation once room allows. -/
  | reservationGrant (c : Nat) (x : Ctx) (k : Nat)
  /-- R249. A head slot unpublished for tmo units raises a kind 4 event. -/
  | sharedRingHang (p ch : Nat)
  /-- R249. A write to 0x8_8010 voids a shared-ring slot. -/
  | slotVoid (p : Nat) (v : BitVec 64)
  /-- R241. A spill-pool descriptor write is accepted or ignored. -/
  | poolDescriptorWrite (p pool dw : Nat) (v : BitVec 64)
  /-- R246. After 2,048 parked cycles the monitor grows a bound or posts a deadlock event. -/
  | channelDeadlock (p g : Nat)
  /-- R247. A write to 0x8_8008 pops the head channel event. -/
  | channelEventPop (p : Nat)
  /-- R251. Clearing a proxy's v revokes a cross-partition channel at once. -/
  | xpRevoke (p ch : Nat)
  /-- R259. The churn merges or enters an arriving delta record. -/
  | churnRecord (c : Nat) (x : Ctx) (k : Nat)
  /-- R259. A completing cork forwards the interval's entries and one cork. -/
  | churnCork (c : Nat) (x : Ctx) (k : Nat)
  /-- R264. The index engine performs an index operation on a bucket. -/
  | indexOpPerform (c : Nat) (x : Ctx) (k : Nat)
  /-- R224. A contribution is taken into its member's router or dropped. -/
  | redContribution (c : Nat) (x : Ctx) (k : Nat)
  /-- R223. A child's packet reaches a router, which forwards once all inputs are present. -/
  | redPacketArrival (p gid k : Nat)
  /-- R224. The arm time-out expires and the root sends a flush. -/
  | redTimeout (p gid : Nat)
  /-- R224. A router receiving a flush forwards what it holds and passes the flush on. -/
  | redFlushArrival (p gid k : Nat)
  /-- R221. A draining group becomes free when no packet remains. -/
  | groupDrainComplete (p gid : Nat)
  /-- R274. A complete barrier freezes the members, loads weights and latches the cell. -/
  | gangFreeze (c : Nat) (x : Ctx)
  /-- R272. A barrier not frozen in gangtmo units completes its joiners with status 4. -/
  | gangBarrierTimeout (c : Nat) (x : Ctx)
  /-- R278. A cell with its inputs and output room performs one indivisible pulse. -/
  | gangPulse (c : Nat)
  /-- R280. A gang thaws on completion, pre-emption, fault or kill and delivers status words. -/
  | gangThaw (c : Nat)
  /-- R328. A write to preq halts the targeted contexts. -/
  | preq (p : Nat) (v : BitVec 64)
  /-- R330. The service hart saves a halted context to its save record. -/
  | contextSave (c : Nat) (x : Ctx)
  /-- R331. A write to presume restores saved contexts. -/
  | presume (p : Nat) (v : BitVec 64)
  /-- R332. A write to pdiscard ends saved firings with cause 0x10. -/
  | pdiscard (p : Nat) (v : BitVec 64)
  /-- R333. A write to gkill ends every firing and message of a group. -/
  | gkill (p : Nat) (v : BitVec 64)
  /-- R334. The hypervisor resets a cluster. -/
  | creset (p : Nat) (v : BitVec 64)
  /-- R334. The crossbar discards a tail-less packet after 256 cycles with a kind 8 event. -/
  | resetTailTimeout (c : Nat) (x : Ctx) (k : Nat)
  /-- R320. A write to 0x9_0148 pops the head fault event. -/
  | faultEventPop (p : Nat)
  /-- R336. The sink watchdog reaches its interval, writes a snapshot and a kind 3 event. -/
  | watchdogExpiry (p : Nat)
  /-- R323. A write to tbinfo drops or completes a set-aside entry. -/
  | tbinfoWrite (c : Nat) (x : Ctx) (v : BitVec 64)
  /-- R325. A write to sfpop drops the head store-fault record. -/
  | sfpopWrite (c : Nat) (x : Ctx)
  /-- R286. A write of 0 to accowner zeroes the slots. -/
  | accownerWrite (c : Nat) (v : BitVec 64)
  /-- R162. A write to loopst or loopout moves an active outer level inward. -/
  | loopLevelWrite (c : Nat) (x : Ctx) (outer : Bool) (v : BitVec 64)
  /-- R90. A write to rqbase or rqlim empties the deque. -/
  | dequeBoundsWrite (c : Nat) (lim : Bool) (v : BitVec 64)
  /-- R345. Writing 1 to pevpend bits clears pending event sources. -/
  | pevpendClear (p : Nat) (v : BitVec 64)
  /-- R346. Starts a read of a context register into pcdata. -/
  | pcraRead (p : Nat) (v : BitVec 64)
  /-- R346. Starts a write of pcdata to a context register. -/
  | pcraWrite (p : Nat) (v : BitVec 64)
  /-- R346. The context-register operation completes or is refused. -/
  | pcraComplete (p : Nat)
  /-- R357. Starts the device from cold through the boot stages. -/
  | devctlColdStart (v : BitVec 64)
  /-- R358. Warm start keeping colrep and optionally memory. -/
  | devctlWarmStart (v : BitVec 64)
  /-- R357. The boot advances devstat.stage or stops with an error. -/
  | bootStage (err : BitVec 8) (detail : BitVec 16)
  /-- R359. A write to rchunk stages a recovery chunk. -/
  | recoveryChunk (v : BitVec 64)
  /-- R359. A write to rgo restarts the boot at stage 0x03. -/
  | recoveryGo
  /-- R347. A write to 0x00_2FF8 signals the hypervisor. -/
  | hmboxSignal (v : BitVec 64)
  /-- R347. Unmasking a vector sends its pending message. -/
  | msixUnmask (vec : Nat)
  /-- R308. A host read or write through BAR0 or BAR2 is performed at its home. -/
  | hostAccess (a : HostAcc)
  /-- R349. The hypervisor sets bar2base, ignored when misaligned or past HBM. -/
  | bar2baseWrite (v : BitVec 64)
  /-- R350. A CRC error asks the sender to replay from a sequence number. -/
  | linkReplay (l : Nat)
  /-- R352. A link goes down, abandoning and losing its traffic with kind 10 events. -/
  | linkDown (l : Nat)
  /-- R352. The hypervisor retrains a link. -/
  | linkRetrain (l : Nat) (trained : Bool)
  /-- R353. A peer access matches an export entry or is refused. -/
  | peerAccess (a : PeerAcc)
  /-- R353. Any write clears the export refusal counter. -/
  | refusalCounterClear
  /-- R355. Writing state 01 defines a free partition. -/
  | partitionDefine (p : Nat)
  /-- R355. Writing state 10 resets the window and loads the system image. -/
  | partitionStart (p : Nat)
  /-- R355. Writing state 11 resets every cluster and releases resources. -/
  | partitionStop (p : Nat)
  /-- R356. Writing 1 to hevent bits clears hypervisor events. -/
  | heventClear (d : Nat) (v : BitVec 64)
  /-- R360. Writing cfg clear resets a monitor's statistics. -/
  | monitorClear (d i : Nat)
  /-- R360. A monitor takes a latency sample or a level sample every 1,024 cycles. -/
  | monitorSample (d i : Nat) (v : BitVec 64)
  /-- R361. Temperature or current crosses its limit and issue is gated 1 in 2. -/
  | throttleEnter (d : Nat) (cause : GateCause)
  /-- R361. After a further 1 ms gating deepens to 1 in 4. -/
  | throttleStep (d : Nat)
  /-- R361. A gating step is released when its release conditions hold. -/
  | throttleRelease (d : Nat) (cause : GateCause)
  /-- R361. At 110 °C every die stops and devstat error 8 is set. -/
  | thermalShutdown
  /-- R105. A write to a window register with no behaviour of its own. -/
  | registerWrite (pa : Nat) (v : BitVec 64)
  /-- R96. A flit written to a port reaches the neighbour's FIFO for its context, two cycles after issue. -/
  | portFlitArrival (c : Nat) (x : Ctx) (dir : Dir)
  /-- R114. A remote memory request refused by a full bank is resent by the sender's interface after 64 cycles. -/
  | remoteRequestResend (c : Nat) (x : Ctx) (k : Nat)
  /-- R334. After the 4,096-cycle window the reset clears the cluster's state, ends the refusals and appends a kind 4 event within 8,192 cycles. -/
  | clusterResetComplete (cl : Nat)
  /-- R351. A flit arriving on a device link addressed to another device is forwarded on the link named by the route table. -/
  | tladeisFlitForward (f : LinkFlit)
  deriving DecidableEq, Repr

end Sys2Proof
end

