-- ==== Sys2Proof/WellFormed.lean ====
section
/-!
DEFINITION. Which instructions the encoding admits: the limits of R47, R48, R55 and of the instructions' own rules that
the operand records do not already rule out by their types. `Instr.illegal` names the first limit an instruction breaks.
-/
namespace Sys2Proof

/-- Why a word is not an instruction (R55). -/
inductive DecErr where
  | truncated | reservedMajor | reservedFunc | reservedSubfield | badLength | unusedField
  | reservedRounding | reservedScope | reservedClass | reservedFormat | word2Range
  | mzWithoutMask | vectorDest | maskField | portDest | emptyBody | ruleLimit | notAnInstruction
  deriving DecidableEq, Repr

/-- x28 to x31 and vpn to vpw name ports (R46, R47). -/
def isPort (r : Fin 32) : Bool := 28 ≤ r.val

/-- q1 to q7 (R47). -/
def isQ (r : Fin 32) : Bool := 1 ≤ r.val && r.val ≤ 7

/-- The first broken limit of a list of (holds, name) pairs. -/
def firstBroken : List (Bool × DecErr) → Option DecErr
  | [] => none
  | (true, _) :: l => firstBroken l
  | (false, e) :: _ => some e

/-- The destination of an outstanding scalar result is no port (R48). -/
def noPort (d : Reg) : Bool × DecErr := (!isPort d, .portDest)
/-- A vector destination is not q1 to q7 (R47). -/
def noQ (d : VReg) : Bool × DecErr := (!isQ d, .vectorDest)
/-- mz needs a mask (R44). -/
def mzOk (m : MReg) (mz : Bool) : Bool × DecErr := (!mz || m.val != 0, .mzWithoutMask)
/-- The same for an optional word 1. -/
def mextOk : Option MExt → Bool × DecErr
  | none => (true, .mzWithoutMask)
  | some e => mzOk e.m e.mz
/-- The same where word 1 also carries rm. -/
def rextOk : Option RExt → Bool × DecErr
  | none => (true, .mzWithoutMask)
  | some e => mzOk e.m e.mz

/-- Registers that hold a payload of this many bytes (R218). -/
def payloadRegs (bytes : Nat) : Nat := (bytes + 7) / 8

/-- The limits of `send` and `mcast` on a and bytes (R218). -/
def payloadOk (a : Reg) (bytes : BitVec 7) : Bool :=
  bytes.toNat ≤ 64 && (if bytes.toNat = 0 then a.val == 0 else a.val + payloadRegs bytes.toNat ≤ 28)

/-- The pairs of formats `vcvt` accepts (R190). -/
def vcvtPair : CFmt → CFmt → Bool
  | .f32, .bf16 | .f32, .f16 | .f32, .i32 | .f32, .i16 | .f32, .i8 => true
  | .bf16, .f32 | .f16, .f32 | .bf16, .i16 => true
  | .i32, .f32 | .i16, .f32 | .i16, .bf16 => true
  | .i8, .i16 | .i16, .i32 | .i32, .i16 | .i16, .i8 => true
  | _, _ => false

/-- A weight format (R133 to R135). -/
def isWeight : CFmt → Bool
  | .i4 | .e2m1 | .ts8 => true
  | _ => false

/-- The floating formats `vquant` reads and `vdequant` writes (R190). -/
def isArith : CFmt → Bool
  | .f32 | .bf16 => true
  | _ => false

/-- The first limit that an instruction breaks (R55), or none. The steps of the other agents have no encoding. -/
def Instr.illegal : Instr → Option DecErr
  | .xinv o => firstBroken [noPort o.d,
      (if o.kind.val = 2 then o.scope == .package else o.scope == .cluster || o.scope == .die || o.scope == .package, .reservedSubfield),
      (o.kind.val == 0 || o.a.val == 0, .unusedField)]
  | .div o | .divu o | .rem o | .remu o => firstBroken [noPort o.d]
  | .loop o => firstBroken [(o.dist.toNat != 0, .emptyBody)]
  | .loopi o => firstBroken [(o.dist.toNat != 0, .emptyBody)]
  | .fdiv o => firstBroken [noPort o.d]
  | .fsqrt o => firstBroken [noPort o.d]
  | .ldB o | .ldBu o | .ldH o | .ldHu o | .ldW o | .ldWu o | .ldD o => firstBroken [noPort o.d]
  | .ldAcq o => firstBroken [noPort o.d]
  | .amoAdd o | .amoAnd o | .amoOr o | .amoXor o | .amoMin o | .amoMax o | .amoMinu o | .amoMaxu o | .amoSwap o
  | .amoCas o => firstBroken [noPort o.d]
  | .amoFaddF32 o | .amoFaddBf16x2 o => firstBroken [noPort o.d]
  | .fePeek o => firstBroken [noPort o.d]
  | .winSet o => firstBroken [(1 ≤ o.a.val && o.a.val ≤ 24, .ruleLimit)]
  | .copySt o => firstBroken [noPort o.d]
  | .send o => firstBroken [(o.cls.val < 20, .reservedClass), (payloadOk o.a o.bytes, .ruleLimit),
      (o.b.val == 0 || (o.dx == 0 && o.dy == 0), .ruleLimit)]
  | .sendv o => firstBroken [(o.cls.val < 20, .reservedClass), (o.b.val == 0 || (o.dx == 0 && o.dy == 0), .ruleLimit)]
  | .mcast o => firstBroken [(o.cls.val < 20, .reservedClass), (payloadOk o.a o.bytes, .ruleLimit)]
  | .grpArm o => firstBroken [noPort o.d, (o.timeout.toNat != 0, .word2Range)]
  | .grpWait o | .grpFree o => firstBroken [noQ o.d, noPort o.d]
  | .rngPush o => firstBroken [(3 ≤ o.cls.toNat && o.cls.toNat ≤ 19, .ruleLimit), (1 ≤ o.a.val && o.a.val ≤ 25, .ruleLimit)]
  | .rngTake o => firstBroken [(1 ≤ o.d.val && o.d.val ≤ 26, .ruleLimit)]
  | .launch o => firstBroken [noPort o.d]
  | .join o => firstBroken [noPort o.d]
  | .dqQuiet o => firstBroken [noPort o.d]
  | .replay o => firstBroken [noPort o.d, (o.n.toNat ≤ 32, .ruleLimit), (1 ≤ o.a.val && o.a.val ≤ 26, .ruleLimit)]
  | .lnstat o => firstBroken [noPort o.d, (!o.sel1 || o.a.val == 0, .unusedField)]
  | .chR o => firstBroken [noPort o.d]
  | .chRes o => firstBroken [noPort o.d]
  | .chRv o | .dqRead o => firstBroken [noQ o.d, noPort o.d]
  | .ixUpd o | .ixLook o => firstBroken [(o.d.val != 0, .ruleLimit), noPort o.d]
  | .ixNext o => firstBroken [noQ o.d, noPort o.d]
  | .ixClear o => firstBroken [noPort o.d]
  | .vadd o | .vsub o | .vmul o => firstBroken [noQ o.d, rextOk o.ext]
  | .vmin o | .vmax o => firstBroken [noQ o.d, mextOk o.ext]
  | .vabs o | .vneg o | .vrsqe o | .vrcpe o | .vexp2 o => firstBroken [noQ o.d, mextOk o.ext]
  | .vfeq o | .vflt o | .vfle o => firstBroken [mextOk o.ext]
  | .vfmadd o | .vfmsub o | .vfnmadd o | .vfnmsub o => firstBroken [noQ o.d, mzOk o.m o.mz]
  | .vaddI o | .vsubI o | .vmulI o | .vand o | .vor o | .vxor o | .vsll o | .vsrl o | .vsra o | .vminI o | .vmaxI o
  | .vminu o | .vmaxu o => firstBroken [noQ o.d, mextOk o.ext]
  | .vieq o | .vilt o | .viltu o => firstBroken [mextOk o.ext]
  | .vcvt o => firstBroken [noQ o.d, mzOk o.m o.mz, (vcvtPair o.sfmt o.dfmt, .reservedFormat)]
  | .vquant o => firstBroken [noQ o.d, mzOk o.m o.mz, (isArith o.sfmt && isWeight o.dfmt, .reservedFormat),
      (o.dfmt != .ts8 || o.c.val == 0, .unusedField)]
  | .vdequant o => firstBroken [noQ o.d, mzOk o.m o.mz, (isWeight o.sfmt && isArith o.dfmt, .reservedFormat),
      (o.sfmt != .ts8 || o.c.val == 0, .unusedField)]
  | .vredsum o | .vredmax o | .vredmin o => firstBroken [noQ o.d]
  | .vscan o | .vcompress o | .vbcast o => firstBroken [noQ o.d, mextOk o.ext]
  | .vmov o => firstBroken [mextOk o.ext]
  | .vperm o | .vslup o | .vsldn o | .vins o => firstBroken [noQ o.d, mextOk o.ext]
  | .vext o => firstBroken [mextOk o.ext]
  | .viota o => firstBroken [noQ o.d, mextOk o.ext]
  | .vsel o => firstBroken [noQ o.d]
  | .vld o => firstBroken [noPort o.d, mextOk o.ext]
  | .vgather o | .vldbc o => firstBroken [noQ o.d, noPort o.d, mextOk o.ext]
  | .accRd o => firstBroken [noQ o.d, noPort o.d]
  | .hLd o | .hSt o => firstBroken [(8 ≤ o.d.val && o.d.val ≤ 26, .ruleLimit)]
  | .hFill o => firstBroken [noPort o.d]
  | _ => none

/-- An instruction the encoding admits. -/
def Instr.wf (i : Instr) : Bool := i.illegal == none

end Sys2Proof
end

