-- ==== Sys2Proof/Decode.lean ====
section
/-!
DEFINITION. The decoder, total on any words, which rejects by name what is not an instruction (R55), and after it the
encoder written from the same tables (R37 to R54). Words are natural numbers below 2^32, so that a field is a quotient and a
remainder.
-/
namespace Sys2Proof

/-- The parts of an instruction before its major is looked at (R37, R38, R42, R45). -/
structure Raw where
  w0 : Nat
  long : Bool
  lit : Option (BitVec 64)
  w1 : Nat
  w2 : Nat
  deriving DecidableEq, Repr

/-- How many words the len field of word 0 asks for (R37, R38). -/
def wordCount (w0 : Nat) : Nat :=
  if w0 % 4 = 0 then 1 else if w0 % 4 = 3 then 5 else 3

/-- Splits the words of one instruction (R38): word 0, words 1 and 2, then the literal, low word first. -/
def splitWords : List Nat → Option Raw
  | [] => none
  | w0 :: ws =>
    if w0 % 4 = 0 then some ⟨w0, false, none, 0, 0⟩
    else if w0 % 4 = 1 then
      match ws with
      | w1 :: w2 :: _ => some ⟨w0, true, none, w1, w2⟩
      | _ => none
    else if w0 % 4 = 2 then
      match ws with
      | lo :: hi :: _ => some ⟨w0, false, some (BitVec.ofNat 64 (lo + 2 ^ 32 * hi)), 0, 0⟩
      | _ => none
    else
      match ws with
      | w1 :: w2 :: lo :: hi :: _ => some ⟨w0, true, some (BitVec.ofNat 64 (lo + 2 ^ 32 * hi)), w1, w2⟩
      | _ => none

namespace Raw
/-- The switch marker, bit 2 (R37). -/
def w (r : Raw) : Bool := bitOf r.w0 2
/-- The major opcode (R37). -/
def major (r : Raw) : Nat := bitsOf r.w0 8 3
/-- Fields d, a and b of formats A, I, M, S and V (R41). -/
def d (r : Raw) : Fin 32 := Fin.ofNat 32 (bitsOf r.w0 13 9)
def a (r : Raw) : Fin 32 := Fin.ofNat 32 (bitsOf r.w0 18 14)
def b (r : Raw) : Fin 32 := Fin.ofNat 32 (bitsOf r.w0 23 19)
/-- func8 of format A, creg8 of format S (R41). -/
def func8 (r : Raw) : Nat := bitsOf r.w0 31 24
/-- func5 of format S (R41). -/
def func5 (r : Raw) : Nat := bitsOf r.w0 23 19
/-- func3 of format M (R41). -/
def func3 (r : Raw) : Nat := bitsOf r.w0 21 19
/-- imm13 and imm10 (R41). -/
def imm13 (r : Raw) : Nat := bitsOf r.w0 31 19
def imm10 (r : Raw) : Nat := bitsOf r.w0 31 22
/-- func5 and fmt3 of format V (R41). -/
def vfunc (r : Raw) : Nat := bitsOf r.w0 31 27
def vfmt (r : Raw) : Nat := bitsOf r.w0 26 24
/-- Word 1: c, rm, scope, pk, m, mz, dx, dy (R42). -/
def c (r : Raw) : Fin 32 := Fin.ofNat 32 (bitsOf r.w1 4 0)
def rm (r : Raw) : Nat := bitsOf r.w1 7 5
def scope (r : Raw) : Nat := bitsOf r.w1 10 8
def pk (r : Raw) : Bool := bitOf r.w1 11
def m (r : Raw) : MReg := Fin.ofNat 8 (bitsOf r.w1 14 12)
def mz (r : Raw) : Bool := bitOf r.w1 15
def dx (r : Raw) : Nat := bitsOf r.w1 23 16
def dy (r : Raw) : Nat := bitsOf r.w1 31 24
/-- Word 1 with the named fields cleared: what must be 0 when only they may hold a value (R51). -/
def w1less (r : Raw) (c rm scope pk m mz place : Bool) : Nat :=
  r.w1 - (if c then bitsOf r.w1 4 0 else 0) - (if rm then 2 ^ 5 * bitsOf r.w1 7 5 else 0)
    - (if scope then 2 ^ 8 * bitsOf r.w1 10 8 else 0) - (if pk then 2 ^ 11 * bitsOf r.w1 11 11 else 0)
    - (if m then 2 ^ 12 * bitsOf r.w1 14 12 else 0) - (if mz then 2 ^ 15 * bitsOf r.w1 15 15 else 0)
    - (if place then 2 ^ 16 * bitsOf r.w1 31 16 else 0)
end Raw

/-- Go on if the condition holds, else reject under this name. -/
def ck (c : Bool) (e : DecErr) (k : Except DecErr Instr) : Except DecErr Instr :=
  if c then k else .error e

/-- Go on with a field's value if it has one, else reject under this name. -/
def ckSome {α : Type} (v : Option α) (e : DecErr) (k : α → Except DecErr Instr) : Except DecErr Instr :=
  match v with
  | some x => k x
  | none => .error e

/-- rm: 101 to 111 are reserved (R42). -/
def rmOf : Nat → Option RM
  | 0 => some .rne | 1 => some .rtz | 2 => some .rdn | 3 => some .rup | 4 => some .dyn | _ => none
/-- The field of a rounding mode. -/
def rmNum : RM → Nat
  | .rne => 0 | .rtz => 1 | .rdn => 2 | .rup => 3 | .dyn => 4
/-- scope: 101 to 111 are reserved (R42). -/
def scopeOf : Nat → Option Scope
  | 0 => some .core | 1 => some .cluster | 2 => some .die | 3 => some .package | 4 => some .system | _ => none
/-- The field of a scope. -/
def scopeNum : Scope → Nat
  | .core => 0 | .cluster => 1 | .die => 2 | .package => 3 | .system => 4
/-- A scalar or lane floating format: 000 f32, 001 bf16 (R50, R53). -/
def ffmtOf : Nat → Option FFmt
  | 0 => some .f32 | 1 => some .bf16 | _ => none
def ffmtNum : FFmt → Nat
  | .f32 => 0 | .bf16 => 1
/-- The lane formats of major 0x22 (R53). -/
def ifmtOf : Nat → Option IFmt
  | 2 => some .i32 | 3 => some .i16 | 4 => some .i8 | _ => none
def ifmtNum : IFmt → Nat
  | .i32 => 2 | .i16 => 3 | .i8 => 4
/-- The lane formats of majors 0x24 to 0x26 (R53). -/
def vfmtOf : Nat → Option VFmt
  | 0 => some .f32 | 1 => some .bf16 | 2 => some .i32 | 3 => some .i16 | 4 => some .i8 | _ => none
def vfmtNum : VFmt → Nat
  | .f32 => 0 | .bf16 => 1 | .i32 => 2 | .i16 => 3 | .i8 => 4
/-- The format codes of word 2 (R54). -/
def cfmtOf : Nat → Option CFmt
  | 0x00 => some .f32 | 0x01 => some .bf16 | 0x02 => some .i32 | 0x03 => some .i16 | 0x04 => some .i8 | 0x05 => some .f16
  | 0x10 => some .i4 | 0x11 => some .e2m1 | 0x12 => some .ts8 | 0x13 => some .s8 | _ => none
def cfmtNum : CFmt → Nat
  | .f32 => 0x00 | .bf16 => 0x01 | .i32 => 0x02 | .i16 => 0x03 | .i8 => 0x04 | .f16 => 0x05
  | .i4 => 0x10 | .e2m1 => 0x11 | .ts8 => 0x12 | .s8 => 0x13
/-- The kinds of `fence`: 11 is reserved (R50). -/
def fenceOf : Nat → Option FenceKind
  | 0 => some .acq | 1 => some .rel | 2 => some .full | _ => none
def fenceNum : FenceKind → Nat
  | .acq => 0 | .rel => 1 | .full => 2
/-- Contexts as one bit: 0 N, 1 U (R52). -/
def ctxOf (b : Bool) : Ctx := if b then .u else .n
def ctxNum : Ctx → Nat
  | .n => 0 | .u => 1
/-- A 5-bit field that names a mask holds 0 to 7 (R46). -/
def maskOf (r : Fin 32) : Option MReg := if r.val < 8 then some (Fin.ofNat 8 r.val) else none

/-- One word only (R51). -/
def Raw.one (r : Raw) (k : Except DecErr Instr) : Except DecErr Instr :=
  ck (!r.long && r.lit.isNone) .badLength k
/-- Three words only (R51). -/
def Raw.three (r : Raw) (k : Except DecErr Instr) : Except DecErr Instr :=
  ck (r.long && r.lit.isNone) .badLength k
/-- One or three words, no literal (R51). -/
def Raw.noLit (r : Raw) (k : Except DecErr Instr) : Except DecErr Instr :=
  ck r.lit.isNone .badLength k
/-- Word 1 and word 2 are 0 (R51). -/
def Raw.noExt (r : Raw) (k : Except DecErr Instr) : Except DecErr Instr :=
  ck (r.w1 == 0 && r.w2 == 0) .unusedField k
/-- Word 2 is 0, and word 1 holds only rm (R51). -/
def Raw.onlyRm (r : Raw) (k : RM → Except DecErr Instr) : Except DecErr Instr :=
  ck (r.w2 == 0 && r.w1less false true false false false false false == 0) .unusedField
    (ckSome (rmOf r.rm) .reservedRounding k)
/-- Word 2 is 0, and word 1 holds only m and mz (R51). -/
def Raw.onlyMask (r : Raw) (k : Except DecErr Instr) : Except DecErr Instr :=
  ck (r.w2 == 0 && r.w1less false false false false true true false == 0) .unusedField k
/-- Word 2 is 0, and word 1 holds only m (R51). -/
def Raw.onlyM (r : Raw) (k : Except DecErr Instr) : Except DecErr Instr :=
  ck (r.w2 == 0 && r.w1less false false false false true false false == 0) .unusedField k
/-- The optional rm of one- and three-word forms (R43). -/
def Raw.extRm (r : Raw) : Option RM := if r.long then rmOf r.rm else none
/-- The optional m and mz. -/
def Raw.extM (r : Raw) : Option MExt := if r.long then some ⟨r.m, r.mz⟩ else none
/-- The optional m. -/
def Raw.extMask (r : Raw) : Option MReg := if r.long then some r.m else none
/-- The immediate of format I; a replaced imm13 must be 0 (R45). -/
def Raw.imm (r : Raw) (k : Imm → Except DecErr Instr) : Except DecErr Instr :=
  ck (!r.long) .badLength
    (match r.lit with
     | none => k (.short (BitVec.ofNat 13 r.imm13))
     | some v => ck (r.imm13 == 0) .unusedField (k (.lit v)))
/-- The offset of format M; a replaced imm10 must be 0 (R45). -/
def Raw.off (r : Raw) (k : Off → Except DecErr Instr) : Except DecErr Instr :=
  match r.lit with
  | none => k (.short (BitVec.ofNat 10 r.imm10))
  | some v => ck (r.imm10 == 0) .unusedField (k (.lit v))


/-! Operand records read from the fields. -/
def Raw.opsW (r : Raw) : OpsW := ⟨r.w⟩
def Raw.opsD (r : Raw) : OpsD := ⟨r.w, r.d⟩
def Raw.opsA (r : Raw) : OpsA := ⟨r.w, r.a⟩
def Raw.opsDA (r : Raw) : OpsDA := ⟨r.w, r.d, r.a⟩
def Raw.opsDAB (r : Raw) : OpsDAB := ⟨r.w, r.d, r.a, r.b⟩

/-- Fields that an instruction does not use are 0 (R55): d, a, b and creg8 in turn. -/
def Raw.zd (r : Raw) (k : Except DecErr Instr) : Except DecErr Instr := ck (r.d.val == 0) .unusedField k
def Raw.za (r : Raw) (k : Except DecErr Instr) : Except DecErr Instr := ck (r.a.val == 0) .unusedField k
def Raw.zb (r : Raw) (k : Except DecErr Instr) : Except DecErr Instr := ck (r.b.val == 0) .unusedField k
def Raw.zc (r : Raw) (k : Except DecErr Instr) : Except DecErr Instr := ck (r.func8 == 0) .unusedField k

/-- Major 0x00, format S (R49, R170, R175). -/
def dec00 (r : Raw) : Except DecErr Instr :=
  r.one <| match r.func5 with
  | 0 => r.zd <| r.za <| r.zc <| .ok (.nop r.opsW)
  | 1 => r.zd <| r.za <| .ok (.trap ⟨r.w, BitVec.ofNat 8 r.func8⟩)
  | 2 => r.zd <| r.za <| r.zc <| .ok (.eret r.opsW)
  | 3 => r.za <| .ok (.getc ⟨r.w, r.d, BitVec.ofNat 8 r.func8⟩)
  | 4 => r.zd <| .ok (.setc ⟨r.w, r.a, BitVec.ofNat 8 r.func8⟩)
  | 5 => r.zc <| .ok (.park r.opsDA)
  | 6 => r.zd <| r.za <| r.zc <| .ok (.bkpt r.opsW)
  | 7 => ck (r.func8 / 32 == 0) .reservedSubfield <| ck (r.func8 % 4 < 3) .reservedSubfield <|
      ckSome (scopeOf (r.func8 / 4 % 8)) .reservedScope fun s => .ok (.xinv ⟨r.w, r.d, r.a, Fin.ofNat 3 (r.func8 % 4), s⟩)
  | _ => .error .reservedFunc

/-- Major 0x01, format A (R154). -/
def dec01 (r : Raw) : Except DecErr Instr :=
  r.one <| match r.func8 with
  | 0 => .ok (.add r.opsDAB)
  | 1 => .ok (.sub r.opsDAB)
  | 2 => .ok (.and r.opsDAB)
  | 3 => .ok (.or r.opsDAB)
  | 4 => .ok (.xor r.opsDAB)
  | 5 => .ok (.andn r.opsDAB)
  | 6 => .ok (.sll r.opsDAB)
  | 7 => .ok (.srl r.opsDAB)
  | 8 => .ok (.sra r.opsDAB)
  | 9 => .ok (.slt r.opsDAB)
  | 10 => .ok (.sltu r.opsDAB)
  | 11 => .ok (.min r.opsDAB)
  | 12 => .ok (.max r.opsDAB)
  | 13 => .ok (.minu r.opsDAB)
  | 14 => .ok (.maxu r.opsDAB)
  | 15 => r.zb <| .ok (.clz r.opsDA)
  | 16 => r.zb <| .ok (.ctz r.opsDA)
  | 17 => r.zb <| .ok (.popc r.opsDA)
  | 18 => r.zb <| .ok (.sextW r.opsDA)
  | 19 => r.zb <| .ok (.zextW r.opsDA)
  | 20 => .ok (.bext r.opsDAB)
  | _ => .error .reservedFunc

/-- Majors 0x02 to 0x07 and 0x0D, format I (R155, R160). -/
def decI (r : Raw) (f : OpsI → Instr) : Except DecErr Instr :=
  r.imm fun v => .ok (f ⟨r.w, r.d, r.a, v⟩)

/-- Major 0x08, format I (R50, R156): imm13[12:8] is 0, [7:6] the kind, [5:0] the amount. -/
def dec08 (r : Raw) : Except DecErr Instr :=
  r.one <| ck (r.imm13 / 256 == 0) .reservedSubfield <|
    let o : OpsShift := ⟨r.w, r.d, r.a, BitVec.ofNat 6 (r.imm13 % 64)⟩
    match r.imm13 / 64 % 4 with
    | 0 => .ok (.slli o)
    | 1 => .ok (.srli o)
    | 2 => .ok (.srai o)
    | _ => .error .reservedSubfield

/-- Major 0x09, format U (R157), and 0x0C, format J (R160). -/
def dec09 (r : Raw) : Except DecErr Instr :=
  r.one <| .ok (.lih ⟨r.w, r.d, BitVec.ofNat 18 (bitsOf r.w0 31 14)⟩)
def dec0C (r : Raw) : Except DecErr Instr :=
  r.one <| .ok (.jal ⟨r.w, r.d, BitVec.ofNat 18 (bitsOf r.w0 31 14)⟩)

/-- Major 0x0A, format A (R158). -/
def dec0A (r : Raw) : Except DecErr Instr :=
  r.one <| match r.func8 with
  | 0 => .ok (.mul r.opsDAB)
  | 1 => .ok (.mulh r.opsDAB)
  | 2 => .ok (.mulhu r.opsDAB)
  | 3 => .ok (.mulhsu r.opsDAB)
  | 4 => .ok (.div r.opsDAB)
  | 5 => .ok (.divu r.opsDAB)
  | 6 => .ok (.rem r.opsDAB)
  | 7 => .ok (.remu r.opsDAB)
  | _ => .error .reservedFunc

/-- Major 0x0B, format B (R159). -/
def dec0B (r : Raw) : Except DecErr Instr :=
  r.one <|
    let o : OpsB := ⟨r.w, Fin.ofNat 32 (bitsOf r.w0 16 12), Fin.ofNat 32 (bitsOf r.w0 21 17), BitVec.ofNat 10 r.imm10⟩
    match bitsOf r.w0 11 9 with
    | 0 => .ok (.beq o)
    | 1 => .ok (.bne o)
    | 2 => .ok (.blt o)
    | 3 => .ok (.bge o)
    | 4 => .ok (.bltu o)
    | 5 => .ok (.bgeu o)
    | 6 => .ok (.bbs o)
    | _ => .ok (.bbc o)

/-- Major 0x0E, format L (R161). -/
def dec0E (r : Raw) : Except DecErr Instr :=
  r.one <|
    if bitOf r.w0 18 then .ok (.loopi ⟨r.w, BitVec.ofNat 9 (bitsOf r.w0 17 9), BitVec.ofNat 13 r.imm13⟩)
    else ck (bitsOf r.w0 17 14 == 0) .unusedField <| .ok (.loop ⟨r.w, r.d, BitVec.ofNat 13 r.imm13⟩)

/-- Major 0x0F, format A (R50, R51, R165): func8[7:5] is the format, which the conversions require to be 000. -/
def dec0F (r : Raw) : Except DecErr Instr :=
  r.noLit <| ckSome (ffmtOf (r.func8 / 32)) .reservedSubfield fun f =>
    let n := r.func8 % 32
    let noFmt (k : Except DecErr Instr) := ck (f == .f32) .reservedSubfield k
    match n with
    | 0 => r.onlyRm fun _ => .ok (.fadd ⟨r.w, f, r.d, r.a, r.b, r.extRm⟩)
    | 1 => r.onlyRm fun _ => .ok (.fsub ⟨r.w, f, r.d, r.a, r.b, r.extRm⟩)
    | 2 => r.onlyRm fun _ => .ok (.fmul ⟨r.w, f, r.d, r.a, r.b, r.extRm⟩)
    | 3 => r.onlyRm fun _ => .ok (.fdiv ⟨r.w, f, r.d, r.a, r.b, r.extRm⟩)
    | 4 => r.zb <| r.onlyRm fun _ => .ok (.fsqrt ⟨r.w, f, r.d, r.a, r.extRm⟩)
    | 5 => r.noExt <| .ok (.fmin ⟨r.w, f, r.d, r.a, r.b, r.long⟩)
    | 6 => r.noExt <| .ok (.fmax ⟨r.w, f, r.d, r.a, r.b, r.long⟩)
    | 7 => r.noExt <| .ok (.feq ⟨r.w, f, r.d, r.a, r.b, r.long⟩)
    | 8 => r.noExt <| .ok (.flt ⟨r.w, f, r.d, r.a, r.b, r.long⟩)
    | 9 => r.noExt <| .ok (.fle ⟨r.w, f, r.d, r.a, r.b, r.long⟩)
    | 10 => r.zb <| r.noExt <| .ok (.fclass ⟨r.w, f, r.d, r.a, r.long⟩)
    | 11 => r.noExt <| .ok (.fsgnj ⟨r.w, f, r.d, r.a, r.b, r.long⟩)
    | 12 => r.noExt <| .ok (.fsgnjn ⟨r.w, f, r.d, r.a, r.b, r.long⟩)
    | 13 => noFmt <| r.zb <| r.onlyRm fun _ => .ok (.fcvtF32I64 ⟨r.w, r.d, r.a, r.extRm⟩)
    | 14 => noFmt <| r.zb <| r.onlyRm fun _ => .ok (.fcvtI64F32 ⟨r.w, r.d, r.a, r.extRm⟩)
    | 15 => noFmt <| r.zb <| r.noExt <| .ok (.fcvtF32Bf16 ⟨r.w, r.d, r.a, r.long⟩)
    | 16 => noFmt <| r.zb <| ck (r.w2 == 0 && r.w1less false true false true false false false == 0) .unusedField <|
        ckSome (rmOf r.rm) .reservedRounding fun q =>
          .ok (.fcvtBf16F32 ⟨r.w, r.d, r.a, if r.long then some (q, r.pk) else none⟩)
    | 17 => noFmt <| r.zb <| r.noExt <| .ok (.fcvtF32F16 ⟨r.w, r.d, r.a, r.long⟩)
    | 18 => noFmt <| r.zb <| ck (r.w2 == 0 && r.w1less false true false true false false false == 0) .unusedField <|
        ckSome (rmOf r.rm) .reservedRounding fun q =>
          .ok (.fcvtF16F32 ⟨r.w, r.d, r.a, if r.long then some (q, r.pk) else none⟩)
    | 19 => r.zb <| r.noExt <| .ok (.frsqe ⟨r.w, f, r.d, r.a, r.long⟩)
    | 20 => r.zb <| r.noExt <| .ok (.frcpe ⟨r.w, f, r.d, r.a, r.long⟩)
    | _ => .error .reservedFunc

/-- Major 0x10, three words only (R51, R169): c and rm. -/
def dec10 (r : Raw) : Except DecErr Instr :=
  r.three <| ckSome (ffmtOf (r.func8 / 32)) .reservedSubfield fun f =>
    ck (r.w2 == 0 && r.w1less true true false false false false false == 0) .unusedField <|
    ckSome (rmOf r.rm) .reservedRounding fun q =>
      let o : OpsF3 := ⟨r.w, f, r.d, r.a, r.b, r.c, q⟩
      match r.func8 % 32 with
      | 0 => .ok (.fmadd o)
      | 1 => .ok (.fmsub o)
      | 2 => .ok (.fnmadd o)
      | 3 => .ok (.fnmsub o)
      | _ => .error .reservedFunc

/-- The word-1 scope of `ld.acq` and `st.rel`, the only field they may set (R51). -/
def Raw.scoped (r : Raw) (k : Option Scope → Except DecErr Instr) : Except DecErr Instr :=
  ck (r.w2 == 0 && r.w1less false false true false false false false == 0) .unusedField <|
    ckSome (scopeOf r.scope) .reservedScope fun s => k (if r.long then some s else none)

/-- Major 0x11, format M (R205). -/
def dec11 (r : Raw) : Except DecErr Instr :=
  r.off fun v =>
    let o : OpsM := ⟨r.w, r.d, r.a, v, r.long⟩
    match r.func3 with
    | 0 => r.noExt <| .ok (.ldB o)
    | 1 => r.noExt <| .ok (.ldBu o)
    | 2 => r.noExt <| .ok (.ldH o)
    | 3 => r.noExt <| .ok (.ldHu o)
    | 4 => r.noExt <| .ok (.ldW o)
    | 5 => r.noExt <| .ok (.ldWu o)
    | 6 => r.noExt <| .ok (.ldD o)
    | _ => r.scoped fun s => .ok (.ldAcq ⟨r.w, r.d, r.a, v, s⟩)

/-- Major 0x12, format M (R208). -/
def dec12 (r : Raw) : Except DecErr Instr :=
  r.off fun v =>
    let o : OpsM := ⟨r.w, r.d, r.a, v, r.long⟩
    match r.func3 with
    | 0 => r.noExt <| .ok (.stB o)
    | 1 => r.noExt <| .ok (.stH o)
    | 2 => r.noExt <| .ok (.stW o)
    | 3 => r.noExt <| .ok (.stD o)
    | 4 => r.scoped fun s => .ok (.stRel ⟨r.w, r.d, r.a, v, s⟩)
    | 5 => r.noExt <| .ok (.stf o)
    | _ => .error .reservedFunc

/-- Major 0x13, format A (R50, R210): func8[4] is the size, func8[3:0] the operation. -/
def dec13 (r : Raw) : Except DecErr Instr :=
  r.one <| ck (r.func8 / 32 == 0) .reservedSubfield <|
    let o : OpsAmo := ⟨r.w, r.d, r.a, r.b, r.func8 / 16 % 2 == 1⟩
    let word (k : Except DecErr Instr) := ck (r.func8 / 16 % 2 == 0) .reservedSubfield k
    match r.func8 % 16 with
    | 0 => .ok (.amoAdd o)
    | 1 => .ok (.amoAnd o)
    | 2 => .ok (.amoOr o)
    | 3 => .ok (.amoXor o)
    | 4 => .ok (.amoMin o)
    | 5 => .ok (.amoMax o)
    | 6 => .ok (.amoMinu o)
    | 7 => .ok (.amoMaxu o)
    | 8 => .ok (.amoSwap o)
    | 9 => .ok (.amoCas o)
    | 10 => word <| .ok (.amoFaddF32 r.opsDAB)
    | 11 => word <| .ok (.amoFaddBf16x2 r.opsDAB)
    | _ => .error .reservedFunc

/-- Major 0x14, format S (R50, R213, R214). -/
def dec14 (r : Raw) : Except DecErr Instr :=
  r.one <| r.zd <| r.za <| match r.func5 with
  | 0 => ck (r.func8 / 32 == 0) .reservedSubfield <| ckSome (scopeOf (r.func8 / 4 % 8)) .reservedScope fun s =>
      ckSome (fenceOf (r.func8 % 4)) .reservedSubfield fun q => .ok (.fence ⟨r.w, q, s⟩)
  | 1 => r.zc <| .ok (.drain r.opsW)
  | _ => .error .reservedFunc

/-- Major 0x15, format S (R215). -/
def dec15 (r : Raw) : Except DecErr Instr :=
  r.one <| match r.func5 with
  | 0 => r.zd <| .ok (.feClr ⟨r.w, r.a, BitVec.ofNat 8 r.func8⟩)
  | 1 => r.zd <| .ok (.feSet ⟨r.w, r.a, BitVec.ofNat 8 r.func8⟩)
  | 2 => r.zc <| .ok (.feTest r.opsDA)
  | 3 => r.zc <| .ok (.fePeek r.opsDA)
  | _ => .error .reservedFunc

/-- Major 0x16, format S (R216): creg8 is the entry, 0 to 7. -/
def dec16 (r : Raw) : Except DecErr Instr :=
  r.one <| ck (r.func8 < 8) .ruleLimit <|
    let e : Fin 8 := Fin.ofNat 8 r.func8
    match r.func5 with
    | 0 => .ok (.winSet ⟨r.w, r.d, r.a, e⟩)
    | 1 => r.zd <| r.za <| .ok (.winDrop ⟨r.w, e⟩)
    | 2 => r.zd <| r.za <| .ok (.winTouch ⟨r.w, e⟩)
    | 3 => r.za <| .ok (.winState ⟨r.w, r.d, e⟩)
    | _ => .error .reservedFunc

/-- Major 0x17, format S (R217). -/
def dec17 (r : Raw) : Except DecErr Instr :=
  r.one <| r.zc <| match r.func5 with
  | 0 => r.zd <| .ok (.copy r.opsA)
  | 1 => .ok (.copySt r.opsDA)
  | _ => .error .reservedFunc

/-- Fields of word 2 of major 0x18 (R52). -/
def Raw.msgCls (r : Raw) : Fin 32 := Fin.ofNat 32 (bitsOf r.w2 4 0)
def Raw.msgCtx (r : Raw) : Ctx := ctxOf (bitOf r.w2 5)
def Raw.msgBytes (r : Raw) : Nat := bitsOf r.w2 12 6
def Raw.msgGid (r : Raw) : Nat := bitsOf r.w2 18 13

/-- Major 0x18, three words only (R52, R218). -/
def dec18 (r : Raw) : Except DecErr Instr :=
  r.three <| r.zd <| ck (r.w2 / 2 ^ 19 == 0) .unusedField <| match r.func8 with
  | 0 => ck (r.w1less false false false false false false true == 0 && r.msgGid == 0) .unusedField <|
      .ok (.send ⟨r.w, r.a, r.b, BitVec.ofNat 8 r.dx, BitVec.ofNat 8 r.dy, BitVec.ofNat 7 r.msgBytes, r.msgCtx, r.msgCls⟩)
  | 1 => ck (r.w1less false false false false false false true == 0 && r.msgGid == 0 && r.msgBytes == 0) .unusedField <|
      .ok (.sendv ⟨r.w, r.a, r.b, BitVec.ofNat 8 r.dx, BitVec.ofNat 8 r.dy, r.msgCtx, r.msgCls⟩)
  | 2 => r.zb <| ck (r.w1 == 0) .unusedField <|
      .ok (.mcast ⟨r.w, r.a, Fin.ofNat 64 r.msgGid, BitVec.ofNat 7 r.msgBytes, r.msgCtx, r.msgCls⟩)
  | _ => .error .reservedFunc

/-- Major 0x19, three words only (R52, R221, R224, R225). -/
def dec19 (r : Raw) : Except DecErr Instr :=
  r.three <|
    let g : Fin 64 := Fin.ofNat 64 (bitsOf r.w2 5 0)
    let gidOnly (k : Except DecErr Instr) := ck (r.w1 == 0 && r.w2 / 64 == 0) .unusedField k
    match r.func8 with
    | 0 => ck (r.w1less false false false false false false true == 0) .unusedField <|
        .ok (.grpArm ⟨r.w, r.d, r.a, r.b, BitVec.ofNat 8 r.dx, BitVec.ofNat 8 r.dy, BitVec.ofNat 24 (bitsOf r.w2 31 8),
          bitOf r.w2 7, bitOf r.w2 6, g⟩)
    | 1 => gidOnly <| r.zd <| r.zb <| .ok (.redF32 ⟨r.w, r.a, g⟩)
    | 2 => gidOnly <| r.zd <| r.zb <| .ok (.redI64 ⟨r.w, r.a, g⟩)
    | 3 => gidOnly <| r.za <| r.zb <| .ok (.grpWait ⟨r.w, r.d, g⟩)
    | 4 => gidOnly <| r.za <| r.zb <| .ok (.grpFree ⟨r.w, r.d, g⟩)
    | _ => .error .reservedFunc

/-- Major 0x1A, format S (R227 to R230). -/
def dec1A (r : Raw) : Except DecErr Instr :=
  r.one <| match r.func5 with
  | 0 => r.zd <| r.za <| r.zc <| .ok (.done r.opsW)
  | 1 => r.zd <| r.za <| r.zc <| .ok (.yield r.opsW)
  | 2 => .ok (.rngPush ⟨r.w, r.d, r.a, BitVec.ofNat 8 r.func8⟩)
  | 3 => r.zc <| .ok (.rngTake r.opsDA)
  | _ => .error .reservedFunc

/-- Major 0x1B, format S (R231 to R234). -/
def dec1B (r : Raw) : Except DecErr Instr :=
  r.one <| match r.func5 with
  | 0 => ck (r.func8 < 2) .unusedField <| .ok (.launch ⟨r.w, r.d, r.a, r.func8 % 2 == 1⟩)
  | 1 => r.za <| r.zc <| .ok (.join r.opsD)
  | 2 => .ok (.replay ⟨r.w, r.d, r.a, BitVec.ofNat 8 r.func8⟩)
  | 3 => ck (r.func8 < 2) .ruleLimit <| .ok (.lnstat ⟨r.w, r.d, r.a, r.func8 % 2 == 1⟩)
  | _ => .error .reservedFunc

/-- Major 0x1C, format S (R252). -/
def dec1C (r : Raw) : Except DecErr Instr :=
  r.one <| match r.func5 with
  | 0 => r.zc <| .ok (.chOpen r.opsDA)
  | 1 => r.zc <| .ok (.chW r.opsDA)
  | 2 => r.zc <| .ok (.chWv r.opsDA)
  | 3 => r.zc <| .ok (.chR r.opsDA)
  | 4 => r.zc <| .ok (.chRv r.opsDA)
  | 5 => r.zc <| .ok (.chAvail r.opsDA)
  | 6 => r.zc <| .ok (.chSpace r.opsDA)
  | 7 => .ok (.chRes ⟨r.w, r.d, r.a, BitVec.ofNat 8 r.func8⟩)
  | 8 => ck (r.func8 < 2) .unusedField <| .ok (.chPub ⟨r.w, r.d, r.a, r.func8 % 2 == 1⟩)
  | 9 => r.zd <| r.zc <| .ok (.chClose r.opsA)
  | _ => .error .reservedFunc

/-- Major 0x1D, format S (R261). -/
def dec1D (r : Raw) : Except DecErr Instr :=
  r.one <| r.zc <| match r.func5 with
  | 0 => .ok (.dqEmit r.opsDA)
  | 1 => .ok (.dqRead r.opsDA)
  | 2 => r.zd <| .ok (.dqCork r.opsA)
  | 3 => .ok (.dqCons r.opsDA)
  | 4 => r.za <| .ok (.dqQuiet r.opsD)
  | _ => .error .reservedFunc

/-- Major 0x1E, format S (R265). -/
def dec1E (r : Raw) : Except DecErr Instr :=
  r.one <| r.zc <| match r.func5 with
  | 0 => .ok (.ixUpd r.opsDA)
  | 1 => .ok (.ixLook r.opsDA)
  | 2 => .ok (.ixNext r.opsDA)
  | 3 => .ok (.ixClear r.opsDA)
  | _ => .error .reservedFunc

/-- Major 0x20, format V (R187). -/
def dec20 (r : Raw) : Except DecErr Instr :=
  r.noLit <| ckSome (ffmtOf r.vfmt) .reservedFormat fun f =>
    let roundExt (k : Option RExt → Except DecErr Instr) :=
      ck (r.w2 == 0 && r.w1less false true false false true true false == 0) .unusedField <|
        ckSome (rmOf r.rm) .reservedRounding fun q => k (if r.long then some ⟨q, r.m, r.mz⟩ else none)
    let un : OpsVF1 := ⟨r.w, f, r.d, r.a, r.extM⟩
    let cmp (g : OpsVFC → Instr) :=
      r.onlyMask <| ckSome (maskOf r.d) .maskField fun q => .ok (g ⟨r.w, f, q, r.a, r.b, r.extM⟩)
    match r.vfunc with
    | 0 => roundExt fun e => .ok (.vadd ⟨r.w, f, r.d, r.a, r.b, e⟩)
    | 1 => roundExt fun e => .ok (.vsub ⟨r.w, f, r.d, r.a, r.b, e⟩)
    | 2 => roundExt fun e => .ok (.vmul ⟨r.w, f, r.d, r.a, r.b, e⟩)
    | 3 => r.onlyMask <| .ok (.vmin ⟨r.w, f, r.d, r.a, r.b, r.extM⟩)
    | 4 => r.onlyMask <| .ok (.vmax ⟨r.w, f, r.d, r.a, r.b, r.extM⟩)
    | 5 => r.onlyMask <| r.zb <| .ok (.vabs un)
    | 6 => r.onlyMask <| r.zb <| .ok (.vneg un)
    | 7 => r.onlyMask <| r.zb <| .ok (.vrsqe un)
    | 8 => r.onlyMask <| r.zb <| .ok (.vrcpe un)
    | 9 => r.onlyMask <| r.zb <| .ok (.vexp2 un)
    | 10 => cmp .vfeq
    | 11 => cmp .vflt
    | 12 => cmp .vfle
    | _ => .error .reservedFunc

/-- Major 0x21, three words only (R188). -/
def dec21 (r : Raw) : Except DecErr Instr :=
  r.three <| ckSome (ffmtOf r.vfmt) .reservedFormat fun f =>
    ck (r.w2 == 0 && r.w1less true true false false true true false == 0) .unusedField <|
    ckSome (rmOf r.rm) .reservedRounding fun q =>
      let o : OpsVF3 := ⟨r.w, f, r.d, r.a, r.b, r.c, q, r.m, r.mz⟩
      match r.vfunc with
      | 0 => .ok (.vfmadd o)
      | 1 => .ok (.vfmsub o)
      | 2 => .ok (.vfnmadd o)
      | 3 => .ok (.vfnmsub o)
      | _ => .error .reservedFunc

/-- Major 0x22, format V (R189). -/
def dec22 (r : Raw) : Except DecErr Instr :=
  r.noLit <| ckSome (ifmtOf r.vfmt) .reservedFormat fun f =>
    r.onlyMask <|
    let o : OpsVI := ⟨r.w, f, r.d, r.a, r.b, r.extM⟩
    let cmp (g : OpsVIC → Instr) := ckSome (maskOf r.d) .maskField fun q => .ok (g ⟨r.w, f, q, r.a, r.b, r.extM⟩)
    match r.vfunc with
    | 0 => .ok (.vaddI o)
    | 1 => .ok (.vsubI o)
    | 2 => .ok (.vmulI o)
    | 3 => .ok (.vand o)
    | 4 => .ok (.vor o)
    | 5 => .ok (.vxor o)
    | 6 => .ok (.vsll o)
    | 7 => .ok (.vsrl o)
    | 8 => .ok (.vsra o)
    | 9 => .ok (.vminI o)
    | 10 => .ok (.vmaxI o)
    | 11 => .ok (.vminu o)
    | 12 => .ok (.vmaxu o)
    | 13 => cmp .vieq
    | 14 => cmp .vilt
    | 15 => cmp .viltu
    | _ => .error .reservedFunc

/-- Major 0x23, three words only, fmt3 000 (R51, R52, R190). -/
def dec23 (r : Raw) : Except DecErr Instr :=
  r.three <| ck (r.vfmt == 0) .reservedFormat <| r.zb <| ck (r.w2 / 2 ^ 16 == 0) .unusedField <|
    ckSome (cfmtOf (bitsOf r.w2 15 8)) .reservedFormat fun sf =>
    ckSome (cfmtOf (bitsOf r.w2 7 0)) .reservedFormat fun df =>
      match r.vfunc with
      | 0 => ck (r.w1less false true false true true true false == 0) .unusedField <|
          ckSome (rmOf r.rm) .reservedRounding fun q => .ok (.vcvt ⟨r.w, r.d, r.a, q, r.pk, r.m, r.mz, sf, df⟩)
      | 1 => ck (r.w1less true true false true true true false == 0) .unusedField <|
          ckSome (rmOf r.rm) .reservedRounding fun q => .ok (.vquant ⟨r.w, r.d, r.a, r.c, q, r.pk, r.m, r.mz, sf, df⟩)
      | 2 => ck (r.w1less true false false false true true false == 0) .unusedField <|
          .ok (.vdequant ⟨r.w, r.d, r.a, r.c, r.m, r.mz, sf, df⟩)
      | _ => .error .reservedFunc

/-- Major 0x24, format V (R194): mz on `vscan` only. -/
def dec24 (r : Raw) : Except DecErr Instr :=
  r.noLit <| r.zb <| ckSome (vfmtOf r.vfmt) .reservedFormat fun f =>
    let o : OpsVRed := ⟨r.w, f, r.d, r.a, r.extMask⟩
    match r.vfunc with
    | 0 => r.onlyM <| .ok (.vredsum o)
    | 1 => r.onlyM <| .ok (.vredmax o)
    | 2 => r.onlyM <| .ok (.vredmin o)
    | 3 => r.onlyMask <| .ok (.vscan ⟨r.w, f, r.d, r.a, r.extM⟩)
    | _ => .error .reservedFunc

/-- Major 0x25, format V (R196). -/
def dec25 (r : Raw) : Except DecErr Instr :=
  r.noLit <| r.onlyMask <| ckSome (vfmtOf r.vfmt) .reservedFormat fun f =>
    let o1 : OpsV1 := ⟨r.w, f, r.d, r.a, r.extM⟩
    let o2 : OpsV2 := ⟨r.w, f, r.d, r.a, r.b, r.extM⟩
    match r.vfunc with
    | 0 => r.zb <| .ok (.vbcast o1)
    | 1 => .ok (.vperm o2)
    | 2 => .ok (.vslup o2)
    | 3 => .ok (.vsldn o2)
    | 4 => r.zb <| .ok (.vcompress o1)
    | 5 => .ok (.vins o2)
    | 6 => .ok (.vext o2)
    | 7 => r.za <| r.zb <| .ok (.viota ⟨r.w, f, r.d, r.extM⟩)
    | 8 => r.zb <| .ok (.vmov o1)
    | _ => .error .reservedFunc

/-- Major 0x26, format V (R198): only `vsel` takes a format and a mask. -/
def dec26 (r : Raw) : Except DecErr Instr :=
  r.noLit <|
    let plain (k : Except DecErr Instr) := ck (r.vfmt == 0) .reservedFormat <| r.noExt k
    let m2 (g : OpsMM → Instr) := plain <| ckSome (maskOf r.d) .maskField fun d => ckSome (maskOf r.a) .maskField fun a =>
      ckSome (maskOf r.b) .maskField fun b => .ok (g ⟨r.w, d, a, b, r.long⟩)
    let xm (g : OpsXM → Instr) := plain <| r.zb <| ckSome (maskOf r.a) .maskField fun a => .ok (g ⟨r.w, r.d, a, r.long⟩)
    match r.vfunc with
    | 0 => r.onlyM <| ckSome (vfmtOf r.vfmt) .reservedFormat fun f => .ok (.vsel ⟨r.w, f, r.d, r.a, r.b, r.extMask⟩)
    | 1 => m2 .mand
    | 2 => m2 .mor
    | 3 => m2 .mxor
    | 4 => plain <| r.zb <| ckSome (maskOf r.d) .maskField fun d => ckSome (maskOf r.a) .maskField fun a => .ok (.mnot ⟨r.w, d, a, r.long⟩)
    | 5 => xm .mpopc
    | 6 => xm .mfirst
    | 7 => plain <| r.zb <| ckSome (maskOf r.d) .maskField fun d => .ok (.mset ⟨r.w, d, r.a, r.long⟩)
    | 8 => xm .mget
    | _ => .error .reservedFunc

/-- Major 0x27, format M (R199). -/
def dec27 (r : Raw) : Except DecErr Instr :=
  r.off fun v =>
    let ld : OpsVL := ⟨r.w, r.d, r.a, v, r.extM⟩
    let st : OpsVS := ⟨r.w, r.d, r.a, v, r.extMask⟩
    match r.func3 with
    | 0 => r.onlyMask <| .ok (.vld ld)
    | 1 => r.onlyM <| .ok (.vst st)
    | 2 => r.onlyMask <| .ok (.vgather ld)
    | 3 => r.onlyM <| .ok (.vscatter st)
    | 4 => r.onlyMask <| .ok (.vldbc ld)
    | _ => .error .reservedFunc

/-- Major 0x28, one word only, fmt3 100 (R203). -/
def dec28 (r : Raw) : Except DecErr Instr :=
  r.one <| ck (r.vfmt == 4) .reservedFormat <| match r.vfunc with
  | 0 => ckSome (maskOf r.d) .maskField fun d => .ok (.vanc ⟨r.w, d, r.a, r.b⟩)
  | _ => .error .reservedFunc

/-- Major 0x30, format A (R269). -/
def dec30 (r : Raw) : Except DecErr Instr :=
  r.one <| r.zb <| match r.func8 with
  | 0 => .ok (.gang r.opsDA)
  | 1 => r.za <| .ok (.gstat r.opsD)
  | _ => .error .reservedFunc

/-- Major 0x31, format A (R287): slot s has s[4:0] in field a and s[5] in b[0]. -/
def dec31 (r : Raw) : Except DecErr Instr :=
  let slot (g : OpsAcc → Instr) := ck (r.b.val < 2) .unusedField <| .ok (g ⟨r.w, r.d, Fin.ofNat 64 (r.a.val + 32 * r.b.val)⟩)
  r.one <| match r.func8 with
  | 0 => slot .accRd
  | 1 => slot .accWr
  | 2 => r.zd <| r.za <| r.zb <| .ok (.accZero r.opsW)
  | 3 => r.zd <| r.zb <| .ok (.accSpill r.opsA)
  | 4 => r.zd <| r.zb <| .ok (.accFill r.opsA)
  | 5 => r.zb <| .ok (.accTag r.opsDA)
  | _ => .error .reservedFunc

/-- Major 0x32, format A (R289). -/
def dec32 (r : Raw) : Except DecErr Instr :=
  r.one <| match r.func8 with
  | 0 => r.zb <| .ok (.hLd r.opsDA)
  | 1 => r.zb <| .ok (.hSt r.opsDA)
  | 2 => .ok (.hFill r.opsDAB)
  | _ => .error .reservedFunc

/-- The opcode map (R49). Majors 0x1F, 0x29 to 0x2F and 0x33 to 0x3F are reserved. -/
def decodeRaw (r : Raw) : Except DecErr Instr :=
  match r.major with
  | 0x00 => dec00 r
  | 0x01 => dec01 r
  | 0x02 => decI r .addi
  | 0x03 => decI r .andi
  | 0x04 => decI r .ori
  | 0x05 => decI r .xori
  | 0x06 => decI r .slti
  | 0x07 => decI r .sltiu
  | 0x08 => dec08 r
  | 0x09 => dec09 r
  | 0x0A => dec0A r
  | 0x0B => dec0B r
  | 0x0C => dec0C r
  | 0x0D => decI r .jalr
  | 0x0E => dec0E r
  | 0x0F => dec0F r
  | 0x10 => dec10 r
  | 0x11 => dec11 r
  | 0x12 => dec12 r
  | 0x13 => dec13 r
  | 0x14 => dec14 r
  | 0x15 => dec15 r
  | 0x16 => dec16 r
  | 0x17 => dec17 r
  | 0x18 => dec18 r
  | 0x19 => dec19 r
  | 0x1A => dec1A r
  | 0x1B => dec1B r
  | 0x1C => dec1C r
  | 0x1D => dec1D r
  | 0x1E => dec1E r
  | 0x20 => dec20 r
  | 0x21 => dec21 r
  | 0x22 => dec22 r
  | 0x23 => dec23 r
  | 0x24 => dec24 r
  | 0x25 => dec25 r
  | 0x26 => dec26 r
  | 0x27 => dec27 r
  | 0x28 => dec28 r
  | 0x30 => dec30 r
  | 0x31 => dec31 r
  | 0x32 => dec32 r
  | _ => .error .reservedMajor

/-- Decodes the words of one instruction (those after its own are ignored), or names what is wrong (R55). -/
def decode (ws : List Nat) : Except DecErr Instr :=
  match splitWords ws with
  | none => .error .truncated
  | some r =>
    match decodeRaw r with
    | .error e => .error e
    | .ok i =>
      match i.illegal with
      | some e => .error e
      | none => .ok i

/-- The little-endian 32-bit words of the number `w`, `n` of them (R10). -/
def wordsOf : Nat → Nat → List Nat
  | 0, _ => []
  | n + 1, w => w % 2 ^ 32 :: wordsOf n (w / 2 ^ 32)

/-- The instruction that the decoder reads from an instruction whose bits are `w` (bit 0 the least significant of the first
word), the bits above `nbits` being 0 up to the longest instruction of five words. -/
def decodeTableWord (nbits w : Nat) : Option Instr :=
  match decode (wordsOf 5 (w % 2 ^ nbits)) with
  | .ok i => some i
  | .error _ => none

/-! The encoder. -/

/-- Word 0 from its len, marker, major and format fields (R37, R41). -/
def word0 (len : Nat) (w : Bool) (major fields : Nat) : Nat := len + 4 * boolNat w + 8 * major + 512 * fields

/-- Format fields from bit 9 upward: A (and S, with b for func5 and func8 for creg8), I, M, B, J, U, L and V (R41). -/
def fA (func8 b a d : Nat) : Nat := d + 32 * a + 1024 * b + 32768 * func8
def fI (imm a d : Nat) : Nat := d + 32 * a + 1024 * imm
def fM (imm func3 a d : Nat) : Nat := d + 32 * a + 1024 * func3 + 8192 * imm
def fB (off b a cond : Nat) : Nat := cond + 8 * a + 256 * b + 8192 * off
def fU (imm d : Nat) : Nat := d + 32 * imm
def fV (func5 fmt b a d : Nat) : Nat := d + 32 * a + 1024 * b + 32768 * fmt + 262144 * func5

/-- Word 1 (R42). -/
def word1 (c rm scope : Nat) (pk : Bool) (m : Nat) (mz : Bool) (dx dy : Nat) : Nat :=
  c + 32 * rm + 256 * scope + 2048 * boolNat pk + 4096 * m + 32768 * boolNat mz + 65536 * dx + 16777216 * dy

/-- The low and high words of a literal (R38). -/
def litWords (v : BitVec 64) : List Nat := [v.toNat % 2 ^ 32, v.toNat / 2 ^ 32]

/-- A one-word instruction. -/
def enc1 (w : Bool) (major fields : Nat) : List Nat := [word0 0 w major fields]
/-- A three-word instruction. -/
def enc3 (w : Bool) (major fields w1 w2 : Nat) : List Nat := [word0 1 w major fields, w1, w2]
/-- One word, or three with word 1 and word 2 zero. -/
def encL (w : Bool) (long : Bool) (major fields : Nat) : List Nat :=
  if long then enc3 w major fields 0 0 else enc1 w major fields
/-- One word, or three with this word 1. -/
def encE (w : Bool) (major fields : Nat) : Option Nat → List Nat
  | none => enc1 w major fields
  | some w1 => enc3 w major fields w1 0
/-- Format I (R45). -/
def encI (major : Nat) (o : OpsI) : List Nat :=
  match o.imm with
  | .short v => [word0 0 o.w major (fI v.toNat o.a.val o.d.val)]
  | .lit v => word0 2 o.w major (fI 0 o.a.val o.d.val) :: litWords v
/-- Format M (R45), with word 1 where the form has three words. -/
def encM (w : Bool) (major func3 a d : Nat) (off : Off) (ext : Option Nat) : List Nat :=
  match off, ext with
  | .short v, none => [word0 0 w major (fM v.toNat func3 a d)]
  | .short v, some w1 => [word0 1 w major (fM v.toNat func3 a d), w1, 0]
  | .lit v, none => word0 2 w major (fM 0 func3 a d) :: litWords v
  | .lit v, some w1 => word0 3 w major (fM 0 func3 a d) :: w1 :: 0 :: litWords v

def encDA (major func5 : Nat) (o : OpsDA) : List Nat := enc1 o.w major (fA 0 func5 o.a.val o.d.val)
def encDAB (major func8 : Nat) (o : OpsDAB) : List Nat := enc1 o.w major (fA func8 o.b.val o.a.val o.d.val)
def encShift (kind : Nat) (o : OpsShift) : List Nat := enc1 o.w 0x08 (fI (o.sh.toNat + 64 * kind) o.a.val o.d.val)
def encB (cond : Nat) (o : OpsB) : List Nat := enc1 o.w 0x0B (fB o.off.toNat o.b.val o.a.val cond)
def encF2R (n : Nat) (o : OpsF2R) : List Nat :=
  encE o.w 0x0F (fA (n + 32 * ffmtNum o.fmt) o.b.val o.a.val o.d.val) (o.ext.map fun q => word1 0 (rmNum q) 0 false 0 false 0 0)
def encF2 (n : Nat) (o : OpsF2) : List Nat := encL o.w o.long 0x0F (fA (n + 32 * ffmtNum o.fmt) o.b.val o.a.val o.d.val)
def encF1 (n : Nat) (o : OpsF1) : List Nat := encL o.w o.long 0x0F (fA (n + 32 * ffmtNum o.fmt) 0 o.a.val o.d.val)
def encCvtR (n : Nat) (o : OpsCvtR) : List Nat :=
  encE o.w 0x0F (fA n 0 o.a.val o.d.val) (o.ext.map fun q => word1 0 (rmNum q) 0 false 0 false 0 0)
def encCvt (n : Nat) (o : OpsCvt) : List Nat := encL o.w o.long 0x0F (fA n 0 o.a.val o.d.val)
def encCvtP (n : Nat) (o : OpsCvtP) : List Nat :=
  encE o.w 0x0F (fA n 0 o.a.val o.d.val) (o.ext.map fun q => word1 0 (rmNum q.1) 0 q.2 0 false 0 0)
def encF3 (n : Nat) (o : OpsF3) : List Nat :=
  enc3 o.w 0x10 (fA (n + 32 * ffmtNum o.fmt) o.b.val o.a.val o.d.val) (word1 o.c.val (rmNum o.rm) 0 false 0 false 0 0) 0
def encLS (major func3 : Nat) (o : OpsM) : List Nat :=
  encM o.w major func3 o.a.val o.d.val o.off (if o.long then some 0 else none)
def encLSS (major func3 : Nat) (o : OpsMS) : List Nat :=
  encM o.w major func3 o.a.val o.d.val o.off (o.scope.map fun s => word1 0 0 (scopeNum s) false 0 false 0 0)
def encAmo (n : Nat) (o : OpsAmo) : List Nat := enc1 o.w 0x13 (fA (n + 16 * boolNat o.dbl) o.b.val o.a.val o.d.val)
def mextWord (e : MExt) : Nat := word1 0 0 0 false e.m.val e.mz 0 0
def rextWord (e : RExt) : Nat := word1 0 (rmNum e.rm) 0 false e.m.val e.mz 0 0
def maskWord (m : MReg) : Nat := word1 0 0 0 false m.val false 0 0
def encVR (n : Nat) (o : OpsVR) : List Nat := encE o.w 0x20 (fV n (ffmtNum o.fmt) o.b.val o.a.val o.d.val) (o.ext.map rextWord)
def encVF2 (n : Nat) (o : OpsVF2) : List Nat := encE o.w 0x20 (fV n (ffmtNum o.fmt) o.b.val o.a.val o.d.val) (o.ext.map mextWord)
def encVF1 (n : Nat) (o : OpsVF1) : List Nat := encE o.w 0x20 (fV n (ffmtNum o.fmt) 0 o.a.val o.d.val) (o.ext.map mextWord)
def encVFC (n : Nat) (o : OpsVFC) : List Nat := encE o.w 0x20 (fV n (ffmtNum o.fmt) o.b.val o.a.val o.d.val) (o.ext.map mextWord)
def encVF3 (n : Nat) (o : OpsVF3) : List Nat :=
  enc3 o.w 0x21 (fV n (ffmtNum o.fmt) o.b.val o.a.val o.d.val) (word1 o.c.val (rmNum o.rm) 0 false o.m.val o.mz 0 0) 0
def encVI (n : Nat) (o : OpsVI) : List Nat := encE o.w 0x22 (fV n (ifmtNum o.fmt) o.b.val o.a.val o.d.val) (o.ext.map mextWord)
def encVIC (n : Nat) (o : OpsVIC) : List Nat := encE o.w 0x22 (fV n (ifmtNum o.fmt) o.b.val o.a.val o.d.val) (o.ext.map mextWord)
def fmtWord (sf df : CFmt) : Nat := cfmtNum df + 256 * cfmtNum sf
def encVRed (n : Nat) (o : OpsVRed) : List Nat := encE o.w 0x24 (fV n (vfmtNum o.fmt) 0 o.a.val o.d.val) (o.ext.map maskWord)
def encV1 (major n : Nat) (o : OpsV1) : List Nat := encE o.w major (fV n (vfmtNum o.fmt) 0 o.a.val o.d.val) (o.ext.map mextWord)
def encV2 (n : Nat) (o : OpsV2) : List Nat := encE o.w 0x25 (fV n (vfmtNum o.fmt) o.b.val o.a.val o.d.val) (o.ext.map mextWord)
def encMM (n : Nat) (o : OpsMM) : List Nat := encL o.w o.long 0x26 (fV n 0 o.b.val o.a.val o.d.val)
def encXM (n : Nat) (o : OpsXM) : List Nat := encL o.w o.long 0x26 (fV n 0 0 o.a.val o.d.val)
def encVL (n : Nat) (o : OpsVL) : List Nat := encM o.w 0x27 n o.a.val o.d.val o.off (o.ext.map mextWord)
def encVS (n : Nat) (o : OpsVS) : List Nat := encM o.w 0x27 n o.a.val o.d.val o.off (o.ext.map maskWord)
def msgWord (gid bytes : Nat) (x : Ctx) (cls : Nat) : Nat := cls + 32 * ctxNum x + 64 * bytes + 8192 * gid

/-- The words of an instruction (R37 to R54); the steps of the other agents have none. -/
def encode : Instr → List Nat
  | .nop o => enc1 o.w 0x00 0
  | .trap o => enc1 o.w 0x00 (fA o.code.toNat 1 0 0)
  | .eret o => enc1 o.w 0x00 (fA 0 2 0 0)
  | .getc o => enc1 o.w 0x00 (fA o.creg.toNat 3 0 o.d.val)
  | .setc o => enc1 o.w 0x00 (fA o.creg.toNat 4 o.a.val 0)
  | .park o => encDA 0x00 5 o
  | .bkpt o => enc1 o.w 0x00 (fA 0 6 0 0)
  | .xinv o => enc1 o.w 0x00 (fA (o.kind.val + 4 * scopeNum o.scope) 7 o.a.val o.d.val)
  | .add o => encDAB 0x01 0 o
  | .sub o => encDAB 0x01 1 o
  | .and o => encDAB 0x01 2 o
  | .or o => encDAB 0x01 3 o
  | .xor o => encDAB 0x01 4 o
  | .andn o => encDAB 0x01 5 o
  | .sll o => encDAB 0x01 6 o
  | .srl o => encDAB 0x01 7 o
  | .sra o => encDAB 0x01 8 o
  | .slt o => encDAB 0x01 9 o
  | .sltu o => encDAB 0x01 10 o
  | .min o => encDAB 0x01 11 o
  | .max o => encDAB 0x01 12 o
  | .minu o => encDAB 0x01 13 o
  | .maxu o => encDAB 0x01 14 o
  | .clz o => enc1 o.w 0x01 (fA 15 0 o.a.val o.d.val)
  | .ctz o => enc1 o.w 0x01 (fA 16 0 o.a.val o.d.val)
  | .popc o => enc1 o.w 0x01 (fA 17 0 o.a.val o.d.val)
  | .sextW o => enc1 o.w 0x01 (fA 18 0 o.a.val o.d.val)
  | .zextW o => enc1 o.w 0x01 (fA 19 0 o.a.val o.d.val)
  | .bext o => encDAB 0x01 20 o
  | .addi o => encI 0x02 o
  | .andi o => encI 0x03 o
  | .ori o => encI 0x04 o
  | .xori o => encI 0x05 o
  | .slti o => encI 0x06 o
  | .sltiu o => encI 0x07 o
  | .slli o => encShift 0 o
  | .srli o => encShift 1 o
  | .srai o => encShift 2 o
  | .lih o => enc1 o.w 0x09 (fU o.imm.toNat o.d.val)
  | .mul o => encDAB 0x0A 0 o
  | .mulh o => encDAB 0x0A 1 o
  | .mulhu o => encDAB 0x0A 2 o
  | .mulhsu o => encDAB 0x0A 3 o
  | .div o => encDAB 0x0A 4 o
  | .divu o => encDAB 0x0A 5 o
  | .rem o => encDAB 0x0A 6 o
  | .remu o => encDAB 0x0A 7 o
  | .beq o => encB 0 o
  | .bne o => encB 1 o
  | .blt o => encB 2 o
  | .bge o => encB 3 o
  | .bltu o => encB 4 o
  | .bgeu o => encB 5 o
  | .bbs o => encB 6 o
  | .bbc o => encB 7 o
  | .jal o => enc1 o.w 0x0C (fU o.off.toNat o.d.val)
  | .jalr o => encI 0x0D o
  | .loop o => enc1 o.w 0x0E (o.a.val + 1024 * o.dist.toNat)
  | .loopi o => enc1 o.w 0x0E (o.cnt.toNat + 512 + 1024 * o.dist.toNat)
  | .fadd o => encF2R 0 o
  | .fsub o => encF2R 1 o
  | .fmul o => encF2R 2 o
  | .fdiv o => encF2R 3 o
  | .fsqrt o => encE o.w 0x0F (fA (4 + 32 * ffmtNum o.fmt) 0 o.a.val o.d.val) (o.ext.map fun q => word1 0 (rmNum q) 0 false 0 false 0 0)
  | .fmin o => encF2 5 o
  | .fmax o => encF2 6 o
  | .feq o => encF2 7 o
  | .flt o => encF2 8 o
  | .fle o => encF2 9 o
  | .fclass o => encF1 10 o
  | .fsgnj o => encF2 11 o
  | .fsgnjn o => encF2 12 o
  | .fcvtF32I64 o => encCvtR 13 o
  | .fcvtI64F32 o => encCvtR 14 o
  | .fcvtF32Bf16 o => encCvt 15 o
  | .fcvtBf16F32 o => encCvtP 16 o
  | .fcvtF32F16 o => encCvt 17 o
  | .fcvtF16F32 o => encCvtP 18 o
  | .frsqe o => encF1 19 o
  | .frcpe o => encF1 20 o
  | .fmadd o => encF3 0 o
  | .fmsub o => encF3 1 o
  | .fnmadd o => encF3 2 o
  | .fnmsub o => encF3 3 o
  | .ldB o => encLS 0x11 0 o
  | .ldBu o => encLS 0x11 1 o
  | .ldH o => encLS 0x11 2 o
  | .ldHu o => encLS 0x11 3 o
  | .ldW o => encLS 0x11 4 o
  | .ldWu o => encLS 0x11 5 o
  | .ldD o => encLS 0x11 6 o
  | .ldAcq o => encLSS 0x11 7 o
  | .stB o => encLS 0x12 0 o
  | .stH o => encLS 0x12 1 o
  | .stW o => encLS 0x12 2 o
  | .stD o => encLS 0x12 3 o
  | .stf o => encLS 0x12 5 o
  | .stRel o => encLSS 0x12 4 o
  | .amoAdd o => encAmo 0 o
  | .amoAnd o => encAmo 1 o
  | .amoOr o => encAmo 2 o
  | .amoXor o => encAmo 3 o
  | .amoMin o => encAmo 4 o
  | .amoMax o => encAmo 5 o
  | .amoMinu o => encAmo 6 o
  | .amoMaxu o => encAmo 7 o
  | .amoSwap o => encAmo 8 o
  | .amoCas o => encAmo 9 o
  | .amoFaddF32 o => encDAB 0x13 10 o
  | .amoFaddBf16x2 o => encDAB 0x13 11 o
  | .fence o => enc1 o.w 0x14 (fA (fenceNum o.kind + 4 * scopeNum o.scope) 0 0 0)
  | .drain o => enc1 o.w 0x14 (fA 0 1 0 0)
  | .feClr o => enc1 o.w 0x15 (fA o.n1.toNat 0 o.a.val 0)
  | .feSet o => enc1 o.w 0x15 (fA o.n1.toNat 1 o.a.val 0)
  | .feTest o => encDA 0x15 2 o
  | .fePeek o => encDA 0x15 3 o
  | .winSet o => enc1 o.w 0x16 (fA o.e.val 0 o.a.val o.d.val)
  | .winDrop o => enc1 o.w 0x16 (fA o.e.val 1 0 0)
  | .winTouch o => enc1 o.w 0x16 (fA o.e.val 2 0 0)
  | .winState o => enc1 o.w 0x16 (fA o.e.val 3 0 o.d.val)
  | .copy o => enc1 o.w 0x17 (fA 0 0 o.a.val 0)
  | .copySt o => encDA 0x17 1 o
  | .send o => enc3 o.w 0x18 (fA 0 o.b.val o.a.val 0) (word1 0 0 0 false 0 false o.dx.toNat o.dy.toNat) (msgWord 0 o.bytes.toNat o.ctx o.cls.val)
  | .sendv o => enc3 o.w 0x18 (fA 1 o.b.val o.a.val 0) (word1 0 0 0 false 0 false o.dx.toNat o.dy.toNat) (msgWord 0 0 o.ctx o.cls.val)
  | .mcast o => enc3 o.w 0x18 (fA 2 0 o.a.val 0) 0 (msgWord o.gid.val o.bytes.toNat o.ctx o.cls.val)
  | .grpArm o => enc3 o.w 0x19 (fA 0 o.b.val o.a.val o.d.val) (word1 0 0 0 false 0 false o.dx.toNat o.dy.toNat)
      (o.gid.val + 64 * boolNat o.yfirst + 128 * boolNat o.i64 + 256 * o.timeout.toNat)
  | .redF32 o => enc3 o.w 0x19 (fA 1 0 o.a.val 0) 0 o.gid.val
  | .redI64 o => enc3 o.w 0x19 (fA 2 0 o.a.val 0) 0 o.gid.val
  | .grpWait o => enc3 o.w 0x19 (fA 3 0 0 o.d.val) 0 o.gid.val
  | .grpFree o => enc3 o.w 0x19 (fA 4 0 0 o.d.val) 0 o.gid.val
  | .done o => enc1 o.w 0x1A 0
  | .yield o => enc1 o.w 0x1A (fA 0 1 0 0)
  | .rngPush o => enc1 o.w 0x1A (fA o.cls.toNat 2 o.a.val o.d.val)
  | .rngTake o => encDA 0x1A 3 o
  | .launch o => enc1 o.w 0x1B (fA (boolNat o.notify) 0 o.a.val o.d.val)
  | .join o => enc1 o.w 0x1B (fA 0 1 0 o.d.val)
  | .replay o => enc1 o.w 0x1B (fA o.n.toNat 2 o.a.val o.d.val)
  | .lnstat o => enc1 o.w 0x1B (fA (boolNat o.sel1) 3 o.a.val o.d.val)
  | .chOpen o => encDA 0x1C 0 o
  | .chW o => encDA 0x1C 1 o
  | .chWv o => encDA 0x1C 2 o
  | .chR o => encDA 0x1C 3 o
  | .chRv o => encDA 0x1C 4 o
  | .chAvail o => encDA 0x1C 5 o
  | .chSpace o => encDA 0x1C 6 o
  | .chRes o => enc1 o.w 0x1C (fA o.n1.toNat 7 o.a.val o.d.val)
  | .chPub o => enc1 o.w 0x1C (fA (boolNat o.vec) 8 o.a.val o.d.val)
  | .chClose o => enc1 o.w 0x1C (fA 0 9 o.a.val 0)
  | .dqEmit o => encDA 0x1D 0 o
  | .dqRead o => encDA 0x1D 1 o
  | .dqCork o => enc1 o.w 0x1D (fA 0 2 o.a.val 0)
  | .dqCons o => encDA 0x1D 3 o
  | .dqQuiet o => enc1 o.w 0x1D (fA 0 4 0 o.d.val)
  | .ixUpd o => encDA 0x1E 0 o
  | .ixLook o => encDA 0x1E 1 o
  | .ixNext o => encDA 0x1E 2 o
  | .ixClear o => encDA 0x1E 3 o
  | .vadd o => encVR 0 o
  | .vsub o => encVR 1 o
  | .vmul o => encVR 2 o
  | .vmin o => encVF2 3 o
  | .vmax o => encVF2 4 o
  | .vabs o => encVF1 5 o
  | .vneg o => encVF1 6 o
  | .vrsqe o => encVF1 7 o
  | .vrcpe o => encVF1 8 o
  | .vexp2 o => encVF1 9 o
  | .vfeq o => encVFC 10 o
  | .vflt o => encVFC 11 o
  | .vfle o => encVFC 12 o
  | .vfmadd o => encVF3 0 o
  | .vfmsub o => encVF3 1 o
  | .vfnmadd o => encVF3 2 o
  | .vfnmsub o => encVF3 3 o
  | .vaddI o => encVI 0 o
  | .vsubI o => encVI 1 o
  | .vmulI o => encVI 2 o
  | .vand o => encVI 3 o
  | .vor o => encVI 4 o
  | .vxor o => encVI 5 o
  | .vsll o => encVI 6 o
  | .vsrl o => encVI 7 o
  | .vsra o => encVI 8 o
  | .vminI o => encVI 9 o
  | .vmaxI o => encVI 10 o
  | .vminu o => encVI 11 o
  | .vmaxu o => encVI 12 o
  | .vieq o => encVIC 13 o
  | .vilt o => encVIC 14 o
  | .viltu o => encVIC 15 o
  | .vcvt o => enc3 o.w 0x23 (fV 0 0 0 o.a.val o.d.val) (word1 0 (rmNum o.rm) 0 o.pk o.m.val o.mz 0 0) (fmtWord o.sfmt o.dfmt)
  | .vquant o => enc3 o.w 0x23 (fV 1 0 0 o.a.val o.d.val) (word1 o.c.val (rmNum o.rm) 0 o.pk o.m.val o.mz 0 0) (fmtWord o.sfmt o.dfmt)
  | .vdequant o => enc3 o.w 0x23 (fV 2 0 0 o.a.val o.d.val) (word1 o.c.val 0 0 false o.m.val o.mz 0 0) (fmtWord o.sfmt o.dfmt)
  | .vredsum o => encVRed 0 o
  | .vredmax o => encVRed 1 o
  | .vredmin o => encVRed 2 o
  | .vscan o => encV1 0x24 3 o
  | .vbcast o => encV1 0x25 0 o
  | .vperm o => encV2 1 o
  | .vslup o => encV2 2 o
  | .vsldn o => encV2 3 o
  | .vcompress o => encV1 0x25 4 o
  | .vins o => encV2 5 o
  | .vext o => encV2 6 o
  | .viota o => encE o.w 0x25 (fV 7 (vfmtNum o.fmt) 0 0 o.d.val) (o.ext.map mextWord)
  | .vmov o => encV1 0x25 8 o
  | .vsel o => encE o.w 0x26 (fV 0 (vfmtNum o.fmt) o.b.val o.a.val o.d.val) (o.ext.map maskWord)
  | .mand o => encMM 1 o
  | .mor o => encMM 2 o
  | .mxor o => encMM 3 o
  | .mnot o => encL o.w o.long 0x26 (fV 4 0 0 o.a.val o.d.val)
  | .mpopc o => encXM 5 o
  | .mfirst o => encXM 6 o
  | .mset o => encL o.w o.long 0x26 (fV 7 0 0 o.a.val o.d.val)
  | .mget o => encXM 8 o
  | .vld o => encVL 0 o
  | .vst o => encVS 1 o
  | .vgather o => encVL 2 o
  | .vscatter o => encVS 3 o
  | .vldbc o => encVL 4 o
  | .vanc o => enc1 o.w 0x28 (fV 0 4 o.b.val o.a.val o.d.val)
  | .gang o => enc1 o.w 0x30 (fA 0 0 o.a.val o.d.val)
  | .gstat o => enc1 o.w 0x30 (fA 1 0 0 o.d.val)
  | .accRd o => enc1 o.w 0x31 (fA 0 (o.slot.val / 32) (o.slot.val % 32) o.d.val)
  | .accWr o => enc1 o.w 0x31 (fA 1 (o.slot.val / 32) (o.slot.val % 32) o.d.val)
  | .accZero o => enc1 o.w 0x31 (fA 2 0 0 0)
  | .accSpill o => enc1 o.w 0x31 (fA 3 0 o.a.val 0)
  | .accFill o => enc1 o.w 0x31 (fA 4 0 o.a.val 0)
  | .accTag o => enc1 o.w 0x31 (fA 5 0 o.a.val o.d.val)
  | .hLd o => enc1 o.w 0x32 (fA 0 0 o.a.val o.d.val)
  | .hSt o => enc1 o.w 0x32 (fA 1 0 o.a.val o.d.val)
  | .hFill o => encDAB 0x32 2 o
  | .issueCycle _ => []
  | .accessReturn _ _ _ => []
  | .accessPerform _ _ _ => []
  | .storeCheckComplete _ _ _ => []
  | .storeFaultTrap _ _ => []
  | .messageArrival _ _ => []
  | .messageResend _ _ => []
  | .sendFailure _ _ _ => []
  | .firingStart _ _ => []
  | .actorReady _ _ => []
  | .rangeRemainderPush _ _ => []
  | .stealRequest _ => []
  | .stealServe _ => []
  | .stealReply _ => []
  | .stealRoundRetry _ => []
  | .donationRequest _ => []
  | .donationServe _ => []
  | .parkWake _ _ => []
  | .parkTimeout _ _ => []
  | .hostDoorbell _ _ _ => []
  | .hostQueueRecord _ _ => []
  | .groupPlace _ _ => []
  | .groupForward _ _ => []
  | .groupRetire _ _ => []
  | .launchRetire _ _ => []
  | .replayRequest _ _ => []
  | .graphNodeRetire _ _ => []
  | .imageLoad _ => []
  | .imageUnload _ _ => []
  | .copyKick _ _ _ => []
  | .serviceHartChunk _ _ => []
  | .shReplay _ _ => []
  | .shCancel _ _ => []
  | .copyFaultPop _ => []
  | .translationWalk _ _ _ => []
  | .errorDetected _ => []
  | .errorLogFree _ _ => []
  | .errorOverflowClear _ => []
  | .errorInjectArm _ _ => []
  | .channelDescriptorWrite _ _ _ _ _ => []
  | .channelRecordArrival _ _ => []
  | .spillRefill _ _ => []
  | .spillResume _ _ => []
  | .creditArrival _ _ _ => []
  | .reservationGrant _ _ _ => []
  | .sharedRingHang _ _ => []
  | .slotVoid _ _ => []
  | .poolDescriptorWrite _ _ _ _ => []
  | .channelDeadlock _ _ => []
  | .channelEventPop _ => []
  | .xpRevoke _ _ => []
  | .churnRecord _ _ _ => []
  | .churnCork _ _ _ => []
  | .indexOpPerform _ _ _ => []
  | .redContribution _ _ _ => []
  | .redPacketArrival _ _ _ => []
  | .redTimeout _ _ => []
  | .redFlushArrival _ _ _ => []
  | .groupDrainComplete _ _ => []
  | .gangFreeze _ _ => []
  | .gangBarrierTimeout _ _ => []
  | .gangPulse _ => []
  | .gangThaw _ => []
  | .preq _ _ => []
  | .contextSave _ _ => []
  | .presume _ _ => []
  | .pdiscard _ _ => []
  | .gkill _ _ => []
  | .creset _ _ => []
  | .resetTailTimeout _ _ _ => []
  | .faultEventPop _ => []
  | .watchdogExpiry _ => []
  | .tbinfoWrite _ _ _ => []
  | .sfpopWrite _ _ => []
  | .accownerWrite _ _ => []
  | .loopLevelWrite _ _ _ _ => []
  | .dequeBoundsWrite _ _ _ => []
  | .pevpendClear _ _ => []
  | .pcraRead _ _ => []
  | .pcraWrite _ _ => []
  | .pcraComplete _ => []
  | .devctlColdStart _ => []
  | .devctlWarmStart _ => []
  | .bootStage _ _ => []
  | .recoveryChunk _ => []
  | .recoveryGo => []
  | .hmboxSignal _ => []
  | .msixUnmask _ => []
  | .hostAccess _ => []
  | .bar2baseWrite _ => []
  | .linkReplay _ => []
  | .linkDown _ => []
  | .linkRetrain _ _ => []
  | .peerAccess _ => []
  | .refusalCounterClear => []
  | .partitionDefine _ => []
  | .partitionStart _ => []
  | .partitionStop _ => []
  | .heventClear _ _ => []
  | .monitorClear _ _ => []
  | .monitorSample _ _ _ => []
  | .throttleEnter _ _ => []
  | .throttleStep _ => []
  | .throttleRelease _ _ => []
  | .thermalShutdown => []
  | .registerWrite _ _ => []
  | .portFlitArrival _ _ _ => []
  | .remoteRequestResend _ _ _ => []
  | .clusterResetComplete _ => []
  | .tladeisFlitForward _ => []

/-- The constructors of `Instr` that are steps of an agent other than an issuing context: they have no encoding. -/
def Instr.isStep (i : Instr) : Bool := (encode i).isEmpty

end Sys2Proof
end

