-- ==== Sys2Proof/Config.lean ====
section
/-!
DEFINITION. What is fixed for the machine: the figures of R1, R3 and R7, and the free values: constants with no body,
of which nothing can be proved, for what the spec leaves open (notes/assumptions/3.md).
-/
namespace Sys2Proof.Config

/-- Cores of the package (R3). -/
def cores : Nat := 4608
/-- Columns of the package mesh (R3, R7). -/
def cols : Nat := 48
/-- Rows of the package mesh (R3, R7). -/
def rows : Nat := 96
/-- Clusters (R3). -/
def clusters : Nat := 288
/-- Partitions (R105, R354). -/
def partitions : Nat := 16
/-- Bytes of HBM: 512 GiB (R3). -/
def hbmBytes : Nat := 0x8000000000
/-- Bytes of one HBM stack: 64 GiB (R3). -/
def stackBytes : Nat := 0x1000000000

/-- Which of two allowed contents an access sees: the old or the new range entry (R109). -/
opaque freeBit : Nat → Bool
/-- A byte read from host memory, by the counter and the host physical address: the host may have written it (R105). -/
opaque hostByte : Nat → Nat → BitVec 8
/-- A byte read from a peer device, by the counter, the device and the aperture offset (R105). -/
opaque peerByte : Nat → Nat → Nat → BitVec 8
/-- Whether a peer device refuses a read, a message or an atomic of this device, or has no room for it, by the counter (R219, R353). -/
opaque peerRefuses : Nat → Bool
/-- Whether a link trains at a start or a retraining, by the counter (R350). -/
opaque linkTrains : Nat → Bool
/-- Whether an injected error finds its target at work, by the counter (R130: an armed translation cache or register file, an engine's flit). -/
opaque strikes : Nat → Bool
/-- Which register, buffer or FIFO of a core, or which bytes on a link, an error hits, by the counter (R130, R350). -/
opaque strikeAt : Nat → Nat
/-- The value of a register hit by a parity error: undefined (R335). -/
opaque parityWord : Nat → BitVec 1024
/-- The indication a correctable or uncorrectable error is logged with (R129: syndrome). -/
opaque syndrome : Nat → BitVec 16
/-- The column test's result for a die (R77: reset "test"). -/
opaque colrep : Nat → BitVec 32
/-- The fused serial number (R347). -/
opaque serial : BitVec 32
/-- The digest of the device identity public key (R347, R357). -/
opaque idkey : BitVec 512
/-- The fused digest of the firmware key, and the fused security floor (R357). -/
opaque fusedKey : BitVec 512
opaque fusedFloor : BitVec 16
/-- A byte of the service-hart microcode's local store (R118: part of the firmware image). -/
opaque microcode : Nat → BitVec 8
/-- SHA3-512 of a byte string (R23; the function itself is another standard's). -/
opaque sha3 : List (BitVec 8) → BitVec 512
/-- Whether the 4,627 signature bytes verify the digest under the key with this digest (R23: ML-DSA-87). -/
opaque mldsaOk : BitVec 512 → BitVec 512 → List (BitVec 8) → Bool
/-- The 4,627 bytes that the device's identity key signs a byte string with (R23, R357: ML-DSA-87). -/
opaque idSign : List (BitVec 8) → BitVec 37016
/-- The boot flash's firmware image, byte by byte, and its length (R357). -/
opaque flash : Nat → BitVec 8
opaque flashLen : Nat
/-- The part of a save record's `unit` field whose form is internal (R330). -/
opaque unitForm : Nat → BitVec 64

end Sys2Proof.Config
end

