-- ==== Sys2Proof/Machine/State.lean ====
section
/-!
DEFINITION. The state of the Zorari Z9 as plain data: every register, queue, table and line bit the spec gives a context, a
core, a cluster, a die, a partition and the package (INVENTORY.md, '## State'), the reasons a step can stop, and the state
after reset. A family of like things (cores, partitions, channels) is a list of pairs sorted by number; a number that is not
listed is in its reset state.
-/
namespace Sys2Proof.Machine

/-- A context of a core (R79). -/
structure CtxId where
  core : Nat
  x : Ctx
  deriving DecidableEq, Repr

/-- A message: its 128-bit header (R83) and its payload, zero beyond the length. -/
structure Msg where
  hdr : BitVec 128
  payload : Vec
  deriving DecidableEq, Repr

/-- A port flit: 64 bits of a scalar write or 1,024 of a vector write (R96). -/
structure Flit where
  wide : Bool
  bits : Vec
  deriving DecidableEq, Repr

/-- One port FIFO (R96): the flits that have arrived, oldest first, and those on their way. -/
structure Port where
  q : List Flit
  fly : List Flit
  deriving DecidableEq, Repr

/-- One hardware loop level (R162). -/
structure Loop where
  act : Bool
  start : BitVec 15
  stop : BitVec 15
  lc : BitVec 32
  deriving DecidableEq, Repr

/-- A range task: a deque entry (R90), or a current range with its entry's other fields (R91). -/
structure Range where
  lo : Word
  hi : Word
  arg : Word
  launch : BitVec 32
  group : BitVec 16
  depth : BitVec 4
  stage : BitVec 4
  cls : BitVec 5
  deriving DecidableEq, Repr

/-- The unused reservations of an actor firing (R87): its class, what is left of its four counts, and the channels they were
reserved on: in0, in1, out0, out1 (R82: a later write of the handler entry does not touch them). -/
structure Actor where
  cls : Nat
  chans : List Nat
  in0 : Nat
  in1 : Nat
  out0 : Nat
  out1 : Nat
  deriving DecidableEq, Repr

/-- On whose behalf an engine works: the requesting context with its firing's tag, work and mode (R119, R124, R125). -/
structure Requester where
  core : Nat
  x : Ctx
  part : Nat
  tag : BitVec 32
  group : BitVec 16
  launch : BitVec 32
  depth : BitVec 4
  stage : BitVec 4
  sup : Bool
  deriving DecidableEq, Repr

/-- What a channel-unit request of a context does (R254 to R263). -/
inductive ChanOp where
  /-- a record of `ch.w` or `ch.wv`, its bytes zero-extended -/
  | write (data : BitVec 2048)
  /-- `ch.pub` of the slot with this sequence number -/
  | pub (seq : Nat) (data : BitVec 2048)
  | emit (data : BitVec 512)
  | cork
  /-- `ch.r`, `ch.rv` or `dq.read`; `two` takes a second entry -/
  | read (two : Bool)
  /-- `ch.res` of n slots -/
  | res (n : Nat)
  | quiet
  deriving DecidableEq, Repr

/-- An index operation (R265). -/
inductive IndexOp where
  | upd (r : BitVec 512)
  | look (r : BitVec 512)
  | next (bucket entry : Nat)
  | clear (bucket : Nat)
  deriving DecidableEq, Repr

/-- What an access does when it is performed (R291, R235, R268). -/
inductive AccKind where
  /-- reads `size` bytes into the entry's value at the access's byte position -/
  | load (size : Nat)
  /-- reads the active 4-byte elements of a 128-byte block as one access (R200, R201); with `one`, one word for all of them (`vldbc`) -/
  | vload (mask : BitVec 32) (one : Bool)
  /-- reads a doubleword whatever the line's bit (`fe.peek`) -/
  | peek
  /-- `op` as R211 numbers it, on a word or a doubleword -/
  | atomic (op : Nat) (dbl : Bool) (opnd cmp : Word)
  /-- a scalar store: func3 of R208 and the data register as read at issue -/
  | store (func : Nat) (data : Word)
  /-- `size` bytes of a vector store, active 4-byte elements by the mask -/
  | block (size : Nat) (mask : BitVec 32) (data : Vec) (poison : Bool)
  /-- a store of a copy descriptor's address to the kick register; `hold` is false for `copy.st` -/
  | kick
  | chan (ch : Nat) (op : ChanOp)
  | index (i : Nat) (op : IndexOp)
  /-- `red.f32` or `red.i64` -/
  | contribute (gid : Nat) (i64 : Bool) (data : Vec)
  | grpWait (gid : Nat)
  | grpFree (gid : Nat)
  | join
  /-- the step of `launch` after its record has been read, which it holds itself once its entry is gone (R231, R298); of `replay`: its
  patch is read and the request sent -/
  | launchDo (notify : Bool) (kept : Option (BitVec 512))
  | replayDo (bytes : Nat) (patch graph : Word)
  | lnstat (pool : Bool) (handle : Word)
  /-- the block write of `h.fill` after its lines have been read, whose bytes it holds itself once its entry is gone -/
  | hfillDo (block : Nat) (kept : Option Nat)
  | xinv (kind : Nat) (scope : Scope) (va : Word)
  /-- reads an accumulator slot again for an `acc.rd` whose entry faulted (R99, R287) -/
  | slot (n : Fin 64)
  /-- a `fence.rel` that still holds later accesses (R213) -/
  | fence
  deriving DecidableEq, Repr

/-- One issued access that has not been performed. -/
structure Access where
  /-- its place in the context's program order -/
  num : Nat
  va : Word
  kind : AccKind
  /-- the firing that issued it and its mode -/
  who : Requester
  pc : Word
  /-- byte position of what it reads in its entry's value, or the lane -/
  pos : Nat
  /-- a release of this scope (R303) -/
  rel : Option Scope
  /-- the home, once a posted store's checks have passed (R208), or once it has arrived at the bank where it waits (R113) -/
  pa : Option Nat
  /-- of a channel access: partition and channel of the reader's side, as at its issue (R251) -/
  side : Nat × Nat
  /-- the cycle in which a bank with 16 requests refused it (R114) -/
  refused : Option Nat
  /-- instructions the context had issued, this one counted, when it issued (R324) -/
  order : Nat
  deriving DecidableEq, Repr

/-- Where a result lands (R97): x, v, mask, or the accumulator's slots (`acc.fill`). -/
inductive Dest where
  | x (r : Reg)
  | v (r : Fin 28)
  | m (r : MReg)
  | slots
  deriving DecidableEq, Repr

/-- State of a return-buffer entry (R97); a free entry is not listed, but a set-aside one that tbinfo has dropped keeps its place until
the buffer is restored (R323). -/
inductive EntryState where
  | pending | faulted | returned | reissue | dropped
  deriving DecidableEq, Repr

/-- How the bytes read become the value (R206, R211): bytes and sign for an x destination, whole otherwise. -/
inductive Ext where
  | sign (bytes : Nat)
  | zero (bytes : Nat)
  | whole
  deriving DecidableEq, Repr

/-- A return-buffer entry (R97). -/
structure Entry where
  num : Nat
  pc : Word
  /-- the address of the access or the operand; of a faulted entry, the tval it reports -/
  va : Word
  dest : Dest
  ext : Ext
  super : Bool
  /-- an instruction after it wrote lat (R184) -/
  superLat : Bool
  state : EntryState
  /-- the bytes returned so far, as a little-endian number -/
  value : Nat
  /-- what `value` starts from: the inactive lanes of a masked load (R200) -/
  base : Nat
  /-- byte position and cause of the lowest fault -/
  fault : Option (Nat × BitVec 8)
  /-- the floating flags it will OR into fpctl (R152) -/
  flags : BitVec 5
  /-- an acquire of this scope not yet performed (R207) -/
  acq : Option Scope
  /-- its accesses, for performing it again (R99, R100) -/
  req : List Access
  /-- a fault may be reported: false from an `eret` until the entry has been performed again (R99) -/
  again : Bool
  deriving DecidableEq, Repr

/-- A store-fault record (R325). -/
structure SfRec where
  num : Nat
  pc : Word
  va : Word
  data : Word
  inner : BitVec 8
  op : BitVec 3
  /-- instructions the context had issued, the store counted, when it issued (R324) -/
  order : Nat
  /-- it was queued when the trap being served was taken, and no trap of its own is due for it (R319) -/
  held : Bool
  deriving DecidableEq, Repr

/-- A message in an injection slot (R219, R220). -/
structure Inj where
  num : Nat
  device : Nat
  /-- cores that have not accepted it -/
  targets : List Nat
  msg : Msg
  /-- the group of an `mcast`, whose copies travel by the group's tree -/
  gid : Option Nat
  /-- the destination as x[b] would name it -/
  addr : Word
  fails : Nat
  /-- the cycle of the last refusal -/
  refused : Option Nat
  rel : Scope
  deriving DecidableEq, Repr

/-- A run-queue entry (R85). -/
inductive QEntry where
  | msg (m : Msg)
  | actor (a : Actor)
  | cont
  deriving DecidableEq, Repr

/-- The state of one firing (R86, R228): what moves to the yield slot. -/
structure Firing where
  x : Vector Word 32
  /-- lat, q1 to q7, v0 to v19 in field order -/
  v : Vector Vec 28
  m : Vector Word 8
  pc : Word
  inner : Loop
  outer : Loop
  sup : Bool
  spm : Bool
  intrap : Bool
  /-- the return buffer and loop levels that trap entry set aside (R99, R164) -/
  aside : List Entry
  asideInner : Loop
  asideOuter : Loop
  /-- the class that it was started with -/
  cls : Nat
  tag : BitVec 32
  group : BitVec 16
  stage : BitVec 4
  launch : BitVec 32
  depth : BitVec 4
  range : Option Range
  actor : Option Actor
  /-- channels the firing has open (R253) -/
  opened : List Nat
  live : Nat
  joined : Nat
  bad : Nat
  firstCause : BitVec 8
  cap : Nat
  /-- a group-start firing (R227) -/
  groupStart : Bool
  /-- a message, a flit arrived since the last `park` of this firing returned (R174) -/
  evMsg : Bool
  evFlit : Bool
  deriving DecidableEq, Repr

/-- A `gang` that has joined its barrier (R271): the absolute descriptor, the cycle, and the fields d and a of the instruction. -/
structure Barrier where
  desc : Word
  time : Nat
  d : Reg
  a : Reg
  deriving DecidableEq, Repr

/-- A `park` that has issued (R174): its cycle, the line of a nonzero operand, and the fields d and a. -/
structure Parked where
  time : Nat
  line : Option Nat
  d : Reg
  a : Reg
  deriving DecidableEq, Repr

/-- A trap whose entry waits for store checks (R319): the values for epc, cause and tval, and for fpc at a marker. -/
structure TrapInfo where
  epc : Word
  cause : Word
  tval : Word
  fpc : Option Word
  deriving DecidableEq, Repr

/-- A context (R79). -/
structure Context where
  running : Bool
  fir : Firing
  trapping : Option TrapInfo
  cause : Word
  epc : Word
  tval : Word
  tvec : Word
  fpc : Word
  fpctl : BitVec 13
  peak : Word
  stkbase : Word
  stklim : Word
  tbsel : BitVec 3
  retired : Word
  seq : Nat
  /-- the return buffer, oldest first -/
  rb : List Entry
  /-- issued accesses not yet performed, in program order -/
  acc : List Access
  /-- the next place in program order -/
  num : Nat
  sfq : List SfRec
  lost : Nat
  /-- instructions issued since the earliest failed store whose record is queued (R324) -/
  skid : Option Nat
  /-- instructions issued -/
  issued : Nat
  inj : List Inj
  runq : List QEntry
  hold : Option Msg
  yieldSlot : Option Firing
  ports : Vector Port 4
  /-- park reason (R89, R273) -/
  reason : Nat
  /-- the channel that a write parked with reason 0x4 waits for (R245) -/
  chanWait : Option Nat
  /-- the cycle from which the first instruction may issue (R85) -/
  readyAt : Nat
  /-- a `park` that has issued -/
  parked : Option Parked
  evLine : Bool
  halted : Bool
  saved : Bool
  /-- a parity error to report at the next boundary (R335) -/
  parity : Bool
  /-- joined to a gang barrier, or frozen by its gang -/
  barrier : Option Barrier
  /-- the token of the preq that halted it -/
  token : BitVec 16
  /-- groups killed while this context was saved (R331, R333) -/
  killed : List Nat
  deriving DecidableEq, Repr

/-- A window entry (R116) with a drop that waits and the first toucher (R117). -/
structure Window where
  bits : BitVec 256
  drop : Bool
  who : Option Requester
  deriving DecidableEq, Repr

/-- An error log of 8 entries with its overflow counter and injection register (R129, R130). -/
structure ErrLog where
  entries : Vector (BitVec 256) 8
  overflow : Word
  inject : Word
  deriving DecidableEq, Repr

/-- A frozen cell (R274): the gang context, what it latched, its weights and the pulses it completed. -/
structure Cell where
  x : Ctx
  desc : Word
  rs : Bool
  cfmt : Nat
  pulses : Nat
  /-- the weight block's bytes as a little-endian number -/
  weights : Nat
  done : Nat
  deriving DecidableEq, Repr

/-- Where a core stands in stealing (R94). -/
structure Steal where
  idleSince : Option Nat
  /-- victims already tried in this round -/
  tried : Nat
  /-- the victim at which a request is -/
  waiting : Option Nat
  /-- the attempt that the request belongs to has ended -/
  stale : Bool
  /-- the reply on its way: the part granted, or a refusal -/
  reply : Option (Option Range)
  /-- the cycle the last round ended with 15 refusals -/
  roundEnd : Option Nat
  deriving DecidableEq, Repr

/-- Where a service-hart request stands. -/
inductive HartState where
  /-- a kick in the queue whose descriptor is still to be read (R121) -/
  | entered
  /-- the descriptor could not be read (R217) -/
  | descFault
  | active
  | faulted
  /-- every byte has moved, or none will: the mailbox write of these bytes and this code is held at its line (R114, R122) -/
  | ending (bytes code : Nat)
  deriving DecidableEq, Repr

/-- An access that waits at a bank (R113, R114), named by its place in program order and its lane: its line, whether it waits for the line
to become full or for fill-pending to clear, and whether that has happened. -/
structure LineWait where
  line : Nat
  ctx : CtxId
  num : Nat
  pos : Nat
  load : Bool
  ready : Bool
  deriving DecidableEq, Repr

/-- A request of the service hart (R118 to R126). -/
structure HartReq where
  slot : Nat
  who : Requester
  /-- the window entry of a fill, none for a copy -/
  win : Option Nat
  /-- descriptor address, or the tile -/
  addr : Word
  state : HartState
  src : Word
  dst : Word
  sstride : Nat
  dstride : Nat
  rowbytes : Nat
  rows : Nat
  mbox : Word
  notify : Bool
  nctx : Ctx
  arg : Word
  cursor : Nat
  replayed : Bool
  /-- a group kill or a cluster reset cancels it at the next chunk boundary -/
  cancel : Bool
  /-- the place in program order of the access that touched the window: the fill is a release after it (R309) -/
  after : Option Nat
  deriving DecidableEq, Repr

structure Core where
  n : Context
  u : Context
  handlers : Vector (BitVec 128) 20
  wins : Vector Window 8
  /-- lines whose full bit is clear, rising (R113) -/
  empty : List Nat
  /-- lines whose fill-pending bit is set, rising (R113) -/
  filling : List Nat
  /-- accesses that wait at the banks, in order of arrival -/
  waits : List LineWait
  rqbase : Word
  rqlim : Word
  rqtop : Nat
  rqbot : Nat
  slots : Vector Vec 64
  slotPoison : BitVec 64
  accowner : BitVec 32
  gangpos : Word
  gstat : Word
  cell : Option Cell
  nwait : Nat
  partition : Nat
  /-- headers of discarded messages, oldest first (R84) -/
  evlog : List (BitVec 128)
  logs : Vector ErrLog 3
  steal : Steal
  deriving DecidableEq, Repr

/-- A translation-cache entry (R111): size in bytes, permissions as [2] u, [1] w, [0] r. -/
structure TEntry where
  part : Nat
  page : Nat
  size : Nat
  pa : Nat
  perm : BitVec 3
  deriving DecidableEq, Repr

/-- A cluster (R111, R118, R95, R334). -/
structure Cluster where
  /-- most recently used first -/
  tcache : List TEntry
  reqs : List HartReq
  /-- fill requests that wait in their cores while the queue is full (R118) -/
  waiting : List HartReq
  /-- the copy-fault record, and its partition, that keeps the service hart stalled while the queue is full (R125) -/
  stalled : Option (Nat × BitVec 256)
  log : ErrLog
  /-- the donation request at a victim: the victim's cluster number -/
  asking : Option Nat
  /-- the cycle before which no donation request is sent -/
  askAt : Nat
  /-- the cycle in which a reset began (R334) -/
  resetAt : Option Nat
  deriving DecidableEq, Repr

/-- A live group (R69, R72). -/
structure Group where
  gid : Nat
  part : Nat
  handle : BitVec 32
  g : Nat
  cluster : Nat
  size : Nat
  started : Nat
  ended : Nat
  bad : Bool
  cause : BitVec 8
  deriving DecidableEq, Repr

/-- An entry of a scheduler's queues (R63): a launch to be split, or one group forwarded by another die (R65). -/
structure SchedItem where
  part : Nat
  prio : Nat
  handle : BitVec 32
  fwd : Option Nat
  deriving DecidableEq, Repr

/-- A churn entry (R259); `writer` is the core whose record entered it. -/
structure ChurnEntry where
  part : Nat
  ch : Nat
  record : BitVec 512
  sum : Int
  ovf : Bool
  writer : Nat
  deriving DecidableEq, Repr

/-- A monitor (R360). -/
structure Monitor where
  cfg : Word
  min : Word
  max : Word
  count : Word
  bins : Vector (BitVec 32) 16
  deriving DecidableEq, Repr

structure Die where
  queue : List SchedItem
  /-- forwarded groups on their way to this die -/
  arriving : List SchedItem
  /-- the partition served last (R63) -/
  turn : Nat
  groups : List Group
  /-- entries of each unit's churn in order of first arrival, by unit number -/
  churn : List (Nat × List ChurnEntry)
  /-- error logs 0 to 42 (R129) -/
  logs : List (Nat × ErrLog)
  monitors : List (Nat × Monitor)
  /-- gating steps entered, the last one first, and the causes that hold (R361) -/
  gates : List GateCause
  hot : Bool
  overCurrent : Bool
  /-- column repair (R77), as the column test of the last cold start left it -/
  colrep : BitVec 32
  deriving DecidableEq, Repr

/-- A slot of a shared ring that is reserved and not yet read (R248, R249). -/
structure RingSlot where
  seq : Nat
  core : Nat
  x : Ctx
  /-- a publish of the slot has issued (R257) -/
  sent : Bool
  published : Bool
  void : Bool
  reported : Bool
  deriving DecidableEq, Repr

/-- A channel (R236 to R249, R259, R260). -/
structure Chan where
  /-- the descriptor as written; its counters are the fields below -/
  cfg : BitVec 512
  wr : BitVec 32
  rd : BitVec 32
  sp : Nat
  res : BitVec 32
  segs : Nat
  gone : BitVec 32
  err : BitVec 32
  grow : BitVec 32
  /-- known occupancy of each writer core (R243) -/
  occ : List (Nat × Nat)
  /-- writer cores of the records accepted and not read, oldest first -/
  owners : List Nat
  /-- credits on their way, by writer core -/
  credits : List Nat
  /-- records on their way from the churn, with the writer of each -/
  fly : List (BitVec 512 × Nat)
  /-- spill segments in use, oldest first, and the record index of the oldest spilled record in the first one -/
  spill : List Word
  spillHead : Nat
  stopped : Bool
  ring : List RingSlot
  /-- void slots that have been read and whose publish has not come (R249) -/
  voids : List RingSlot
  /-- the cycle the head slot became the head (R249) -/
  headAt : Nat
  /-- writers whose cork of this interval has arrived, and those whose cork is not acknowledged -/
  corked : List Nat
  unacked : List Nat
  /-- reservations that wait at the reader's unit of a shared ring, in order of arrival: context and place in its program order (R248) -/
  asking : List (CtxId × Nat)
  deriving DecidableEq, Repr

/-- The four states of a reduction group (R221). -/
inductive GState where
  | free | armed | complete | draining
  deriving DecidableEq, Repr

/-- What a member's router holds (R223, R224). -/
structure Router where
  own : Option Vec
  /-- packets from children: east 0, west 1, south 2, north 3 -/
  kids : List (Nat × Option Vec × BitVec 1024)
  forwarded : Bool
  flushed : Bool
  deriving DecidableEq, Repr

/-- A packet on a tree link: to member `dest` from its child on side `side` (R223). -/
structure RedPacket where
  dest : Nat
  side : Nat
  value : Option Vec
  missing : BitVec 1024
  deriving DecidableEq, Repr

structure RGroup where
  state : GState
  col : Nat
  row : Nat
  w : Nat
  h : Nat
  rootC : Nat
  rootR : Nat
  yfirst : Bool
  i64 : Bool
  op : Nat
  timeout : Nat
  armedAt : Nat
  routers : List (Nat × Router)
  packets : List RedPacket
  /-- flushes on their way, by member -/
  flushes : List Nat
  result : Option Vec
  missing : BitVec 1024
  deriving DecidableEq, Repr

/-- Where a launch came from (R62, R72). -/
inductive LaunchSrc where
  | host (q : Nat)
  | device (core : Nat) (x : Ctx) (tag : BitVec 32) (notify : Bool) (who : Requester)
  | succ
  | graph (va : Word) (node : Nat)
  | image (load : Nat)
  deriving DecidableEq, Repr

/-- A live launch (R59, R70, R72). -/
structure Launch where
  record : BitVec 512
  sup : Bool
  die : Nat
  /-- the next group to place or forward -/
  next : Nat
  placed : Nat
  retired : Nat
  /-- groups in which a firing ended other than normally: those that have retired, or that have been counted since, and which they are -/
  bad : Nat
  badGroups : List Nat
  /-- the cause of the first such end (R339) -/
  cause : Option (BitVec 8)
  src : LaunchSrc
  deriving DecidableEq, Repr

/-- A replay waiting or running (R75, R76). -/
structure Replay where
  graph : Word
  slot : Nat
  sup : Bool
  running : Bool
  /-- private count-downs of the nodes -/
  counts : List Nat
  nodes : Nat
  done : Nat
  bad : Nat
  cause : BitVec 8
  deriving DecidableEq, Repr

/-- A replay request at its home scheduler (R76): the patch already copied; the requesting entry or host queue. -/
structure ReplayReq where
  graph : Word
  sup : Bool
  patch : List Byte
  who : Option (Nat × Ctx × Nat)
  host : Option (Nat × Word)
  deriving DecidableEq, Repr

/-- What one load holds (R21, R365). -/
structure Loaded where
  handle : Nat
  /-- SHA3-512 of the image's signed bytes (R23, R357) -/
  digest : BitVec 512
  sys : Bool
  cores : List Nat
  channels : List Nat
  indexes : List Nat
  ranges : List Nat
  /-- HBM bytes it holds: base and length -/
  hbm : List (Nat × Nat)
  /-- handler and window entries it wrote, by core and class or entry number -/
  binds : List (Nat × Nat)
  wins : List (Nat × Nat)
  /-- its graph objects -/
  graphs : List Word
  /-- addresses of the page-table entries that map its sections -/
  ptes : List Nat
  /-- virtual addresses that its mappings hold: first address and length -/
  vas : List (Nat × Nat)
  deriving DecidableEq, Repr

/-- A request of R327 in progress. -/
inductive PreKind where
  | halt | restore | discard
  deriving DecidableEq, Repr

/-- The members of a monitor group: contexts, and actor entries as (core, class) (R245). -/
structure Members where
  ctxs : List CtxId
  actors : List (Nat × Nat)
  deriving DecidableEq, Repr

/-- A monitor's watch of a group (R245, R246): the cycle since which every member is parked, and, while events are withheld, the members
at the last one. -/
structure Watch where
  since : Option Nat
  withheld : Option Members
  deriving DecidableEq, Repr

structure Partition where
  stgmap : Vector (BitVec 12) 16
  ranges : Vector (BitVec 256) 32
  /-- old contents of written range entries that cores may still use (R109) -/
  oldRanges : List (Nat × BitVec 256)
  ptroot : Word
  copyFaults : List (BitVec 256)
  chanEvents : List (BitVec 128)
  faultEvents : List (BitVec 256)
  chans : List (Nat × Chan)
  indexes : List (Nat × BitVec 512)
  pools : Vector (BitVec 256) 16
  /-- the monitor's watch, by group -/
  watch : List (Nat × Watch)
  gangtmo : Word
  pstat : Word
  /-- the request in progress: kind, targets not yet finished -/
  request : Option (PreKind × List CtxId × BitVec 16)
  /-- the token of a kind 5 event that waits for room in the fault event queue (R320) -/
  haltEvent : Option (BitVec 16)
  psave : Word
  /-- group kills in progress: the group and the number of firings that have ended (R333) -/
  killing : List (Nat × Nat)
  wdog : Word
  wcount : Nat
  wreported : Bool
  hangbuf : Word
  pevcfg : Word
  pevpend : BitVec 6
  pcra : Word
  pcdata : Word
  hqchan : Vector Word 64
  doorbells : List (Nat × Word)
  launches : List (Nat × Launch)
  poolUsed : Nat
  replays : List Replay
  replayReqs : List ReplayReq
  rgroups : List (Nat × RGroup)
  loads : List Loaded
  /-- pages that the loader has taken for page tables (R21); they stay in the table until the partition stops -/
  tables : List Nat
  /-- launch records of image loads that wait at their entry scheduler: record, die and load (R61) -/
  imageRecs : List (BitVec 512 × Nat × Nat)
  /-- the status the loader returned last (R21, R365) -/
  loadStatus : Nat
  deriving DecidableEq, Repr

/-- Which engine sent a message (R294 orders messages of one source). -/
inductive EngSrc where
  | sched (die : Nat)
  | hart (cl : Nat)
  | part (p : Nat)
  | iface (core : Nat) (x : Ctx)
  | peer (dev core : Nat)
  deriving DecidableEq, Repr

/-- A message of an engine on its way (R67, R124, R345). -/
structure EngMsg where
  src : EngSrc
  dest : Nat
  msg : Msg
  refused : Option Nat
  deriving DecidableEq, Repr

/-- A device link (R350): up, and the CRC errors of the flit at its head. -/
structure Link where
  up : Bool
  fails : Nat
  deriving DecidableEq, Repr

/-- Hypervisor registers of one management core (R356). -/
structure Mgmt where
  hstatus : Word
  hcause : Word
  hepc : Word
  htvec : Word
  devnum : BitVec 12
  devnumSet : Bool
  hevent : BitVec 4
  deriving DecidableEq, Repr

/-- What the PCIe port sends to the host (R308, R347, R349): an MSI-X message, a write of host memory, or the answer to a read, which is
none for a poisoned TLP. -/
inductive HostTx where
  | msix (vec : Nat)
  | write (off n v : Nat)
  | reply (v : Option Word)
  deriving DecidableEq, Repr

/-- The answer to a peer device's load or atomic (R353): the bytes read, or the cause that its requester's entry faults with. -/
inductive PeerReply where
  | value (dev : Nat) (v : Word)
  | fault (dev cause : Nat)
  deriving DecidableEq, Repr

/-- The hypervisor's signed report (R357): SHA3-512 digests of the firmware image and of every running partition's system image, and the
4,627 signature bytes. -/
structure Report where
  firmware : BitVec 512
  images : List (Nat × BitVec 512)
  signature : BitVec 37016
  deriving DecidableEq, Repr

/-- Package state outside cores, dies and partitions (R347 to R361). -/
structure Package where
  stage : BitVec 8
  error : BitVec 8
  detail : BitVec 16
  warm : Bool
  keep : Bool
  persist : Bool
  /-- a start written while another runs: its devctl word (R358) -/
  nextStart : Option Word
  starting : Bool
  rsize : Word
  rchunk : Word
  /-- recovery chunk buffer and host mailbox: cells by offset -/
  rbuf : List Host.Cell
  hmbox : List Host.Cell
  /-- the boot goes on with the image staged in die 0's hampers (R359), and that image once it has been verified -/
  stagedUse : Bool
  recovered : Option (List Host.Cell)
  /-- digest of the firmware image that the boot verified, and the last report -/
  fwDigest : BitVec 512
  report : Option Report
  msixTable : Vector (BitVec 128) 64
  msixPba : BitVec 64
  /-- what the port has sent to the host, the last one first (R308) -/
  toHost : List HostTx
  /-- answers to peer devices, the last one first -/
  toPeer : List PeerReply
  bar2base : Word
  bar2log : Nat
  routes : List (Nat × BitVec 8)
  links : Vector Link 16
  exports : Vector (BitVec 256) 8
  refusals : Word
  keys : Vector (BitVec 512) 64
  parts : Vector (BitVec 1024) 16
  mgmt : Vector Mgmt 4
  engine : List EngMsg
  /-- flits forwarded for other devices, by link (R351) -/
  forwarded : List (Nat × LinkFlit)
  /-- the boot flash rewritten by a recovery (R359) -/
  flashed : Option (List Host.Cell)
  deriving DecidableEq, Repr

/-- What moves next (notes/assumptions/1.md): time passes by one cycle, a step named by its row, or what an agent may have to do. -/
inductive Turn where
  | tick
  | ev (i : Instr)
  /-- access k, or return-buffer entry k, of a context -/
  | access (i : CtxId) (k : Nat)
  | result (i : CtxId) (k : Nat)
  | message (src : MsgSrc) (k : Nat)
  /-- what else a context, a core, a cluster, a die or a partition may have to do -/
  | context (i : CtxId)
  | core (n : Nat)
  | issue (n : Nat)
  | cluster (cl : Nat)
  | die (d : Nat)
  | part (p : Nat)
  | boot
  /-- the hypervisor writes hmbox, or returns a report through it (R347, R357) -/
  | hmbox (off n v : Nat)
  | report
  /-- the host sets the size of BAR2 (R349) -/
  | resize (log : Nat)
  /-- a message of core `core` of device `dev` comes over its link for core `dest` (R219, R304) -/
  | peerMessage (dev core dest : Nat) (m : Msg)
  deriving DecidableEq, Repr

/-- The machine. -/
structure State where
  /-- device-physical memory (R105): canonical cells; an unlisted byte reads 0 (R113, R357) -/
  mem : List Host.Cell
  /-- first byte addresses of poisoned protected words, rising (R128) -/
  poison : List Nat
  cores : List (Nat × Core)
  clusters : List (Nat × Cluster)
  dies : List (Nat × Die)
  parts : List (Nat × Partition)
  pkg : Package
  /-- contexts halted and saved: what the save record's internal form keeps (R330) -/
  shadows : List (Nat × Context)
  cycle : Word
  /-- model: the turns to come -/
  sched : List Turn
  /-- model: the context that the issue slot was granted to, and whether its instruction is still to issue -/
  slot : CtxId
  granted : Bool
  /-- model: the counter the free values are applied to -/
  fresh : Nat
  deriving DecidableEq, Repr

/-- Why a step stops the machine. -/
inductive Fault where
  /-- raised by `step` alone, by no instruction: thermal shutdown has stopped every die (R361) and the schedule names no step of the host;
  safe, since the spec gives a stopped die no step of its own. -/
  | deviceStopped
  deriving DecidableEq, Repr

/-- Why an instruction has no meaning. -/
inductive Refusal where
  /-- raised by the dispatch for an instruction that the model does not give a meaning; safe. -/
  | notModelled (mnemonic : String)
  deriving DecidableEq, Repr

/-! ### Reset -/

def Loop.idle : Loop := ⟨false, 0, 0, 0⟩

def Port.reset : Port := ⟨[], []⟩

/-- Registers before the first firing start: log entry 2. -/
def Firing.reset : Firing where
  x := Vector.replicate 32 0
  v := Vector.replicate 28 0
  m := Vector.replicate 8 0
  pc := 0
  inner := Loop.idle
  outer := Loop.idle
  sup := false
  spm := false
  intrap := false
  aside := []
  asideInner := Loop.idle
  asideOuter := Loop.idle
  cls := 0
  tag := 0
  group := 0
  stage := 0
  launch := 0
  depth := 0
  range := none
  actor := none
  opened := []
  live := 0
  joined := 0
  bad := 0
  firstCause := 0
  cap := 0
  groupStart := false
  evMsg := false
  evFlit := false

def Context.reset : Context where
  running := false
  fir := Firing.reset
  trapping := none
  cause := 0
  epc := 0
  tval := 0
  tvec := 0
  fpc := 0
  fpctl := 0
  peak := 0
  stkbase := 0
  stklim := 0
  tbsel := 0
  retired := 0
  seq := 0
  rb := []
  acc := []
  num := 0
  sfq := []
  lost := 0
  skid := none
  issued := 0
  inj := []
  runq := []
  hold := none
  yieldSlot := none
  ports := Vector.replicate 4 Port.reset
  reason := 0
  chanWait := none
  readyAt := 0
  parked := none
  evLine := false
  halted := false
  saved := false
  parity := false
  barrier := none
  token := 0
  killed := []

def Window.reset : Window := ⟨0, false, none⟩

def ErrLog.reset : ErrLog := ⟨Vector.replicate 8 0, 0, 0⟩

def Steal.reset : Steal := ⟨none, 0, none, false, none, none⟩

def Core.reset : Core where
  n := Context.reset
  u := Context.reset
  handlers := Vector.replicate 20 0
  wins := Vector.replicate 8 Window.reset
  empty := []
  filling := []
  waits := []
  rqbase := 0
  rqlim := 0
  rqtop := 0
  rqbot := 0
  slots := Vector.replicate 64 0
  slotPoison := 0
  accowner := 0
  gangpos := 0
  gstat := 0
  cell := none
  nwait := 0
  partition := 0
  evlog := []
  logs := Vector.replicate 3 ErrLog.reset
  steal := Steal.reset

def Cluster.reset : Cluster := ⟨[], [], [], none, ErrLog.reset, none, 0, none⟩

def Monitor.reset : Monitor := ⟨0, 0, 0, 0, Vector.replicate 16 0⟩

def Die.reset : Die := ⟨[], [], 0, [], [], [], [], [], false, false, 0⟩

def Chan.reset : Chan := ⟨0, 0, 0, 0, 0, 0, 0, 0, 0, [], [], [], [], [], 0, false, [], [], 0, [], [], []⟩

def RGroup.reset : RGroup := ⟨.free, 0, 0, 0, 0, 0, 0, false, false, 0, 0, 0, [], [], [], none, 0⟩

/-- The partition control window's reset values (R355, R272, R336). -/
def Partition.reset : Partition where
  stgmap := Vector.replicate 16 0
  ranges := Vector.replicate 32 0
  oldRanges := []
  ptroot := 0
  copyFaults := []
  chanEvents := []
  faultEvents := []
  chans := []
  indexes := []
  pools := Vector.replicate 16 0
  watch := []
  gangtmo := 16384
  pstat := 0
  request := none
  haltEvent := none
  psave := 0
  killing := []
  wdog := 16384
  wcount := 0
  wreported := false
  hangbuf := 0
  pevcfg := 0
  pevpend := 0
  pcra := 0
  pcdata := 0
  hqchan := Vector.replicate 64 0
  doorbells := []
  launches := []
  poolUsed := 0
  replays := []
  replayReqs := []
  rgroups := []
  loads := []
  tables := []
  imageRecs := []
  loadStatus := 0

def Mgmt.reset : Mgmt := ⟨0, 0, 0, 0, 0, false, 0⟩

def Package.reset : Package where
  stage := 0x01
  error := 0
  detail := 0
  warm := false
  keep := false
  persist := false
  nextStart := none
  starting := true
  rsize := 0
  rchunk := 0
  rbuf := []
  hmbox := []
  stagedUse := false
  recovered := none
  fwDigest := 0
  report := none
  msixTable := Vector.replicate 64 0
  msixPba := 0
  toHost := []
  toPeer := []
  bar2base := 0
  bar2log := 30
  routes := []
  links := Vector.replicate 16 ⟨false, 0⟩
  exports := Vector.replicate 8 0
  refusals := 0
  keys := Vector.replicate 64 0
  parts := Vector.replicate 16 0
  mgmt := Vector.replicate 4 Mgmt.reset
  engine := []
  forwarded := []
  flashed := none

/-- The machine right after reset: a cold start at devstat stage 0x01 (R357), nothing placed and no firing. -/
def State.reset : State where
  mem := []
  poison := []
  cores := []
  clusters := []
  dies := []
  parts := []
  pkg := Package.reset
  shadows := []
  cycle := 0
  sched := []
  slot := ⟨0, .n⟩
  granted := false
  fresh := 0

end Sys2Proof.Machine
end

