-- ==== Sys2Proof/Machine/Ops.lean ====
section
/-!
DEFINITION. The named operations over memory, lists of like things, registers and queues, taking an exception and returning
from one. Every later file reads and writes the state through these.
-/
namespace Sys2Proof.Machine

/-! ### Fields -/

/-- Bits [hi:lo] of a bit vector. -/
def fld {n : Nat} (w : BitVec n) (hi lo : Nat) : Nat := bitsOf w.toNat hi lo

/-- Bit i of a bit vector. -/
def bitAt {n : Nat} (w : BitVec n) (i : Nat) : Bool := bitOf w.toNat i

/-- A number put together from (value, lowest bit) pairs of fields that do not overlap. -/
def packFields : List (Nat × Nat) → Nat
  | [] => 0
  | (v, lo) :: l => v * 2 ^ lo + packFields l

/-- The number with bits [hi:lo] replaced. -/
def setField (w hi lo v : Nat) : Nat := w - bitsOf w hi lo * 2 ^ lo + v % 2 ^ (hi + 1 - lo) * 2 ^ lo

/-- A bit vector with bits [hi:lo] replaced. -/
def withField {n : Nat} (w : BitVec n) (hi lo v : Nat) : BitVec n := BitVec.ofNat n (setField w.toNat hi lo v)

/-- Some list element is equal to `n`. -/
def hasNat (l : List Nat) (n : Nat) : Bool := l.any (· == n)

/-- A rising list of numbers with one more. -/
def insNat (n : Nat) : List Nat → List Nat
  | [] => [n]
  | a :: l => if n < a then n :: a :: l else if n = a then a :: l else a :: insNat n l

/-- A list of numbers without one. -/
def delNat (n : Nat) (l : List Nat) : List Nat := l.filter (· != n)

/-- A list without the first element that meets `p`. -/
def dropFirst {α : Type} (p : α → Bool) : List α → List α
  | [] => []
  | a :: l => if p a then l else a :: dropFirst p l

/-- A list with the element at `k` replaced. -/
def setAt {α : Type} (k : Nat) (a : α) : List α → List α
  | [] => []
  | b :: l => match k with
    | 0 => a :: l
    | k + 1 => b :: setAt k a l

/-- A list without the element at `k`. -/
def delAt {α : Type} (k : Nat) : List α → List α
  | [] => []
  | b :: l => match k with
    | 0 => l
    | k + 1 => b :: delAt k l

/-! ### Lists of like things -/

/-- The thing numbered `n`. -/
def getN {α : Type} (n : Nat) : List (Nat × α) → Option α
  | [] => none
  | (k, a) :: l => if k = n then some a else getN n l

/-- The list with the thing numbered `n` put in its place. -/
def putN {α : Type} (n : Nat) (a : α) : List (Nat × α) → List (Nat × α)
  | [] => [(n, a)]
  | (k, b) :: l => if n < k then (n, a) :: (k, b) :: l else if n = k then (n, a) :: l else (k, b) :: putN n a l

/-- The list without the thing numbered `n`. -/
def delN {α : Type} (n : Nat) (l : List (Nat × α)) : List (Nat × α) := l.filter (fun p => p.1 != n)

/-! ### Memory cells -/

/-- The canonical form: addresses strictly rising, no cell that reads as an unlisted one. -/
def Mem.wf : List Host.Cell → Bool
  | [] => true
  | [c] => c.2 != 0
  | c :: d :: l => c.2 != 0 && c.1 < d.1 && Mem.wf (d :: l)

/-- One byte; an unlisted byte reads 0 (R113, R357). -/
def Mem.read (a : Nat) : List Host.Cell → Byte
  | [] => 0
  | (k, b) :: l => if k = a then b else if a < k then 0 else Mem.read a l

/-- The cells with byte `a` set to `b`. -/
def Mem.write (a : Nat) (b : Byte) : List Host.Cell → List Host.Cell
  | [] => if b = 0 then [] else [(a, b)]
  | (k, c) :: l =>
    if a < k then (if b = 0 then (k, c) :: l else (a, b) :: (k, c) :: l)
    else if a = k then (if b = 0 then l else (a, b) :: l)
    else (k, c) :: Mem.write a b l

/-- `n` bytes from `a`, little-endian (R10). -/
def Mem.readLE (m : List Host.Cell) (a : Nat) : Nat → Nat
  | 0 => 0
  | n + 1 => (Mem.read a m).toNat + 256 * Mem.readLE m (a + 1) n

/-- `n` bytes written at `a`, little-endian. -/
def Mem.writeLE (m : List Host.Cell) (a : Nat) : Nat → Nat → List Host.Cell
  | 0, _ => m
  | n + 1, v => Mem.writeLE (Mem.write a (BitVec.ofNat 8 (v % 256)) m) (a + 1) n (v / 256)

/-! ### The device-physical map (R105) -/

/-- Where a device-physical address lies. -/
inductive Region where
  | hbm
  | scratch (core off : Nat)
  | hamper (core off : Nat)
  | coreWin (core off : Nat)
  | hartWin (cl off : Nat)
  | dieWin (die off : Nat)
  | partWin (p off : Nat)
  | host (off : Nat)
  | peer (dev off : Nat)
  deriving DecidableEq, Repr

def scratchBase : Nat := 0x1000000000000
def hamperBase : Nat := 0x1100000000000
def coreWinBase : Nat := 0x1200000000000
def hartWinBase : Nat := 0x1200100000000
def dieWinBase : Nat := 0x1200200000000
def partWinBase : Nat := 0x1200300000000
def hostBase : Nat := 0x2000000000000
def peerBase : Nat := 0x3000000000000

/-- Bytes of a core's scratchpad. -/
def scratchBytes : Nat := 0x18000

/-- The region of an address; none in no region or in a hole. The four slots behind the scratchpads of R105 are the management cores' own
scratchpads, which no grant covers (log entry 9). -/
def regionOf (pa : Nat) : Option Region :=
  if pa < Config.hbmBytes then some .hbm
  else if scratchBase ≤ pa && pa < scratchBase + (Config.cores + 4) * 0x20000 then
    let o := pa - scratchBase
    if o % 0x20000 < scratchBytes then some (.scratch (o / 0x20000) (o % 0x20000)) else none
  else if hamperBase ≤ pa && pa < hamperBase + Config.cores * 0x100000 then
    let o := pa - hamperBase
    some (.hamper (o / 0x100000) (o % 0x100000))
  else if coreWinBase ≤ pa && pa < coreWinBase + Config.cores * 0x10000 then
    let o := pa - coreWinBase
    some (.coreWin (o / 0x10000) (o % 0x10000))
  else if hartWinBase ≤ pa && pa < hartWinBase + Config.clusters * 0x10000 then
    let o := pa - hartWinBase
    some (.hartWin (o / 0x10000) (o % 0x10000))
  else if dieWinBase ≤ pa && pa < dieWinBase + 4 * 0x1000000 then
    let o := pa - dieWinBase
    some (.dieWin (o / 0x1000000) (o % 0x1000000))
  else if partWinBase ≤ pa && pa < partWinBase + 16 * 0x100000 then
    let o := pa - partWinBase
    some (.partWin (o / 0x100000) (o % 0x100000))
  else if hostBase ≤ pa && pa < hostBase + 0x1000000000000 then some (.host (pa - hostBase))
  else if peerBase ≤ pa && pa < peerBase + 4096 * 0x1000000000 then
    let o := pa - peerBase
    some (.peer (o / 0x1000000000) (o % 0x1000000000))
  else none

/-- The device-physical address of scratchpad byte `off` of core `n`. -/
def scratchPa (n off : Nat) : Nat := scratchBase + n * 0x20000 + off
/-- The device-physical address of hamper byte `off` of core `n`. -/
def hamperPa (n off : Nat) : Nat := hamperBase + n * 0x100000 + off

/-! ### Geometry (R7, R57, R107) -/

def coreCol (n : Nat) : Nat := n % Config.cols
def coreRow (n : Nat) : Nat := n / Config.cols
def coreAtPos (c r : Nat) : Nat := r * Config.cols + c
/-- The cluster of a core: cy·12 + cx. -/
def clusterOf (n : Nat) : Nat := coreRow n / 4 * 12 + coreCol n / 4
/-- The die of a core: row div 24; the management cores, numbered behind the mesh's, one per die (R1). -/
def dieOf (n : Nat) : Nat := if n < Config.cores then coreRow n / 24 else (n - Config.cores) % 4
/-- The die of a cluster. -/
def dieOfCluster (cl : Nat) : Nat := cl / 12 / 6
/-- The core at position (px, py) of a cluster. -/
def clusterCore (cl px py : Nat) : Nat := coreAtPos (cl % 12 * 4 + px) (cl / 12 * 4 + py)
/-- The 16 cores of a cluster in position order py·4 + px. -/
def clusterCores (cl : Nat) : List Nat := (List.range 16).map fun i => clusterCore cl (i % 4) (i / 4)
/-- The core at a signed offset from a core of the mesh, if it lies in the mesh (R8). -/
def coreAtOffset (n : Nat) (dx dy : Int) : Option Nat :=
  let c : Int := (coreCol n : Int) + dx
  let r : Int := (coreRow n : Int) + dy
  if n < Config.cores && 0 ≤ c && c < 48 && 0 ≤ r && r < 96 then some (coreAtPos c.toNat r.toNat) else none
/-- The offset a port faces (R46). -/
def dirStep : Dir → Int × Int
  | .north => (0, -1)
  | .east => (1, 0)
  | .south => (0, 1)
  | .west => (-1, 0)
def dirNum : Dir → Nat
  | .north => 0 | .east => 1 | .south => 2 | .west => 3
def dirFin : Dir → Fin 4
  | .north => 0 | .east => 1 | .south => 2 | .west => 3
/-- The side that faces a direction. -/
def dirBack : Dir → Dir
  | .north => .south | .east => .west | .south => .north | .west => .east
/-- The port a register field names (R46, R47). -/
def portDir (r : Fin 32) : Option Dir :=
  if r.val = 28 then some .north else if r.val = 29 then some .east
  else if r.val = 30 then some .south else if r.val = 31 then some .west else none
def neighbour (n : Nat) (d : Dir) : Option Nat := coreAtOffset n (dirStep d).1 (dirStep d).2
/-- The memory-side unit that homes an HBM address (R107): die and unit. -/
def hbmUnit (pa : Nat) : Nat × Nat :=
  let st := pa / Config.stackBytes
  (st / 2, pa % Config.stackBytes / 4096 % 12 + 12 * (st % 2))

/-! ### Parts of the state -/

def State.coreAt (s : State) (n : Nat) : Core := (getN n s.cores).getD Core.reset
def State.setCore (s : State) (n : Nat) (c : Core) : State := { s with cores := putN n c s.cores }
def State.clusterAt (s : State) (n : Nat) : Cluster := (getN n s.clusters).getD Cluster.reset
def State.setCluster (s : State) (n : Nat) (c : Cluster) : State := { s with clusters := putN n c s.clusters }
def State.dieAt (s : State) (n : Nat) : Die := (getN n s.dies).getD Die.reset
def State.setDie (s : State) (n : Nat) (d : Die) : State := { s with dies := putN n d s.dies }
def State.partAt (s : State) (n : Nat) : Partition := (getN n s.parts).getD Partition.reset
def State.setPart (s : State) (n : Nat) (p : Partition) : State := { s with parts := putN n p s.parts }

def Core.ctx (c : Core) : Ctx → Context
  | .n => c.n
  | .u => c.u
def Core.setCtx (c : Core) (x : Ctx) (k : Context) : Core :=
  match x with
  | .n => { c with n := k }
  | .u => { c with u := k }
def otherCtx : Ctx → Ctx
  | .n => .u
  | .u => .n

def State.ctx (s : State) (i : CtxId) : Context := (s.coreAt i.core).ctx i.x
def State.setCtx (s : State) (i : CtxId) (k : Context) : State := s.setCore i.core ((s.coreAt i.core).setCtx i.x k)
def State.modCtx (s : State) (i : CtxId) (f : Context → Context) : State := s.setCtx i (f (s.ctx i))
def State.fir (s : State) (i : CtxId) : Firing := (s.ctx i).fir
def State.setFir (s : State) (i : CtxId) (f : Firing) : State := s.setCtx i { s.ctx i with fir := f }
def State.modFir (s : State) (i : CtxId) (f : Firing → Firing) : State := s.setFir i (f (s.fir i))
def State.modCore (s : State) (n : Nat) (f : Core → Core) : State := s.setCore n (f (s.coreAt n))
def State.modPart (s : State) (p : Nat) (f : Partition → Partition) : State := s.setPart p (f (s.partAt p))
def State.modDie (s : State) (d : Nat) (f : Die → Die) : State := s.setDie d (f (s.dieAt d))
def State.modCluster (s : State) (c : Nat) (f : Cluster → Cluster) : State := s.setCluster c (f (s.clusterAt c))
def State.modPkg (s : State) (f : Package → Package) : State := { s with pkg := f s.pkg }
/-- The cycle counter as a number. -/
def State.now (s : State) : Nat := s.cycle.toNat

/-- A channel of a partition. -/
def State.chanAt (s : State) (p ch : Nat) : Chan := (getN ch (s.partAt p).chans).getD Chan.reset
def State.setChan (s : State) (p ch : Nat) (c : Chan) : State :=
  s.modPart p fun q => { q with chans := putN ch c q.chans }
def State.rgroupAt (s : State) (p g : Nat) : RGroup := (getN g (s.partAt p).rgroups).getD RGroup.reset
def State.setRgroup (s : State) (p g : Nat) (r : RGroup) : State :=
  s.modPart p fun q => { q with rgroups := putN g r q.rgroups }
def State.launchAt (s : State) (p h : Nat) : Option Launch := getN h (s.partAt p).launches
def State.setLaunch (s : State) (p h : Nat) (l : Launch) : State :=
  s.modPart p fun q => { q with launches := putN h l q.launches }

/-- A free value's index, and the state with the counter advanced. -/
def State.nextFresh (s : State) : Nat × State := (s.fresh, { s with fresh := s.fresh + 1 })

/-! ### Partitions (R57, R354) -/

def partDesc (s : State) (p : Nat) : BitVec 1024 := s.pkg.parts[Fin.ofNat 16 p]
def partState (s : State) (p : Nat) : Nat := fld (partDesc s p) 1 0
/-- cx0, cx1, cy0, cy1. -/
def partRect (s : State) (p : Nat) : Nat × Nat × Nat × Nat :=
  let d := partDesc s p
  (fld d 25 22, fld d 29 26, fld d 34 30, fld d 39 35)
def clusterIn (s : State) (p cl : Nat) : Bool :=
  let (x0, x1, y0, y1) := partRect s p
  x0 ≤ cl % 12 && cl % 12 ≤ x1 && y0 ≤ cl / 12 && cl / 12 ≤ y1
/-- A core of the partition's rectangle. -/
def coreIn (s : State) (p n : Nat) : Bool := n < Config.cores && clusterIn s p (clusterOf n)
def partClusters (s : State) (p : Nat) : List Nat := (List.range Config.clusters).filter (clusterIn s p)
def partCores (s : State) (p : Nat) : List Nat := (List.range Config.cores).filter (coreIn s p)

/-! ### Scalar registers (R46): x0 reads 0 and discards writes -/

def Firing.readX (f : Firing) (r : Reg) : Word := if r.val = 0 then 0 else f.x[r]
def Firing.writeX (f : Firing) (r : Reg) (v : Word) : Firing :=
  if r.val = 0 || isPort r then f else { f with x := f.x.set r v }
/-- A vector field below 28 (R47). -/
def vIdx (r : VReg) : Fin 28 := Fin.ofNat 28 r.val
def Firing.readV (f : Firing) (r : VReg) : Vec := f.v[vIdx r]
def Firing.writeV (f : Firing) (r : Fin 28) (v : Vec) : Firing := { f with v := f.v.set r v }
def Firing.lat (f : Firing) : Vec := f.v[(0 : Fin 28)]
def Firing.setLat (f : Firing) (v : Vec) : Firing := { f with v := f.v.set (0 : Fin 28) v }
/-- The mask register as held; m0 as a governing mask selects every lane (R44). -/
def Firing.readM (f : Firing) (r : MReg) : Word := f.m[r]
def Firing.writeM (f : Firing) (r : MReg) (v : Word) : Firing := { f with m := f.m.set r v }

/-- Who acts: the running firing of a context as an engine sees it. -/
def requester (s : State) (i : CtxId) : Requester :=
  let f := s.fir i
  { core := i.core, x := i.x, part := (s.coreAt i.core).partition, tag := f.tag, group := f.group, launch := f.launch,
    depth := f.depth, stage := f.stage, sup := f.sup }

/-! ### Messages and events toward software -/

/-- A header (R83). -/
def header (tag launch group depth stage length source device : Nat) (x : Ctx) (cls : Nat) : BitVec 128 :=
  BitVec.ofNat 128 (packFields [(tag, 96), (launch, 64), (group, 48), (depth, 44), (stage, 40), (length, 32), (source, 19),
    (device, 7), ((match x with | .n => 0 | .u => 1), 5), (cls, 0)])
def hdrTag (h : BitVec 128) : Nat := fld h 127 96
def hdrLaunch (h : BitVec 128) : Nat := fld h 95 64
def hdrGroup (h : BitVec 128) : Nat := fld h 63 48
def hdrLength (h : BitVec 128) : Nat := fld h 39 32
def hdrCtx (h : BitVec 128) : Ctx := if bitAt h 5 then .u else .n
def hdrClass (h : BitVec 128) : Nat := fld h 4 0
/-- A group start: sender tag 0, and no engine message, which has class 1 or belongs to no launch (R67, R83). -/
def isGroupStart (h : BitVec 128) : Bool := hdrTag h == 0 && hdrClass h != 1 && hdrLaunch h != 0xFFFFFFFF
/-- The device number (R356: devnum of the management core of die 0). -/
def deviceNum (s : State) : Nat := (s.pkg.mgmt[(0 : Fin 4)]).devnum.toNat

/-- An engine posts a message (R67, R124, R345). -/
def postEngine (s : State) (src : EngSrc) (dest : Nat) (m : Msg) : State :=
  s.modPkg fun k => { k with engine := k.engine ++ [⟨src, dest, m, none⟩] }

/-- The vectors sent to the host, the last one first. -/
def Package.msixSent (k : Package) : List Nat := k.toHost.filterMap fun t => match t with
  | .msix v => some v
  | _ => none

/-- The PCIe port sends something to the host, in the order in which it is asked to (R308). -/
def sendHost (s : State) (t : HostTx) : State := s.modPkg fun k => { k with toHost := t :: k.toHost }

/-- Raises an MSI-X vector: a masked one sets its pending bit (R347). -/
def raiseMsix (s : State) (vec : Nat) : State :=
  s.modPkg fun k =>
    if bitAt (k.msixTable[Fin.ofNat 64 vec]) 96 then { k with msixPba := k.msixPba ||| (1#64 <<< vec) }
    else { k with toHost := .msix vec :: k.toHost }

/-- A source of partition events appends (R345): bit 0 fault, 1 channel, 2 copy fault, 3 host queue, 4 unbound message,
5 dropped contribution. -/
def partEvent (s : State) (p bit : Nat) : State :=
  let q := s.partAt p
  if bitAt q.pevpend bit then s
  else
    let pend := q.pevpend ||| (1#6 <<< bit)
    let s1 := s.modPart p fun q => { q with pevpend := pend }
    if q.pevpend = 0 then
      let cfg := q.pevcfg
      let s2 := if bitAt cfg 19 then
          let x : Ctx := if bitAt cfg 13 then .u else .n
          postEngine s1 (.part p) (fld cfg 12 0)
            ⟨header 0 0xFFFFFFFF 0xFFFF 0 0 8 (fld cfg 12 0) (deviceNum s) x (fld cfg 18 14), pend.setWidth 1024⟩
        else s1
      if bitAt cfg 26 then raiseMsix s2 (fld cfg 25 20) else s2
    else s1

/-- Records that a queue of 64 shows; those behind them wait with their producers (R320, R247). -/
def queueMax : Nat := 64

/-- The fault event queue has room for `n` more records; a producer that finds none waits (R320). -/
def faultRoom (s : State) (p n : Nat) : Bool := (s.partAt p).faultEvents.length + n ≤ queueMax

/-- Appends a fault event (R320). Its callers wait for room; only a link that goes down does not (HostPort.lean), and its record waits behind
the 64, to enter the queue, and raise the partition event, at a pop. -/
def faultEvent (s : State) (p : Nat) (rec : BitVec 256) : State :=
  let s1 := s.modPart p fun q => { q with faultEvents := q.faultEvents ++ [rec] }
  if (s.partAt p).faultEvents.length < queueMax then partEvent s1 p 0 else s1

/-- A fault event record (R320). -/
def faultRecord (kind cause value addr tag group token core : Nat) (x : Ctx) : BitVec 256 :=
  BitVec.ofNat 256 (packFields [(value % 2 ^ 64, 192), (addr % 2 ^ 64, 128), (tag, 96), (group, 80), (token, 64), (core, 51),
    ((match x with | .n => 0 | .u => 1), 50), (cause, 8), (kind, 0)])

/-- Appends a channel event (R247). -/
def chanEvent (s : State) (p : Nat) (kind nbound obound chan group who seq : Nat) : State :=
  let rec_ := BitVec.ofNat 128 (packFields [(nbound, 104), (obound, 80), (chan, 68), (group, 62), (kind, 56), (who % 2 ^ 16, 32), (seq % 2 ^ 32, 0)])
  let s1 := s.modPart p fun q => { q with chanEvents := q.chanEvents ++ [rec_] }
  if (s.partAt p).chanEvents.length < queueMax then partEvent s1 p 1 else s1

/-- Appends a copy-fault record (R125). -/
def copyFault (s : State) (p : Nat) (r : BitVec 256) : State :=
  partEvent (s.modPart p fun q => { q with copyFaults := q.copyFaults ++ [r] }) p 2

/-! ### Error logs and poison (R128 to R130, R335) -/

def getLog (s : State) : ErrArray → ErrLog
  | .core c a => (s.coreAt c).logs[Fin.ofNat 3 a]
  | .cluster cl => (s.clusterAt cl).log
  | .die d a => (getN a (s.dieAt d).logs).getD ErrLog.reset
def setLog (s : State) (a : ErrArray) (l : ErrLog) : State :=
  match a with
  | .core c a => s.modCore c fun k => { k with logs := k.logs.set (Fin.ofNat 3 a) l }
  | .cluster cl => s.modCluster cl fun k => { k with log := l }
  | .die d a => s.modDie d fun k => { k with logs := putN a l k.logs }

/-- The first entry index for which `p` holds. -/
def findEntry (p : BitVec 256 → Bool) (l : ErrLog) : Option (Fin 8) := (List.finRange 8).find? fun i => p l.entries[i]

/-- Logs an error (R129): kind 1 corrected, 2 uncorrectable, 3 parity, 4 CRC resent, 5 CRC abandoned. -/
def logError (s : State) (a : ErrArray) (kind address tag part : Nat) : State :=
  let l := getLog s a
  match findEntry (fun e => fld e 123 120 != 0 && fld e 49 0 == address % 2 ^ 50) l with
  | some i =>
    let e := l.entries[i]
    setLog s a { l with entries := l.entries.set i (withField e 159 144 (Nat.min (fld e 159 144 + 1) 65535)) }
  | none =>
    match findEntry (fun e => fld e 123 120 == 0) l with
    | some i =>
      let (k, s) := s.nextFresh
      let e := BitVec.ofNat 256 (packFields [(tag, 160), (1, 144), ((Config.syndrome k).toNat, 128), (part, 124), (kind, 120), (address % 2 ^ 50, 0)])
      setLog s a { l with entries := l.entries.set i e }
    | none => setLog s a { l with overflow := if l.overflow.toNat = 2 ^ 64 - 1 then l.overflow else l.overflow + 1 }

/-- The protected word that holds a byte (R128): 8 bytes of a scratchpad, 32 of a hamper, and 8 of HBM (log entry 4). -/
def protBytes (pa : Nat) : Nat :=
  match regionOf pa with
  | some (.hamper _ _) => 32
  | _ => 8
def protBase (pa : Nat) : Nat := pa - pa % protBytes pa

/-- The lowest poisoned protected word that holds one of the bytes [pa, pa + n). -/
def poisonedIn (s : State) (pa n : Nat) : Option Nat :=
  s.poison.find? fun b => b < pa + n && pa < b + protBytes b

/-- The array that guards a memory address. -/
def arrayOf (pa : Nat) : Option ErrArray :=
  match regionOf pa with
  | some (.scratch c _) => some (.core c 0)
  | some (.hamper c _) => some (.core c 1)
  | some .hbm => let (d, u) := hbmUnit pa; some (.die d (u + 1))
  | _ => none

/-- The partition that a memory address belongs to: its core's, or the one whose HBM share holds it (R129). -/
def homePart (s : State) (pa : Nat) : Nat :=
  match regionOf pa with
  | some (.scratch c _) | some (.hamper c _) => (s.coreAt c).partition
  | some .hbm => ((List.range 16).find? fun p =>
      let d := partDesc s p
      partState s p != 0 && fld d 703 640 ≤ pa && pa < fld d 703 640 + fld d 767 704).getD 0
  | _ => 0

/-- The injection register's error strikes a write that covers its target (R130); `tag` is the writing firing's, 0 for an engine. A CRC error of an
HBM unit is one of its link, resent and logged; a type that the array's protection does not have is applied with no effect (log entry 38). -/
def injectOn (s : State) (tag pa n : Nat) : State :=
  match arrayOf pa with
  | none => s
  | some a =>
    let l := getLog s a
    let t := fld l.inject 63 14
    if bitAt l.inject 0 && pa ≤ t && t < pa + n then
      let s1 := setLog s a { l with inject := withField l.inject 0 0 0 }
      if fld l.inject 3 1 = 1 then logError s1 a 1 t tag (homePart s t)
      else if fld l.inject 3 1 = 2 then
        logError { s1 with poison := insNat (protBase t) s1.poison } a 2 t tag (homePart s t)
      else match a with
        | .die _ _ => if fld l.inject 3 1 = 4 then logError s1 a 4 t tag (homePart s t) else s1
        | _ => s1
    else s

/-- An armed path error strikes the next flit of a crossbar, a bridge or a link (R130). Whichever bits it flips, the CRC finds it: the flit is
resent, and the error logged. -/
def strikePath (s : State) (a : ErrArray) (tag part : Nat) : State :=
  let l := getLog s a
  if bitAt l.inject 0 && 1 ≤ fld l.inject 3 1 && fld l.inject 3 1 ≤ 4 then
    logError (setLog s a { l with inject := withField l.inject 0 0 0 }) a 4 (fld l.inject 63 14) tag part
  else s

/-- The paths inside the package between two dies (R129): each die's crossbar, and the south and north bridges on the way. -/
def pathsBetween (d e : Nat) : List ErrArray :=
  let lo := Nat.min d e
  let hi := Nat.max d e
  if d = e then [.die d 0]
  else [.die d 0, .die e 0] ++ (List.range (hi - lo)).flatMap fun k => [.die (lo + k) 26, .die (lo + k + 1) 25]

/-- Flits from one die to another pass: armed path errors strike. -/
def crossPaths (s : State) (d e tag part : Nat) : State := (pathsBetween d e).foldl (fun s a => strikePath s a tag part) s

/-- Writes bytes of memory: a wholly covered protected word is no longer poisoned (R128, R335). -/
def writeMemBy (s : State) (tag pa n v : Nat) : State :=
  injectOn { s with
    mem := Mem.writeLE s.mem pa n v
    poison := s.poison.filter fun b => !(pa ≤ b && b + protBytes b ≤ pa + n) } tag pa n
/-- An engine's write. -/
def writeMem (s : State) (pa n v : Nat) : State := writeMemBy s 0 pa n v

/-- Writes bytes and poisons every protected word they touch (R287: a poisoned slot's words). -/
def writePoison (s : State) (tag pa n v : Nat) : State :=
  let s1 := writeMemBy s tag pa n v
  let words := (List.range ((n + 7) / 8)).map fun i => protBase (pa + 8 * i)
  { s1 with poison := words.foldl (fun l w => insNat w l) s1.poison }

def readMem (s : State) (pa n : Nat) : Nat := Mem.readLE s.mem pa n

/-! ### The deque (R90): entries in the scratchpad between rqbase and rqlim -/

def dequeCap (c : Core) : Nat :=
  if c.rqbase.toNat % 32 = 0 && c.rqlim.toNat % 32 = 0 && c.rqlim.toNat ≤ scratchBytes then (c.rqlim.toNat - c.rqbase.toNat) / 32 else 0
def dequeLen (c : Core) : Nat := if dequeCap c = 0 then 0 else (c.rqbot + dequeCap c - c.rqtop) % dequeCap c
def dequeFull (c : Core) : Bool := dequeLen c + 1 ≥ dequeCap c
def dequeEmpty (c : Core) : Bool := c.rqtop == c.rqbot

def rangeBits (r : Range) : Nat :=
  packFields [(r.arg.toNat, 192), (r.hi.toNat, 128), (r.lo.toNat, 64), (r.launch.toNat, 32), (r.group.toNat, 16),
    (r.depth.toNat, 12), (r.stage.toNat, 8), (r.cls.toNat, 0)]
def rangeOf (v : Nat) : Range :=
  { lo := BitVec.ofNat 64 (bitsOf v 127 64), hi := BitVec.ofNat 64 (bitsOf v 191 128), arg := BitVec.ofNat 64 (bitsOf v 255 192),
    launch := BitVec.ofNat 32 (bitsOf v 63 32), group := BitVec.ofNat 16 (bitsOf v 31 16), depth := BitVec.ofNat 4 (bitsOf v 15 12),
    stage := BitVec.ofNat 4 (bitsOf v 11 8), cls := BitVec.ofNat 5 (bitsOf v 4 0) }
/-- The device-physical address of deque entry `i` of core `n`. -/
def dequeAddr (s : State) (n i : Nat) : Nat := scratchPa n ((s.coreAt n).rqbase.toNat + 32 * i)
def dequeRead (s : State) (n i : Nat) : Range := rangeOf (readMem s (dequeAddr s n i) 32)
def dequeWrite (s : State) (n i : Nat) (r : Range) : State := writeMem s (dequeAddr s n i) 32 (rangeBits r)
/-- Pushes at the owner end; the caller has checked that there is room. -/
def dequePush (s : State) (n : Nat) (r : Range) : State :=
  let c := s.coreAt n
  (dequeWrite s n c.rqbot r).modCore n fun c => { c with rqbot := (c.rqbot + 1) % dequeCap c }
/-- Pops the owner-end entry of a deque that is not empty. -/
def dequePop (s : State) (n : Nat) : Range × State :=
  let c := s.coreAt n
  let i := (c.rqbot + dequeCap c - 1) % dequeCap c
  (dequeRead s n i, s.modCore n fun c => { c with rqbot := i })
/-- Indexes of the entries from the thief end to the owner end. -/
def dequeIdx (c : Core) : List Nat := (List.range (dequeLen c)).map fun k => (c.rqtop + k) % dequeCap c

/-! ### The end of a firing (R227, R339) -/

/-- How a firing ends. -/
inductive EndKind where
  | normal
  | faulted (cause : BitVec 8)
  | killed
  deriving DecidableEq, Repr

/-- The cause an end is counted with; none for a normal one (R339). -/
def EndKind.code : EndKind → Option (BitVec 8)
  | .normal => none
  | .faulted c => some c
  | .killed => some 0x12

/-- A live group by its 16-bit identifier: the die in [15:14] and the group. -/
def findGroup (s : State) (gid : Nat) : Option Group := (s.dieAt (gid / 16384)).groups.find? fun g => g.gid == gid
def modGroup (s : State) (gid : Nat) (f : Group → Group) : State :=
  s.modDie (gid / 16384) fun d => { d with groups := d.groups.map fun g => if g.gid == gid then f g else g }

/-- A live group of launch `h` of partition `p`: an identifier is used again once its group has retired. -/
def groupOf (s : State) (p h gid : Nat) : Option Group := (findGroup s gid).filter fun g => g.part == p && g.handle.toNat == h

/-- What an abnormal end in group `gid` leaves in its launch (R339, R343): the first one gives it its cause; a group that has retired
already is counted now, once. -/
def Launch.countBad (l : Launch) (gid : Nat) (live : Bool) (c : BitVec 8) : Launch :=
  let l1 := { l with cause := l.cause.or (some c) }
  if live || hasNat l.badGroups gid then l1 else { l1 with bad := l1.bad + 1, badGroups := insNat gid l1.badGroups }

/-- Counts an end of a firing of group `gid` and launch `h` (R72, R339): a group start counts toward retirement, and any abnormal end
marks the group and the launch, as long as they live. -/
def countEnd (s : State) (p h gid : Nat) (start : Bool) (how : EndKind) : State :=
  let live := (groupOf s p h gid).isSome
  let s1 := if live then modGroup s gid fun g =>
      let g1 := if start then { g with ended := g.ended + 1 } else g
      match how.code with
      | none => g1
      | some c => if g1.bad then g1 else { g1 with bad := true, cause := c }
    else s
  match how.code, s1.launchAt p h with
  | some c, some l => s1.setLaunch p h (l.countBad gid live c)
  | _, _ => s1

/-- Counts the end of a firing, or of a group start that never starts, of partition `p`. -/
def countFiring (s : State) (p : Nat) (f : Firing) (how : EndKind) : State := countEnd s p f.launch.toNat f.group.toNat f.groupStart how
def countStart (s : State) (p : Nat) (m : Msg) (how : EndKind) : State :=
  if isGroupStart m.hdr then countEnd s p (hdrLaunch m.hdr) (hdrGroup m.hdr) true how else s

/-- An access that leaves its firing for good: a posted one, which has no return-buffer entry, or a copy's kick. -/
def AccKind.posted : AccKind → Bool
  | .kick | .store _ _ | .block _ _ _ _ | .contribute _ _ _ | .fence => true
  | .chan _ op => match op with
    | .write _ | .pub _ _ | .emit _ | .cork => true
    | _ => false
  | _ => false

/-- An access gives bytes to the entry numbered `num`: its own, or the second one of a 256-byte channel read (R255). -/
def Access.feeds (a : Access) (num : Nat) : Bool :=
  a.num == num || (a.num + 1 == num && match a.kind with
    | .chan _ (.read two) => two
    | _ => false)

/-- The entry of a `launch` or `h.fill` whose reads are done and have not failed: what it has read. -/
def readValue (k : Context) (num : Nat) : Option Nat :=
  match (k.rb ++ k.fir.aside).find? fun e => e.num == num with
  | some e =>
    if e.fault.isSome || k.acc.any (fun a => a.num == num && match a.kind with
      | .load _ => true
      | _ => false) then none else some e.value
  | none => none

/-- What becomes of an access whose entry is dropped (R298). An issued access is withdrawn by nothing but a pre-emption: loads, atomics,
index operations, kicks and `xinv` are performed though no entry takes their result, and a `launch`, `replay` or `h.fill` that has read
its operands goes on. A request that is no access of R290 and waits for a condition (R235) is given up. -/
def orphan (k : Context) (a : Access) : Option Access :=
  if !((k.rb ++ k.fir.aside).any fun e => a.feeds e.num) then some a
  else match a.kind with
    | .launchDo notify none => (readValue k a.num).map fun v => { a with kind := .launchDo notify (some (BitVec.ofNat 512 v)) }
    | .hfillDo b none => (readValue k a.num).map fun v => { a with kind := .hfillDo b (some v) }
    | .chan _ _ | .grpWait _ | .grpFree _ | .join | .lnstat _ _ | .slot _ => none
    | _ => some a

/-- Drops the return buffer and what a trap set aside. -/
def dropEntries (k : Context) : Context := { k with rb := [], acc := k.acc.filterMap (orphan k) }

/-- Ends the running firing of a context. -/
def endFiring (s : State) (i : CtxId) (how : EndKind) : State :=
  let f := s.fir i
  let s1 := countFiring s (s.coreAt i.core).partition f how
  let keep : Option Range := match how, f.range with
    | .killed, _ => none
    | _, some r => if r.lo.toNat < r.hi.toNat then some r else none
    | _, none => none
  let pushed := keep.isSome && !dequeFull (s1.coreAt i.core)
  let s2 := match keep with
    | some r => if pushed then dequePush s1 i.core r else s1
    | none => s1
  s2.modCtx i fun k =>
    { dropEntries k with
      running := false
      trapping := none
      parked := none
      barrier := none
      sfq := []
      lost := 0
      skid := none
      reason := 0
      readyAt := s.now + 4
      fir := { f with range := if pushed then none else keep, actor := none, opened := [], aside := [], intrap := false, groupStart := false } }

/-! ### Taking an exception (R171, R321) and returning from one (R172) -/

/-- Unchecked posted stores (R319). -/
def uncheckedStores (k : Context) : Bool :=
  k.acc.any fun a => match a.kind with
    | .store _ _ => a.pa.isNone
    | _ => false

/-- cause and tval of the store-fault trap: the head record's inner cause and address (R318). -/
def headFault (k : Context) : Word × Word :=
  let r := k.sfq.head?
  (BitVec.ofNat 64 (packFields [((r.map fun r => r.inner.toNat).getD 0, 8), (0x05, 0)]), (r.map (·.va)).getD 0)

/-- A store-fault trap other than a vector store's own reports the record at the head when it is entered. -/
def TrapInfo.atEntry (t : TrapInfo) (k : Context) : TrapInfo :=
  if fld t.cause 7 0 = 5 && !bitAt t.cause 16 then { t with cause := (headFault k).1, tval := (headFault k).2 } else t

/-- Store-fault records and lost stores that a firing leaves are reported in one event of kind 2 (R321, R322). -/
def droppedRecords (s : State) (i : CtxId) (k : Context) (code : BitVec 8) : State :=
  if k.sfq.length + k.lost = 0 then s
  else faultEvent s (s.coreAt i.core).partition
    (faultRecord 2 code.toNat (k.sfq.length + 256 * k.lost) 0 k.fir.tag.toNat k.fir.group.toNat 0 i.core i.x)

/-- Fault events that the end of a firing with these records appends (R321, R322). -/
def recordEvents (k : Context) : Nat := boolNat (k.sfq.length + k.lost != 0)

/-- Trap entry once no check is pending: a double fault ends the firing (R321), and waits while the fault event queue has no room for what
it appends (R320); any other trap enters the handler, with which the queued store-fault records are handled too (R319). -/
def enterTrap (s : State) (i : CtxId) (info : TrapInfo) : State :=
  let k := s.ctx i
  let t := info.atEntry k
  let f := k.fir
  let p := (s.coreAt i.core).partition
  if f.intrap && !faultRoom s p (1 + recordEvents k) then s.setCtx i { k with trapping := some info, reason := 0x8 }
  else if f.intrap then
    let code := t.cause.setWidth 8
    let s1 := endFiring s i (.faulted code)
    droppedRecords (faultEvent s1 p (faultRecord 1 code.toNat t.tval.toNat t.epc.toNat f.tag.toNat f.group.toNat 0 i.core i.x)) i k code
  else
    s.setCtx i { k with
      trapping := none
      reason := 0
      epc := t.epc
      cause := t.cause
      tval := t.tval
      fpc := t.fpc.getD k.fpc
      rb := []
      sfq := k.sfq.map fun r => { r with held := true }
      skid := none
      fir := { f with
        spm := f.sup, sup := true, intrap := true
        aside := k.rb, asideInner := f.inner, asideOuter := f.outer
        inner := Loop.idle, outer := Loop.idle
        pc := k.tvec } }

/-- Takes a trap: its entry waits with reason 0x8 until every issued store has passed its checks (R319). -/
def takeTrap (s : State) (i : CtxId) (t : TrapInfo) : State :=
  if uncheckedStores (s.ctx i) then s.modCtx i fun k => { k with trapping := some t, reason := 0x8 }
  else enterTrap s i t

/-- Enters a waiting trap once the checks are complete. -/
def resumeTrap (s : State) (i : CtxId) : State :=
  match (s.ctx i).trapping with
  | none => s
  | some t => if uncheckedStores (s.ctx i) then s else enterTrap s i t

/-- `eret` (R172): pc, mode, return buffer and loop levels are restored. Every restored entry may be performed once more
(R99); a store fault that the handler left queued is due at once (R319). -/
def returnTrap (s : State) (i : CtxId) : State :=
  s.modCtx i fun k =>
    let f := k.fir
    { k with
      rb := (f.aside.filter fun e => e.state != .dropped).map fun e => { e with again := false }
      sfq := k.sfq.map fun r => { r with held := false }
      skid := if k.sfq.isEmpty then none else some 11
      fir := { f with
        pc := k.epc, sup := f.spm, intrap := false
        inner := f.asideInner, outer := f.asideOuter
        aside := [], asideInner := Loop.idle, asideOuter := Loop.idle } }

end Sys2Proof.Machine
end

