-- ==== Sys2Proof/Machine/Translate.lean ====
section
/-!
DEFINITION. From a virtual address to its home (R104, R108 to R111): the fixed windows, range entries, page-table walk,
translation cache, permissions and grants; and the scopes of R293.
-/
namespace Sys2Proof.Machine

/-- What an access asks of a page (step 4 of R108). -/
inductive Need where
  | read | write | both
  deriving DecidableEq, Repr

/-- Whether r, w, u bits [0], [1], [2] allow the access in this mode. -/
def permits (perm : Nat) (sup : Bool) (n : Need) : Bool :=
  (match n with
    | .read => bitOf perm 0
    | .write => bitOf perm 1
    | .both => bitOf perm 0 && bitOf perm 1) && (sup || bitOf perm 2)

/-! ### Units and paths (R107, R129, R294) -/

/-- The unit that a packet is delivered to (R294). -/
inductive DestUnit where
  | core (n : Nat)
  | hart (cl : Nat)
  | die (d : Nat)
  | part (p : Nat)
  | memory (d u : Nat)
  | host
  | peer (dev : Nat)
  deriving DecidableEq, Repr

/-- The unit that homes an address. -/
def destUnit (pa : Nat) : Option DestUnit := (regionOf pa).map fun r => match r with
  | .scratch c _ | .hamper c _ | .coreWin c _ => .core c
  | .hartWin cl _ => .hart cl
  | .dieWin d _ => .die d
  | .partWin p _ => .part p
  | .hbm => .memory (hbmUnit pa).1 (hbmUnit pa).2
  | .host _ => .host
  | .peer d _ => .peer d
/-- The lane of a packet: PA[8:7] xor PA[10:9] (R294). -/
def laneOf (pa : Nat) : Nat := (pa / 128 % 4) ^^^ (pa / 512 % 4)
/-- Messages use lane 0 (R294): a packet of that lane to or from a core stays behind the earlier messages to it of its own source, of which
`src` says whether an engine is it, but for a message that the core has refused. -/
def engineBefore (s : State) (src : EngSrc → Bool) (pa : Nat) : Bool :=
  laneOf pa == 0 && s.pkg.engine.any fun m => src m.src && m.refused.isNone && destUnit pa == some (.core m.dest)

/-- The messages of schedulers. A scheduler's access is ordered with those of every die's (log entry 24). -/
def EngSrc.isSched : EngSrc → Bool
  | .sched _ => true
  | _ => false

/-- The die of a unit. A partition's window and the host port are reached through die 0 (R347, R354). -/
def unitDie : DestUnit → Nat
  | .core n => dieOf n
  | .hart cl => dieOfCluster cl
  | .die d | .memory d _ => d
  | .part _ | .host | .peer _ => 0

/-- Flits of an agent on die d to or from a home inside the package pass: armed path errors strike (R130). -/
def homePaths (s : State) (d tag part pa : Nat) : State :=
  match destUnit pa with
  | some u => crossPaths s d (unitDie u) tag part
  | none => s

/-! ### Range entries (R109) -/

/-- The contents of range entry `i` that a core uses now: until `xinv` completes, old contents may still be used; which of them
is a free value. -/
def rangeEntry (s : State) (p i : Nat) : BitVec 256 :=
  let q := s.partAt p
  let cur := q.ranges[Fin.ofNat 32 i]
  (q.oldRanges.foldl (fun (acc : BitVec 256 × Nat) o =>
    if o.1 = i then (if Config.freeBit (64 * s.fresh + acc.2) then o.2 else acc.1, acc.2 + 1) else (acc.1, acc.2 + 1)) (cur, 0)).1

/-- A valid entry that covers the address: PA and permissions (step 1 of R108). -/
def rangeMatch (e : BitVec 256) (va : Nat) : Option (Nat × Nat) :=
  if bitAt e 0 && fld e 127 64 ≤ va && va < fld e 191 128 then some ((va + fld e 255 192) % 2 ^ 64, fld e 3 1) else none

def rangeLookup (s : State) (p va : Nat) : Option (Nat × Nat) :=
  (List.range 32).findSome? fun i => rangeMatch (rangeEntry s p i) va

/-! ### The walk (R110) -/

/-- What one table entry of a level does. -/
inductive WalkStep where
  | fault
  | table (pa : Nat)
  | page (size pa perm : Nat)
  deriving DecidableEq, Repr

/-- Reads a table entry at level 0 (VA[47:39]) to 3 (VA[20:12]). -/
def walkEntry (level e : Nat) : WalkStep :=
  let pa := bitsOf e 49 12 * 4096
  let perm := bitsOf e 5 3
  let size := if level = 1 then 0x40000000 else if level = 2 then 0x200000 else 0x1000
  if !bitOf e 0 || bitsOf e 63 50 != 0 || bitsOf e 11 6 != 0 then .fault
  else match bitsOf e 2 1 with
    | 0 => if level < 3 && pa < Config.hbmBytes then .table pa else .fault
    | 1 => if level = 0 || pa % size != 0 then .fault else .page size pa perm
    | 2 => if level = 3 && pa % 0x10000 == 0 then .page 0x10000 pa perm else .fault
    | _ => .fault

/-- Walks the levels from a table; none is a translation fault. A poisoned word is read as the bytes that stand there: R335 lists no walker
(DESIGN CHOICE, notes/assumptions/5.md). -/
def walkFrom (s : State) (p va : Nat) : List Nat → Nat → Option TEntry
  | [], _ => none
  | l :: ls, tbl =>
    let idx := va / 2 ^ (39 - 9 * l) % 512
    match walkEntry l (readMem s (tbl + 8 * idx) 8) with
    | .fault => none
    | .table pa => walkFrom s p va ls pa
    | .page size pa perm => some ⟨p, va / size, size, pa, BitVec.ofNat 3 perm⟩

/-- The whole walk of a partition's page table. -/
def walk (s : State) (p va : Nat) : Option TEntry :=
  let r := (s.partAt p).ptroot
  let root := fld r 49 12 * 4096
  if va ≥ 2 ^ 48 || !bitAt r 0 || root ≥ Config.hbmBytes then none else walkFrom s p va [0, 1, 2, 3] root

/-- The table words that a walk reads, from a table on. -/
def walkWords (s : State) (va : Nat) : List Nat → Nat → List Nat
  | [], _ => []
  | l :: ls, tbl =>
    let pa := tbl + 8 * (va / 2 ^ (39 - 9 * l) % 512)
    pa :: match walkEntry l (readMem s pa 8) with
      | .table t => walkWords s va ls t
      | _ => []

/-- The walker of a cluster reads its tables in HBM over the paths between the dies (R111, R130). -/
def walkPaths (s : State) (cl p va : Nat) : State :=
  let r := (s.partAt p).ptroot
  let root := fld r 49 12 * 4096
  if va ≥ 2 ^ 48 || !bitAt r 0 || root ≥ Config.hbmBytes then s
  else (walkWords s va [0, 1, 2, 3] root).foldl (fun (s : State) pa => homePaths s (dieOfCluster cl) 0 p pa) s

/-- A cached entry that covers the address. -/
def TEntry.covers (e : TEntry) (p va : Nat) : Bool := e.part == p && va / e.size == e.page

/-- A walked entry enters the cache. A bit or parity error armed in the cluster's injection register may strike this write (its target names
the entry, which is a free choice here): the entry is dropped, to be walked again, and the error logged (R128, R130). -/
def insertEntry (s : State) (cl : Nat) (e : TEntry) : State :=
  let l := (s.clusterAt cl).log
  if bitAt l.inject 0 && 1 ≤ fld l.inject 3 1 && fld l.inject 3 1 ≤ 3 && Config.strikes s.fresh then
    logError (setLog s (.cluster cl) { l with inject := withField l.inject 0 0 0 }) (.cluster cl) 3 (fld l.inject 63 14) 0 e.part
  else s.modCluster cl fun c => { c with tcache := (e :: c.tcache).take 512 }

/-- Looks up the cluster's translation cache and walks on a miss; the entry becomes the most recently used (R111). A fault is
not cached. -/
def cacheWalk (s : State) (cl p va : Nat) : Option TEntry × State :=
  if va ≥ 2 ^ 48 || !bitAt (s.partAt p).ptroot 0 then (none, s)
  else
    let c := s.clusterAt cl
    match c.tcache.find? fun e => e.covers p va with
    | some e => (some e, s.modCluster cl fun c => { c with tcache := e :: c.tcache.filter fun t => t != e })
    | none =>
      match walk s p va with
      | none => (none, walkPaths s cl p va)
      | some e => (some e, insertEntry (walkPaths s cl p va) cl e)

/-! ### Grants (step 5 of R108) -/

/-- Route table entry of a device (R351). -/
def routeOf (s : State) (dev : Nat) : BitVec 8 := (getN dev s.pkg.routes).getD 0

/-- Whether a partition may reach an address. A partition reads the monitors that name it their owner (R360) and nothing else of
a die control window. A core's window is reached through supervisor mappings only (R106), and no user-mode write reaches a partition's, whose
registers only the supervisor may write (R58, R109, R236, R264, R272): such an access fails as one without a grant does (DESIGN CHOICE,
notes/assumptions/5.md: the spec says so for the injection registers, R130). -/
def granted (s : State) (p pa : Nat) (n : Need) (sup : Bool) : Bool :=
  let d := partDesc s p
  match regionOf pa with
  | none => false
  | some .hbm => fld d 703 640 ≤ pa && pa < fld d 703 640 + fld d 767 704
  | some (.scratch c _) | some (.hamper c _) => coreIn s p c
  | some (.coreWin c _) => coreIn s p c && sup
  | some (.hartWin cl o) => clusterIn s p cl && (sup || o != 0xC00)
  | some (.dieWin die o) => sup && n == .read && 0x200000 ≤ o && o < 0x202000 &&
      fld ((getN ((o - 0x200000) / 0x100) (s.dieAt die).monitors).getD Monitor.reset).cfg 31 28 == p
  | some (.partWin q _) => q == p && (sup || n == .read)
  | some (.host o) => fld d 959 896 ≤ o && o < fld d 1023 960
  | some (.peer dev _) => bitAt d 88 && fld d 75 64 ≤ dev && dev ≤ fld d 87 76 && bitAt (routeOf s dev) 7

/-- The result of translating: a home, or the cause of the failure. -/
abbrev Home := Except Nat Nat

/-- Steps 4 and 5 of R108. -/
def finish (s : State) (p : Nat) (sup : Bool) (n : Need) (pa perm : Nat) : Home :=
  if !permits perm sup n then .error 0x03
  else if !granted s p pa n sup then .error 0x03
  else .ok pa

/-- Translates an address at or above 0x20_0000 without the cache: the engines of a die and a look ahead. -/
def translatePure (s : State) (p : Nat) (sup : Bool) (va : Nat) (n : Need) : Home :=
  match rangeLookup s p va with
  | some (pa, perm) => finish s p sup n pa perm
  | none =>
    match walk s p va with
    | none => .error 0x04
    | some e => finish s p sup n (e.pa + va % e.size) e.perm.toNat

/-- Translates an address at or above 0x20_0000 through the cluster's cache. -/
def translate (s : State) (cl p : Nat) (sup : Bool) (va : Nat) (n : Need) : Home × State :=
  match rangeLookup s p va with
  | some (pa, perm) => (finish s p sup n pa perm, s)
  | none =>
    match cacheWalk s cl p va with
    | (none, s1) => (.error 0x04, s1)
    | (some e, s1) => (finish s1 p sup n (e.pa + va % e.size) e.perm.toNat, s1)

/-- The fixed windows of a core (R104): a home, a hole, or an address to translate. -/
def fixedWindow (core va : Nat) : Option Home :=
  if va < scratchBytes then some (.ok (scratchPa core va))
  else if va < 0x100000 then some (.error 0x03)
  else if va < 0x200000 then some (.ok (hamperPa core (va - 0x100000)))
  else none

/-- The management core of a die as a core number: behind the 4,608 cores of the mesh (notes/assumptions/9.md). -/
def mgmtOf (core : Nat) : Option (Fin 4) := if Config.cores ≤ core && core < Config.cores + 4 then some (Fin.ofNat 4 (core - Config.cores)) else none

/-- A management core that runs the hypervisor (R1, R356). -/
def inHypervisor (s : State) (w : Requester) : Bool :=
  match mgmtOf w.core with
  | some d => w.sup && bitAt (s.pkg.mgmt[d]).hstatus 0
  | none => false

/-- The home of a data access of a context (R104, R108). The hypervisor belongs to no partition, so that no translation and no grant
applies to it: above the fixed windows it names device-physical addresses (DESIGN CHOICE, notes/assumptions/9.md). -/
def resolve (s : State) (w : Requester) (va : Nat) (n : Need) : Home × State :=
  match fixedWindow w.core va with
  | some h => (h, s)
  | none =>
    if inHypervisor s w then (if (regionOf va).isSome then .ok va else .error 0x03, s)
    else translate s (clusterOf w.core) w.part w.sup va n

/-- The home, looked up without touching the cache: what orders accesses of one context by line and by scope. A cached translation
counts, since the access would use it. -/
def homeOf (s : State) (w : Requester) (va : Nat) (n : Need) : Home := (resolve s w va n).1

/-- A scheduler, an index engine or a spill engine reaches memory through the partition's translation and never through fixed
windows (R366, R264, R242). -/
def engineHome (s : State) (p : Nat) (sup : Bool) (va : Nat) (n : Need) : Home :=
  if va < 0x200000 then .error 0x04 else translatePure s p sup va n

/-- Another choice of free bits for the next translation (R109). -/
def bump (s : State) : State := { s with fresh := s.fresh + 1 }

/-! ### Scopes (R293) -/

/-- Whether a home lies within a scope measured from a core. -/
def inScope (sc : Scope) (core pa : Nat) : Bool :=
  match sc, regionOf pa with
  | .system, _ => true
  | _, none => false
  | .package, some r => match r with
    | .host _ | .peer _ _ => false
    | _ => true
  | .die, some r => match r with
    | .scratch c _ | .hamper c _ | .coreWin c _ => dieOf c == dieOf core
    | .hartWin cl _ => dieOfCluster cl == dieOf core
    | .dieWin d _ => d == dieOf core
    | .hbm => (hbmUnit pa).1 == dieOf core
    | _ => false
  | .cluster, some r => match r with
    | .scratch c _ | .hamper c _ | .coreWin c _ => clusterOf c == clusterOf core
    | .hartWin cl _ => cl == clusterOf core
    | _ => false
  | .core, some r => match r with
    | .scratch c _ | .hamper c _ | .coreWin c _ => c == core
    | _ => false

end Sys2Proof.Machine
end

