-- ==== Sys2Proof/Machine/Msg.lean ====
section
/-!
DEFINITION. Messages (R83, R84, R219, R220, R124) and the start of firings (R85 to R87, R91), with the range unit (R90 to R95).
-/
namespace Sys2Proof.Machine

/-! ### The handler table (R81) -/

def handlerOf (c : Core) (cls : Nat) : BitVec 128 := if cls < 20 then c.handlers[Fin.ofNat 20 cls] else 0
def hValid (h : BitVec 128) : Bool := bitAt h 0
def hKind (h : BitVec 128) : Nat := fld h 3 2
def hCtx (h : BitVec 128) : Ctx := if bitAt h 4 then .u else .n
def hEntry (h : BitVec 128) : Nat := fld h 40 24
/-- The four declared channels of an actor entry with their counts: in0, in1, out0, out1. -/
def hActor (h : BitVec 128) : List (Nat × Nat) :=
  [(fld h 59 48, fld h 67 60), (fld h 79 68, fld h 87 80), (fld h 99 88, fld h 107 100), (fld h 119 108, fld h 127 120)]
/-- The declared channels that are used. -/
def hChans (h : BitVec 128) : List Nat := ((hActor h).filter (·.2 != 0)).map (·.1)
/-- The channels that a queued actor firing has reserved. -/
def actorChans (a : Actor) : List Nat := ((a.chans.zip [a.in0, a.in1, a.out0, a.out1]).filter (·.2 != 0)).map (·.1)

/-- A message is bound when its class's entry is valid, for its context, and not an actor or range entry (R84). -/
def boundMsg (c : Core) (hdr : BitVec 128) : Bool :=
  let h := handlerOf c (hdrClass hdr)
  hValid h && hCtx h == hdrCtx hdr && (hKind h == 0 || hKind h == 3)

/-- Run-queue entries of a context: 8 for U, 32 for N (R79). -/
def runqCap : Ctx → Nat
  | .u => 8
  | .n => 32

/-- What a core does with an arriving message (R84, R329, R334). -/
inductive Accept where
  | taken | refused | reset
  deriving DecidableEq, Repr

/-- A cluster in the part of a reset that refuses messages for good (R334 step 4). -/
def resetRefusing (s : State) (cl : Nat) : Bool :=
  match (s.clusterAt cl).resetAt with
  | some t => t + 4096 ≤ s.now
  | none => false

/-- Notes that a message has reached a context: the event of R174, and the time of R85. -/
def noteArrival (s : State) (i : CtxId) : State :=
  s.modCtx i fun k =>
    { k with
      fir := { k.fir with evMsg := true }
      yieldSlot := k.yieldSlot.map fun f => { f with evMsg := true }
      readyAt := if !k.running && k.runq.length ≤ 1 then Nat.max k.readyAt (s.now + 4) else k.readyAt }

/-- A message that no entry takes is discarded, its header logged, and a partition event raised; a group start counts as a
firing that faulted with cause 0x01 (R84). -/
def discardUnbound (s : State) (n : Nat) (m : Msg) : State :=
  let s1 := s.modCore n fun c => { c with evlog := c.evlog ++ [m.hdr] }
  let s2 := partEvent s1 (s.coreAt n).partition 4
  countStart s2 (s.coreAt n).partition m (.faulted 0x01)

/-- A message, an actor firing or a push that reaches a core ends its attempt to steal (R94): what a request that is out brings back
counts for no later one. -/
def endSteal (s : State) (n : Nat) : State :=
  s.modCore n fun c => { c with steal := { c.steal with
    idleSince := none, tried := 0, roundEnd := none, stale := c.steal.waiting.isSome || c.steal.reply.isSome } }

/-- A message reaches its core (R84). -/
def acceptMsg (s : State) (n : Nat) (m : Msg) : Accept × State :=
  let x := hdrCtx m.hdr
  let i : CtxId := ⟨n, x⟩
  let c := s.coreAt n
  let k := c.ctx x
  if resetRefusing s (clusterOf n) then (.reset, s)
  else if k.halted || (s.clusterAt (clusterOf n)).resetAt.isSome then (.refused, s)
  else if !boundMsg c m.hdr then (.taken, discardUnbound (endSteal s n) n m)
  else if k.runq.length < runqCap x then
    (.taken, noteArrival (endSteal (s.modCtx i fun k => { k with runq := k.runq ++ [.msg m] }) n) i)
  else if k.hold.isNone then
    (.taken, noteArrival (endSteal (s.modCtx i fun k => { k with hold := some m }) n) i)
  else (.refused, s)

/-! ### Completions of class 1 (R124, R219, R231) -/

/-- Posts a class-1 completion to a context on behalf of a requester; the header's source core is the requester's (DESIGN CHOICE: log
entry 18). -/
def postCompletion (s : State) (src : EngSrc) (w : Requester) (x : Ctx) (arg addr : Word) (bytes status entry kind : Nat) : State :=
  let pay := packFields [(arg.toNat, 128), (addr.toNat, 64), (bytes % 2 ^ 32, 32), (status, 16), (entry, 8), (kind, 0)]
  postEngine s src w.core
    ⟨header 0 w.launch.toNat w.group.toNat w.depth.toNat w.stage.toNat 24 w.core (deviceNum s) x 1, BitVec.ofNat 1024 pay⟩

/-- A destination of a message has been dealt with; with the last one the slot frees (R219, R220). -/
def dropTargetOf (s : State) (i : CtxId) (k : Nat) (j : Inj) : State :=
  let ts := j.targets.drop 1
  s.modCtx i fun c => { c with inj := if ts.isEmpty then delAt k c.inj else setAt k { j with targets := ts, fails := 0, refused := none } c.inj }

/-- A message is abandoned toward its first destination, and the sender hears of it (R219). The copies of an `mcast` are abandoned one by
one, each reported with its member's core, since those that members accepted are never reported as abandoned. -/
def abandonMsg (s : State) (i : CtxId) (k : Nat) : State :=
  match (s.ctx i).inj[k]? with
  | none => s
  | some j =>
    let s1 := dropTargetOf s i k j
    let h := j.msg.hdr
    let addr : Word := if j.gid.isSome then BitVec.ofNat 64 (packFields [(j.device, 13), (j.targets.headD 0, 0)]) else j.addr
    let w : Requester := {
      core := i.core, x := i.x, part := (s.coreAt i.core).partition, tag := 0
      group := BitVec.ofNat 16 (hdrGroup h), launch := BitVec.ofNat 32 (hdrLaunch h), depth := BitVec.ofNat 4 (fld h 47 44),
      stage := BitVec.ofNat 4 (fld h 43 40), sup := false }
    postCompletion s1 (.iface i.core i.x) w i.x 0 addr (hdrLength h) 2 0xFF 4

/-- Memory accesses and index operations, which releases wait for (R290, R303). -/
def AccKind.isMemory : AccKind → Bool
  | .load _ | .vload _ _ | .peek | .atomic _ _ _ _ | .store _ _ | .block _ _ _ _ | .kick | .index _ _ | .hfillDo _ _ => true
  | _ => false

/-- What an access asks of its page. -/
def AccKind.need : AccKind → Need
  | .store _ _ | .block _ _ _ _ | .kick => .write
  | .atomic _ _ _ _ => .both
  | _ => .read

/-- The home of an access as it stands: the checked one, or where its address translates now. -/
def accHome (s : State) (a : Access) : Option Nat :=
  match a.pa with
  | some pa => some pa
  | none =>
    match a.kind with
    | .index _ _ =>
      -- an index operation is homed at its bucket (R310): its address field holds the bucket's
      match engineHome s a.who.part a.who.sup a.va.toNat .read with
      | .ok pa => some pa
      | .error _ => none
    | .hfillDo b _ => some (hamperPa a.who.core (b * 4096))
    | .kick => some (hartWinBase + clusterOf a.who.core * 0x10000)
    | _ => match homeOf s a.who a.va.toNat a.kind.need with
      | .ok pa => some pa
      | .error _ => none

/-- A channel record, a publish or a cork on its way to its unit. -/
def AccKind.isRecord : AccKind → Bool
  | .chan _ op => match op with
    | .write _ | .pub _ _ | .emit _ | .cork => true
    | _ => false
  | _ => false

/-- Whether the unit that accepts a record of a context lies within a scope: the reader's core, or the churn's die (R293). -/
def recordInScope (s : State) (sc : Scope) (i : CtxId) (a : Access) : Bool :=
  match a.kind with
  | .chan _ _ =>
    let c := s.chanAt a.side.1 a.side.2
    if fld c.cfg 2 1 = 2 then
      match sc with
      | .package | .system => true
      | .die => fld c.cfg 142 141 == dieOf i.core
      | _ => false
    else inScope sc i.core (scratchPa (fld c.cfg 57 45) 0)
  | _ => false

/-- Whether a message has a destination within the scope that has not accepted it. -/
def messageInScope (s : State) (sc : Scope) (i : CtxId) (j : Inj) : Bool :=
  if j.device != deviceNum s then sc == .system else j.targets.any fun t => inScope sc i.core (scratchPa t 0)

/-- Every access of the context before `num` whose home lies within the scope has been performed (R303, R213): the acceptance of its
records counts, and of those of its messages that `msgs` selects (R290). A store whose checks have not completed counts wherever it may
go. -/
def releasedBefore (s : State) (i : CtxId) (num : Nat) (sc : Scope) (msgs : Inj → Bool) : Bool :=
  let k := s.ctx i
  (k.acc.all fun a => a.num ≥ num ||
    (if a.kind.isMemory then
      match accHome s a with
      | some pa => !inScope sc i.core pa
      | none => false
    else !(a.kind.isRecord && recordInScope s sc i a)))
  && k.inj.all fun j => j.num ≥ num || !msgs j || !messageInScope s sc i j

/-- Every message counts for a release. -/
def allMsgs (_ : Inj) : Bool := true

/-- No `fence.rel` before `num` holds an access of which `within` says which scopes hold its home (R213). -/
def fencesPassed (s : State) (i : CtxId) (num : Nat) (within : Scope → Bool) : Bool :=
  (s.ctx i).acc.all fun f => f.num ≥ num || match f.kind with
    | .fence => let sc := f.rel.getD .core; !within sc || releasedBefore s i f.num sc allMsgs
    | _ => true

/-- Whether message `k` of a context may be delivered. It is a release, so the accesses before it come first, the acceptance of earlier
messages and records among them (R303); but an `mcast` and a `send` have no order between them at a member that both go to (R220). Those to one core are delivered
in order, and a refused one holds the later ones for that core and context back (R84, R294). -/
def injReady (s : State) (i : CtxId) (k : Nat) (j : Inj) : Bool :=
  let before := (s.ctx i).inj.take k
  releasedBefore s i j.num j.rel (fun o => o.gid.isSome == j.gid.isSome || o.device != j.device || o.targets.any fun t => some t != j.targets.head?)
    && fencesPassed s i j.num (fun sc => messageInScope s sc i j) &&
  match j.targets with
  | [] => true
  | t :: _ => before.all fun o =>
      !(o.gid.isSome == j.gid.isSome && o.device == j.device && hasNat o.targets t
        && (o.refused.isNone || hdrCtx o.msg.hdr == hdrCtx j.msg.hdr))

/-- One transmission of message `k` of a context to the first core that has not accepted it. Whether another device's core has room is a
free value. -/
def transmit (s : State) (i : CtxId) (k : Nat) : State :=
  match (s.ctx i).inj[k]? with
  | none => s
  | some j =>
    if !injReady s i k j then s
    else
      match j.targets with
      | [] => s.modCtx i fun c => { c with inj := delAt k c.inj }
      | t :: ts =>
        let refused (s1 : State) : State :=
          s1.modCtx i fun c => { c with inj := setAt k { j with targets := ts ++ [t], refused := some s.now } c.inj }
        if j.device != deviceNum s then
          let (fr, s1) := s.nextFresh
          if Config.peerRefuses fr then refused s1 else dropTargetOf s1 i k j
        else
          let s0 := crossPaths s (dieOf i.core) (dieOf t) (hdrTag j.msg.hdr) (s.coreAt i.core).partition
          match acceptMsg s0 t j.msg with
          | (.taken, s1) => dropTargetOf s1 i k j
          | (.refused, s1) => refused s1
          | (.reset, s1) => abandonMsg s1 i k

/-- The die of an engine; a partition's unit and the peers' port are on die 0. -/
def EngSrc.die : EngSrc → Nat
  | .sched d => d
  | .hart cl => dieOfCluster cl
  | .iface core _ => dieOf core
  | .part _ | .peer _ _ => 0

/-- One transmission of engine message `k`: the first of its source to its core and context. -/
def transmitEngine (s : State) (k : Nat) : State :=
  match s.pkg.engine[k]? with
  | none => s
  | some m =>
    let x := hdrCtx m.msg.hdr
    if (s.pkg.engine.take k).any (fun o => o.src == m.src && o.dest == m.dest && (o.refused.isNone || hdrCtx o.msg.hdr == x)) then s
    else
      match acceptMsg (crossPaths s m.src.die (dieOf m.dest) (hdrTag m.msg.hdr) (s.coreAt m.dest).partition) m.dest m.msg with
      | (.taken, s1) | (.reset, s1) =>
        let s2 := s1.modPkg fun p => { p with engine := delAt k p.engine }
        -- a group start refused by a reset never starts: its firing counts as ended by the reset
        if resetRefusing s (clusterOf m.dest) then countStart s2 (s.coreAt m.dest).partition m.msg .killed else s2
      | (.refused, s1) => s1.modPkg fun p => { p with engine := setAt k { m with refused := some s.now } p.engine }

/-! ### Starting firings (R85, R86) -/

/-- The next tag of a context: its sequence skips 0 and the value that would make the tag equal accowner (R80). -/
def tagOf (i : CtxId) (seq : Nat) : BitVec 32 :=
  BitVec.ofNat 32 (packFields [(i.core, 19), ((match i.x with | .n => 0 | .u => 1), 18), (seq, 0)])
def nextSeq (s : State) (i : CtxId) : Nat :=
  let step (q : Nat) : Nat := if q + 1 ≥ 2 ^ 18 then 1 else q + 1
  let q := step (s.ctx i).seq
  if tagOf i q = (s.coreAt i.core).accowner then step q else q

/-- The child cap a firing takes from its launch record (R70). -/
def capOf (s : State) (p handle : Nat) : Nat :=
  match s.launchAt p handle with
  | some l => fld l.record 127 112
  | none => 0

/-- Payload doubleword j (R86). -/
def payloadWord (m : Vec) (j : Nat) : Word := m.extractLsb' (64 * j) 64

/-- x8 and x9, and x10 to x17 or the range's words (R86). -/
def startRegs (k : Context) (hdr : BitVec 128) (args : List Word) (v19 : Vec) : Vector Word 32 × Vector Vec 28 :=
  let base : Vector Word 32 := (((Vector.replicate 32 (0 : Word)).set 2 (k.stklim - 16)).set 8 (hdr.setWidth 64)).set 9 (hdr.extractLsb' 64 64)
  let put := args.foldl (fun (acc : Vector Word 32 × Nat) w => (acc.1.set (Fin.ofNat 32 acc.2) w, acc.2 + 1)) (base, 10)
  (put.1, (Vector.replicate 28 (0 : Vec)).set 27 v19)

/-- Starts a firing of class `cls` in a context (R86); status.spm is none of what a start sets. -/
def startFiring (s : State) (i : CtxId) (hdr : BitVec 128) (args : List Word) (v19 : Vec) (range : Option Range) (actor : Option Actor)
    (opened : List Nat) (start : Bool) : State :=
  let c := s.coreAt i.core
  let k := c.ctx i.x
  let h := handlerOf c (hdrClass hdr)
  let seq := nextSeq s i
  let (x, v) := startRegs k hdr args v19
  let launch := BitVec.ofNat 32 (hdrLaunch hdr)
  let f : Firing := { Firing.reset with
    x := x, v := v, pc := BitVec.ofNat 64 (hEntry h), sup := bitAt h 5, spm := k.fir.spm, cls := hdrClass hdr
    tag := tagOf i seq, group := BitVec.ofNat 16 (hdrGroup hdr), stage := BitVec.ofNat 4 (fld hdr 43 40)
    launch := launch, depth := BitVec.ofNat 4 (fld hdr 47 44)
    range := range, actor := actor, opened := opened, groupStart := start, cap := capOf s c.partition launch.toNat }
  s.setCtx i { k with running := true, fir := f, seq := seq, rb := [], reason := 0, parked := none, skid := none }

/-- A group start starts: its group counts it (R95, R333). -/
def noteStarted (s : State) (gid : Nat) : State := modGroup s gid fun g => { g with started := g.started + 1 }

/-- Whether an issue, a firing start or an actor of a core is stopped: the freeze, a reset, or a stopped device (R274, R334, R361). -/
def coreStopped (s : State) (n : Nat) : Bool :=
  (s.coreAt n).cell.isSome || (s.clusterAt (clusterOf n)).resetAt.isSome || s.pkg.error == 8

/-- The run-queue head leaves; the held message enters (R84). -/
def popRunq (k : Context) : Context :=
  match k.hold with
  | some m => { k with runq := k.runq.drop 1 ++ [.msg m], hold := none }
  | none => { k with runq := k.runq.drop 1 }

/-- Builds the header of a range or actor firing (R86). -/
def ownHeader (s : State) (i : CtxId) (launch group depth stage cls : Nat) : BitVec 128 :=
  header 0 launch group depth stage 0 i.core (deviceNum s) i.x cls

/-- A context with no firing starts one (R85). A queued actor entry whose handler entry has changed since starts at what that entry
holds now (DESIGN CHOICE: log entry 24). -/
def firingStart (s : State) (i : CtxId) : State :=
  let c := s.coreAt i.core
  let k := c.ctx i.x
  if k.running || k.halted || coreStopped s i.core || k.fir.range.isSome then s
  else
    match k.runq.head? with
    | some (.msg m) =>
      let s1 := s.setCtx i (popRunq k)
      if !boundMsg c m.hdr then discardUnbound s1 i.core m
      else
        let start := isGroupStart m.hdr
        let s2 := if start then noteStarted s1 (hdrGroup m.hdr) else s1
        startFiring s2 i m.hdr ((List.range 8).map (payloadWord m.payload)) m.payload none none [] start
    | some (.actor a) =>
      startFiring (s.setCtx i (popRunq k)) i (ownHeader s i 0xFFFFFFFF 0xFFFF 0 0 a.cls) [] 0 none (some a)
        (actorChans a) false
    | some .cont =>
      match k.yieldSlot with
      | none => s.setCtx i (popRunq k)
      | some f => s.setCtx i { popRunq k with running := true, fir := f, yieldSlot := none, rb := [], reason := 0 }
    | none =>
      if dequeEmpty c then s
      else
        let top := dequeRead s i.core ((c.rqbot + dequeCap c - 1) % dequeCap c)
        let h := handlerOf c top.cls.toNat
        if hValid h && hKind h == 2 && hCtx h == i.x then
          let (r, s1) := dequePop s i.core
          startFiring s1 i (ownHeader s i r.launch.toNat r.group.toNat r.depth.toNat r.stage.toNat r.cls.toNat) [r.lo, r.hi, r.arg] 0
            (some r) none [] false
        else s

/-- A remainder kept while the deque was full is pushed back once there is room (R91). -/
def rangeRemainderPush (s : State) (i : CtxId) : State :=
  let k := s.ctx i
  match k.running, k.fir.range with
  | false, some r => if dequeFull (s.coreAt i.core) then s else (dequePush s i.core r).modFir i fun f => { f with range := none }
  | _, _ => s

/-! ### Stealing (R92 to R94) -/

/-- Both contexts have no firing, both run queues and hold slots are empty, and the deque is empty (R94). -/
def coreIdle (c : Core) : Bool :=
  !c.n.running && !c.u.running && c.n.runq.isEmpty && c.u.runq.isEmpty && c.n.hold.isNone && c.u.hold.isNone && dequeEmpty c
/-- A core takes part in stealing while its class-2 entry is valid (R94). -/
def stealing (c : Core) : Bool := hValid (handlerOf c 2)
/-- The victim a core's next request goes to: its cluster's cores cyclically after the own position. -/
def stealVictim (s : State) (n : Nat) : Nat :=
  let cl := clusterOf n
  let own := coreRow n % 4 * 4 + coreCol n % 4
  let i := (own + 1 + (s.coreAt n).steal.tried) % 16
  clusterCore cl (i % 4) (i / 4)

def modSteal (s : State) (n : Nat) (f : Steal → Steal) : State := s.modCore n fun c => { c with steal := f c.steal }

def stealRequest (s : State) (n : Nat) : State :=
  let c := s.coreAt n
  let st := c.steal
  let due := match st.idleSince with
    | some t => t + 32 ≤ s.now
    | none => false
  if stealing c && coreIdle c && due && st.waiting.isNone && st.reply.isNone && st.roundEnd.isNone && st.tried < 15 then
    modSteal s n fun t => { t with waiting := some (stealVictim s n), stale := false }
  else s

/-- Splits a range (R92): what stays and what is given. -/
def splitRange (r : Range) : Range × Range :=
  let n := r.hi.toNat - r.lo.toNat
  let mid := BitVec.ofNat 64 (r.hi.toNat - n / 2)
  ({ r with hi := mid }, { r with lo := mid })

/-- A victim serves the request of a thief (R93). -/
def stealServe (s : State) (thief : Nat) : State :=
  match (s.coreAt thief).steal.waiting with
  | none => s
  | some v =>
    let c := s.coreAt v
    let eligible (r : Range) : Bool :=
      let h := handlerOf (s.coreAt thief) r.cls.toNat
      hValid h && hKind h == 2
    let reply (s : State) (g : Option Range) : State := modSteal s thief fun t => { t with waiting := none, reply := some g }
    let cur (x : Ctx) : Option Range :=
      let k := c.ctx x
      match k.running, k.fir.range with
      | true, some r => if r.lo.toNat + 2 ≤ r.hi.toNat && eligible r then some r else none
      | _, _ => none
    if !stealing c then reply s none
    else if !dequeEmpty c then
      let r := dequeRead s v c.rqtop
      if !eligible r then reply s none
      else if r.lo.toNat + 2 ≤ r.hi.toNat then
        let (a, b) := splitRange r
        reply (dequeWrite s v c.rqtop a) (some b)
      else reply (s.modCore v fun c => { c with rqtop := (c.rqtop + 1) % dequeCap c }) (some r)
    else
      match cur .u, cur .n with
      | some r, _ => let (a, b) := splitRange r; reply (s.modFir ⟨v, .u⟩ fun f => { f with range := some a }) (some b)
      | none, some r => let (a, b) := splitRange r; reply (s.modFir ⟨v, .n⟩ fun f => { f with range := some a }) (some b)
      | none, none => reply s none

/-- A thief receives a grant, which it pushes, or a refusal (R93, R94). A grant waits while the thief's deque is full. -/
def stealReply (s : State) (n : Nat) : State :=
  match (s.coreAt n).steal.reply with
  | none => s
  | some (some r) =>
    if dequeFull (s.coreAt n) then s
    else modSteal (dequePush s n r) n fun t => { t with reply := none, stale := false, tried := 0, roundEnd := none, idleSince := none }
  | some none =>
    modSteal s n fun t =>
      if t.stale || t.idleSince.isNone then { t with reply := none, stale := false, tried := 0 }
      else if t.tried + 1 ≥ 15 then { t with reply := none, tried := 0, roundEnd := some s.now }
      else { t with reply := none, tried := t.tried + 1 }

def stealRoundRetry (s : State) (n : Nat) : State :=
  match (s.coreAt n).steal.roundEnd with
  | some t => if t + 1024 ≤ s.now then modSteal s n fun k => { k with roundEnd := none } else s
  | none => s

/-! ### Donation (R95) -/

/-- Load of a cluster: its live groups, whatever their partition (R66). -/
def clusterLoad (s : State) (cl : Nat) : Nat := ((s.dieAt (dieOfCluster cl)).groups.filter fun g => g.cluster == cl).length

/-- A partition is running (R354). -/
def partRunning (s : State) (p : Nat) : Bool := partState s p == 2

/-- The partition of a cluster's cores. -/
def clusterPart (s : State) (cl : Nat) : Nat := (s.coreAt (clusterCore cl 0 0)).partition

/-- Stage columns of a launch that lie inside the partition (R58): whether cluster column cx belongs. -/
def stageColumn (s : State) (p stage cx : Nat) : Bool :=
  let cols := ((s.partAt p).stgmap[Fin.ofNat 16 stage]).toNat
  let (x0, x1, _, _) := partRect s p
  x0 ≤ cx && cx ≤ x1 && (cols == 0 || bitOf cols cx)

/-- The cluster that the die scheduler names to a donation request (R95): of the same partition and die, the one with the greatest load
above 1, the lowest-numbered of several. -/
def donor (s : State) (p cl : Nat) : Option Nat :=
  ((partClusters s p).filter fun v => dieOfCluster v == dieOfCluster cl && v != cl && clusterLoad s v > 1).foldl
    (fun (b : Option Nat) v => match b with
      | none => some v
      | some w => if clusterLoad s v > clusterLoad s w then some v else b) none

/-- A cluster of a running partition asks for a group (R95). -/
def donationRequest (s : State) (cl : Nat) : State :=
  let c := s.clusterAt cl
  let p := clusterPart s cl
  let idle := (clusterCores cl).all fun n => coreIdle (s.coreAt n)
  if c.asking.isSome || s.now < c.askAt || !idle || c.resetAt.isSome || !partRunning s p || !clusterIn s p cl then s
  else
    match donor s p cl with
    | some v => s.modCluster cl fun c => { c with asking := some v }
    | none => s.modCluster cl fun c => { c with askAt := s.now + 4096 }

/-- A run-queue or held group start of a group. -/
def startOf (gid : Nat) (m : Msg) : Bool := isGroupStart m.hdr && hdrGroup m.hdr == gid

/-- Takes a group's start messages out of a core's queues: what was found, and the core without them. -/
def takeStarts (gid : Nat) (c : Core) : List Msg × Core :=
  let f (k : Context) : List Msg × Context :=
    let q := k.runq.filterMap fun e => match e with
      | .msg m => if startOf gid m then some m else none
      | _ => none
    let h := match k.hold with
      | some m => if startOf gid m then [m] else []
      | none => []
    let k1 := { k with
      runq := k.runq.filter fun e => match e with
        | .msg m => !startOf gid m
        | _ => true
      hold := if h.isEmpty then k.hold else none }
    let k2 := match k1.hold with
      | some m => if q.isEmpty then k1 else { k1 with runq := k1.runq ++ [.msg m], hold := none }
      | none => k1
    (q ++ h, k2)
  let (a, n) := f c.n
  let (b, u) := f c.u
  (a ++ b, { c with n := n, u := u })

/-- The victim of a donation request ships its oldest group of which nothing has started and whose stage columns hold the
thief (R95), or refuses. A group can be shipped once all its starts have reached their cores. After the answer, too, the thief asks again
only 4,096 cycles later: R95 gives that wait for the case that no cluster qualifies, and is silent on this one (DESIGN CHOICE,
notes/assumptions/24.md). -/
def donationServe (s : State) (cl : Nat) : State :=
  match (s.clusterAt cl).asking with
  | none => s
  | some v =>
    let d := dieOfCluster v
    let s0 := s.modCluster cl fun c => { c with asking := none, askAt := s.now + 4096 }
    let queued (g : Group) : Nat := ((clusterCores v).map fun n => (takeStarts g.gid (s.coreAt n)).1.length).foldl (· + ·) 0
    let ok (g : Group) : Bool := g.cluster == v && g.started == 0 && g.ended == 0 && queued g == g.size &&
      match s.launchAt g.part g.handle.toNat with
      | some l => clusterIn s g.part cl && stageColumn s g.part (fld l.record 23 20) (cl % 12)
      | none => false
    match (s.dieAt d).groups.find? ok with
    | none => s0
    | some g =>
      let s1 := (clusterCores v).foldl (fun (s : State) n =>
        let (ms, c) := takeStarts g.gid (s.coreAt n)
        let dest := clusterCore cl (coreCol n % 4) (coreRow n % 4)
        ms.foldl (fun (s : State) m =>
          postEngine s (.hart v) dest { m with hdr := withField m.hdr 31 19 dest }) (s.setCore n c)) s0
      modGroup s1 g.gid fun g => { g with cluster := cl }

end Sys2Proof.Machine
end

