-- ==== Sys2Proof/Machine/Chan.lean ====
section
/-!
DEFINITION. Channels (R236 to R257), spill (R240 to R242), the channel monitor (R245, R246), shared rings (R248, R249), delta
queues and the churn (R258 to R260), cross-partition grants (R251).
-/
namespace Sys2Proof.Machine

/-! ### Descriptor fields (R236) -/

def cV (c : Chan) : Bool := bitAt c.cfg 0
def cClass (c : Chan) : Nat := fld c.cfg 2 1
def cK (c : Chan) : Nat := fld c.cfg 5 3
def cXp (c : Chan) : Bool := bitAt c.cfg 6
def cProxy (c : Chan) : Bool := bitAt c.cfg 7
def cWtype (c : Chan) : Nat := fld c.cfg 9 8
def cRtype (c : Chan) : Nat := fld c.cfg 11 10
def cMgroup (c : Chan) : Nat := fld c.cfg 17 12
def cPool (c : Chan) : Nat := fld c.cfg 21 18
def cMulti (c : Chan) : Bool := bitAt c.cfg 22
def cWcore (c : Chan) : Nat := fld c.cfg 44 32
def cRcore (c : Chan) : Nat := fld c.cfg 57 45
def cXpart (c : Chan) : Nat := fld c.cfg 61 58
def cRingline (c : Chan) : Nat := fld c.cfg 73 64
def cCap (c : Chan) : Nat := fld c.cfg 95 80
def cBound (c : Chan) : Nat := fld c.cfg 119 96
def cTmo (c : Chan) : Nat := fld c.cfg 127 120
def cW (c : Chan) : Nat := fld c.cfg 131 128 + 1
def cH (c : Chan) : Nat := fld c.cfg 135 132 + 1
def cUnit (c : Chan) : Nat := fld c.cfg 140 136
def cHdie (c : Chan) : Nat := fld c.cfg 142 141
def cPeerch (c : Chan) : Nat := fld c.cfg 159 148
def cHring (c : Chan) : Nat := fld c.cfg 511 448
/-- Record size in bytes. -/
def cBytes (c : Chan) : Nat := 8 * 2 ^ cK c
/-- Records accepted and not read. -/
def cDelivered (c : Chan) : Nat := (c.wr - c.rd).toNat
/-- Of those, in the ring. -/
def cInRing (c : Chan) : Nat := cDelivered c - c.sp
/-- The writer cores: the core or the rectangle. -/
def cWriters (c : Chan) : List Nat :=
  (List.range (cW c * cH c)).map fun i => coreAtPos (coreCol (cWcore c) + i % cW c) (coreRow (cWcore c) + i / cW c)
def isWriter (c : Chan) (n : Nat) : Bool := cV c && !cXp c && cWtype c == 0 && hasNat (cWriters c) n
def isReader (c : Chan) (n : Nat) : Bool := cV c && !cProxy c && cRtype c == 0 && cRcore c == n

/-- Where the reader's side of a channel is: a proxy names the other partition's channel (R251). -/
def readerSide (s : State) (p ch : Nat) : Nat × Nat :=
  let c := s.chanAt p ch
  if cProxy c then (cXpart c, cPeerch c) else (p, ch)
/-- Where the writer's endpoint is; none for a cross-partition channel whose proxy has been revoked, or whose place another channel has taken
(R251). -/
def writerSide (s : State) (p ch : Nat) : Option (Nat × Nat) :=
  let c := s.chanAt p ch
  let q := s.chanAt (cXpart c) (cPeerch c)
  if !cXp c then some (p, ch)
  else if cV q && cProxy q && cXpart q == p && cPeerch q == ch then some (cXpart c, cPeerch c) else none

def modChan (s : State) (p ch : Nat) (f : Chan → Chan) : State := s.setChan p ch (f (s.chanAt p ch))

/-- A writer's limit (R243). -/
def cLimit (c : Chan) : Nat := if cMulti c then cBound c / (cW c * cH c) else cBound c
/-- A writer core's known occupancy (R243). -/
def cOcc (c : Chan) (n : Nat) : Nat := (getN n c.occ).getD 0
def addOcc (c : Chan) (n : Nat) : Chan := { c with occ := putN n (cOcc c n + 1) c.occ }
def subOcc (c : Chan) (n : Nat) : Chan := { c with occ := putN n (cOcc c n - 1) c.occ }
/-- A channel access that is on its way to the unit of a channel of a partition. -/
def flightsTo (s : State) (p ch : Nat) : Nat :=
  (s.cores.map fun q => ((q.2.n.acc ++ q.2.u.acc).filter fun a => match a.kind with
    | .chan _ (.write _) | .chan _ (.pub _ _) | .chan _ (.emit _) | .chan _ .cork => a.side == (p, ch)
    | _ => false).length).foldl (· + ·) 0
/-- The occupancy (R243): what the writers know less the credits on their way. Of a cross-partition channel, whose proxy holds what its
writer knows, the records that are on their way, in the churn, in the spill or in the ring. -/
def occupancy (s : State) (p ch : Nat) : Nat :=
  let c := s.chanAt p ch
  if cXp c then
    flightsTo s p ch + cDelivered c + c.fly.length
      + (((getN (cUnit c) (s.dieAt (cHdie c)).churn).getD []).filter fun e => e.part == p && e.ch == ch).length
  else ((c.occ.map (·.2)).foldl (· + ·) 0) - c.credits.length

/-! ### Pools and segments (R240, R241) -/

def pV (d : BitVec 256) : Bool := bitAt d 0
def pResv (d : BitVec 256) : Nat := fld d 127 96
def pFree (d : BitVec 256) : Nat := fld d 159 128
def pTotal (d : BitVec 256) : Nat := fld d 191 160
def pList (d : BitVec 256) : Nat := fld d 255 192
def poolAt (s : State) (p i : Nat) : BitVec 256 := (s.partAt p).pools[Fin.ofNat 16 i]
def setPool (s : State) (p i : Nat) (d : BitVec 256) : State :=
  s.modPart p fun q => { q with pools := q.pools.set (Fin.ofNat 16 i) d }

/-- Records that one segment holds. -/
def segRecords (c : Chan) : Nat := 65280 / cBytes c
/-- Segments for a bound (R240). -/
def segsFor (c : Chan) (bound : Nat) : Nat :=
  if bound ≤ cCap c then 0 else (bound - cCap c + segRecords c - 1) / segRecords c

/-- Gives back reserved segments that the bound no longer needs, once the occupancy allows (R237). -/
def trimSegs (s : State) (p ch : Nat) : State :=
  let c := s.chanAt p ch
  let need := segsFor c (cBound c)
  if c.segs > need && occupancy s p ch ≤ cBound c then
    let d := poolAt s p (cPool c)
    setPool (s.setChan p ch { c with segs := need }) p (cPool c) (withField d 127 96 (pResv d - (c.segs - need)))
  else s

/-- What the spill engine's own access to memory meets: a home it can use, or an error (R242). -/
def spillHome (s : State) (p va n : Nat) (need : Need) : Option Nat :=
  match engineHome s p true va need with
  | .error _ => none
  | .ok pa => if need == .read && (poisonedIn s pa n).isSome then none else some pa

/-- What a step of the spill engine gives: its result, an error that stops the spill (R242), or nothing yet, because the pool has no free
segment, which a pool whose reservations hold never runs out of (R241). -/
inductive Spilled (α : Type) where
  | done (a : α)
  | error
  | wait

/-- Draws a segment: the last of the pool's free list. -/
def drawSegment (s : State) (p pool : Nat) : Spilled (Word × State) :=
  let d := poolAt s p pool
  if pFree d = 0 then .wait
  else
    match spillHome s p (pList d + 8 * (pFree d - 1)) 8 .read with
    | none => .error
    | some pa => .done (BitVec.ofNat 64 (readMem s pa 8), setPool s p pool (withField d 159 128 (pFree d - 1)))

/-- Returns a segment to the end of the pool's free list; none when the list's word cannot be written (R242). -/
def returnSegment (s : State) (p pool : Nat) (seg : Word) : Option State :=
  let d := poolAt s p pool
  (spillHome s p (pList d + 8 * pFree d) 8 .write).map fun pa =>
    writeMem (setPool s p pool (withField d 159 128 (pFree d + 1))) pa 8 seg.toNat
def returnSegments (s : State) (p pool : Nat) (l : List Word) : Option State :=
  l.foldl (fun (acc : Option State) g => acc.bind fun s => returnSegment s p pool g) (some s)

/-- The segments that hold spilled records once the oldest one has left: with the last record none, at the end of a segment those from the one that
its link at 0xFF00 names (R240). None when the link cannot be read. -/
def segmentsAfter (s : State) (p : Nat) (c : Chan) : Option (List Word) :=
  if c.sp = 1 then some []
  else if c.spillHead + 1 < segRecords c then some c.spill
  else match c.spill with
    | [] => none
    | g :: l => (spillHome s p (g.toNat + 0xFF00) 8 .read).map fun pa => BitVec.ofNat 64 (readMem s pa 8) :: l.drop 1
/-- The segments that go back to the pool then. -/
def segmentsBack (c : Chan) : List Word :=
  if c.sp = 1 then c.spill else if c.spillHead + 1 < segRecords c then [] else c.spill.take 1

/-- A spill fault stops the channel's spill and posts a kind 6 event (R242). -/
def spillFault (s : State) (p ch : Nat) : State :=
  let c := s.chanAt p ch
  chanEvent (s.setChan p ch { c with stopped := true }) p 6 0 0 ch (cMgroup c) 0 0

/-- The segment that the next spilled record goes to: the last one in use, or a new one, linked behind it and zero beyond its link
(R240). -/
def spillSegment (s : State) (p ch : Nat) : Spilled (Word × State) :=
  let c := s.chanAt p ch
  match c.spill[(c.spillHead + c.sp) / segRecords c]? with
  | some g => .done (g, s)
  | none =>
    match drawSegment s p (cPool c) with
    | .error => .error
    | .wait => .wait
    | .done (g, s1) =>
      match spillHome s1 p (g.toNat + 0xFF08) 248 .write, c.spill.getLast? with
      | none, _ => .error
      | some pa, none => .done (g, modChan (writeMem s1 pa 248 0) p ch fun c => { c with spill := c.spill ++ [g] })
      | some pa, some prev =>
        match spillHome s1 p (prev.toNat + 0xFF00) 8 .write with
        | none => .error
        | some pb => .done (g, modChan (writeMem (writeMem s1 pa 248 0) pb 8 g.toNat) p ch fun c => { c with spill := c.spill ++ [g] })

/-- Writes one record to the spill. -/
def spillWrite (s : State) (p ch : Nat) (data : Nat) : Spilled State :=
  let c := s.chanAt p ch
  match spillSegment s p ch with
  | .error => .error
  | .wait => .wait
  | .done (g, s1) =>
    match spillHome s1 p (g.toNat + (c.spillHead + c.sp) % segRecords c * cBytes c) (cBytes c) .write with
    | none => .error
    | some pa => .done (modChan (writeMem s1 pa (cBytes c) data) p ch fun c => { c with sp := c.sp + 1 })

/-- The device-physical address of ring slot j of a core reader. -/
def slotPa (c : Chan) (j : Nat) : Nat := scratchPa (cRcore c) (128 * cRingline c + j % Nat.max (cCap c) 1 * cBytes c)

/-- The sinks that reset the watchdog (R336). -/
def sinkReset (s : State) (p : Nat) : State := s.modPart p fun q => { q with wcount := 0, wreported := false }

/-- A plain or delta record arrives at the reader's unit (R242); none while the spill is stopped or when it meets a fault, in which
case the record keeps waiting. -/
def deliver (s : State) (p ch : Nat) (data owner : Nat) : Bool × State :=
  let c := s.chanAt p ch
  let accepted (s : State) : State :=
    sinkReset (modChan s p ch fun c => { c with wr := c.wr + 1, owners := c.owners ++ [owner] }) p
  if c.sp = 0 && cDelivered c < cCap c then (true, accepted (writeMem s (slotPa c c.wr.toNat) (cBytes c) data))
  else if c.stopped then (false, s)
  else match spillWrite s p ch data with
    | .done s1 => (true, accepted s1)
    | .wait => (false, s)
    | .error => (false, spillFault s p ch)

/-- The spill engine moves its oldest record into a free ring slot; a fault or an uncorrectable error of the spill, of a link or of the pool's list
stops it before the record has moved (R242). -/
def spillRefill (s : State) (p ch : Nat) : State :=
  let c := s.chanAt p ch
  if c.sp = 0 || c.stopped || cInRing c ≥ cCap c then s
  else
    let fail := spillFault s p ch
    match c.spill.head? with
    | none => fail
    | some g =>
      match spillHome s p (g.toNat + c.spillHead * cBytes c) (cBytes c) .read, segmentsAfter s p c, returnSegments s p (cPool c) (segmentsBack c) with
      | some pa, some left, some s1 =>
        let s2 := writeMem s1 (slotPa c (c.rd + BitVec.ofNat 32 (cInRing c)).toNat) (cBytes c) (readMem s pa (cBytes c))
        modChan s2 p ch fun c => { c with
          sp := c.sp - 1, spill := left, spillHead := if (segmentsBack c).isEmpty then c.spillHead + 1 else 0 }
      | _, _, _ => fail

/-! ### Firings and reservations (R87, R244) -/

/-- Firings of a context: the running one and the one in the yield slot. -/
def firingsOf (k : Context) : List Firing := (if k.running then [k.fir] else []) ++ k.yieldSlot.toList
/-- Actor firings queued in a context. -/
def queuedActors (k : Context) : List Actor := k.runq.filterMap fun e => match e with
  | .actor a => some a
  | _ => none
/-- Where a saved context of a core is kept. -/
def shadowKey (i : CtxId) : Nat := 2 * i.core + (match i.x with
  | .n => 0
  | .u => 1)
/-- A context as the core holds it, and as it was saved (R329): of the two, one is empty. -/
def contextsOf (s : State) (i : CtxId) : List Context := s.ctx i :: (getN (shadowKey i) s.shadows).toList
/-- What is left of an actor firing's reservations on a channel: records to read, or room to write. -/
def Actor.count (a : Actor) (ch : Nat) (out : Bool) : Nat :=
  let l := a.chans.zip [a.in0, a.in1, a.out0, a.out1]
  (((if out then l.drop 2 else l.take 2).filter (·.1 == ch)).map (·.2)).foldl (· + ·) 0
/-- The actor firings of a core, queued, running, yielded and saved ones, but for the firing with a tag. -/
def actorsOn (s : State) (n : Nat) (but : Option (BitVec 32)) : List Actor :=
  [Ctx.n, Ctx.u].flatMap fun x => (contextsOf s ⟨n, x⟩).flatMap fun k =>
    queuedActors k ++ (firingsOf k).filterMap fun f => if but == some f.tag then none else f.actor
/-- What they have set aside of a channel, which no other firing takes (R87). -/
def setAsideOn (s : State) (n ch : Nat) (out : Bool) (but : Option (BitVec 32)) : Nat :=
  ((actorsOn s n but).map fun a => a.count ch out).foldl (· + ·) 0
/-- Slots of a shared ring that actor firings of its writers have set aside at the reader's unit. -/
def ringAside (s : State) (p ch : Nat) (but : Option (BitVec 32)) : Nat :=
  (s.cores.map fun q => ((actorsOn s q.1 but).map fun a =>
    (((a.chans.drop 2).zip [a.out0, a.out1]).filter fun o => readerSide s q.2.partition o.1 == (p, ch)).foldl (fun n o => n + o.2) 0).foldl (· + ·) 0).foldl
      (· + ·) 0

/-! ### Shared rings (R248, R249) -/

/-- A publish reaches the reader's unit: a void slot's data is discarded with a kind 5 event, also when the void record has been read
(R249). -/
def publish (s : State) (p ch seq data : Nat) : State :=
  let c := s.chanAt p ch
  match (c.ring ++ c.voids).find? fun r => r.seq == seq with
  | none => s
  | some r =>
    if r.void then
      chanEvent (s.setChan p ch { c with voids := c.voids.filter fun t => t.seq != seq }) p 5 0 0 ch (cMgroup c) r.core seq
    else
      let s1 := writeMem s (slotPa c seq) (cBytes c) data
      sinkReset (modChan s1 p ch fun c =>
        { c with wr := c.wr + 1, ring := c.ring.map fun t => if t.seq == seq then { t with published := true } else t }) p

/-- Room for a reservation of n slots beside `aside` that are set aside. -/
def resRoom (c : Chan) (aside n : Nat) : Bool := (c.res - c.rd).toNat + aside + n ≤ cCap c

/-- What the actor firing with a tag has itself set aside of a shared ring. -/
def ownAside (s : State) (p ch : Nat) (tag : BitVec 32) : Nat := ringAside s p ch none - ringAside s p ch (some tag)

/-- A waiting reservation still waits: it has not been withdrawn. -/
def stillAsks (s : State) (q : CtxId × Nat) : Bool :=
  (s.ctx q.1).acc.any fun a => a.num == q.2 && match a.kind with
    | .chan _ (.res _) => true
    | _ => false

/-- The reader's unit grants reservation `num` of n slots of a context now: in the order of arrival (R248), but that one within an actor firing's
own reservation never waits (R87). -/
def resGranted (s : State) (p ch : Nat) (i : CtxId) (tag : BitVec 32) (num n : Nat) : Bool :=
  let c := s.chanAt p ch
  let own := ownAside s p ch tag
  resRoom c (ringAside s p ch none - Nat.min n own) n
    && (n ≤ own || ((c.asking.takeWhile (· != (i, num))).filter (stillAsks s)).isEmpty)

/-- Grants n slots to a core's context: the first sequence number. -/
def grantSlots (s : State) (p ch n : Nat) (i : CtxId) : Nat × State :=
  let c := s.chanAt p ch
  let first := c.res.toNat
  let slots := (List.range n).map fun j => (⟨(first + j) % 2 ^ 32, i.core, i.x, false, false, false, false⟩ : RingSlot)
  (first, s.setChan p ch { c with
    res := c.res + BitVec.ofNat 32 n, ring := c.ring ++ slots
    headAt := if c.ring.isEmpty then s.now else c.headAt })

/-- A head slot unpublished for tmo units raises a kind 4 event, once (R249). -/
def sharedRingHang (s : State) (p ch : Nat) : State :=
  let c := s.chanAt p ch
  match c.ring.head? with
  | some r =>
    if cClass c = 1 && !r.published && !r.void && !r.reported && cTmo c != 0 && c.headAt + cTmo c * 1024 ≤ s.now
        && (s.partAt p).chanEvents.length < queueMax then
      chanEvent (s.setChan p ch { c with ring := { r with reported := true } :: c.ring.drop 1 }) p 4 0 0 ch (cMgroup c) r.core r.seq
    else s
  | none => s

/-- A write to the void register (R249): the slot of this sequence number, reserved and not published. -/
def slotVoid (s : State) (p : Nat) (v : BitVec 64) : State :=
  let ch := fld v 11 0
  let seq := fld v 63 32
  let c := s.chanAt p ch
  if cV c && cClass c == 1 && c.ring.any fun r => r.seq == seq && !r.published && !r.void then
    s.setChan p ch { c with
      err := c.err + 1, wr := c.wr + 1
      ring := c.ring.map fun r => if r.seq == seq then { r with void := true } else r }
  else s

/-! ### Reading (R255) -/

/-- Records that reads can be served from: those delivered, of a shared ring the slots published, or void, in sequence (R244, R248). -/
def cServable (c : Chan) : Nat :=
  if cClass c = 1 then (c.ring.takeWhile fun r => r.published || r.void).length else cDelivered c

/-- The next record can be assigned to a read. -/
def canRead (c : Chan) : Bool :=
  if cClass c = 1 then
    match c.ring.head? with
    | some r => r.published || r.void
    | none => false
  else cInRing c > 0

/-- A read of the firing with a tag on core n is served now: the next record is there, and is not one of those set aside for another firing. -/
def readServed (s : State) (p n ch : Nat) (tag : BitVec 32) : Bool :=
  let c := s.chanAt p ch
  canRead c && setAsideOn s n ch false (some tag) < cServable c

/-- What a read of the head record gives. -/
inductive HeadRec where
  | record (data : Nat)
  | poison (word : Nat)
  deriving DecidableEq, Repr

def headRecord (s : State) (p ch : Nat) : HeadRec :=
  let c := s.chanAt p ch
  let pa := slotPa c c.rd.toNat
  match cClass c, c.ring.head? with
  | 1, some r =>
    if r.void then .record (2 ^ (8 * cBytes c) - 1)
    else match poisonedIn s pa (cBytes c) with
      | some w => .poison w
      | none => .record (readMem s pa (cBytes c))
  | _, _ => match poisonedIn s pa (cBytes c) with
    | some w => .poison w
    | none => .record (readMem s pa (cBytes c))

/-- A slot that its own writer holds and has not published yet (R257). -/
def unpublished (c : Chan) (n seq : Nat) : Bool := (c.ring ++ c.voids).any fun r => r.seq == seq && r.core == n && !r.sent
/-- A publish of a slot issues. -/
def markSent (s : State) (p ch seq : Nat) : State :=
  let f (r : RingSlot) : RingSlot := if r.seq == seq then { r with sent := true } else r
  modChan s p ch fun c => { c with ring := c.ring.map f, voids := c.voids.map f }

/-- Consumes the head record: rd advances, a credit returns to its writer, and segments that a lowered bound kept are let go. -/
def consumeHead (s : State) (p ch : Nat) : State :=
  let s1 := modChan s p ch fun c =>
    if cClass c = 1 then { c with
      rd := c.rd + 1, ring := c.ring.drop 1, headAt := s.now
      voids := c.voids ++ (c.ring.take 1).filter fun r => r.void && !r.published }
    else { c with rd := c.rd + 1, owners := c.owners.drop 1, credits := c.credits ++ c.owners.take 1 }
  trimSegs s1 p ch

/-- A credit reaches a writer's unit (R243). -/
def creditArrival (s : State) (p ch writer : Nat) : State :=
  let c := s.chanAt p ch
  if !hasNat c.credits writer then s
  else
    let s1 := s.setChan p ch { c with credits := dropFirst (· == writer) c.credits }
    trimSegs (match writerSide s p ch with
      | some (wp, wc) => modChan s1 wp wc fun c => subOcc c writer
      | none => s1) p ch

/-! ### The churn (R259, R260) -/

def dqCork (r : BitVec 512) : Bool := bitAt r 112
def dqLength (r : BitVec 512) : Nat := fld r 111 96
def dqMult (r : BitVec 512) : Int := signedOf 32 (fld r 95 64)
/-- Two records match: key, length and the first length payload bytes (R258). -/
def dqMatch (a b : BitVec 512) : Bool :=
  let l := dqLength a
  fld a 63 0 == fld b 63 0 && l == dqLength b && a.toNat / 2 ^ 128 % 2 ^ (8 * l) == b.toNat / 2 ^ 128 % 2 ^ (8 * l)
/-- A record with its multiplicity and ovf bit replaced. -/
def dqWith (r : BitVec 512) (mult : Int) (ovf : Bool) : BitVec 512 :=
  withField (withField r 95 64 (mult % 2 ^ 32).toNat) 113 113 (boolNat ovf)
/-- The cork. -/
def corkRecord : BitVec 512 := BitVec.ofNat 512 (2 ^ 112)

/-- old + mult, saturated to ±(2^31 − 1) with ovf (R259, R266). -/
def satAdd (old mult : Int) : Int × Bool :=
  let t := old + mult
  let m : Int := 2 ^ 31 - 1
  if t > m then (m, true) else if t < -m then (-m, true) else (t, false)

def churnOf (s : State) (die unit : Nat) : List ChurnEntry := (getN unit (s.dieAt die).churn).getD []
def setChurn (s : State) (die unit : Nat) (l : List ChurnEntry) : State :=
  s.modDie die fun d => { d with churn := putN unit l d.churn }

/-- Sends a record from the churn to the reader's unit. -/
def forwardRec (s : State) (p ch : Nat) (r : BitVec 512) (writer : Nat) : State :=
  modChan s p ch fun c => { c with fly := c.fly ++ [(r, writer)] }
/-- Credits a writer for a record that left its occupancy at the churn. -/
def creditWriter (s : State) (p ch writer : Nat) : State := modChan s p ch fun c => { c with credits := c.credits ++ [writer] }

/-- An entry leaves the table: forwarded unless its sum is 0 without ovf, in which case its writer is credited; a dropped entry
counts in gone. -/
def flushEntry (s : State) (e : ChurnEntry) : State :=
  if e.sum != 0 || e.ovf then forwardRec s e.part e.ch (dqWith e.record e.sum e.ovf) e.writer
  else modChan (creditWriter s e.part e.ch e.writer) e.part e.ch fun c => { c with gone := c.gone + 1 }

/-- A delta record reaches the queue's churn. -/
def churnRecord (s : State) (p ch : Nat) (r : BitVec 512) (writer : Nat) : State :=
  let c := s.chanAt p ch
  let tbl := churnOf s (cHdie c) (cUnit c)
  let mine (e : ChurnEntry) : Bool := e.part == p && e.ch == ch && dqMatch e.record r
  if tbl.any mine then
    let upd (e : ChurnEntry) : ChurnEntry :=
      if mine e && !e.ovf then let (t, o) := satAdd e.sum (dqMult r); { e with sum := t, ovf := o } else e
    let s1 := setChurn s (cHdie c) (cUnit c) (tbl.map upd)
    modChan (creditWriter s1 p ch writer) p ch fun c => { c with gone := c.gone + 1 }
  else
    let e : ChurnEntry := ⟨p, ch, r, dqMult r, false, writer⟩
    if tbl.length < 4096 then setChurn s (cHdie c) (cUnit c) (tbl ++ [e])
    else
      match tbl with
      | [] => s
      | old :: rest => setChurn (flushEntry s old) (cHdie c) (cUnit c) (rest ++ [e])

/-- A cork reaches the churn: the one that completes the interval forwards the entries in first-arrival order and one cork. -/
def churnCork (s : State) (p ch : Nat) (writer : Nat) : State :=
  let c := s.chanAt p ch
  let corked := c.corked ++ [writer]
  let need := if cMulti c then cW c * cH c else 1
  if corked.length < need then s.setChan p ch { c with corked := corked }
  else
    let tbl := churnOf s (cHdie c) (cUnit c)
    let own := tbl.filter fun e => e.part == p && e.ch == ch
    let rest := tbl.filter fun e => !(e.part == p && e.ch == ch)
    let s1 := own.foldl flushEntry (setChurn s (cHdie c) (cUnit c) rest)
    let s2 := forwardRec s1 p ch corkRecord writer
    -- every other writer's cork leaves its occupancy now (R260)
    let s3 := (corked.dropLast).foldl (fun (s : State) w => creditWriter s p ch w) s2
    let s4 := modChan s3 p ch fun c => { c with corked := [] }
    match writerSide s p ch with
    | some (wp, wc) => modChan s4 wp wc fun c => { c with unacked := [] }
    | none => s4

/-- A record of the churn arrives at the reader's unit; in the order the churn sent them. -/
def churnArrival (s : State) (p ch k : Nat) : State :=
  match k, (s.chanAt p ch).fly with
  | 0, (r, w) :: rest =>
    match deliver s p ch r.toNat w with
    | (true, s1) => modChan s1 p ch fun c => { c with fly := rest }
    | (false, s1) => s1
  | _, _ => s

/-! ### Open channels, actors (R87, R244, R253) -/

/-- A channel is open in a context: by a firing, saved ones included (R268), or by an actor firing that is queued. -/
def openIn (s : State) (i : CtxId) (ch : Nat) : Bool :=
  (contextsOf s i).any fun k =>
    (firingsOf k).any (fun f => hasNat f.opened ch) || (queuedActors k).any fun a => hasNat (actorChans a) ch
/-- A channel is open in some context of a core. -/
def openOn (s : State) (n ch : Nat) : Bool := openIn s ⟨n, .n⟩ ch || openIn s ⟨n, .u⟩ ch
/-- Some firing of the partition's cores has the channel open. -/
def openAnywhere (s : State) (p ch : Nat) : Bool := s.cores.any fun q => q.2.partition == p && openOn s q.1 ch

/-- A firing of an actor class is queued or running, a saved one included (R268). -/
def actorBusy (s : State) (n cls : Nat) : Bool := (actorsOn s n none).any (·.cls == cls)

/-- Channels of an actor entry that keep it from being ready: an input short of records, or an output short of room, beside what is set aside
already; of a shared ring the room is the reader's unit's (R248). -/
def actorShort (s : State) (n cls : Nat) : List (Nat × Bool) :=
  let core := s.coreAt n
  let h := handlerOf core cls
  let p := core.partition
  let ins := ((hActor h).take 2).filter (·.2 != 0)
  let outs := ((hActor h).drop 2).filter (·.2 != 0)
  let need (l : List (Nat × Nat)) (ch : Nat) : Nat := ((l.filter (·.1 == ch)).map (·.2)).foldl (· + ·) 0
  let reads (ch : Nat) : Bool := let c := s.chanAt p ch; isReader c n && setAsideOn s n ch false none + need ins ch ≤ cServable c
  let writes (ch : Nat) : Bool :=
    let c := s.chanAt p ch
    let (rp, rc) := readerSide s p ch
    isWriter c n && if cClass c = 1 then resRoom (s.chanAt rp rc) (ringAside s rp rc none) (need outs ch)
      else cOcc c n + setAsideOn s n ch true none + need outs ch ≤ cLimit c
  (ins.filter fun q => !reads q.1).map (fun q => (q.1, false)) ++ (outs.filter fun q => !writes q.1).map (fun q => (q.1, true))

/-- An actor entry becomes ready: its counts are reserved and its firing is appended to the run queue (R87). While the run queue is full the
entry stays unready: R87 does not say what becomes of it then (DESIGN CHOICE, notes/assumptions/24.md). A freeze (R274) does not keep an entry
from becoming ready; a reset (R334), a halt (R329) and a stopped device (R361) do. -/
def actorReady (s : State) (n cls : Nat) : State :=
  let c := s.coreAt n
  let h := handlerOf c cls
  let x := hCtx h
  let k := c.ctx x
  let free := (hChans h).all fun ch => !openOn s n ch
  if hValid h && hKind h == 1 && 3 ≤ cls && !actorBusy s n cls && free && (actorShort s n cls).isEmpty && !k.halted
      && (s.clusterAt (clusterOf n)).resetAt.isNone && s.pkg.error != 8 && k.runq.length < runqCap x then
    match (hActor h).map (·.2) with
    | [a, b, d, e] =>
      let s1 := s.modCtx ⟨n, x⟩ fun k => { k with
        runq := k.runq ++ [.actor ⟨cls, (hActor h).map (·.1), a, b, d, e⟩]
        readyAt := if !k.running && k.runq.isEmpty then Nat.max k.readyAt (s.now + 4) else k.readyAt }
      endSteal s1 n
    | _ => s
  else s

/-! ### Descriptor writes (R237, R251) -/

/-- Which channels have a core in their endpoint table (R238). -/
def endpointCount (s : State) (p n : Nat) : Nat :=
  ((s.partAt p).chans.filter fun q => isReader q.2 n || isWriter q.2 n).length

/-- Reserved bits of a descriptor as written. -/
def chanReserved (c : Chan) : Bool :=
  fld c.cfg 31 23 != 0 || fld c.cfg 63 62 != 0 || fld c.cfg 79 74 != 0 || fld c.cfg 147 143 != 0 || fld c.cfg 191 160 != 0

/-- The conditions of R237 on a descriptor's own fields; hunit names one of a die's 24 units (R236). -/
def chanFieldsOk (c : Chan) : Bool :=
  let cls := cClass c
  let host := cWtype c == 1
  !chanReserved c && cls != 3 && cK c ≤ 5 && (cls != 2 || cK c == 3) && cWtype c ≤ 1 && cRtype c ≤ 1 && cUnit c < 24
    && 1 ≤ cCap c && cCap c ≤ cBound c && (!(cls == 1 || host) || cBound c == cCap c)
    && (!cMulti c || (cls == 2 && cW c * cH c ≤ cBound c))
    && (cls == 1 || cMulti c || (cW c == 1 && cH c == 1))
    && (!host || (cls == 0 && cK c == 3 && cRtype c == 1 && cHring c != 0 && cHring c % 4096 == 0))

/-- The conditions of R237 on a descriptor that is to become valid, but for the pool's. -/
def chanOk (s : State) (p : Nat) (c : Chan) : Bool :=
  let host := cWtype c == 1
  chanFieldsOk c
    && (cRtype c != 0 || cProxy c || (128 ≤ cRingline c && 128 * cRingline c + cCap c * cBytes c ≤ scratchBytes))
    && (host || cXp c || (coreCol (cWcore c) + cW c ≤ Config.cols && (cWriters c).all (coreIn s p)))
    && (host || cXp c || (cWriters c).all fun n => endpointCount s p n < 64)
    && (cRtype c != 0 || cProxy c || (cRcore c < Config.cores && endpointCount s p (cRcore c) < 64))

/-- The pool's condition of R237; the loader reports it apart from the others (status 4). -/
def chanPoolOk (s : State) (p : Nat) (c : Chan) : Bool :=
  let n := segsFor c (cBound c)
  cProxy c || n == 0 || (let d := poolAt s p (cPool c); pV d && pResv d + n ≤ pTotal d)

/-- Makes a descriptor valid: counts from 0, segments reserved, endpoints entered. -/
def chanEnable (s : State) (p ch : Nat) (cfg : BitVec 512) : State :=
  let c : Chan := { Chan.reset with cfg := cfg }
  let n := if cProxy c then 0 else segsFor c (cBound c)
  let s1 := s.setChan p ch { c with segs := n }
  if n = 0 then s1 else let d := poolAt s1 p (cPool c); setPool s1 p (cPool c) (withField d 127 96 (pResv d + n))

/-- Takes the channel out of every firing of the partition that has it open (R251). -/
def closeEverywhere (s : State) (p ch : Nat) : State :=
  let cl (f : Firing) : Firing := { f with opened := f.opened.filter (· != ch) }
  let ctx (k : Context) : Context := { k with fir := cl k.fir, yieldSlot := k.yieldSlot.map cl }
  { s with
    cores := s.cores.map fun q => if q.2.partition = p then (q.1, { q.2 with n := ctx q.2.n, u := ctx q.2.u }) else q
    shadows := s.shadows.map fun q => if (s.coreAt (q.1 / 2)).partition = p then (q.1, ctx q.2) else q }

/-- Clearing a proxy's v revokes the channel at once (R251). -/
def xpRevoke (s : State) (p ch : Nat) : State :=
  let c := s.chanAt p ch
  if cV c && cProxy c then closeEverywhere (s.setChan p ch { c with cfg := withField c.cfg 0 0 0 }) p ch else s

/-- A change of the bound of a valid channel (R237): segments reserved or let go, the monitor's watch begun afresh. -/
def writeBound (s : State) (p ch nb : Nat) : State :=
  let c := s.chanAt p ch
  -- a proxy's spill is its reader's side's (R251)
  let need := if cProxy c then 0 else segsFor c nb
  let d := poolAt s p (cPool c)
  let more := need - c.segs
  if nb < Nat.max 1 (cCap c) || ((cClass c == 1 || cWtype c == 1) && nb != cCap c) || (cMulti c && nb < cW c * cH c) || (need > c.segs && !(pV d && pResv d + more ≤ pTotal d)) then s
  else
    let s1 := s.setChan p ch { c with cfg := withField c.cfg 119 96 nb, segs := Nat.max c.segs need }
    let s2 := if more = 0 then s1 else setPool s1 p (cPool c) (withField d 127 96 (pResv d + more))
    let s3 := s2.modPart p fun q => { q with watch := delN (cMgroup c) q.watch }
    trimSegs s3 p ch

/-- The monitor's change of a bound. Of a proxy the reader's side changes first, whose pool gives the segments, and the proxy only if that has
(R251: both have the same bound, and spill and monitor work are done on the reader's side). -/
def growBound (s : State) (p ch nb : Nat) : State :=
  if !cProxy (s.chanAt p ch) then writeBound s p ch nb
  else
    let (rp, rc) := readerSide s p ch
    let s1 := writeBound s rp rc nb
    if cBound (s1.chanAt rp rc) = nb then writeBound s1 p ch nb else s

/-- Sets doubleword dw of a 512-bit image. -/
def setDw512 (w : BitVec 512) (dw : Nat) (v : BitVec 64) : BitVec 512 := withField w (64 * dw + 63) (64 * dw) v.toNat
def getDw512 (w : BitVec 512) (dw : Nat) : BitVec 64 := w.extractLsb' (64 * dw) 64

/-- Bits of each doubleword that a writer may write: the supervisor's, and the hypervisor's own (R236). Reserved bits are kept
as written until v is set, so that R237 can judge them. -/
def chanWritable (dw : Nat) (hyp : Bool) : Nat :=
  match dw with
  | 0 => if hyp then 2 ^ 64 - 1 else 2 ^ 64 - 1 - 0x3C000000000000C0
  | 1 => 2 ^ 64 - 1
  | 2 => if hyp then 2 ^ 64 - 1 else 0xFFFFFFFF000FFFFF
  | 7 => 2 ^ 64 - 1
  | _ => 0

/-- A write of one doubleword of a descriptor (R237). -/
def channelDescriptorWrite (s : State) (p ch dw : Nat) (v : BitVec 64) (hyp : Bool) : State :=
  let c := s.chanAt p ch
  let m := BitVec.ofNat 64 (chanWritable dw hyp)
  let img := setDw512 c.cfg dw ((v &&& m) ||| (getDw512 c.cfg dw &&& ~~~m))
  let special := cXp c || cProxy c
  if special && !hyp then s
  else if !cV c then
    if bitOf img.toNat 0 then
      let c' : Chan := { Chan.reset with cfg := img }
      if chanOk s p c' && chanPoolOk s p c' then chanEnable s p ch img else s
    else s.setChan p ch { c with cfg := img }
  else if dw = 0 && !bitOf v.toNat 0 then
    if cProxy c then (if hyp then xpRevoke s p ch else s)
    else if c.wr = c.rd && c.sp = 0 && !openAnywhere s p ch then
      let s1 := s.setChan p ch { c with cfg := withField c.cfg 0 0 0, segs := 0 }
      if c.segs = 0 then s1 else let d := poolAt s1 p (cPool c); setPool s1 p (cPool c) (withField d 127 96 (pResv d - c.segs))
    else s
  else if dw = 1 && img = withField c.cfg 119 96 (fld v 55 32) then writeBound s p ch (fld v 55 32)
  else s

/-- What a read of doubleword dw of a descriptor gives: fields as written, counters, reserved bits 0. -/
def chanRead (c : Chan) (dw : Nat) : BitVec 64 :=
  let raw := getDw512 c.cfg dw
  match dw with
  | 0 => raw &&& BitVec.ofNat 64 (2 ^ 64 - 1 - 0xC0000000FF800000)
  | 1 => raw &&& BitVec.ofNat 64 (2 ^ 64 - 1 - 0xFC00)
  | 2 => BitVec.ofNat 64 (bitsOf raw.toNat 14 0 + bitsOf raw.toNat 31 20 * 2 ^ 20)
  | 3 => BitVec.ofNat 64 (c.wr.toNat + c.rd.toNat * 2 ^ 32)
  | 4 => BitVec.ofNat 64 (c.sp % 2 ^ 32 + c.res.toNat * 2 ^ 32)
  | 5 => BitVec.ofNat 64 (c.segs % 2 ^ 32 + c.gone.toNat * 2 ^ 32)
  | 6 => BitVec.ofNat 64 (c.err.toNat + c.grow.toNat * 2 ^ 32)
  | _ => raw

/-- A pool descriptor write (R241). -/
def poolDescriptorWrite (s : State) (p pool dw : Nat) (v : BitVec 64) : State :=
  let d := poolAt s p pool
  match dw with
  | 0 =>
    if bitOf v.toNat 0 then
      if pV d then s else setPool s p pool (withField (withField d 0 0 1) 159 128 (pTotal d))
    else if pV d && pResv d == 0 && pFree d == pTotal d then setPool s p pool (withField d 0 0 0) else s
  | 2 => if pV d then s else setPool s p pool (withField d 191 160 (fld v 63 32))
  | 3 => if pV d then s else setPool s p pool (withField d 255 192 v.toNat)
  | _ => s

/-- A write of a channel number to the resume register (R242). -/
def spillResume (s : State) (p : Nat) (v : BitVec 64) : State := modChan s p (fld v 11 0) fun c => { c with stopped := false }

/-! ### The channel monitor (R245, R246) -/

/-- A channel of a context's partition belongs to monitor group g. -/
def inGroup (s : State) (p g ch : Nat) : Bool := let c := s.chanAt p ch; cV c && cMgroup c == g

/-- A context is a member of group g by an open channel of a firing, a yielded one's too; a saved one stays one (R245, R253, R268). -/
def isMember (s : State) (p g : Nat) (i : CtxId) : Bool :=
  (contextsOf s i).any fun k => (firingsOf k).any fun f => f.opened.any (inGroup s p g)

/-- `dq.quiet` can act: every delta queue the firing reads has a cork at its head. -/
def deltaInputs (s : State) (i : CtxId) : List Nat :=
  let p := (s.coreAt i.core).partition
  (s.fir i).opened.filter fun ch => let c := s.chanAt p ch; isReader c i.core && cClass c == 2
def headIsCork (s : State) (p ch : Nat) : Bool :=
  canRead (s.chanAt p ch) && match headRecord s p ch with
    | .record d => bitOf d 112
    | .poison _ => false
def corkServed (s : State) (i : CtxId) (ch : Nat) : Bool :=
  let p := (s.coreAt i.core).partition
  headIsCork s p ch && readServed s p i.core ch (s.fir i).tag
def quietReady (s : State) (i : CtxId) : Bool := (deltaInputs s i).all (corkServed s i)

/-- A pending read, reservation or quiet of the context cannot proceed because of a channel of group g. -/
def stuckEntry (s : State) (i : CtxId) (p g : Nat) (a : Access) : Bool :=
  match a.kind with
  | .chan ch (.read _) => inGroup s p g ch && !readServed s p i.core ch a.who.tag
  | .chan ch (.res n) => inGroup s p g ch && !resGranted s a.side.1 a.side.2 i a.who.tag a.num n
  | .chan _ .quiet => !quietReady s i && (deltaInputs s i).any fun ch => inGroup s p g ch && !corkServed s i ch
  | _ => false

/-- A context is parked on a channel of group g. -/
def parkedOn (s : State) (i : CtxId) (p g : Nat) : Bool :=
  let k := s.ctx i
  !k.halted && ((k.reason == 1 && k.acc.any (stuckEntry s i p g)) || (k.reason == 4 && k.chanWait.any (inGroup s p g)))

/-- Channels of group g at which a context waits for room: not those where it waits behind an unacknowledged cork (R260). -/
def fullAt (s : State) (i : CtxId) (p g : Nat) : List Nat :=
  let k := s.ctx i
  let full (ch : Nat) : Bool := let c := s.chanAt p ch; cLimit c ≤ cOcc c i.core + setAsideOn s i.core ch true (some k.fir.tag)
  (if k.reason == 4 then k.chanWait.toList.filter fun ch => inGroup s p g ch && full ch else [])
    ++ k.acc.filterMap fun a => match a.kind with
      | .chan ch (.res n) => if inGroup s p g ch && !resGranted s a.side.1 a.side.2 i a.who.tag a.num n then some ch else none
      | _ => none

/-- The members of a group: contexts, and actor entries as (core, class). -/
def memberCtxs (s : State) (p g : Nat) : List CtxId :=
  (s.cores.filter fun q => q.2.partition == p).flatMap fun q =>
    ([Ctx.n, Ctx.u].filter fun x => isMember s p g ⟨q.1, x⟩).map fun x => ⟨q.1, x⟩
def memberActors (s : State) (p g : Nat) : List (Nat × Nat) :=
  (s.cores.filter fun q => q.2.partition == p).flatMap fun q =>
    ((List.range 20).filter fun cls =>
      let h := handlerOf q.2 cls
      hValid h && hKind h == 1 && (hChans h).any (inGroup s p g)).map fun cls => (q.1, cls)
/-- An actor entry is not ready because of a channel of group g: one short of records or room, or open in another firing (R244). -/
def actorParked (s : State) (p g : Nat) (a : Nat × Nat) : Bool :=
  !actorBusy s a.1 a.2 && ((actorShort s a.1 a.2).any (fun q => inGroup s p g q.1)
    || (hChans (handlerOf (s.coreAt a.1) a.2)).any fun ch => inGroup s p g ch && openOn s a.1 ch)

/-- A record of group g is on its way to a reader's unit. -/
def recordInFlight (s : State) (p g : Nat) : Bool :=
  (s.partAt p).chans.any (fun q => cMgroup q.2 == g && !q.2.fly.isEmpty) ||
  s.cores.any fun q => [Ctx.n, Ctx.u].any fun x => (q.2.ctx x).acc.any fun a => match a.kind with
    | .chan _ (.write _) | .chan _ (.pub _ _) | .chan _ (.emit _) | .chan _ .cork => a.side.1 == p && inGroup s p g a.side.2
    | _ => false

/-- Every member is parked on a channel of the group and no record is in flight. -/
def groupStuck (s : State) (p g : Nat) : Bool :=
  let ms := memberCtxs s p g
  let as := memberActors s p g
  !(ms.isEmpty && as.isEmpty) && ms.all (fun i => parkedOn s i p g) && as.all (actorParked s p g) && !recordInFlight s p g

/-- The groups a partition watches. -/
def watchedGroups (s : State) (p : Nat) : List Nat :=
  ((s.partAt p).chans.filterMap fun q => if cV q.2 && cMgroup q.2 != 0 then some (cMgroup q.2) else none).foldl (fun l g => insNat g l) []

/-- The members of group g. -/
def membersOf (s : State) (p g : Nat) : Members := ⟨memberCtxs s p g, memberActors s p g⟩
/-- A member has joined a group since events were withheld: activity (R246). -/
def hasJoined (old new : Members) : Bool :=
  new.ctxs.any (fun i => !old.ctxs.any (· == i)) || new.actors.any fun a => !old.actors.any (· == a)

/-- One cycle of the monitor's watch: since when every member of each group has been parked. Activity begins the watch afresh. -/
def watchTick (s : State) (p : Nat) : State :=
  s.modPart p fun q => { q with
    watch := (watchedGroups s p).map fun g =>
      let w := (getN g q.watch).getD ⟨none, none⟩
      if !groupStuck s p g then (g, ⟨none, none⟩)
      else if w.withheld.any fun old => hasJoined old (membersOf s p g) then (g, ⟨some s.now, none⟩)
      else (g, { w with since := some (w.since.getD s.now) }) }

/-- The monitor declares a deadlock of a group after 2,048 parked cycles and acts (R246). While the event queue is full it waits. -/
def channelDeadlock (s : State) (p g : Nat) : State :=
  let q := s.partAt p
  match getN g q.watch with
  | some ⟨some t, none⟩ =>
    if t + 2048 > s.now || !groupStuck s p g || q.chanEvents.length ≥ queueMax then s
    else
      let ms := memberCtxs s p g
      let as := memberActors s p g
      let who := ms.length + as.length
      let full := ms.flatMap (fun i => fullAt s i p g)
        ++ as.flatMap fun a => ((actorShort s a.1 a.2).filter fun r => r.2 && inGroup s p g r.1).map (·.1)
      let withhold (s : State) : State := s.modPart p fun q => { q with watch := putN g ⟨some t, some ⟨ms, as⟩⟩ q.watch }
      if full.isEmpty then withhold (chanEvent s p 2 0 0 0 g who 0)
      else
        let cands := full.filter fun ch => let c := s.chanAt p ch; cClass c != 1 && cWtype c != 1
        let best := cands.foldl (fun (b : Option Nat) ch => match b with
          | none => some ch
          | some w =>
            let x := cBound (s.chanAt p ch)
            let y := cBound (s.chanAt p w)
            if x < y || (x == y && ch < w) then some ch else b) none
        match best with
        | none => withhold (chanEvent s p 3 0 0 0 g who 0)
        | some ch =>
          let c := s.chanAt p ch
          let ob := cBound c
          let nb := Nat.min (2 * ob) 16777215
          let (rp, rc) := readerSide s p ch
          let s1 := growBound s p ch nb
          if ob = 16777215 || cBound (s1.chanAt p ch) != nb then withhold (chanEvent s p 3 0 ob ch g who 0)
          else chanEvent (modChan s1 rp rc fun c => { c with grow := c.grow + 1 }) p 1 nb ob ch g who 0
  | _ => s

end Sys2Proof.Machine
end

