-- ==== Sys2Proof/Machine/Lines.lean ====
section
/-!
DEFINITION. Scratchpad lines and their two bits (R113, R114), windows (R116, R117), and what a read of a control window gives
(R105, R106).
-/
namespace Sys2Proof.Machine

/-! ### Line bits (R113) -/

/-- The scratchpad line of a device-physical address: core and line. -/
def lineOf (pa : Nat) : Option (Nat × Nat) :=
  match regionOf pa with
  | some (.scratch c o) => some (c, o / 128)
  | _ => none
def lineEmpty (s : State) (n l : Nat) : Bool := hasNat (s.coreAt n).empty l
def lineFilling (s : State) (n l : Nat) : Bool := hasNat (s.coreAt n).filling l
/-- A context parked on a line hears of an access performed on it (R174). -/
def noteLine (s : State) (n l : Nat) : State :=
  let f (k : Context) : Context := match k.parked with
    | some q => if q.line == some l then { k with evLine := true } else k
    | none => k
  s.modCore n fun c => { c with n := f c.n, u := f c.u }
/-- The accesses that wait at a line may go, in their order: loads when it has become full, stores when fill-pending has cleared (R113,
R114). -/
def readyWaits (l : Nat) (load : Bool) (c : Core) : Core :=
  { c with waits := c.waits.map fun w => if w.line = l && w.load == load then { w with ready := true } else w }
def setFull (s : State) (n l : Nat) : State :=
  noteLine (s.modCore n fun c => readyWaits l true { c with empty := delNat l c.empty }) n l
def setEmpty (s : State) (n l : Nat) : State := noteLine (s.modCore n fun c => { c with empty := insNat l c.empty }) n l
/-- A fill or copy claims a line: it is emptied and fill-pending (R113). -/
def claimLine (s : State) (n l : Nat) : State := (setEmpty s n l).modCore n fun c => { c with filling := insNat l c.filling }
/-- A cancelled line: no longer fill-pending, still empty (R113). -/
def releaseLine (s : State) (n l : Nat) : State := s.modCore n fun c => readyWaits l false { c with filling := delNat l c.filling }
/-- A fill store: all 128 bytes, the line full and no longer fill-pending (R113). -/
def fillStore (s : State) (n l v : Nat) : State := setFull (releaseLine (writeMem s (scratchPa n (128 * l)) 128 v) n l) n l

/-! ### Waiting at a bank (R113, R114) -/

/-- A wait is that of one access of a context. -/
def LineWait.isOf (w : LineWait) (i : CtxId) (a : Access) : Bool := w.ctx == i && w.num == a.num && w.pos == a.pos
/-- The access of a wait still waits at core n: neither withdrawn nor issued again since. -/
def liveWait (s : State) (n : Nat) (w : LineWait) : Bool :=
  (s.ctx w.ctx).acc.any fun a => w.isOf w.ctx a && a.pa.any fun pa => lineOf pa == some (n, w.line)
/-- An access of a context waits at core n's scratchpad. -/
def waitAt (s : State) (n : Nat) (i : CtxId) (a : Access) : Option LineWait :=
  if a.pa.isNone then none else (s.coreAt n).waits.find? fun w => w.isOf i a
/-- No access that may go precedes this one at its line. -/
def firstAt (s : State) (n l : Nat) (i : CtxId) (a : Access) : Bool :=
  (((s.coreAt n).waits.takeWhile fun w => !w.isOf i a).filter fun w => w.line == l && w.ready && liveWait s n w).isEmpty
/-- Remote requests that the bank of a line holds. -/
def heldRemote (s : State) (n l : Nat) : Nat :=
  ((s.coreAt n).waits.filter fun w => w.line % 8 == l % 8 && w.ctx.core != n && liveWait s n w).length
/-- A bank's room for remote requests (R114). -/
def bankMax : Nat := 16

/-- What a bank does with an access. -/
inductive BankAnswer where
  | go | wait | refuse
  deriving DecidableEq, Repr

/-- Access `a` of a context, at the bank of line l of core n; `blocked` says that the line's bits keep it waiting. One that has waited
goes once its line has let it go, whatever the bits are now; others follow in order of arrival. -/
def bankAnswer (s : State) (n l : Nat) (i : CtxId) (a : Access) (blocked : Bool) : BankAnswer :=
  match waitAt s n i a with
  | some w => if w.ready && firstAt s n l i a then .go else .wait
  | none =>
    if !blocked && firstAt s n l i a then .go
    else if blocked && i.core != n && heldRemote s n l ≥ bankMax then .refuse
    else .wait

/-- An access that the line's bits keep waiting joins those that wait. -/
def joinWaits (s : State) (n l : Nat) (i : CtxId) (a : Access) (load : Bool) : State :=
  if (waitAt s n i a).isSome then s
  else s.modCore n fun c => { c with waits := (c.waits.filter fun w => !w.isOf i a && liveWait s n w) ++ [⟨l, i, a.num, a.pos, load, false⟩] }
/-- An access leaves the bank. -/
def leaveWaits (s : State) (n : Nat) (i : CtxId) (a : Access) : State :=
  if (s.coreAt n).waits.isEmpty then s else s.modCore n fun c => { c with waits := c.waits.filter fun w => !w.isOf i a }

/-! ### Device links (R351, R352) -/

/-- The link that carries traffic to a device: one with a valid route. -/
def linkOf (s : State) (dev : Nat) : Option (Fin 16) :=
  let r := routeOf s dev
  if bitAt r 7 then some (Fin.ofNat 16 (fld r 3 0)) else none
def linkUp (s : State) (dev : Nat) : Bool :=
  match linkOf s dev with
  | some l => (s.pkg.links[l]).up
  | none => false
/-- The home is on a device whose link is down: nothing reaches it (R350, R352). -/
def linkWaits (s : State) (pa : Nat) : Bool :=
  match regionOf pa with
  | some (.peer d _) => !linkUp s d
  | _ => false

/-- A flit of a firing with a tag, or of an engine, has crossed its link; an armed path error has struck it (R130). -/
def linkPassed (s : State) (dev tag part : Nat) : State :=
  match linkOf s dev with
  | some l => strikePath (s.modPkg fun k => { k with links := k.links.set l { k.links[l] with fails := 0 } }) (.die 0 (27 + l.val)) tag part
  | none => s

/-- Flits of an agent on die d pass to or from a home, over a link if it is on another device. -/
def passPaths (s : State) (d tag part pa : Nat) : State :=
  match destUnit pa with
  | some (.peer dev) => linkPassed s dev tag part
  | _ => homePaths s d tag part pa

/-! ### Window entries (R116) -/

def wV (w : Window) : Bool := bitAt w.bits 0
def wState (w : Window) : Nat := fld w.bits 3 2
def wLine (w : Window) : Nat := fld w.bits 21 12
def wLines (w : Window) : Nat := fld w.bits 31 22 + 1
def wRows (w : Window) : Nat := fld w.bits 127 112
def wRowbytes (w : Window) : Nat := fld w.bits 159 128
def wStride (w : Window) : Nat := fld w.bits 191 160
def wTile (w : Window) : Nat := fld w.bits 255 192
def winAt (c : Core) (e : Nat) : Window := c.wins[Fin.ofNat 8 e]
def setWin (s : State) (n e : Nat) (w : Window) : State := s.modCore n fun c => { c with wins := c.wins.set (Fin.ofNat 8 e) w }
def setWinState (s : State) (n e st : Nat) : State :=
  let w := winAt (s.coreAt n) e
  setWin s n e { w with bits := withField w.bits 3 2 st }

/-- The ranges of R116's fields, its first two conditions, and that no line lies in the code region, lines 0 to 127 (R22). -/
def winSizeOk (w : Window) : Bool :=
  1 ≤ wRows w && 1 ≤ wRowbytes w && wRows w * wRowbytes w ≤ 128 * wLines w && wLine w + wLines w ≤ 768 && 128 ≤ wLine w

/-- The three conditions of R116 on an image for entry e. -/
def winOk (c : Core) (e : Nat) (w : Window) : Bool :=
  winSizeOk w
    && (List.range 8).all fun j =>
      let o := winAt c j
      j == e || !wV o || wLine w + wLines w ≤ wLine o || wLine o + wLines o ≤ wLine w

/-- The valid entry, absent, that a line belongs to. -/
def absentWindow (c : Core) (l : Nat) : Option Nat :=
  (List.range 8).find? fun e =>
    let w := winAt c e
    wV w && wState w == 0 && wLine w ≤ l && l < wLine w + wLines w

/-! ### Service-hart requests -/

/-- Requests of a cluster's queue (R118). -/
def hartMax : Nat := 32

/-- The lowest free slot of a queue that is not full. -/
def freeSlot (c : Cluster) : Option Nat := (List.range hartMax).find? fun k => !c.reqs.any fun r => r.slot == k

/-- A request enters the queue; a fill request waits in its core while the queue is full (R118). -/
def enqueueFill (s : State) (cl : Nat) (r : HartReq) : State :=
  s.modCluster cl fun c =>
    match freeSlot c with
    | some k => { c with reqs := c.reqs ++ [{ r with slot := k }] }
    | none => { c with waiting := c.waiting ++ [r] }

/-- A kill of the requester's group is in progress: a request that one of its issued accesses makes now is cancelled too (R333). -/
def beingKilled (s : State) (who : Requester) : Bool := (s.partAt who.part).killing.any fun q => q.1 == who.group.toNat

/-- The first touch of an absent window (R117): its lines are claimed and a fill request queued. -/
def touchWindow (s : State) (n e : Nat) (who : Requester) (num : Nat) : State :=
  let w := winAt (s.coreAt n) e
  let s1 := (List.range (wLines w)).foldl (fun (s : State) k => claimLine s n (wLine w + k)) s
  let s2 := setWin s1 n e { w with bits := withField w.bits 3 2 1, who := some who }
  enqueueFill s2 (clusterOf n)
    { slot := 0, who := who, win := some e, addr := BitVec.ofNat 64 (wTile w), state := .active, src := BitVec.ofNat 64 (wTile w)
      dst := BitVec.ofNat 64 (128 * wLine w), sstride := wStride w, dstride := 0, rowbytes := wRowbytes w, rows := wRows w
      mbox := 0, notify := true, nctx := who.x, arg := 0, cursor := 0, replayed := false, cancel := beingKilled s who, after := some num }

/-! ### Reading control windows -/

/-- Doubleword j of a 256-bit image. -/
def dw256 (w : BitVec 256) (j : Nat) : Word := w.extractLsb' (64 * j) 64

/-- Error-log registers at offsets relative to a window: log base, overflow, injection (R129). -/
def logRead (s : State) (a : ErrArray) (o : Nat) : Word := dw256 ((getLog s a).entries[Fin.ofNat 8 (o / 32)]) (o % 32 / 8)

/-- A doubleword of a core control window (R106). -/
def coreWinRead (s : State) (n o : Nat) : Word :=
  let c := s.coreAt n
  if 0x100 ≤ o && o < 0x240 then (handlerOf c ((o - 0x100) / 16)).extractLsb' (64 * (o % 16 / 8)) 64
  else if 0x400 ≤ o && o < 0x500 then dw256 (winAt c ((o - 0x400) / 32)).bits (o % 32 / 8)
  else if 0x800 ≤ o && o < 0xB00 then logRead s (.core n ((o - 0x800) / 0x100)) (o % 0x100)
  else if 0xB00 ≤ o && o < 0xB18 then (getLog s (.core n ((o - 0xB00) / 8))).overflow
  else if 0xC00 ≤ o && o < 0xC18 then (getLog s (.core n ((o - 0xC00) / 8))).inject
  else 0

/-- A doubleword of a service-hart window; the microcode's 32 KiB lie at 0x8000 (log entry 5). -/
def hartWinRead (s : State) (cl o : Nat) : Word :=
  if 0x800 ≤ o && o < 0x900 then logRead s (.cluster cl) (o % 0x100)
  else if o = 0xB00 then (getLog s (.cluster cl)).overflow
  else if o = 0xC00 then (getLog s (.cluster cl)).inject
  else if 0x8000 ≤ o then
    BitVec.ofNat 64 ((List.range 8).foldl (fun v k => v + (Config.microcode (o - 0x8000 + k)).toNat * 256 ^ k) 0)
  else 0

/-- The record at a queue's slot; slots past the last record read 0 (R125). -/
def queueSlot {w : Nat} (l : List (BitVec w)) (k : Nat) : BitVec w := if k < queueMax then l[k]?.getD 0 else 0

/-- Index descriptor (R264). -/
def indexAt (s : State) (p i : Nat) : BitVec 512 := (getN i (s.partAt p).indexes).getD 0

/-- A doubleword of a partition control window. -/
def partWinRead (s : State) (p o : Nat) : Word :=
  let q := s.partAt p
  if o = 0x800 then q.ptroot
  else if 0x1000 ≤ o && o < 0x1400 then dw256 (q.ranges[Fin.ofNat 32 ((o - 0x1000) / 32)]) (o % 32 / 8)
  else if 0x2000 ≤ o && o < 0x2800 then dw256 (queueSlot q.copyFaults ((o - 0x2000) / 32)) (o % 32 / 8)
  else if o = 0x2800 then BitVec.ofNat 64 (Nat.min q.copyFaults.length queueMax)
  else if 0x40000 ≤ o && o < 0x80000 then chanRead (s.chanAt p ((o - 0x40000) / 64)) (o % 64 / 8)
  else if 0x80000 ≤ o && o < 0x84000 then getDw512 (indexAt s p ((o - 0x80000) / 64)) (o % 64 / 8)
  else if 0x84000 ≤ o && o < 0x84200 then dw256 (poolAt s p ((o - 0x84000) / 32)) (o % 32 / 8)
  else if 0x89000 ≤ o && o < 0x89400 then (queueSlot q.chanEvents ((o - 0x89000) / 16)).extractLsb' (64 * (o % 16 / 8)) 64
  else if o = 0x90000 then q.gangtmo
  else if o = 0x90118 then q.pstat
  else if o = 0x90120 then q.psave
  else if o = 0x90128 then (if q.killing.isEmpty then 0 else 0x10000)
  else if o = 0x90138 then q.wdog
  else if o = 0x90140 then q.hangbuf
  else if o = 0x90200 then q.pevcfg
  else if o = 0x90208 then q.pevpend.setWidth 64
  else if o = 0x90210 then q.pcra
  else if o = 0x90218 then q.pcdata
  else if 0x90300 ≤ o && o < 0x90380 then (q.stgmap[Fin.ofNat 16 ((o - 0x90300) / 8)]).setWidth 64
  else if 0x91000 ≤ o && o < 0x91800 then dw256 (queueSlot q.faultEvents ((o - 0x91000) / 32)) (o % 32 / 8)
  else if 0x92000 ≤ o && o < 0x92200 then q.hqchan[Fin.ofNat 64 ((o - 0x92000) / 8)]
  else 0

def monAt (s : State) (d i : Nat) : Monitor := (getN i (s.dieAt d).monitors).getD Monitor.reset

/-- Arrays of a die with an error log: the links belong to die 0 (R129). -/
def dieArrays (d : Nat) : Nat := if d = 0 then 43 else 27

/-- A doubleword of a die control window; colrep is read at offset 0, since R77 gives it none (DESIGN CHOICE, notes/assumptions/5.md). -/
def dieWinRead (s : State) (d o : Nat) : Word :=
  if o = 0 then (s.dieAt d).colrep.setWidth 64
  else if 0x200000 ≤ o && o < 0x202000 then
    let m := monAt s d ((o - 0x200000) / 0x100)
    let r := o % 0x100
    if r = 0 then m.cfg else if r = 8 then m.min else if r = 0x10 then m.max else if r = 0x18 then m.count
    else if 0x40 ≤ r && r < 0x80 then (m.bins[Fin.ofNat 16 ((r - 0x40) / 4 + 1)]).setWidth 64 <<< 32 ||| (m.bins[Fin.ofNat 16 ((r - 0x40) / 4)]).setWidth 64
    else 0
  else if 0x300000 ≤ o && o < 0x300000 + 0x100 * dieArrays d then logRead s (.die d ((o - 0x300000) / 0x100)) (o % 0x100)
  else if 0x304000 ≤ o && o < 0x304000 + 8 * dieArrays d then (getLog s (.die d ((o - 0x304000) / 8))).overflow
  else if 0x305000 ≤ o && o < 0x305000 + 8 * dieArrays d then (getLog s (.die d ((o - 0x305000) / 8))).inject
  else if d != 0 then 0
  else if 0x100000 ≤ o && o < 0x100800 then (s.pkg.parts[Fin.ofNat 16 ((o - 0x100000) / 0x80)]).extractLsb' (64 * (o % 0x80 / 8)) 64
  else if 0x110000 ≤ o && o < 0x111000 then (s.pkg.keys[Fin.ofNat 64 ((o - 0x110000) / 64)]).extractLsb' (64 * (o % 64 / 8)) 64
  else if 0x120000 ≤ o && o < 0x121000 then
    BitVec.ofNat 64 ((List.range 8).foldl (fun v k => v + (routeOf s (o - 0x120000 + k)).toNat * 256 ^ k) 0)
  else if 0x121000 ≤ o && o < 0x121100 then dw256 (s.pkg.exports[Fin.ofNat 8 ((o - 0x121000) / 32)]) (o % 32 / 8)
  else if o = 0x121100 then s.pkg.refusals
  else if o = 0x121108 then s.pkg.bar2base
  else 0

/-- The doubleword of a control window that holds an address; 0 where the window has no register. -/
def winRead (s : State) (pa : Nat) : Word :=
  let a := pa - pa % 8
  match regionOf a with
  | some (.coreWin n o) => coreWinRead s n o
  | some (.hartWin cl o) => hartWinRead s cl o
  | some (.dieWin d o) => dieWinRead s d o
  | some (.partWin p o) => partWinRead s p o
  | _ => 0

/-- `n` bytes at a home, as a little-endian number; of the host's memory and of a peer's they are free values. -/
def readHome (s : State) (pa n : Nat) : Nat :=
  match regionOf pa with
  | some (.host o) => (List.range n).foldl (fun v k => v + (Config.hostByte s.fresh (o + k)).toNat * 256 ^ k) 0
  | some (.peer d o) => (List.range n).foldl (fun v k => v + (Config.peerByte s.fresh d (o + k)).toNat * 256 ^ k) 0
  | some .hbm | some (.scratch _ _) | some (.hamper _ _) => readMem s pa n
  | some _ =>
    (List.range ((pa % 8 + n + 7) / 8)).foldl (fun v k => v + (winRead s (pa - pa % 8 + 8 * k)).toNat * 2 ^ (64 * k)) 0
      / 2 ^ (8 * (pa % 8)) % 2 ^ (8 * n)
  | none => 0

/-- A peer device refuses a read or an atomic at this home: a free value (R353). -/
def peerRefuses (s : State) (pa : Nat) : Bool :=
  match regionOf pa with
  | some (.peer _ _) => Config.peerRefuses s.fresh
  | _ => false

/-- Memory that holds bytes of its own: HBM, scratchpads, hampers. -/
def isPlain (pa : Nat) : Bool :=
  match regionOf pa with
  | some .hbm | some (.scratch _ _) | some (.hamper _ _) => true
  | _ => false

/-- A control window. -/
def isWindow (pa : Nat) : Bool :=
  match regionOf pa with
  | some (.coreWin _ _) | some (.hartWin _ _) | some (.dieWin _ _) | some (.partWin _ _) => true
  | _ => false

/-- A write by any agent outside control windows, on behalf of the firing with a tag: the bytes, or what leaves for the host (R308); the
sinks of the watchdog, and a context parked on the line. -/
def storeBytesBy (s : State) (p tag pa n v : Nat) : State :=
  let s1 := if isPlain pa then writeMemBy s tag pa n v else s
  let s2 := match regionOf pa with
    | some .hbm => sinkReset s1 p
    | some (.host o) => sendHost s1 (.write o n v)
    | _ => s1
  match lineOf pa with
  | some (c, l) => noteLine s2 c l
  | none => s2
/-- An engine's write. -/
def storeBytes (s : State) (p pa n v : Nat) : State := storeBytesBy s p 0 pa n v

end Sys2Proof.Machine
end

