-- ==== Sys2Proof/Machine/Flow.lean ====
section
/-!
DEFINITION. How an instruction completes: hardware loops (R161 to R163), the next pc, the counts of R176 and R324, and the ports
(R48, R96).
-/
namespace Sys2Proof.Machine

/-! ### Loops -/

/-- The control-register form of a loop level (R162). -/
def Loop.toWord (l : Loop) : Word :=
  BitVec.ofNat 64 (packFields [(l.lc.toNat, 32), (l.stop.toNat, 17), (l.start.toNat, 2), (boolNat l.act, 0)])
def Loop.ofWord (w : Word) : Loop :=
  ⟨bitAt w 0, BitVec.ofNat 15 (fld w 16 2), BitVec.ofNat 15 (fld w 31 17), BitVec.ofNat 32 (fld w 63 32)⟩

/-- The active levels fill loopst first (R162). -/
def Firing.fillLoops (f : Firing) : Firing :=
  if !f.inner.act && f.outer.act then { f with inner := f.outer, outer := { f.outer with act := false } } else f

/-- Deactivates the inner level (R163). -/
def Firing.dropLoop (f : Firing) : Firing :=
  if f.outer.act then { f with inner := f.outer, outer := { f.outer with act := false } }
  else { f with inner := { f.inner with act := false } }

/-- What an instruction did to control. -/
inductive Xfer where
  /-- nothing: it goes on at the address -/
  | next (a : Word)
  /-- a taken branch of major 0x0B -/
  | branch (a : Word)
  /-- `jal`, `jalr` -/
  | jump (a : Word)
  deriving DecidableEq, Repr

def Xfer.target : Xfer → Word
  | .next a => a
  | .branch a => a
  | .jump a => a

/-- Whether a byte address lies in a level's body, both ends included. -/
def Loop.has (l : Loop) (a : Word) : Bool := l.start.toNat ≤ a.toNat / 4 && a.toNat / 4 ≤ l.stop.toNat

/-- The rule of R163 for an instruction at `pc`, over at most `n` levels. -/
def loopRule : Nat → Word → Xfer → Firing → Firing
  | 0, _, t, f => { f with pc := t.target }
  | n + 1, pc, t, f =>
    let l := f.inner
    if !l.act then { f with pc := t.target }
    else if pc.toNat / 4 = l.stop.toNat then
      match t with
      | .next a =>
        if l.lc != 0 then { f with inner := { l with lc := l.lc - 1 }, pc := (l.start.setWidth 64) <<< 2 }
        else loopRule n pc (.next a) f.dropLoop
      | .branch a => if l.has a then { f with pc := a } else { f.dropLoop with pc := a }
      | .jump a => if l.has a then { f with pc := a } else { f.dropLoop with pc := a }
    else
      match t with
      | .branch a => if l.has a then { f with pc := a } else loopRule n pc t f.dropLoop
      | _ => { f with pc := t.target }

/-- An instruction at the pc completes (R163): control, `retired`. -/
def complete (s : State) (i : CtxId) (t : Xfer) : State :=
  s.modCtx i fun k => { k with fir := loopRule 2 k.fir.pc t k.fir, retired := k.retired + 1, reason := 0 }

/-- An instruction of `len` bytes completes and execution goes on behind it. -/
def completeNext (s : State) (i : CtxId) (len : Nat) : State :=
  complete s i (.next ((s.fir i).pc + BitVec.ofNat 64 len))

/-- An instruction issues: counted toward the skid (R324). -/
def countIssue (s : State) (i : CtxId) : State := s.modCtx i fun k => { k with issued := k.issued + 1, skid := k.skid.map (· + 1) }

/-! ### Ports -/

def portAt (k : Context) (d : Dir) : Port := k.ports[dirFin d]
def setPort (k : Context) (d : Dir) (p : Port) : Context := { k with ports := k.ports.set (dirFin d) p }

/-- The head flit of a port. -/
def portHead (k : Context) (d : Dir) : Option Flit := (portAt k d).q.head?
/-- Room for `n` flits in a FIFO, those on their way counted. -/
def portRoom (k : Context) (d : Dir) (n : Nat) : Bool := (portAt k d).q.length + (portAt k d).fly.length + n ≤ 4
/-- Consumes the head flit. -/
def popPort (s : State) (i : CtxId) (d : Dir) : State :=
  s.modCtx i fun k => setPort k d { portAt k d with q := (portAt k d).q.drop 1 }

/-- The neighbour a port reaches; none when it faces beyond the mesh or the partition (R48). -/
def portPeer (s : State) (i : CtxId) (d : Dir) : Option Nat :=
  match neighbour i.core d with
  | some n => if coreIn s (s.coreAt i.core).partition n then some n else none
  | none => none

/-- Sends a flit: it is on its way to the neighbour's FIFO on the side that faces the writer (R96). -/
def sendFlit (s : State) (i : CtxId) (d : Dir) (f : Flit) : State :=
  match neighbour i.core d with
  | none => s
  | some n => s.modCtx ⟨n, i.x⟩ fun k =>
      let q := portAt k (dirBack d)
      setPort k (dirBack d) { q with fly := q.fly ++ [f] }

/-- A flit reaches the FIFO of a context (R96) and is an event for it (R174). -/
def flitArrival (s : State) (i : CtxId) (d : Dir) : State :=
  let q := portAt (s.ctx i) d
  match q.fly with
  | [] => s
  | f :: rest =>
    s.modCtx i fun k =>
      { setPort k d { q := q.q ++ [f], fly := rest } with
        fir := { k.fir with evFlit := true }
        yieldSlot := k.yieldSlot.map fun y => { y with evFlit := true } }

/-- A write of a destination in program order supersedes the outstanding results that target it (R98). -/
def supersede (d : Dest) (k : Context) : Context :=
  { k with rb := k.rb.map fun e => if e.dest = d then { e with super := true } else e }

/-- A write of lat keeps earlier outstanding vector results from writing it when they land (R184). -/
def supersedeLat (k : Context) : Context :=
  { k with rb := k.rb.map fun e => { e with superLat := true } }

/-- Writes a scalar result: a register, or a flit to a port. -/
def writeDest (s : State) (i : CtxId) (d : Reg) (v : Word) : State :=
  match portDir d with
  | some p => sendFlit s i p ⟨false, v.setWidth 1024⟩
  | none => s.modCtx i fun k => supersede (.x d) { k with fir := k.fir.writeX d v }

/-- Writes lat. -/
def writeLat (s : State) (i : CtxId) (v : Vec) : State :=
  s.modCtx i fun k => supersedeLat (supersede (.v 0) { k with fir := k.fir.setLat v })

/-- Writes a vector result to its destination and to lat (R182): a register, or a flit to a port. -/
def writeVecDest (s : State) (i : CtxId) (d : VReg) (v : Vec) : State :=
  match portDir d with
  | some p => writeLat (sendFlit s i p ⟨true, v⟩) i v
  | none => (writeLat s i v).modCtx i fun k => supersede (.v (vIdx d)) { k with fir := k.fir.writeV (vIdx d) v }

/-- Writes a mask register. -/
def writeMask (s : State) (i : CtxId) (d : MReg) (v : Word) : State :=
  s.modCtx i fun k => supersede (.m d) { k with fir := k.fir.writeM d v }

end Sys2Proof.Machine
end

