-- ==== Sys2Proof/Machine/Fp.lean ====
section
/-!
DEFINITION. Numbers to the bit (R131 to R151): formats, exact values, rounding, and the operations that scalar, vector, cell,
bank and router arithmetic share. A finite value is held exactly as ± m · 2^e; every result is rounded once.
-/
namespace Sys2Proof.Machine

/-- A floating format: fraction bits, exponent bits and bias (R131). -/
structure FpFmt where
  mb : Nat
  eb : Nat
  bias : Nat
  deriving DecidableEq, Repr

def fp32 : FpFmt := ⟨23, 8, 127⟩
def fpBf16 : FpFmt := ⟨7, 8, 127⟩
def fp16 : FpFmt := ⟨10, 5, 15⟩

def FpFmt.width (f : FpFmt) : Nat := f.mb + f.eb + 1
/-- The bits of +infinity. -/
def FpFmt.infBits (f : FpFmt) : Nat := (2 ^ f.eb - 1) * 2 ^ f.mb
def FpFmt.signBit (f : FpFmt) : Nat := 2 ^ (f.mb + f.eb)
/-- The default NaN (R131). -/
def FpFmt.nan (f : FpFmt) : Nat := f.infBits + 2 ^ (f.mb - 1)

/-- The five flags, in the order of fpctl[12:8] (R139). -/
abbrev Flags := BitVec 5
def flagNv : Flags := 0b10000
def flagDz : Flags := 0b01000
def flagOf : Flags := 0b00100
def flagUf : Flags := 0b00010
def flagNx : Flags := 0b00001

/-- A value: NaN (signalling or not; an invalid operation's result counts as signalling, since it raises nv too), an infinity,
or ± m · 2^e, a zero when m = 0. -/
inductive FVal where
  | nan (sig : Bool)
  | inf (neg : Bool)
  | num (neg : Bool) (m : Nat) (e : Int)
  deriving DecidableEq, Repr

/-- How an operation of one format rounds: mode, operand flush and result flush (R139 to R141). -/
structure FpEnv where
  rm : RM
  daz : Bool
  ftz : Bool
  deriving DecidableEq, Repr

/-- RNE with no flush: cells, routers, bank atomics (R127, R143, R223). -/
def envPlain : FpEnv := ⟨.rne, false, false⟩

def FVal.neg? : FVal → Bool
  | .nan _ => false
  | .inf n => n
  | .num n _ _ => n
def FVal.isNan : FVal → Bool
  | .nan _ => true
  | _ => false
def FVal.isZero : FVal → Bool
  | .num _ m _ => m == 0
  | _ => false
def FVal.negate : FVal → FVal
  | .nan s => .nan s
  | .inf n => .inf (!n)
  | .num n m e => .num (!n) m e

/-- The value of a bit pattern (R131, R132). -/
def unpack (f : FpFmt) (bits : Nat) : FVal :=
  let b := bits % 2 ^ f.width
  let neg := b / f.signBit == 1
  let ex := b / 2 ^ f.mb % 2 ^ f.eb
  let fr := b % 2 ^ f.mb
  if ex = 2 ^ f.eb - 1 then (if fr = 0 then .inf neg else .nan (fr < 2 ^ (f.mb - 1)))
  else if ex = 0 then .num neg fr (1 - (f.bias : Int) - f.mb)
  else .num neg (2 ^ f.mb + fr) ((ex : Int) - f.bias - f.mb)

/-- A subnormal bit pattern. -/
def isSubnormal (f : FpFmt) (bits : Nat) : Bool :=
  bits / 2 ^ f.mb % 2 ^ f.eb == 0 && bits % 2 ^ f.mb != 0

/-- An operand after the operand flush (R141). -/
def operand (f : FpFmt) (daz : Bool) (bits : Nat) : FVal :=
  if daz && isSubnormal f bits then .num (bits % 2 ^ f.width / f.signBit == 1) 0 0 else unpack f bits

/-- Bits of a positive number. -/
def bitLen (m : Nat) : Nat := if m = 0 then 0 else Nat.log2 m + 1

/-- m · 2^sh rounded to an integer by the mode, and whether it was inexact (R140). -/
def roundInt (m : Nat) (sh : Int) (rm : RM) (neg : Bool) : Nat × Bool :=
  if 0 ≤ sh then (m * 2 ^ sh.toNat, false)
  else
    let k := (-sh).toNat
    let q := m / 2 ^ k
    let r := m % 2 ^ k
    let up : Bool := match rm with
      | .rtz => false
      | .rdn => neg && r != 0
      | .rup => !neg && r != 0
      | _ => 2 * r > 2 ^ k || (2 * r == 2 ^ k && q % 2 == 1)
    (if up then q + 1 else q, r != 0)

/-- The sign bit of a format. -/
def withSign (f : FpFmt) (neg : Bool) (b : Nat) : Nat := if neg then b + f.signBit else b

/-- Rounds ± m · 2^e to a format (R140), with the result flush (R141). -/
def roundNum (f : FpFmt) (rm : RM) (ftz : Bool) (neg : Bool) (m : Nat) (e : Int) : Nat × Flags :=
  if m = 0 then (withSign f neg 0, 0)
  else
    let emin : Int := 1 - f.bias
    let ex : Int := e + bitLen m - 1
    let q : Int := (if ex < emin then emin else ex) - f.mb
    let (r, inex) := roundInt m (e - q) rm neg
    let tiny : Bool := ex < emin && !(ex == emin - 1 && (roundInt m (e - (ex - f.mb)) rm neg).1 == 2 ^ (f.mb + 1))
    if tiny && ftz then (withSign f neg 0, flagUf ||| flagNx)
    else
      let b := (q + f.mb - emin).toNat * 2 ^ f.mb + r
      if b ≥ f.infBits then
        let toInf : Bool := match rm with
          | .rtz => false
          | .rdn => neg
          | .rup => !neg
          | _ => true
        (withSign f neg (if toInf then f.infBits else f.infBits - 1), flagOf ||| flagNx)
      else
        (withSign f neg b, (if inex then flagNx else 0) ||| (if tiny && inex then flagUf else 0))

/-- Rounds a value to a format: NaNs become the default NaN, and a signalling or invalid one raises nv (R132). -/
def roundVal (f : FpFmt) (env : FpEnv) : FVal → Nat × Flags
  | .nan sig => (f.nan, if sig then flagNv else 0)
  | .inf n => (withSign f n f.infBits, 0)
  | .num n m e => roundNum f env.rm env.ftz n m e

/-! ### Exact operations -/

/-- The exact product; 0 · inf is invalid (R166, R169). -/
def FVal.mul (a b : FVal) : FVal :=
  match a, b with
  | .nan true, _ | _, .nan true => .nan true
  | .nan false, _ | _, .nan false => .nan false
  | .inf n, .inf k => .inf (n != k)
  | .inf n, .num k m _ => if m = 0 then .nan true else .inf (n != k)
  | .num k m _, .inf n => if m = 0 then .nan true else .inf (n != k)
  | .num n m e, .num k m' e' => .num (n != k) (m * m') (e + e')

/-- The signed integer of a finite value over 2^emin. -/
def FVal.scaled (emin : Int) : FVal → Int
  | .num n m e => let v : Int := (m : Int) * 2 ^ (e - emin).toNat; if n then -v else v
  | _ => 0

/-- The least exponent of a list of values. -/
def minExp : List FVal → Int
  | [] => 0
  | [.num _ _ e] => e
  | .num _ _ e :: l => let r := minExp l; if e < r then e else r
  | _ :: l => minExp l

/-- The exact sum of a list of values (R140, R143, R169): NaNs, infinities of both signs (invalid), the sign of a zero sum. -/
def fusedSum (rm : RM) (l : List FVal) : FVal :=
  if l.any (fun v => v == .nan true) then .nan true
  else if l.any FVal.isNan then .nan false
  else
    let pinf := l.any (fun v => v == .inf false)
    let ninf := l.any (fun v => v == .inf true)
    if pinf && ninf then .nan true
    else if pinf then .inf false
    else if ninf then .inf true
    else
      let e := minExp l
      let t : Int := (l.map (FVal.scaled e)).foldl (· + ·) 0
      if t = 0 then
        let neg := if l.all FVal.isZero && l.all FVal.neg? then true
          else if l.all FVal.isZero && l.all (fun v => !v.neg?) then false
          else rm == .rdn
        .num neg 0 0
      else .num (t < 0) t.natAbs e

/-- a ÷ b as a value whose lowest bit stands for any remainder; the flag says a division by zero, of an infinity too, that is not invalid (R166). -/
def FVal.div (a b : FVal) : FVal × Bool :=
  match a, b with
  | .nan true, _ | _, .nan true => (.nan true, false)
  | .nan false, _ | _, .nan false => (.nan false, false)
  | .inf _, .inf _ => (.nan true, false)
  | .inf n, .num k m _ => (.inf (n != k), m == 0)
  | .num n _ _, .inf k => (.num (n != k) 0 0, false)
  | .num n m e, .num k m' e' =>
    if m' = 0 then (if m = 0 then (.nan true, false) else (.inf (n != k), true))
    else if m = 0 then (.num (n != k) 0 0, false)
    else
      let sh := 64 + bitLen m'
      let q := m * 2 ^ sh / m'
      let r := m * 2 ^ sh % m'
      (.num (n != k) (2 * q + (if r = 0 then 0 else 1)) (e - e' - sh - 1), false)

/-- The integer square root of a number below 2^(2·k), by bits. -/
def isqrtBits : Nat → Nat → Nat → Nat
  | 0, _, acc => acc
  | k + 1, n, acc =>
    let t := acc + 2 ^ k
    isqrtBits k n (if t * t ≤ n then t else acc)

/-- The integer square root. -/
def isqrt (n : Nat) : Nat := isqrtBits (bitLen n / 2 + 1) n 0

/-- √a, its lowest bit standing for any remainder (R166). -/
def FVal.sqrt : FVal → FVal
  | .nan s => .nan s
  | .inf n => if n then .nan true else .inf false
  | .num n m e =>
    if m = 0 then .num n 0 0
    else if n then .nan true
    else
      let odd := e % 2 != 0
      let m1 := (if odd then 2 * m else m) * 2 ^ 128
      let e1 := (if odd then e - 1 else e) - 128
      let s := isqrt m1
      .num false (2 * s + (if s * s = m1 then 0 else 1)) (e1 / 2 - 1)

/-- a < b, both not NaN (R167: −0 equals +0). -/
def FVal.ltVal (a b : FVal) : Bool :=
  match a, b with
  | .inf true, .inf true => false
  | .inf true, _ => true
  | _, .inf true => false
  | .inf false, _ => false
  | _, .inf false => true
  | a, b => let e := minExp [a, b]; a.scaled e < b.scaled e

def FVal.eqVal (a b : FVal) : Bool :=
  match a, b with
  | .nan _, _ | _, .nan _ => false
  | .inf m, .inf n => m == n
  | .inf _, _ | _, .inf _ => false
  | a, b => let e := minExp [a, b]; a.scaled e == b.scaled e

/-! ### Operations on bit patterns of one format -/

/-- nv if one of the operands is a signalling NaN (R132). -/
def nvIfSig (l : List FVal) : Flags := if l.any (fun v => v == .nan true) then flagNv else 0

def fpAdd (f : FpFmt) (env : FpEnv) (a b : Nat) : Nat × Flags :=
  roundVal f env (fusedSum env.rm [operand f env.daz a, operand f env.daz b])
def fpSub (f : FpFmt) (env : FpEnv) (a b : Nat) : Nat × Flags :=
  roundVal f env (fusedSum env.rm [operand f env.daz a, (operand f env.daz b).negate])
def fpMul (f : FpFmt) (env : FpEnv) (a b : Nat) : Nat × Flags :=
  roundVal f env ((operand f env.daz a).mul (operand f env.daz b))
def fpDiv (f : FpFmt) (env : FpEnv) (a b : Nat) : Nat × Flags :=
  let (v, dz) := (operand f env.daz a).div (operand f env.daz b)
  let (r, fl) := roundVal f env v
  (r, fl ||| (if dz then flagDz else 0))
def fpSqrt (f : FpFmt) (env : FpEnv) (a : Nat) : Nat × Flags :=
  roundVal f env (operand f env.daz a).sqrt

/-- The four fused forms (R169): negate the product, negate the addend. -/
def fpFma (f : FpFmt) (env : FpEnv) (np nz : Bool) (a b c : Nat) : Nat × Flags :=
  let p := (operand f env.daz a).mul (operand f env.daz b)
  let z := operand f env.daz c
  roundVal f env (fusedSum env.rm [if np then p.negate else p, if nz then z.negate else z])

/-- The bits of an operand after the flush; NaNs keep their bits. -/
def flushBits (f : FpFmt) (daz : Bool) (a : Nat) : Nat :=
  let a := a % 2 ^ f.width
  if daz && isSubnormal f a then a / f.signBit * f.signBit else a

/-- `fmin` and `fmax` (R167). -/
def fpMinMax (f : FpFmt) (daz mx : Bool) (a b : Nat) : Nat × Flags :=
  let x := operand f daz a
  let y := operand f daz b
  let fl := nvIfSig [x, y]
  let a := flushBits f daz a
  let b := flushBits f daz b
  if x.isNan && y.isNan then (f.nan, fl)
  else if x.isNan then (b, fl)
  else if y.isNan then (a, fl)
  else if x.eqVal y then
    -- equal values differ at most in the sign of a zero: −0 is the smaller
    (if x.neg? == mx then b else a, fl)
  else if x.ltVal y == mx then (b, fl) else (a, fl)

/-- The three comparisons (R167): 0 eq, 1 lt, 2 le. -/
def fpCmp (f : FpFmt) (daz : Bool) (op : Nat) (a b : Nat) : Bool × Flags :=
  let x := operand f daz a
  let y := operand f daz b
  if x.isNan || y.isNan then (false, if op = 0 then nvIfSig [x, y] else flagNv)
  else (if op = 0 then x.eqVal y else if op = 1 then x.ltVal y else x.ltVal y || x.eqVal y, 0)

/-- The class record (R167). -/
def fpClass (f : FpFmt) (daz : Bool) (a : Nat) : Nat :=
  let a := a % 2 ^ f.width
  let sign := a / f.signBit
  let ex := a / 2 ^ f.mb % 2 ^ f.eb
  let fr := a % 2 ^ f.mb
  let fl := daz && isSubnormal f a
  let kind := if ex = 2 ^ f.eb - 1 then (if fr = 0 then 3 else if fr ≥ 2 ^ (f.mb - 1) then 4 else 5)
    else if ex = 0 then (if fr = 0 || fl then 0 else 1) else 2
  packFields [(ex, 8), (sign, 7), (boolNat fl, 6), (kind, 0)]

/-- `fsgnj` and `fsgnjn` (R167). -/
def fpSgnj (f : FpFmt) (daz inv : Bool) (a b : Nat) : Nat × Flags :=
  let x := operand f daz a
  match x with
  | .nan sig => (f.nan, if sig then flagNv else 0)
  | _ =>
    let m := flushBits f daz a % f.signBit
    let s := b % 2 ^ f.width / f.signBit == 1
    (withSign f (s != inv) m, 0)

/-- |a| or −a (R187): only the sign bit changes; a NaN gives the default NaN. -/
def fpAbsNeg (f : FpFmt) (daz neg : Bool) (a : Nat) : Nat × Flags :=
  match operand f daz a with
  | .nan sig => (f.nan, if sig then flagNv else 0)
  | v =>
    let m := flushBits f daz a % f.signBit
    (withSign f (neg && !v.neg?) m, 0)

/-- A conversion between floating formats (R142). A widening one takes no result flush. -/
def fpConvert (src dst : FpFmt) (daz : Bool) (env : FpEnv) (a : Nat) : Nat × Flags :=
  roundVal dst env (operand src daz a)

/-- A floating value to a signed integer of `w` bits (R142, R168). -/
def fpToInt (w : Nat) (rm : RM) (v : FVal) : Int × Flags :=
  let hi : Int := 2 ^ (w - 1) - 1
  let lo : Int := -(2 ^ (w - 1))
  match v with
  | .nan _ => (0, flagNv)
  | .inf n => (if n then lo else hi, flagNv)
  | .num n m e =>
    let (r, inex) := roundInt m e rm n
    let i : Int := if n then -(r : Int) else r
    if i > hi then (hi, flagNv) else if i < lo then (lo, flagNv) else (i, if inex then flagNx else 0)

/-- An integer to a floating format. -/
def intToFp (f : FpFmt) (env : FpEnv) (i : Int) : Nat × Flags := roundNum f env.rm env.ftz (i < 0) i.natAbs 0

/-! ### Approximations (R148 to R151) -/

/-- x = 2^E · 1.f: the exponent E. -/
def normExp (m : Nat) (e : Int) : Int := e + bitLen m - 1
/-- The top `n` fraction bits of a positive number. -/
def topFrac (m n : Nat) : Nat :=
  let l := bitLen m - 1
  (if n ≤ l then m / 2 ^ (l - n) else m * 2 ^ (n - l)) % 2 ^ n

/-- The table entry of R148 in units of 2^-12: 1/√mid rounded to nearest, 256·mid = d. -/
def rsqEntry (d : Nat) : Nat :=
  let q := isqrt (2 ^ 32 / d)
  if (2 * q + 1) * (2 * q + 1) * d < 2 ^ 34 then q + 1 else q

/-- The table entry of R149 in units of 2^-12: 1/mid rounded to nearest, 512·mid = d. -/
def rcpEntry (d : Nat) : Nat := if 2 * (2 ^ 21 % d) > d then 2 ^ 21 / d + 1 else 2 ^ 21 / d

/-- nx is raised only together with of or uf (R151). -/
def approxFlags (fl : Flags) : Flags := if fl &&& (flagOf ||| flagUf) = 0 then fl &&& ~~~flagNx else fl

/-- The FP32 stage's value is delivered: as FP32, rounded under ftz32; as BF16, the FP32 value rounded again under ftzbf, with
the flags of, uf and nx of that rounding (R151). -/
def approxOut (f : FpFmt) (ftz : Bool) (v : FVal) (dz : Bool) : Nat × Flags :=
  let d := if dz then flagDz else 0
  if f = fp32 then
    let (r, fl) := roundVal fp32 ⟨.rne, false, ftz⟩ v
    (r, approxFlags fl ||| d)
  else
    let (r32, fl32) := roundVal fp32 envPlain v
    let (r, fl) := roundVal f ⟨.rne, false, ftz⟩ (unpack fp32 r32)
    (r, approxFlags ((fl32 &&& flagNv) ||| fl) ||| d)

def fpRsqe (f : FpFmt) (env : FpEnv) (a : Nat) : Nat × Flags :=
  match operand f env.daz a with
  | .nan s => approxOut f env.ftz (.nan s) false
  | .inf n => approxOut f env.ftz (if n then .nan true else .num false 0 0) false
  | .num n m e =>
    if m = 0 then approxOut f env.ftz (.inf n) true
    else if n then approxOut f env.ftz (.nan true) false
    else
      let ex := normExp m e
      let j := (ex % 2).toNat
      let t := rsqEntry ((257 + 2 * topFrac m 7) * 2 ^ j)
      approxOut f env.ftz (.num false t (-12 - (ex - j) / 2)) false

def fpRcpe (f : FpFmt) (env : FpEnv) (a : Nat) : Nat × Flags :=
  match operand f env.daz a with
  | .nan s => approxOut f env.ftz (.nan s) false
  | .inf n => approxOut f env.ftz (.num n 0 0) false
  | .num n m e =>
    if m = 0 then approxOut f env.ftz (.inf n) true
    else approxOut f env.ftz (.num n (rcpEntry (513 + 2 * topFrac m 8)) (-12 - normExp m e)) false

/-- One step of the polynomial of R150: round_f32(p·f + c). -/
def exp2Step (x p : FVal) (c : Nat) : FVal :=
  unpack fp32 (roundVal fp32 envPlain (fusedSum .rne [p.mul x, unpack fp32 c])).1

def fpExp2 (f : FpFmt) (env : FpEnv) (a : Nat) : Nat × Flags :=
  match operand f env.daz a with
  | .nan s => approxOut f env.ftz (.nan s) false
  | .inf n => approxOut f env.ftz (if n then .num false 0 0 else .inf false) false
  | .num neg m e =>
    let x : FVal := .num neg m e
    let xc : FVal := if (FVal.num false 256 0).ltVal x then .num false 256 0
      else if x.ltVal (.num true 256 0) then .num true 256 0 else x
    match xc with
    | .num cn cm ce =>
      let r := (roundInt cm ce .rne cn).1
      let n : Int := if cn then -(r : Int) else r
      let fr := fusedSum .rne [xc, .num (!cn) r 0]
      let p := [0x3C1D955B, 0x3D635847, 0x3E75FDF0, 0x3F317218, 0x3F800000].foldl (exp2Step fr) (unpack fp32 0x3AAEC3FF)
      match p with
      | .num pn pm pe => approxOut f env.ftz (.num pn pm (pe + n)) false
      | v => approxOut f env.ftz v false
    | v => approxOut f env.ftz v false

/-! ### Weight formats and block scales (R134 to R138) -/

/-- The value of an E2M1 code (R134). -/
def e2m1Val (c : Nat) : FVal :=
  let m := c % 2
  let e := c / 2 % 4
  .num (c / 8 % 2 == 1) (if e = 0 then m else 2 + m) (if e = 0 then -1 else (e : Int) - 2)

/-- Eight times the value of one TS8 term: sign bit and e (R135). -/
def ts8Term (s e : Nat) : Int :=
  if e = 0 then 0 else let v : Int := 2 ^ (e - 1); if s = 1 then -v else v

/-- Eight times the value of a TS8 byte (R135). -/
def ts8Int (c : Nat) : Int := ts8Term (c / 128 % 2) (c / 16 % 8) + ts8Term (c / 8 % 2) (c % 8)

def intVal (i : Int) (e : Int) : FVal := .num (i < 0) i.natAbs e

/-- The value of a TS8 byte. -/
def ts8Val (c : Nat) : FVal := intVal (ts8Int c) (-3)

/-- The value of a block scale other than 0xFF (R136). -/
def s8Val (s : Nat) : FVal :=
  let f := s % 8
  let e := s / 8 % 32
  if e = 0 then .num false f (-17) else .num false (8 + f) ((e : Int) - 18)

/-- The value of a weight code of 4 bits (i4, e2m1) or 8 (ts8), and its sign for a zero scale (R137). -/
def weightVal (f : CFmt) (c : Nat) : FVal :=
  match f with
  | .i4 => intVal (signedOf 4 (c % 16)) 0
  | .e2m1 => e2m1Val (c % 16)
  | _ => ts8Val (c % 256)

/-- Dequantises a code (R137): exact. -/
def dequant (f : CFmt) (c s : Nat) : FVal :=
  match f with
  | .ts8 => ts8Val c
  | _ =>
    if s = 0xFF then .nan false
    else if s = 0 then .num (weightVal f c).neg? 0 0
    else (weightVal f c).mul (s8Val s)

/-- The TS8 codes of the magnitudes in the order R36 prefers them: zero, one term, two terms of equal sign with the larger
first, two terms of opposite sign. -/
def ts8Forms : List Nat :=
  let es := List.range 7
  [0] ++ es.map (fun a => (a + 1) * 16)
    ++ (es.map fun a => ((List.range (a + 1)).map fun b => (a + 1) * 16 + (b + 1))).flatten
    ++ (es.map fun a => ((List.range a).map fun b => (a + 1) * 16 + 8 + (b + 1))).flatten

/-- The canonical code of a magnitude given in eighths (R36). -/
def ts8Canon (v : Nat) : Option Nat := ts8Forms.find? fun c => ts8Int c == (v : Int)

/-- Both terms of a TS8 code with the opposite sign. -/
def ts8Negate (c : Nat) : Nat := if c % 8 = 0 then c + 128 else if c / 8 % 2 = 1 then c + 128 - 8 else c + 128 + 8

/-- The codes of a weight format in rising order of value, one canonical code for each value (R134, R135): code and eight times
the value. R138 writes 0xF7 for TS8's -16, which R135 reads as 0; the canonical code of -16 is 0xFF (DEDUCED, notes/assumptions/37.md). -/
def codeSet (f : CFmt) : List (Nat × Int) :=
  match f with
  | .i4 => (List.range 16).map fun (k : Nat) => ((k + 8) % 16, 8 * ((k : Int) - 8))
  | .e2m1 => [0xF, 0xE, 0xD, 0xC, 0xB, 0xA, 0x9, 0x0, 0x1, 0x2, 0x3, 0x4, 0x5, 0x6, 0x7].map fun c =>
      (c, (e2m1Val c).scaled (-3))
  | _ =>
    let pos : List (Nat × Int) := (List.range 129).filterMap fun (v : Nat) => (ts8Canon v).map fun c => (c, (v : Int))
    (pos.drop 1).reverse.map (fun p => (ts8Negate p.1, -p.2)) ++ pos

/-- Nonzero terms of a TS8 code. -/
def ts8Terms (c : Nat) : Nat := boolNat (c / 16 % 8 != 0) + boolNat (c % 8 != 0)

/-- Whether RNE takes the lower of two neighbours that are equally near (R138). -/
def tieLow (f : CFmt) (lo hi : Nat × Int) : Bool :=
  match f with
  | .i4 | .e2m1 => lo.1 % 2 == 0
  | _ => if ts8Terms lo.1 = ts8Terms hi.1 then lo.2.natAbs < hi.2.natAbs else ts8Terms lo.1 < ts8Terms hi.1

/-- The last member not above y and the first not below it, for y = num / den in eighths. -/
def bracket (num den : Int) : List (Nat × Int) → Option ((Nat × Int) × (Nat × Int))
  | [] => none
  | [_] => none
  | a :: b :: l => if num ≤ b.2 * den then (if num = b.2 * den then some (b, b) else some (a, b)) else bracket num den (b :: l)

/-- Quantises an element (R138): the code and its flags. -/
def quant (f : CFmt) (s : Nat) (rm : RM) (x : FVal) : Nat × Flags :=
  let scaled := f != .ts8
  if scaled && (s == 0 || s == 0xFF) then
    (0, if s == 0xFF || !(x.isZero && !x.neg?) then flagNv else 0)
  else
    let set := codeSet f
    let big := set.getLast?.getD (0, 0)
    let small := set.head?.getD (0, 0)
    match x with
    | .nan _ => (0, flagNv)
    | .inf n => (if n then small.1 else big.1, 0)
    | .num n m e =>
      let sc : FVal := if scaled then s8Val s else .num false 1 0
      let lo := minExp [.num n m e, sc]
      let num := 8 * (FVal.num n m e).scaled lo
      let den := sc.scaled lo
      let signZero (c : Nat) : Nat := if f == .e2m1 && c == 0 && n then 8 else c
      if num > big.2 * den then (big.1, flagOf ||| flagNx)
      else if num < small.2 * den then (small.1, flagOf ||| flagNx)
      else if num = small.2 * den then (small.1, 0)
      else match bracket num den set with
        | none => (0, 0)
        | some (a, b) =>
          if a = b then (signZero a.1, 0)
          else
            let low : Bool := match rm with
              | .rtz => num > 0
              | .rdn => true
              | .rup => false
              | _ => let d := 2 * (num - a.2 * den); let w := (b.2 - a.2) * den; d < w || (d == w && tieLow f a b)
            (signZero (if low then a.1 else b.1), flagNx)

/-- The peak register after a source element (R146): its magnitude as FP32 bits, or the NaN bit. -/
def peakOf (peak : Word) (x : FVal) : Word :=
  match x with
  | .nan _ => peak ||| (1 <<< 63)
  | .inf _ => if bitsOf peak.toNat 30 0 < 0x7F800000 then withField peak 30 0 0x7F800000 else peak
  | .num _ m e =>
    let b := (roundNum fp32 .rne false false m e).1
    if bitsOf peak.toNat 30 0 < b then withField peak 30 0 b else peak

end Sys2Proof.Machine
end

