-- ==== Sys2Proof/Machine/Hart.lean ====
section
/-!
DEFINITION. The service hart (R118 to R126): fills and copies in chunks, faults, replay and cancel, mailbox and completion.
A step that writes control-window doublewords hands them back as (address, value) pairs for the window's own operations.
-/
namespace Sys2Proof.Machine

/-- Bytes of a request's stream. -/
def HartReq.total (r : HartReq) : Nat := r.rows * r.rowbytes
/-- A copy or fill whose destination is the requester's scratchpad (R120). -/
def HartReq.toScratch (r : HartReq) : Bool := r.dst.toNat < scratchBytes
/-- Source address of stream byte b. -/
def HartReq.srcAt (r : HartReq) (b : Nat) : Nat := (r.src.toNat + b / r.rowbytes * r.sstride + b % r.rowbytes) % 2 ^ 64
/-- Destination address of stream byte b: packed in a scratchpad. -/
def HartReq.dstAt (r : HartReq) (b : Nat) : Nat :=
  if r.toScratch then r.dst.toNat + b else (r.dst.toNat + b / r.rowbytes * r.dstride + b % r.rowbytes) % 2 ^ 64

/-- Cuts stream bytes [b, stop) into pieces that cross no row and no 128-byte line of the address `at` gives. -/
def pieces (rowbytes : Nat) (at_ : Nat → Nat) : Nat → Nat → Nat → List (Nat × Nat)
  | 0, _, _ => []
  | fuel + 1, b, stop =>
    if stop ≤ b then []
    else
      let n := Nat.min (Nat.min (stop - b) (rowbytes - b % rowbytes)) (128 - at_ b % 128)
      (b, n) :: pieces rowbytes at_ fuel (b + n) stop

/-- The request's lines from the cursor on. -/
def HartReq.linesFrom (r : HartReq) (b : Nat) : List Nat :=
  let first := r.dst.toNat / 128 + b / 128
  let last := r.dst.toNat / 128 + (r.total + 127) / 128
  (List.range (last - first)).map fun k => first + k

/-- The lines that a request still holds claimed: those it has not written, and for a window the rest of its bound (R117). -/
def heldLines (s : State) (r : HartReq) : List Nat :=
  match r.win with
  | none => r.linesFrom r.cursor
  | some e =>
    let first := r.dst.toNat / 128 + r.cursor / 128
    (List.range (r.dst.toNat / 128 + wLines (winAt (s.coreAt r.who.core) e) - first)).map fun k => first + k

def modReq (s : State) (cl slot : Nat) (f : HartReq → HartReq) : State :=
  s.modCluster cl fun c => { c with reqs := c.reqs.map fun r => if r.slot = slot then f r else r }

/-- A request leaves the queue and a waiting fill enters (R118). -/
def dropReq (s : State) (cl slot : Nat) : State :=
  s.modCluster cl fun c =>
    let reqs := c.reqs.filter (fun r => r.slot != slot)
    match c.waiting with
    | [] => { c with reqs := reqs }
    | w :: ws => match freeSlot { c with reqs := reqs } with
      | some k => { c with reqs := reqs ++ [{ w with slot := k }], waiting := ws }
      | none => { c with reqs := reqs }

/-- The home of an address of a request: the requester's fixed windows, or its translation and mode (R119). -/
def hartHome (s : State) (cl : Nat) (w : Requester) (va : Nat) (n : Need) : Home × State :=
  match fixedWindow w.core va with
  | some h => (h, s)
  | none => translate s cl w.part w.sup va n

/-- The hart's flits to or from a home pass, those inside its cluster by no path of R129 (R130). -/
def hartPass (s : State) (cl part pa : Nat) : State :=
  match destUnit pa with
  | some (.core n) => if clusterOf n = cl then s else passPaths s (dieOfCluster cl) 0 part pa
  | _ => passPaths s (dieOfCluster cl) 0 part pa

/-- Those of all pieces of a chunk or a descriptor. -/
def piecesPass (s : State) (cl part : Nat) (l : List (Nat × Nat × Nat)) : State := l.foldl (fun (s : State) q => hartPass s cl part q.2.2) s

/-- Writes a mailbox: 8 bytes with the line set full (R122); none while a fill-pending line holds the store (R114). A mailbox that does not
translate is not written. That of a descriptor which is malformed because mbox is no multiple of 8 has its 8 bytes written there; R122 does
not say (DESIGN CHOICE, notes/assumptions/18.md). -/
def writeMailbox (s : State) (cl : Nat) (r : HartReq) (bytes code : Nat) : Option (State × List (Nat × Word)) :=
  if r.mbox = 0 then some (s, [])
  else
    let v := bytes * 2 ^ 32 + code
    match hartHome s cl r.who r.mbox.toNat .write with
    | (.error _, s1) => some (s1, [])
    | (.ok pa, s1) =>
      if engineBefore s1 (· == .hart cl) pa then none
      else if isWindow pa then some (s1, [(pa, BitVec.ofNat 64 v)])
      else match lineOf pa with
        | some (n, l) => if lineFilling s1 n l then none else some (setFull (storeBytes (hartPass s1 cl r.who.part pa) r.who.part pa 8 v) n l, [])
        | none => if linkWaits s1 pa then none else some (storeBytes (hartPass s1 cl r.who.part pa) r.who.part pa 8 v, [])

/-- The end of a request: mailbox, completion, and the window's new state (R117, R122, R124). Code 1 done, 2 cancelled,
3 malformed. While the mailbox write is held the request stays in its slot. -/
def endRequest (s : State) (cl : Nat) (r : HartReq) (bytes code : Nat) : State × List (Nat × Word) :=
  match writeMailbox s cl r bytes code with
  | none => (modReq s cl r.slot fun _ => { r with state := .ending bytes code }, [])
  | some (s1, w) =>
    let status := if code = 1 then boolNat r.replayed else code
    let s2 := if r.notify then
        postCompletion s1 (.hart cl) r.who r.nctx r.arg r.addr bytes status (r.win.getD 0xFF) (if r.win.isSome then 1 else 2)
      else s1
    let s3 := match r.win with
      | none => s2
      | some e =>
        let w := winAt (s2.coreAt r.who.core) e
        let st := if code = 1 && !w.drop then 2 else 0
        setWin s2 r.who.core e { w with bits := withField w.bits 3 2 st, drop := false }
    (dropReq s3 cl r.slot, w)

/-- Cancels a request: the remaining lines are released, mailbox code 2 with the cursor (R126). -/
def cancelRequest (s : State) (cl : Nat) (r : HartReq) : State × List (Nat × Word) :=
  let s1 := if r.toScratch && (r.state == .active || r.state == .faulted) then
      (heldLines s r).foldl (fun (s : State) l => releaseLine s r.who.core l) s
    else s
  endRequest s1 cl r r.cursor 2

/-- A copy-fault record (R125). -/
def copyFaultRecord (cl : Nat) (r : HartReq) (va cursor cause side : Nat) : BitVec 256 :=
  BitVec.ofNat 256 (packFields [(va, 192), (cursor, 160), (r.who.tag.toNat, 128), (r.who.group.toNat, 112), (r.who.core, 99),
    (cause, 88), (r.slot, 80), (r.win.getD 0xFF, 72), (side, 64), (cl, 0)])

/-- A fault stops a request before the chunk is written. While the queue is full its record stalls the service hart (R125). -/
def stopRequest (s : State) (cl : Nat) (r : HartReq) (st : HartState) (va cause side : Nat) : State :=
  let s1 := modReq s cl r.slot fun r => { r with state := st }
  let s2 := match r.win with
    | some e => setWinState s1 r.who.core e 3
    | none => s1
  let rec_ := copyFaultRecord cl r va r.cursor cause side
  if (s.partAt r.who.part).copyFaults.length ≥ queueMax then s2.modCluster cl fun c => { c with stalled := some (r.who.part, rec_) }
  else copyFault s2 r.who.part rec_

/-- Reads bytes at a home for a request: the bytes, the cause of a fault, or none while a line is empty (R113) or a link is down (R352). Whether a peer device
refuses the read is a free value (R353). -/
def hartRead (s : State) (pa n : Nat) : Option (Except Nat Nat) :=
  if linkWaits s pa || (lineOf pa).any fun q => lineEmpty s q.1 q.2 then none
  else if peerRefuses s pa then some (.error 0x03)
  else if (poisonedIn s pa n).isSome then some (.error 0x0F)
  else some (.ok (readHome s pa n))

/-- Translates pieces of a chunk in order: stream byte, length and home of each, or the first fault as (va, cause). -/
def pieceHomes (cl : Nat) (w : Requester) (need : Need) (at_ : Nat → Nat) :
    List (Nat × Nat) → State → List (Nat × Nat × Nat) → Except (Nat × Nat) (List (Nat × Nat × Nat)) × State
  | [], s, acc => (.ok acc.reverse, s)
  | (b, n) :: l, s, acc =>
    match hartHome s cl w (at_ b) need with
    | (.error c, s1) => (.error (at_ b, c), s1)
    | (.ok pa, s1) => pieceHomes cl w need at_ l s1 ((b, n, pa) :: acc)

/-- Reads the pieces of a chunk into staging, little-endian from stream byte `b0`; the first fault or wait ends it. -/
def readPieces (s : State) (r : HartReq) (b0 : Nat) : List (Nat × Nat × Nat) → Nat → Option (Except (Nat × Nat) Nat)
  | [], acc => some (.ok acc)
  | (b, n, pa) :: l, acc =>
    match hartRead s pa n with
    | none => none
    | some (.error c) => some (.error (r.srcAt b, c))
    | some (.ok v) => readPieces s r b0 l (acc + v * 2 ^ (8 * (b - b0)))

/-- An earlier message of the hart itself to a core holds a piece at one of its addresses (R294). -/
def piecesBehind (s : State) (cl : Nat) (l : List (Nat × Nat × Nat)) : Bool := l.any fun q => engineBefore s (· == .hart cl) q.2.2

/-- A chunk's lines in the requester's scratchpad, as pieces: stream byte, length and home. -/
def linePieces (r : HartReq) (b0 stop : Nat) : List (Nat × Nat × Nat) :=
  (List.range ((stop - b0 + 127) / 128)).map fun j => (b0 + 128 * j, 128, scratchPa r.who.core (r.dst.toNat + b0 + 128 * j))

/-- A fill-pending line, or a link that is down, holds one of the stores of a chunk (R114, R352). -/
def piecesHeld (s : State) (l : List (Nat × Nat × Nat)) : Bool :=
  l.any fun q => linkWaits s q.2.2 || (lineOf q.2.2).any fun k => lineFilling s k.1 k.2

/-- Writes a chunk into a scratchpad line by line; a partial last line is zero-filled (R119). -/
def writeLines (r : HartReq) (b0 stop v : Nat) (s : State) : State :=
  (List.range ((stop - b0 + 127) / 128)).foldl
    (fun (s : State) j => fillStore s r.who.core (r.dst.toNat / 128 + b0 / 128 + j) (v / 2 ^ (1024 * j) % 2 ^ (8 * Nat.min 128 (stop - b0 - 128 * j)))) s

/-- Writes the pieces of a chunk with ordinary stores; control-window doublewords are handed back. -/
def writeOthers (r : HartReq) (b0 v : Nat) (l : List (Nat × Nat × Nat)) (s : State) : State × List (Nat × Word) :=
  l.foldl (fun (acc : State × List (Nat × Word)) q =>
    let (b, n, pa) := q
    let x := v / 2 ^ (8 * (b - b0)) % 2 ^ (8 * n)
    if isWindow pa then
      (acc.1, acc.2 ++ (List.range ((n + 7) / 8)).map fun j => (pa + 8 * j, BitVec.ofNat 64 (x / 2 ^ (64 * j))))
    else (storeBytes acc.1 r.who.part pa n x, acc.2)) (s, [])

/-- Reads a copy descriptor's fields (R120) into a request; the Bool says it is well formed. -/
def descRequest (r : HartReq) (d : Nat) : HartReq × Bool :=
  let src := bitsOf d 63 0
  let dst := bitsOf d 127 64
  let rows := bitsOf d 271 256
  let rb := bitsOf d 319 288
  let mbox := bitsOf d 191 128
  let q : HartReq := { r with
    src := BitVec.ofNat 64 src, dst := BitVec.ofNat 64 dst, mbox := BitVec.ofNat 64 mbox
    sstride := bitsOf d 223 192, dstride := bitsOf d 255 224, rows := rows, rowbytes := rb
    notify := bitOf d 320, nctx := ctxOf1 (bitOf d 321), arg := BitVec.ofNat 64 (bitsOf d 447 384), state := .active }
  let ok := r.addr.toNat % 64 == 0 && bitsOf d 287 272 == 0 && bitsOf d 383 322 == 0 && bitsOf d 511 448 == 0 && mbox % 8 == 0
    && rows * rb < 2 ^ 32 && (!(dst < scratchBytes) || (dst % 128 == 0 && dst + rows * rb ≤ scratchBytes))
  (q, ok)
where
  ctxOf1 (b : Bool) : Ctx := if b then .u else .n

/-- The pieces of a descriptor: one, or more where it is misaligned and crosses lines. -/
def descPieces (addr : Nat) : List (Nat × Nat) := pieces 64 (fun b => addr + b) 64 0 64

/-- The descriptor of a request is read (R121): a fault stops it, a malformed one ends with code 3, an empty one at once with code 1,
any other claims its scratchpad lines (R123, R217). While a line of it is empty the request waits; one that is to be cancelled ends there,
with no mailbox and no completion that it knows of. -/
def startRequest (s : State) (cl : Nat) (r : HartReq) : State × List (Nat × Word) :=
  let at_ (b : Nat) : Nat := (r.addr.toNat + b) % 2 ^ 64
  let stop (s : State) (cause : Nat) : State × List (Nat × Word) := (stopRequest s cl r .descFault r.addr.toNat cause 0, [])
  match pieceHomes cl r.who .read at_ (descPieces r.addr.toNat) (bump s) [] with
  | (.error (_, c), s1) => stop s1 c
  | (.ok l, s1) =>
    match if piecesBehind s1 cl l then none else readPieces s1 { r with src := r.addr, rowbytes := 64 } 0 l 0 with
    | none => if r.cancel then cancelRequest s1 cl r else (s1, [])
    | some (.error (_, c)) => stop s1 c
    | some (.ok d) =>
      let (q, ok) := descRequest r d
      let s2 := modReq (piecesPass s1 cl r.who.part l) cl r.slot fun _ => q
      if !ok then endRequest s2 cl q 0 3
      else if q.total = 0 then endRequest s2 cl q 0 1
      else if q.toScratch then ((q.linesFrom 0).foldl (fun (s : State) l => claimLine s q.who.core l) s2, [])
      else (s2, [])

/-- Moves the next 4 KiB chunk of a request (R119): every source and destination page is translated, the chunk read whole, then written. A
chunk that meets an empty or a held line, or has a message of the hart before it (R294), is tried again. Of a fault on a source and one on a
destination page the source's is reported: R125 gives no order (DESIGN CHOICE, notes/assumptions/18.md). -/
def moveChunk (s : State) (cl : Nat) (r : HartReq) : State × List (Nat × Word) :=
  let b0 := r.cursor
  let stop := Nat.min (b0 + 4096) r.total
  let fin (s : State) : State × List (Nat × Word) :=
    if stop = r.total then endRequest s cl { r with cursor := stop } r.total 1
    else (modReq s cl r.slot fun q => { q with cursor := stop }, [])
  match pieceHomes cl r.who .read r.srcAt (pieces r.rowbytes r.srcAt 4096 b0 stop) (bump s) [] with
  | (.error (va, c), s1) => (stopRequest s1 cl r .faulted va c 0, [])
  | (.ok src, s1) =>
    match pieceHomes cl r.who .write r.dstAt (if r.toScratch then [] else pieces r.rowbytes r.dstAt 4096 b0 stop) s1 [] with
    | (.error (va, c), s2) => (stopRequest s2 cl r .faulted va c 1, [])
    | (.ok dst, s2) =>
      match if piecesBehind s2 cl (src ++ if r.toScratch then linePieces r b0 stop else dst) then none else readPieces s2 r b0 src 0 with
      | none => (s2, [])
      | some (.error (va, c)) => (stopRequest s2 cl r .faulted va c 0, [])
      | some (.ok v) =>
        if r.toScratch then fin (writeLines r b0 stop v (piecesPass s2 cl r.who.part src))
        else if piecesHeld s2 dst then (s2, [])
        else
          let (s3, w) := writeOthers r b0 v dst (piecesPass s2 cl r.who.part (src ++ dst))
          let (s4, w2) := fin s3
          (s4, w ++ w2)

/-- The service hart works on a request: unless it is stalled or in reset, it reads a descriptor, moves a chunk of one of the four active
requests, cancels at a chunk boundary, or ends a request whose mailbox write was held (R118 to R126). A window's fill is a release after the
touch (R309). -/
def hartChunk (s : State) (cl slot : Nat) : State × List (Nat × Word) :=
  let c := s.clusterAt cl
  match c.reqs.find? fun r => r.slot == slot with
  | none => (s, [])
  | some r =>
    if c.resetAt.isSome || c.stalled.isSome then (s, [])
    else match r.state with
      | .ending bytes code => endRequest s cl r bytes code
      | .entered => startRequest s cl r
      | .descFault | .faulted => if r.cancel then cancelRequest s cl r else (s, [])
      | .active =>
        if r.cancel then cancelRequest s cl r
        else if !(((c.reqs.filter fun q => q.state == .active).take 4).any fun q => q.slot == slot)
            || r.after.any (fun n => !releasedBefore s ⟨r.who.core, r.who.x⟩ n .package allMsgs) then (s, [])
        else moveChunk s cl r

/-- A kick enters the queue, and the hart reads its descriptor unless it is stalled (R121); none when the queue is full. -/
def enterKick (s : State) (cl : Nat) (who : Requester) (addr : Word) : Option (State × List (Nat × Word)) :=
  match freeSlot (s.clusterAt cl) with
  | none => none
  | some k =>
    let r : HartReq := { slot := k, who := who, win := none, addr := addr, state := .entered, src := 0, dst := 0, sstride := 0, dstride := 0
                         rowbytes := 1, rows := 0, mbox := 0, notify := false, nctx := .n, arg := 0, cursor := 0, replayed := false
                         cancel := beingKilled s who, after := none }
    some (hartChunk (s.modCluster cl fun c => { c with reqs := c.reqs ++ [r] }) cl k)

/-- The supervisor replays a faulted request (R126): it resumes at its cursor, or reads its descriptor again (R217). -/
def hartReplay (s : State) (cl slot : Nat) : State × List (Nat × Word) :=
  match (s.clusterAt cl).reqs.find? fun r => r.slot == slot with
  | some r =>
    match r.state with
    | .faulted =>
      let s1 := modReq s cl slot fun r => { r with state := .active, replayed := true }
      (match r.win with
        | some e => setWinState s1 r.who.core e 1
        | none => s1, [])
    | .descFault => hartChunk (modReq s cl slot fun r => { r with state := .entered, replayed := true }) cl slot
    | .entered | .active | .ending _ _ => (s, [])
  | none => (s, [])

/-- The supervisor cancels a faulted request (R126). -/
def hartCancel (s : State) (cl slot : Nat) : State × List (Nat × Word) :=
  match (s.clusterAt cl).reqs.find? fun r => r.slot == slot with
  | some r =>
    match r.state with
    | .faulted | .descFault => hartChunk (modReq s cl slot fun r => { r with cancel := true }) cl slot
    | .entered | .active | .ending _ _ => (s, [])
  | none => (s, [])

/-- A service hart that a full queue of the partition stalls. -/
def stalledOn (s : State) (p : Nat) : Option (Nat × BitVec 256) :=
  s.clusters.findSome? fun q => match q.2.stalled with
    | some (k, r) => if k = p then some (q.1, r) else none
    | none => none

/-- A write pops the head copy-fault record; a service hart that it stalled appends its own and goes on (R125). -/
def popCopyFault (s : State) (p : Nat) : State :=
  let s1 := s.modPart p fun q => { q with copyFaults := q.copyFaults.drop 1 }
  match stalledOn s p with
  | some (cl, r) => copyFault (s1.modCluster cl fun c => { c with stalled := none }) p r
  | none => s1

/-- A write pops the head fault event; a record that waited enters the queue (R320). -/
def popFaultEvent (s : State) (p : Nat) : State :=
  let s1 := s.modPart p fun q => { q with faultEvents := q.faultEvents.drop 1 }
  if (s.partAt p).faultEvents.length > queueMax then partEvent s1 p 0 else s1

/-- A write pops the head channel event (R247). -/
def popChanEvent (s : State) (p : Nat) : State :=
  let s1 := s.modPart p fun q => { q with chanEvents := q.chanEvents.drop 1 }
  if (s.partAt p).chanEvents.length > queueMax then partEvent s1 p 1 else s1

end Sys2Proof.Machine
end

