-- ==== Sys2Proof/Machine/GangOps.lean ====
section
/-!
DEFINITION. Gangs (R269 to R283): the barrier, the freeze, pulses and the thaw.
-/
namespace Sys2Proof.Machine

def gHblock (d : Word) : Nat := fld d 58 51
def gInit (d : Word) : Bool := bitAt d 50
def gP (d : Word) : Nat := fld d 49 34
def gCfmt (d : Word) : Nat := fld d 33 31
def gMode (d : Word) : Nat := fld d 30 29
def gH (d : Word) : Nat := fld d 28 22 + 1
def gW (d : Word) : Nat := fld d 21 16 + 1
/-- Of an absolute descriptor: column and row of the top-left member. -/
def gCol (d : Word) : Nat := fld d 7 0
def gRow (d : Word) : Nat := fld d 15 8
def gRs (d : Word) : Bool := gMode d == 1
/-- Absolute descriptor of a core (R271). -/
def absDesc (n : Nat) (d : Word) : Word :=
  let c := (coreCol n : Int) + signedOf 8 (fld d 7 0)
  let r := (coreRow n : Int) + signedOf 8 (fld d 15 8)
  withField (withField d 7 0 (c % 256).toNat) 15 8 (r % 256).toNat
/-- Cores of the rectangle of an absolute descriptor, by member number. -/
def gMembers (d : Word) : List Nat :=
  (List.range (gW d * gH d)).map fun k => coreAtPos (gCol d + k % gW d) (gRow d + k / gW d)
def gHas (d : Word) (n : Nat) : Bool :=
  gCol d ≤ coreCol n && coreCol n < gCol d + gW d && gRow d ≤ coreRow n && coreRow n < gRow d + gH d

/-- Every core of a rectangle given by signed corner and size lies in the partition. -/
def rectIn (s : State) (p : Nat) (c r : Int) (w h : Nat) : Bool :=
  0 ≤ c && c + w ≤ Config.cols && 0 ≤ r && r + h ≤ Config.rows &&
    (List.range (w * h)).all fun k => coreIn s p (coreAtPos (c.toNat + k % w) (r.toNat + k / w))

/-- The first check of R271 passes: the descriptor of core n. -/
def gangOk (s : State) (n : Nat) (d : Word) : Bool :=
  let p := (s.coreAt n).partition
  let dx := signedOf 8 (fld d 7 0)
  let dy := signedOf 8 (fld d 15 8)
  let c := (coreCol n : Int) + dx
  let r := (coreRow n : Int) + dy
  fld d 63 59 == 0 && gMode d ≤ 1 && gCfmt d ≤ 3 && gP d != 0 && (!gRs d || (gCfmt d == 0 && gHblock d == 0))
    && dx ≤ 0 && -dx < gW d && dy ≤ 0 && -dy < gH d
    && rectIn s p c r (gW d) (gH d)
    && rectIn s p (c - 1) r 1 (gH d)
    && ((!gRs d && gInit d) || rectIn s p c (r - 1) (gW d) 1)
    && (gRs d || rectIn s p c (r + gH d) (gW d) 1)

/-! ### Completion -/

/-- Status word (R280). -/
def gangStatus (cause pulses : Nat) : Word := BitVec.ofNat 64 (packFields [(pulses, 4), (cause, 0)])

/-- The `gang` of a context completes with a status word: its descriptor flit is consumed, d written, the pc advanced. -/
def finishGang (s : State) (i : CtxId) (w : Word) : State :=
  match (s.ctx i).barrier with
  | none => s
  | some b =>
    let s1 := match portDir b.a with
      | some p => popPort s i p
      | none => s
    completeNext ((writeDest s1 i b.d w).modCtx i fun k => { k with barrier := none, reason := 0 }) i 4

/-- Contexts joined to a barrier and not frozen. -/
def joinedCtxs (s : State) : List (CtxId × Barrier) :=
  s.cores.flatMap fun q => if q.2.cell.isSome then [] else
    [Ctx.n, Ctx.u].filterMap fun x => (q.2.ctx x).barrier.map fun b => (⟨q.1, x⟩, b)

/-- Every core of the rectangle has joined with this absolute descriptor in this context, and none is frozen (R272). -/
def rectComplete (s : State) (x : Ctx) (d : Word) : Bool :=
  (gMembers d).all fun n => (s.coreAt n).cell.isNone && (s.ctx ⟨n, x⟩).barrier.any fun c => c.desc == d

/-- Overlapping joins with different descriptors or contexts complete with status 5, but for a rectangle that is complete, which freezes
(R272: the first case decides). -/
def resolveMismatch (s : State) (i : CtxId) : State :=
  match (s.ctx i).barrier with
  | none => s
  | some b =>
    let all := joinedCtxs s
    let clash := all.filter fun q =>
      (gHas b.desc q.1.core || gHas q.2.desc i.core) && (q.2.desc != b.desc || q.1.x != i.x) && !rectComplete s q.1.x q.2.desc
    if clash.isEmpty || rectComplete s i.x b.desc then s
    else
      (all.filter fun q => q.2.desc == b.desc || clash.any fun c => c.2.desc == q.2.desc).foldl
        (fun (s : State) q => finishGang s q.1 (gangStatus 5 0)) s

/-- A context joins the barrier of its absolute descriptor (R271). -/
def joinBarrier (s : State) (i : CtxId) (d : Word) (rd ra : Reg) : State :=
  resolveMismatch (s.modCtx i fun k => { k with barrier := some ⟨absDesc i.core d, s.now, rd, ra⟩, reason := 0x9 }) i

/-- What mismatches among the joins that are left, once a member of a barrier has withdrawn (R272). -/
def resolveRest (s : State) : State := (joinedCtxs s).foldl (fun (s : State) q => resolveMismatch s q.1) s

/-- The joins that overlap a complete rectangle complete with status 5 as it freezes, with all that joined under the same descriptors
(R272). -/
def endOverlaps (s : State) (x : Ctx) (d : Word) : State :=
  let all := joinedCtxs s
  let other (q : CtxId × Barrier) : Bool := (q.2.desc != d || q.1.x != x) && !rectComplete s q.1.x q.2.desc
  let clash := all.filter fun q => other q && (gHas d q.1.core || (gMembers d).any (gHas q.2.desc))
  (all.filter fun q => other q && clash.any fun c => c.2.desc == q.2.desc).foldl
    (fun (s : State) q => finishGang s q.1 (gangStatus 5 0)) s

/-- A pre-empted or killed joiner leaves the barrier with its `gang` not completed (R272). -/
def withdraw (s : State) (i : CtxId) : State := s.modCtx i fun k => { k with barrier := none, reason := 0 }

/-- A barrier that has not completed in time ends with status 4 (R272). -/
def barrierTimeout (s : State) (i : CtxId) : State :=
  match (s.ctx i).barrier with
  | none => s
  | some b =>
    if (s.coreAt i.core).cell.isSome || rectComplete s i.x b.desc then s
    else
      let js := (joinedCtxs s).filter fun q => q.2.desc == b.desc
      let first := js.foldl (fun t q => Nat.min t q.2.time) b.time
      let units := Nat.max 1 (fld (s.partAt (s.coreAt i.core).partition).gangtmo 31 0)
      if first + units * 64 ≤ s.now then js.foldl (fun (s : State) q => finishGang s q.1 (gangStatus 4 0)) s else s

/-! ### Thaw (R280, R282) -/

/-- What ends a gang: its kind and the member it struck. -/
inductive ThawCause where
  | done
  | preempted
  /-- kind 1 uncorrectable error, 2 register-file parity, 3 pulse-lane parity; at these cores, in the same cycle -/
  | fault (kind : Nat) (cores : List Nat)
  /-- a group kill ended these cores' gang firings -/
  | killed (cores : List Nat)
  deriving DecidableEq, Repr

/-- Record of `gstat` (R282). -/
def gstatWord (fv : Option (Nat × Nat)) (kind pulses cause : Nat) : Word :=
  match fv with
  | some (fx, fy) => BitVec.ofNat 64 (packFields [(fy, 41), (fx, 35), (1, 34), (kind, 24), (pulses, 4), (cause, 0)])
  | none => BitVec.ofNat 64 (packFields [(kind, 24), (pulses, 4), (cause, 0)])

/-- Both contexts of a member leave the freeze. -/
def unfreeze (s : State) (n : Nat) : State :=
  let f (k : Context) : Context := { k with reason := if k.halted then 0x7 else 0 }
  s.modCore n fun c => { c with cell := none, n := f c.n, u := f c.u }

/-- The members that a cause struck. -/
def ThawCause.struck : ThawCause → List Nat
  | .done | .preempted => []
  | .fault _ l | .killed l => l
/-- The kind field of the gang record. -/
def ThawCause.kind : ThawCause → Nat
  | .done | .preempted => 0
  | .fault k _ => k
  | .killed _ => 4
/-- The cause that a member reports. -/
def ThawCause.cause (n : Nat) : ThawCause → Nat
  | .done => 0
  | .preempted => 1
  | .fault _ l | .killed l => if hasNat l n then 2 else 3
/-- The member that a member's record names: the struck one of the lowest number, but a killed one names itself (R282). -/
def ThawCause.names (n : Nat) (d : Word) (why : ThawCause) : Option Nat :=
  match why with
  | .killed l => if hasNat l n then some n else (gMembers d).find? (hasNat l)
  | _ => (gMembers d).find? (hasNat why.struck)

/-- One member thaws. -/
def thawMember (s : State) (n : Nat) (why : ThawCause) : State :=
  match (s.coreAt n).cell with
  | none => s
  | some cell =>
    let i : CtxId := ⟨n, cell.x⟩
    let cause := why.cause n
    let fx := (why.names n cell.desc).map fun c => (coreCol c - gCol cell.desc, coreRow c - gRow cell.desc)
    let s1 := unfreeze s n
    let s2 := match why with
      | .fault k l =>
        if hasNat l n && k != 3 then
          s1.modCore n fun c => { c with slotPoison := if cell.rs then BitVec.allOnes 64 else c.slotPoison ||| 1 }
        else s1
      | _ => s1
    let s3 := s2.modCore n fun c => { c with gstat := gstatWord fx why.kind cell.done cause }
    match why with
    | .killed l => if hasNat l n then s3.modCtx i fun k => { k with barrier := none } else finishGang s3 i (gangStatus cause cell.done)
    | _ => finishGang s3 i (gangStatus cause cell.done)

/-- Flits on their way to a FIFO arrive. -/
def landFlits (s : State) (i : CtxId) (d : Dir) : State :=
  (List.range (portAt (s.ctx i) d).fly.length).foldl (fun (s : State) _ => flitArrival s i d) s

/-- Every output flit of a member's pulses is in place (R280, R302). -/
def landOutputs (s : State) (x : Ctx) (n : Nat) : State :=
  [Dir.east, .south].foldl (fun (s : State) d => match neighbour n d with
    | some q => landFlits s ⟨q, x⟩ (dirBack d)
    | none => s) s

/-- The whole gang of a frozen core thaws. -/
def thawGang (s : State) (n : Nat) (why : ThawCause) : State :=
  match (s.coreAt n).cell with
  | none => s
  | some cell =>
    (gMembers cell.desc).foldl (fun (s : State) m => thawMember s m why)
      ((gMembers cell.desc).foldl (fun (s : State) m => landOutputs s cell.x m) s)

/-! ### Freeze (R274) -/

/-- Bytes of a weight block (R279). -/
def weightBytes (cfmt : Nat) : Nat := if cfmt = 2 || cfmt = 3 then 1088 else 4096
def weightPa (n : Nat) (d : Word) : Nat := hamperPa n (4096 * gHblock d)

/-- One member freezes. -/
def freezeMember (s : State) (d : Word) (x : Ctx) (n : Nat) : State :=
  let tag := (s.fir ⟨n, x⟩).tag
  let pos := packFields [(tag.toNat, 32), (1, 31), (gMode d, 29), (gH d - 1, 22), (gW d - 1, 16), (coreRow n - gRow d, 6), (coreCol n - gCol d, 0)]
  let w := if gRs d then 0 else readMem s (weightPa n d) (weightBytes (gCfmt d))
  let f (k : Context) : Context := { k with reason := if k.halted then 0x7 else 0xA }
  s.modCore n fun c =>
    { c with
      n := f c.n, u := f c.u
      gangpos := BitVec.ofNat 64 pos
      slots := if !gInit d then c.slots else if gRs d then Vector.replicate 64 0 else c.slots.set (0 : Fin 64) 0
      slotPoison := if !gInit d then c.slotPoison else if gRs d then 0 else c.slotPoison &&& ~~~1#64
      cell := some ⟨x, d, gRs d, gCfmt d, gP d, w, 0⟩ }

/-- The gang context's own accesses to its hamper have been performed: the weight load comes after them (R274). -/
def hamperQuiet (s : State) (i : CtxId) : Bool :=
  (s.ctx i).acc.all fun a => match accHome s a with
    | some pa => match regionOf pa with
      | some (.hamper c _) => c != i.core
      | _ => true
    | none => true

/-- A complete barrier freezes every member in one step; other joins that overlap it end with status 5. A poisoned weight block thaws the gang at once (R280, R335). -/
def freeze (s : State) (i : CtxId) : State :=
  match (s.ctx i).barrier with
  | none => s
  | some b =>
    let d := b.desc
    let ms := gMembers d
    if (s.coreAt i.core).cell.isSome || !rectComplete s i.x d || !ms.all (fun n => hamperQuiet s ⟨n, i.x⟩) then s
    else
      let s1 := ms.foldl (fun (s : State) n => freezeMember s d i.x n) (endOverlaps s i.x d)
      let bad := if gRs d then [] else ms.filter fun n => (poisonedIn s (weightPa n d) (weightBytes (gCfmt d))).isSome
      if bad.isEmpty then s1 else thawGang s1 i.core (.fault 1 bad)

/-! ### Pulses (R276 to R279) -/

/-- Lane j of w bits. -/
def laneN (w : Nat) (v : Vec) (j : Nat) : Nat := (v.extractLsb' (w * j) w).toNat
/-- A vector from its lanes of w bits. -/
def packLanes (w : Nat) (l : List Nat) : Vec :=
  BitVec.ofNat 1024 (l.foldr (fun x acc => x % 2 ^ w + 2 ^ w * acc) 0)

/-- Weight wt[k][j] (R279). -/
def weightAt (cfmt weights k j : Nat) : FVal :=
  let byte (b : Nat) : Nat := weights / 256 ^ b % 256
  match cfmt with
  | 0 => unpack fpBf16 (weights / 256 ^ (64 * k + 2 * j) % 65536)
  | 1 => ts8Val (byte (32 * k + j))
  | c =>
    let q := byte (16 * k + j / 2) / (if j % 2 = 0 then 1 else 16) % 16
    dequant (if c = 2 then .i4 else .e2m1) q (byte (1024 + 32 * (k / 32) + j))

/-- The partial sums of one WS pulse. -/
def wsPulse (cfmt weights : Nat) (act : List Nat) (pin : Vec) : Vec :=
  packLanes 32 ((List.range 32).map fun j =>
    (roundVal fp32 envPlain (fusedSum .rne (unpack fp32 (laneN 32 pin j) ::
      act.zipIdx.map fun q => (unpack fpBf16 q.1).mul (weightAt cfmt weights q.2 j)))).1)

/-- One slot after an RS pulse (R277): slot 2i + h holds columns 32h to 32h + 31 of row i. -/
def rsSlot (a b acc : Vec) (sl : Nat) : Vec :=
  packLanes 32 ((List.range 32).map fun l =>
    let x := unpack fpBf16 (laneN 16 a (sl / 2))
    let y := unpack fpBf16 (laneN 16 b (sl % 2 * 32 + l))
    (roundVal fp32 envPlain (fusedSum .rne [unpack fp32 (laneN 32 acc l), x.mul y])).1)

/-- A die's issue and pulse starts are gated to one cycle in 2 for each step entered (R361). -/
def gatedOff (s : State) (die : Nat) : Bool := s.now % 2 ^ (s.dieAt die).gates.length != 0

/-- One pulse of a frozen cell, whole, if its inputs and output room are there (R278) and its die's pulse starts are not gated (R361). -/
def pulse (s : State) (n : Nat) : State :=
  let c := s.coreAt n
  match c.cell with
  | none => s
  | some cell =>
    let i : CtxId := ⟨n, cell.x⟩
    let k := c.ctx cell.x
    let d := cell.desc
    let px := coreCol n - gCol d
    let py := coreRow n - gRow d
    let west := (portAt k .west).q
    let north := (portAt k .north).q
    let wn := if !cell.rs && cell.cfmt == 1 then 2 else 1
    let noNorth := !cell.rs && py == 0 && gInit d
    let east := px + 1 < gW d
    let south := !cell.rs || py + 1 < gH d
    let room (dir : Dir) (m : Nat) : Bool := match neighbour n dir with
      | some q => portRoom (s.ctx ⟨q, cell.x⟩) (dirBack dir) m
      | none => true
    if gatedOff s (dieOf n) || cell.done ≥ cell.pulses || west.length < wn || (!noNorth && north.isEmpty) || (east && !room .east wn) || (south && !room .south 1) then s
    else if cell.rs && c.slotPoison != 0 then thawGang s n (.fault 1 [n])
    else
      let acts := west.take wn
      let s1 := (List.range wn).foldl (fun (s : State) _ => popPort s i .west) s
      let s2 := if noNorth then s1 else popPort s1 i .north
      let pn : Flit := (north.head?).getD ⟨true, 0⟩
      let s3 := if east then acts.foldl (fun (s : State) f => sendFlit s i .east { f with wide := true }) s2 else s2
      let s4 :=
        if cell.rs then
          let a := ((west.head?).getD ⟨true, 0⟩).bits
          let s' := s3.modCore n fun c => { c with slots := Vector.ofFn fun (j : Fin 64) => rsSlot a pn.bits c.slots[j] j.val }
          if south then sendFlit s' i .south { pn with wide := true } else s'
        else
          let act := (acts.map fun f => (List.range 64).map fun l => laneN 16 f.bits l).flatten
          let pout := wsPulse cell.cfmt cell.weights act (if noNorth then 0 else pn.bits)
          sendFlit (s3.modCore n fun c => { c with slots := c.slots.set (0 : Fin 64) pout, slotPoison := c.slotPoison &&& ~~~1#64 }) i .south ⟨true, pout⟩
      s4.modCore n fun c => { c with cell := some { cell with done := cell.done + 1 } }

/-- A gang thaws when every cell has completed its pulses. -/
def thawDone (s : State) (n : Nat) : State :=
  match (s.coreAt n).cell with
  | none => s
  | some cell =>
    if (gMembers cell.desc).all fun m => (s.coreAt m).cell.any fun c => c.done ≥ c.pulses then thawGang s n .done else s

/-! ### The accumulator (R285, R286) -/

/-- Zeroes every slot and clears the poison. -/
def zeroSlots (s : State) (n : Nat) : State := s.modCore n fun c => { c with slots := Vector.replicate 64 0, slotPoison := 0 }

/-- A write of accowner: 0 zeroes the slots (R286). -/
def writeOwner (s : State) (n : Nat) (v : BitVec 32) : State :=
  let s1 := s.modCore n fun c => { c with accowner := v }
  if v = 0 then zeroSlots s1 n else s1

end Sys2Proof.Machine
end

