-- ==== Sys2Proof/Machine/Reduce.lean ====
section
/-!
DEFINITION. Reduction groups (R221 to R226): arming, the tree, contributions, packets, flushes, the result, and freeing.
-/
namespace Sys2Proof.Machine

def modRgroup (s : State) (p g : Nat) (f : RGroup → RGroup) : State := s.setRgroup p g (f (s.rgroupAt p g))

/-! ### Arming (R221) -/

/-- What `grp.arm` is given. -/
structure ArmArgs where
  gid : Nat
  rect : Word
  oper : Word
  rdx : Int
  rdy : Int
  timeout : Nat
  i64 : Bool
  yfirst : Bool
  deriving DecidableEq, Repr

/-- Top-left corner of the rectangle, signed, and its size. -/
def armRect (core : Nat) (a : ArmArgs) : Int × Int × Nat × Nat :=
  ((coreCol core : Int) + signedOf 8 (fld a.rect 7 0), (coreRow core : Int) + signedOf 8 (fld a.rect 15 8),
    fld a.rect 21 16 + 1, fld a.rect 28 22 + 1)

/-- A condition of code 2 holds (R221). -/
def armRefused (s : State) (p core : Nat) (a : ArmArgs) : Bool :=
  let (c, r, w, h) := armRect core a
  let rc := (coreCol core : Int) + a.rdx
  let rr := (coreRow core : Int) + a.rdy
  fld a.rect 63 29 != 0 || fld a.oper 63 2 != 0 || fld a.oper 1 0 == 3 || w * h > 1024
    || !rectIn s p c r w h
    || !(c ≤ rc && rc < c + w && r ≤ rr && rr < r + h)

/-- Arms a group: the code that x[d] receives, and the state. -/
def armGroup (s : State) (p core : Nat) (a : ArmArgs) : Nat × State :=
  if armRefused s p core a then (2, s)
  else if (s.rgroupAt p a.gid).state != .free then (1, s)
  else
    let (c, r, w, h) := armRect core a
    (0, s.setRgroup p a.gid { RGroup.reset with
      state := .armed, col := c.toNat, row := r.toNat, w := w, h := h
      rootC := ((coreCol core : Int) + a.rdx).toNat, rootR := ((coreRow core : Int) + a.rdy).toNat
      yfirst := a.yfirst, i64 := a.i64, op := fld a.oper 1 0, timeout := a.timeout, armedAt := s.now })

/-! ### The tree (R222) -/

def rMember (g : RGroup) (n : Nat) : Bool :=
  g.col ≤ coreCol n && coreCol n < g.col + g.w && g.row ≤ coreRow n && coreRow n < g.row + g.h
def rMembers (g : RGroup) : List Nat :=
  (List.range (g.w * g.h)).map fun k => coreAtPos (g.col + k % g.w) (g.row + k / g.w)
def rIndex (g : RGroup) (n : Nat) : Nat := (coreRow n - g.row) * g.w + (coreCol n - g.col)
def rRoot (g : RGroup) : Nat := coreAtPos g.rootC g.rootR
/-- One step toward a coordinate. -/
def toward (a b : Nat) : Nat := if a < b then a + 1 else a - 1
/-- The parent of a member, none for the root. -/
def rParent (g : RGroup) (n : Nat) : Option Nat :=
  let c := coreCol n
  let r := coreRow n
  if n = rRoot g then none
  else if g.yfirst then
    (if r != g.rootR then some (coreAtPos c (toward r g.rootR)) else some (coreAtPos (toward c g.rootC) r))
  else (if c != g.rootC then some (coreAtPos (toward c g.rootC) r) else some (coreAtPos c (toward r g.rootR)))
/-- Sides in the order of R223: 0 east, 1 west, 2 south, 3 north. -/
def sideDir : Nat → Dir
  | 0 => .east
  | 1 => .west
  | 2 => .south
  | _ => .north
/-- The child of a router on a side. -/
def rChild (g : RGroup) (n side : Nat) : Option Nat :=
  match neighbour n (sideDir side) with
  | some m => if rMember g m && rParent g m == some n then some m else none
  | none => none
/-- The children of a router, with their sides. -/
def rChildren (g : RGroup) (n : Nat) : List (Nat × Nat) := (List.range 4).filterMap fun sd => (rChild g n sd).map fun m => (sd, m)
/-- Whether a member's path to the root, of at most `fuel` hops, meets `top`. -/
def rUnder (g : RGroup) (top : Nat) : Nat → Nat → Bool
  | 0, _ => false
  | fuel + 1, n => n == top || match rParent g n with
    | some m => rUnder g top fuel m
    | none => false
/-- The missing bits of a whole subtree. -/
def rSubtree (g : RGroup) (top : Nat) : BitVec 1024 :=
  (rMembers g).foldl (fun (b : BitVec 1024) n => if rUnder g top (g.w + g.h) n then b ||| (1#1024 <<< rIndex g n) else b) 0

/-! ### Combining (R223) -/

/-- One lane: 32 bits of FP32 or 64 of INT64; operation 0 sum, 1 maximum, 2 minimum. -/
def rLane (i64 : Bool) (op a b : Nat) : Nat :=
  if i64 then
    match op with
    | 0 => (a + b) % 2 ^ 64
    | 1 => if signedOf 64 a < signedOf 64 b then b else a
    | _ => if signedOf 64 b < signedOf 64 a then b else a
  else
    match op with
    | 0 => (fpAdd fp32 envPlain a b).1
    | 1 => (fpMinMax fp32 false true a b).1
    | _ => (fpMinMax fp32 false false a b).1
def rCombine (g : RGroup) (a b : Vec) : Vec :=
  let w := if g.i64 then 64 else 32
  packLanes w ((List.range (1024 / w)).map fun j => rLane g.i64 g.op (laneN w a j) (laneN w b j))
/-- The identity that a result with no input holds (R225). -/
def rIdentity (g : RGroup) : Vec :=
  let lane : Nat := match g.i64, g.op with
    | true, 0 => 0
    | true, 1 => 2 ^ 63
    | true, _ => 2 ^ 63 - 1
    | false, 0 => 0x80000000
    | false, 1 => 0xFF800000
    | false, _ => 0x7F800000
  let w := if g.i64 then 64 else 32
  packLanes w (List.replicate (1024 / w) lane)

/-! ### Routers (R223, R224) -/

def Router.reset : Router := ⟨none, [], false, false⟩
def rRouter (g : RGroup) (n : Nat) : Router := (getN n g.routers).getD Router.reset
def setRouter (g : RGroup) (n : Nat) (r : Router) : RGroup := { g with routers := putN n r g.routers }

/-- The combination of what a router holds, in the order of R223. -/
def rHeld (g : RGroup) (r : Router) : Option Vec :=
  let kids := (List.range 4).filterMap fun sd => match r.kids.find? fun k => k.1 == sd with
    | some (_, v, _) => v
    | none => none
  (r.own.toList ++ kids).foldl (fun (acc : Option Vec) v => match acc with
    | none => some v
    | some a => some (rCombine g a v)) none
/-- The children a router has no packet from. -/
def rWaiting (g : RGroup) (n : Nat) (r : Router) : List (Nat × Nat) :=
  (rChildren g n).filter fun c => !r.kids.any fun k => k.1 == c.1
/-- The missing bitmap that a router forwards (R224). -/
def rMissing (g : RGroup) (n : Nat) (r : Router) : BitVec 1024 :=
  let own : BitVec 1024 := if r.own.isNone then 1#1024 <<< rIndex g n else 0
  let got := r.kids.foldl (fun (b : BitVec 1024) k => b ||| k.2.2) own
  (rWaiting g n r).foldl (fun (b : BitVec 1024) c => b ||| rSubtree g c.2) got

/-- A router forwards what it holds to its parent; the root keeps it and the group is complete. -/
def rForward (g : RGroup) (n : Nat) : RGroup :=
  let r := rRouter g n
  let v := rHeld g r
  let miss := rMissing g n r
  let g1 := setRouter g n { r with forwarded := true }
  match rParent g n with
  | none => { g1 with state := .complete, result := some (v.getD (rIdentity g)), missing := miss }
  | some par =>
    match (rChildren g par).find? fun c => c.2 == n with
    | some (sd, _) => { g1 with packets := g1.packets ++ [⟨par, sd, v, miss⟩] }
    | none => g1

/-- Forwards once everything has arrived: every child's packet, and the own contribution unless a flush has been sent (root). -/
def rReady (g : RGroup) (n : Nat) : RGroup :=
  let r := rRouter g n
  if g.state == .armed && !r.forwarded && (rWaiting g n r).isEmpty && (r.own.isSome || (r.flushed && n == rRoot g)) then rForward g n
  else g

/-- A contribution reaches its member's router (R224): taken, or dropped with a partition event, or discarded because the router has
forwarded. -/
def contribute (s : State) (p gid core : Nat) (i64 : Bool) (v : Vec) : State :=
  let g := s.rgroupAt p gid
  let r := rRouter g core
  if g.state != .armed || g.i64 != i64 || !rMember g core || r.own.isSome then partEvent s p 5
  else if r.forwarded then s
  else s.setRgroup p gid (rReady (setRouter g core { r with own := some v }) core)

/-- Packet `k` of a group reaches its router. -/
def packetArrival (s : State) (p gid k : Nat) : State :=
  let g := s.rgroupAt p gid
  match g.packets[k]? with
  | none => s
  | some q =>
    let g1 := { g with packets := delAt k g.packets }
    let r := rRouter g1 q.dest
    if g.state != .armed || r.forwarded then s.setRgroup p gid g1
    else s.setRgroup p gid (rReady (setRouter g1 q.dest { r with kids := r.kids ++ [(q.side, q.value, q.missing)] }) q.dest)

/-- The time-out of an armed group: the root sends its flushes (R224). -/
def redTimeout (s : State) (p gid : Nat) : State :=
  let g := s.rgroupAt p gid
  let r := rRouter g (rRoot g)
  if g.state == .armed && !r.flushed && g.armedAt + g.timeout * 64 ≤ s.now then
    let g1 := setRouter { g with flushes := g.flushes ++ (rWaiting g (rRoot g) r).map (·.2) } (rRoot g) { r with flushed := true }
    s.setRgroup p gid (rReady g1 (rRoot g))
  else s

/-- Flush `k` of a group reaches its router (R224). -/
def flushArrival (s : State) (p gid k : Nat) : State :=
  let g := s.rgroupAt p gid
  match g.flushes[k]? with
  | none => s
  | some n =>
    let g1 := { g with flushes := delAt k g.flushes }
    let r := rRouter g1 n
    if r.forwarded || g.state != .armed then s.setRgroup p gid g1
    else
      let g2 := setRouter { g1 with flushes := g1.flushes ++ (rWaiting g1 n r).map (·.2) } n { r with flushed := true }
      s.setRgroup p gid (rForward g2 n)

/-! ### Result and freeing (R225, R226) -/

/-- What `grp.wait` returns, none while the group is armed. -/
def groupResult (s : State) (p gid : Nat) : Option Vec :=
  let g := s.rgroupAt p gid
  match g.state with
  | .complete => some (g.result.getD 0)
  | .armed => none
  | _ => some 0

/-- `grp.free` reaches the root. -/
def freeGroup (s : State) (p gid : Nat) : Vec × State :=
  let g := s.rgroupAt p gid
  if g.state == .complete then (g.missing, s.setRgroup p gid { g with state := .draining }) else (0, s)

/-- An `mcast` of the group is on its way. -/
def mcastInFlight (s : State) (p gid : Nat) : Bool :=
  s.cores.any fun q => q.2.partition == p && [Ctx.n, Ctx.u].any fun x => (q.2.ctx x).inj.any fun j => j.gid == some gid

/-- A draining group becomes free when no packet of it remains in any router (R226). -/
def drainComplete (s : State) (p gid : Nat) : State :=
  let g := s.rgroupAt p gid
  if g.state == .draining && g.packets.isEmpty && g.flushes.isEmpty && !mcastInFlight s p gid then s.setRgroup p gid RGroup.reset else s

end Sys2Proof.Machine
end

