-- ==== Sys2Proof/Machine/Sched.lean ====
section
/-!
DEFINITION. Launches (R59 to R73), graphs (R74 to R76), host queues (R61, R250, R348) and completion objects (R343, R344): the
die launch schedulers. A scheduler reaches memory by R366.
-/
namespace Sys2Proof.Machine

/-- Why an engine's access gives nothing: a line it waits for, or a failure of R366. -/
inductive EngFail where
  | wait | fault
  deriving DecidableEq, Repr

abbrev Eng (α : Type) := Except EngFail α

/-- Control-window doublewords that a step must still write. -/
abbrev WinWrites := List (Nat × Word)

/-- Reads `n` bytes for an engine. -/
def engRead (s : State) (p : Nat) (sup : Bool) (va n : Nat) : Eng Nat :=
  match engineHome s p sup va .read with
  | .error _ => .error .fault
  | .ok pa =>
    let empty := match lineOf pa with
      | some (c, l) => lineEmpty s c l
      | none => false
    if empty || engineBefore s EngSrc.isSched pa then .error .wait
    else if (poisonedIn s pa n).isSome then .error .fault
    else .ok (readHome s pa n)

/-- Where an engine's store goes; it waits while the line is fill-pending (R114) and behind messages of its own (R294). -/
def engDest (s : State) (p : Nat) (sup : Bool) (va : Nat) : Eng Nat :=
  match engineHome s p sup va .write with
  | .error _ => .error .fault
  | .ok pa =>
    match lineOf pa with
    | some (c, l) => if lineFilling s c l || engineBefore s EngSrc.isSched pa then .error .wait else .ok pa
    | none => .ok pa

/-- Stores at a home; a control-window doubleword is handed back. -/
def engStore (s : State) (p pa n v : Nat) : State × WinWrites :=
  if isWindow pa then (s, [(pa, BitVec.ofNat 64 v)]) else (storeBytes s p pa n v, [])

/-- A failure counts as a choice; a wait stays one. -/
def orElseFault {α : Type} (x : Eng α) (d : α) : Eng α :=
  match x with
  | .ok a => .ok a
  | .error .fault => .ok d
  | .error .wait => .error .wait

/-! ### Launch records (R59, R60) -/

def lrClass (r : BitVec 512) : Nat := fld r 4 0
def lrGw (r : BitVec 512) : Nat := fld r 17 16 + 1
def lrGh (r : BitVec 512) : Nat := fld r 19 18 + 1
def lrStage (r : BitVec 512) : Nat := fld r 23 20
def lrPrio (r : BitVec 512) : Nat := fld r 26 24
def lrKind (r : BitVec 512) : Bool := bitAt r 27
def lrDepth (r : BitVec 512) : Nat := fld r 31 28
def lrGroups (r : BitVec 512) : Nat := fld r 87 64
def lrPstride (r : BitVec 512) : Nat := fld r 111 96
def lrParams (r : BitVec 512) : Nat := fld r 191 128
def lrMap (r : BitVec 512) : Nat := fld r 255 192
def lrSucc (r : BitVec 512) : Nat := fld r 319 256
def lrCobj (r : BitVec 512) : Nat := fld r 383 320
def lrParent (r : BitVec 512) : Nat := fld r 415 384
def lrWait (r : BitVec 512) : Nat := fld r 447 432
def lrArg (r : BitVec 512) : Nat := fld r 511 448

/-- Malformed by R60, the parent and depth aside. -/
def recordBad (r : BitVec 512) : Bool :=
  let k := lrKind r
  fld r 431 416 != 0 || fld r 95 88 != 0 || fld r 63 32 != 0 || fld r 15 5 != 0
    || lrClass r == 1 || lrClass r == 2 || lrClass r > 19
    || (if k then lrGroups r > 256 else lrGroups r == 0)
    || lrCobj r % 8 != 0 || lrSucc r % 8 != 0
    || (if k then lrMap r % 64 != 0 else lrMap r % 8 != 0 || lrParams r % 8 != 0)
    || lrPstride r % 8 != 0

/-- The stage columns hold a cluster of the partition (R58). -/
def stageAny (s : State) (p stage : Nat) : Bool := (List.range 12).any fun cx => stageColumn s p stage cx

/-! ### Completion objects (R343, R344) -/

/-- What a completion object says. -/
structure Completion where
  handle : Nat
  status : Nat
  done : Nat
  bad : Nat
  cause : Nat
  deriving DecidableEq, Repr

/-- The MSI-X vector of a host queue that asks for one (R348). -/
def queueInterrupt (s : State) (p : Nat) (q : Option Nat) : State :=
  match q with
  | none => s
  | some q =>
    let h := (s.partAt p).hqchan[Fin.ofNat 64 q]
    if bitAt h 18 then raiseMsix s (fld h 17 12) else s

/-- Writes a completion object: the second doubleword first, then the first as a store-release. A fault's event waits for room (R320). -/
def writeCompletion (s : State) (p : Nat) (sup : Bool) (cobj : Nat) (c : Completion) (q : Option Nat) : Eng (State × WinWrites) :=
  if cobj = 0 then .ok (s, [])
  else
    match engDest s p sup cobj, engDest s p sup ((cobj + 8) % 2 ^ 64) with
    | .error .wait, _ | _, .error .wait => .error .wait
    | .ok a, .ok b =>
      let (s1, w1) := engStore s p b 8 (packFields [(c.done, 40), (c.bad, 16), (c.cause, 8)])
      let (s2, w2) := engStore s1 p a 8 (packFields [(c.handle, 32), (c.status, 0)])
      .ok (queueInterrupt s2 p q, w1 ++ w2)
    | _, _ => if faultRoom s p 1 then .ok (faultEvent s p (faultRecord 11 0 0 cobj 0 0 0 0 .n), []) else .error .wait

/-- The queue that an object's launch came from. -/
def LaunchSrc.queue : LaunchSrc → Option Nat
  | .host q => some q
  | _ => none

/-! ### Queues (R62, R63) -/

/-- The lowest launch handle that no live launch of the partition has. -/
def freeHandle (s : State) (p : Nat) : Nat :=
  let l := (s.partAt p).launches
  ((List.range (l.length + 1)).find? fun h => (getN h l).isNone).getD l.length

/-- A record enters its entry scheduler's queue as a launch. -/
def enqueueLaunch (s : State) (p : Nat) (r : BitVec 512) (sup : Bool) (die : Nat) (src : LaunchSrc) : Nat × State :=
  let h := freeHandle s p
  let s1 := s.setLaunch p h ⟨r, sup, die, 0, 0, 0, 0, [], none, src⟩
  (h, s1.modDie die fun d => { d with queue := d.queue ++ [⟨p, lrPrio r, BitVec.ofNat 32 h, none⟩] })

/-- A record that is refused (R61): a completion object with status 4, or a count and a partition event. -/
def refuseRecord (s : State) (p : Nat) (r : BitVec 512) (sup : Bool) (q : Option (Nat × Nat)) : Eng (State × WinWrites) :=
  if lrCobj r != 0 && lrCobj r % 8 == 0 then
    writeCompletion s p sup (lrCobj r) ⟨0xFFFFFFFF, 4, 0, 0, 0⟩ (q.map (·.1))
  else
    let s1 := match q with
      | some (_, ch) => modChan s p ch fun c => { c with err := c.err + 1 }
      | none => s
    .ok (partEvent s1 p 3, [])

/-- R60 asks parent = 0 of records from host queues and successor lists; an image load's parent field is not looked at, at the load or here (log
entry 27). -/
def LaunchSrc.parentOk (src : LaunchSrc) (r : BitVec 512) : Bool :=
  match src with
  | .image _ => true
  | _ => lrParent r == 0

/-- A kind 0 record reaches its entry scheduler: enqueued, or refused as malformed or without a place. -/
def submitRecord (s : State) (p : Nat) (r : BitVec 512) (sup : Bool) (die : Nat) (src : LaunchSrc) (q : Option (Nat × Nat)) :
    Eng (State × WinWrites) :=
  if recordBad r || lrKind r || lrDepth r > 8 || !src.parentOk r || !stageAny s p (lrStage r) then refuseRecord s p r sup q
  else .ok ((enqueueLaunch s p r sup die src).2, [])

/-- A launch record of an image load reaches its entry scheduler (R61, R62); while the line of a refused one's completion object is
fill-pending it waits there. -/
def enterRecord (s : State) (p : Nat) (q : BitVec 512 × Nat × Nat) : State × WinWrites :=
  match submitRecord s p q.1 true q.2.1 (.image q.2.2) none with
  | .ok x => x
  | .error _ => (s.modPart p fun t => { t with imageRecs := t.imageRecs ++ [q] }, [])

/-- The records that wait, refused as they were judged on arrival (R61), are refused again, in their order. -/
def retryRecords (s : State) (p : Nat) : State × WinWrites :=
  (s.partAt p).imageRecs.foldl (fun (acc : State × WinWrites) q =>
    match refuseRecord acc.1 p q.1 true none with
    | .ok (t, w) => (t, acc.2 ++ w)
    | .error _ => (acc.1.modPart p fun t => { t with imageRecs := t.imageRecs ++ [q] }, acc.2)) (s.modPart p fun t => { t with imageRecs := [] }, [])

/-! ### Placement (R64 to R69) -/

/-- Dies that hold a stage column cluster of the partition. -/
def candidateDies (s : State) (p stage : Nat) : List Nat :=
  (List.range 4).filter fun d => (partClusters s p).any fun cl => dieOfCluster cl == d && stageColumn s p stage (cl % 12)

/-- The dies of the pages of group g that count (R65). A directory entry's count is taken with its 32 bits, also above the 65,535 of R64 (log
entry 27). -/
def pageDies (s : State) (p : Nat) (l : Launch) (g : Nat) : Eng (List Nat) :=
  let map := lrMap l.record
  if map = 0 then .ok []
  else
    let header : Eng (Option (Nat × Nat × Nat)) := do
      let n ← engRead s p l.sup map 8
      let off ← engRead s p l.sup (map + 8) 8
      if g ≥ bitsOf n 31 0 then .ok none
      else
        let e ← engRead s p l.sup (map + 16 + 8 * g) 8
        .ok (some (off, bitsOf e 63 32, bitsOf e 31 0))
    match orElseFault header none with
    | .error e => .error e
    | .ok none => .ok []
    | .ok (some (off, first, count)) =>
      (List.range count).foldl (fun (acc : Eng (List Nat)) k => do
        let ds ← acc
        let va ← orElseFault ((engRead s p l.sup (map + off + 8 * (first + k)) 8).map some) none
        match va with
        | none => .ok ds
        | some v =>
          match engineHome s p l.sup (v / 4096 * 4096) .read with
          | .ok pa => .ok (if pa < Config.hbmBytes then ds ++ [pa / Config.stackBytes / 2] else ds)
          | .error _ => .ok ds) (.ok [])

/-- The die of group g (R65). A launch whose stage columns have come to hold no cluster of the partition since it was enqueued has no candidate:
its group waits at the entry die for one (log entry 27). -/
def groupDie (s : State) (p : Nat) (l : Launch) (g : Nat) : Eng Nat := do
  let cands := candidateDies s p (lrStage l.record)
  let ds ← pageDies s p l g
  let count (d : Nat) : Nat := (ds.filter (· == d)).length
  if ds.isEmpty then .ok (if hasNat cands l.die then l.die else cands.head?.getD l.die)
  else
    .ok ((cands.foldl (fun (b : Option Nat) d => match b with
      | none => some d
      | some e => if count d > count e then some d else some e) none).getD l.die)

/-- The cluster of a die that a group goes to (R66). -/
def groupCluster (s : State) (p die stage : Nat) : Option Nat :=
  ((partClusters s p).filter fun cl => dieOfCluster cl == die && stageColumn s p stage (cl % 12) && clusterLoad s cl < 32).foldl
    (fun (b : Option Nat) cl => match b with
      | none => some cl
      | some e => if clusterLoad s cl < clusterLoad s e then some cl else some e) none

/-- The lowest free group identifier of a die (R69). -/
def freeGid (s : State) (die : Nat) : Option Nat :=
  let gs := (s.dieAt die).groups
  if gs.length ≥ 16384 then none
  else ((List.range (gs.length + 1)).map (die * 16384 + ·)).find? fun n => !gs.any fun g => g.gid == n

/-- Group-start payload (R68). -/
def startPayload (l : Launch) (handle g px py : Nat) : Vec :=
  let r := l.record
  let params := if lrParams r = 0 then 0 else (lrParams r + g * lrPstride r) % 2 ^ 64
  BitVec.ofNat 1024 (packFields [(lrArg r, 192), (params, 128), (handle, 96), (g, 72), (lrGroups r, 40), (lrStage r, 36), (py, 34), (px, 32),
    (lrDepth r, 28)])

/-- Places group g on a cluster: its identifier is live and its start messages leave (R67). -/
def placeGroup (s : State) (die p handle : Nat) (l : Launch) (g cl gid : Nat) : State :=
  let r := l.record
  let size := lrGw r * lrGh r
  let s1 := s.modDie die fun d => { d with groups := d.groups ++ [⟨gid, p, BitVec.ofNat 32 handle, g, cl, size, 0, 0, false, 0⟩] }
  let s2 := match s1.launchAt p handle with
    | some l => s1.setLaunch p handle { l with placed := l.placed + 1 }
    | none => s1
  (List.range size).foldl (fun (s : State) k =>
    let px := k % lrGw r
    let py := k / lrGw r
    let n := clusterCore cl px py
    let x := hCtx (handlerOf (s.coreAt n) (lrClass r))
    postEngine s (.sched die) n
      ⟨header 0 handle gid (lrDepth r) (lrStage r) 32 n (deviceNum s) x (lrClass r), startPayload l handle g px py⟩) s2

/-- What the scheduler can do with an item now. -/
inductive Placing where
  | forward (die : Nat)
  | here (cl gid : Nat)
  deriving DecidableEq, Repr

/-- The next group of an item, if it can be placed or forwarded now. -/
def placing (s : State) (die : Nat) (it : SchedItem) : Option (Launch × Nat × Placing) :=
  match s.launchAt it.part it.handle.toNat with
  | none => none
  | some l =>
    let here (g : Nat) : Option (Launch × Nat × Placing) :=
      match groupCluster s it.part die (lrStage l.record), freeGid s die with
      | some cl, some gid => some (l, g, .here cl gid)
      | _, _ => none
    match it.fwd with
    | some g => here g
    | none =>
      match groupDie s it.part l l.next with
      | .ok d => if d = die then here l.next else some (l, l.next, .forward d)
      | .error _ => none

/-- The item of a partition that is served next (R63): the highest priority, then the oldest, that can be placed. -/
def nextItem (s : State) (die p : Nat) : Option (SchedItem × Launch × Nat × Placing) :=
  (List.range 8).findSome? fun k =>
    ((s.dieAt die).queue.filter fun it => it.part == p && it.prio == 7 - k).findSome? fun it => (placing s die it).map fun r => (it, r)

/-- The partition a die serves next: in turn after the one served last. -/
def nextPartition (s : State) (die : Nat) : Option Nat :=
  ((List.range 16).map fun k => ((s.dieAt die).turn + 1 + k) % 16).find? fun p => (nextItem s die p).isSome

/-- Places or forwards one group for partition p (R63). -/
def groupPlace (s : State) (die p : Nat) : State :=
  if nextPartition s die != some p then s
  else
    match nextItem s die p with
    | none => s
    | some (it, l, g, pl) =>
      let s1 := s.modDie die fun d => { d with turn := p }
      let last := it.fwd.isSome || g + 1 ≥ lrGroups l.record
      let s2 := if last then s1.modDie die fun d => { d with queue := dropFirst (· == it) d.queue } else s1
      let s3 := if it.fwd.isSome then s2 else s2.setLaunch p it.handle.toNat { l with next := g + 1 }
      match pl with
      | .here cl gid => placeGroup s3 die p it.handle.toNat l g cl gid
      | .forward d => s3.modDie d fun t => { t with arriving := t.arriving ++ [⟨p, it.prio, it.handle, some g⟩] }

/-- A forwarded group joins the queue of its die (R65), behind those of its launch that were forwarded before it: a launch's groups are placed
in ascending index (R63). -/
def groupForward (s : State) (die k : Nat) : State :=
  match (s.dieAt die).arriving[k]? with
  | none => s
  | some it =>
    if ((s.dieAt die).arriving.take k).any fun o => o.part == it.part && o.handle == it.handle then s
    else s.modDie die fun d => { d with arriving := delAt k d.arriving, queue := d.queue ++ [it] }

/-! ### Retirement (R72, R73) -/

/-- A group whose firings have all ended retires, once a kill of it is complete (R72, R333). -/
def groupRetire (s : State) (die gid : Nat) : State :=
  match (s.dieAt die).groups.find? fun g => g.gid == gid with
  | none => s
  | some g =>
    if g.ended < g.size || (s.partAt g.part).killing.any (fun q => q.1 == gid) then s
    else
      let s1 := s.modDie die fun d => { d with groups := d.groups.filter fun o => o.gid != gid }
      match s1.launchAt g.part g.handle.toNat with
      | none => s1
      | some l => s1.setLaunch g.part g.handle.toNat { l with
          retired := l.retired + 1, bad := l.bad + boolNat g.bad
          badGroups := if g.bad then insNat g.gid l.badGroups else l.badGroups }

/-- Every access of a launch's firings has been performed, the acceptance of messages and records included (R303), a killed or faulted
firing's reads among them, though no entry takes what they give (log entry 28). -/
def launchQuiet (s : State) (p handle : Nat) : Bool :=
  s.cores.all fun q => [Ctx.n, Ctx.u].all fun x =>
    let k := q.2.ctx x
    (k.acc.all fun a => !((a.kind.isMemory || a.kind.isRecord) && a.who.part == p && a.who.launch.toNat == handle))
      && (q.2.partition != p || k.inj.all fun j => hdrLaunch j.msg.hdr != handle)

/-- Every group of a launch has retired. -/
def launchDone (l : Launch) : Bool := l.next ≥ lrGroups l.record && l.retired ≥ lrGroups l.record

def launchCompletion (handle : Nat) (l : Launch) : Completion :=
  ⟨handle, if l.bad = 0 then 1 else 2, l.retired, l.bad, (l.cause.getD 0).toNat⟩

/-- One listed successor (R73). -/
def releaseOne (p : Nat) (l : Launch) (acc : Eng (State × WinWrites)) (a : Nat) : Eng (State × WinWrites) := do
  let (s, w) ← acc
  if a % 64 != 0 then .ok (s, w)
  else
    match engineHome s p l.sup a .both with
    | .error _ => .ok (s, w)
    | .ok pa =>
      match engRead s p l.sup a 64 with
      | .error .wait => .error .wait
      | .error .fault => .ok (s, w)
      | .ok v =>
        let _ ← engDest s p l.sup a
        let r := BitVec.ofNat 512 v
        if lrWait r = 0 then .ok (s, w)
        else
          let (s1, w1) := engStore s p (pa + 54) 2 (lrWait r - 1)
          if lrWait r = 1 then
            let (s2, w2) ← submitRecord s1 p (withField r 447 432 0) l.sup l.die .succ none
            .ok (s2, w ++ w1 ++ w2)
          else .ok (s1, w ++ w1)

/-- Releases the successors of a retiring launch. -/
def releaseSuccessors (s : State) (p : Nat) (l : Launch) : Eng (State × WinWrites) :=
  let list := lrSucc l.record
  if list = 0 then .ok (s, [])
  else
    let addrs : Eng (List Nat) := do
      let n ← engRead s p l.sup list 8
      if n = 0 || n > 64 then .ok []
      else (List.range n).foldl (fun (acc : Eng (List Nat)) k => do
        let as ← acc
        let a ← engRead s p l.sup (list + 8 + 8 * k) 8
        .ok (as ++ [a])) (.ok [])
    match orElseFault addrs [] with
    | .error e => .error e
    | .ok as => as.foldl (releaseOne p l) (.ok (s, []))

/-- Changes the firing with a tag: running, in the yield slot, or saved. -/
def modTagged (s : State) (i : CtxId) (tag : BitVec 32) (f : Firing → Firing) : State :=
  let one (g : Firing) : Firing := if g.tag = tag then f g else g
  let ctx (k : Context) : Context := { k with fir := if k.running then one k.fir else k.fir, yieldSlot := k.yieldSlot.map one }
  let key := 2 * i.core + (match i.x with | .n => 0 | .u => 1)
  let s1 := s.modCtx i ctx
  match getN key s1.shadows with
  | some k => { s1 with shadows := putN key (ctx k) s1.shadows }
  | none => s1

/-- A child retires toward its parent's `join` (R232), frees its pool slot, and notifies. -/
def childRetire (s : State) (p handle : Nat) (l : Launch) : State :=
  match l.src with
  | .device core x tag notify who =>
    let bad := l.bad != 0
    let s1 := modTagged s ⟨core, x⟩ tag fun f =>
      { f with live := f.live - 1, joined := f.joined + 1, bad := f.bad + boolNat bad
               firstCause := if bad && f.bad = 0 then l.cause.getD 0 else f.firstCause }
    let s2 := s1.modPart p fun q => { q with poolUsed := q.poolUsed - 1 }
    if notify then
      postCompletion s2 (.sched l.die) who x (BitVec.ofNat 64 (lrArg l.record)) (BitVec.ofNat 64 handle) (lrGroups l.record)
        (if bad then 2 else 0) 0xFF 3
    else s2
  | _ => s

/-- A launch retires (R72): completion object, successors, parent. A graph's node retires by `graphNodeRetire`. -/
def launchRetire (s : State) (p handle : Nat) : State × WinWrites :=
  match s.launchAt p handle with
  | none => (s, [])
  | some l =>
    let graph : Bool := match l.src with
      | .graph _ _ => true
      | _ => false
    if graph || !launchDone l || !launchQuiet s p handle then (s, [])
    else
      let step : Eng (State × WinWrites) := do
        let (s1, w1) ← writeCompletion s p l.sup (lrCobj l.record) (launchCompletion handle l) l.src.queue
        let (s2, w2) ← releaseSuccessors s1 p l
        .ok (s2, w1 ++ w2)
      match step with
      | .error _ => (s, [])
      | .ok (s2, w) =>
        (childRetire (s2.modPart p fun q => { q with launches := delN handle q.launches }) p handle l, w)

/-! ### `launch` (R70, R71, R231) -/

/-- The checks of R70 in order, and on success the enqueued child: what x[d] receives. -/
def deviceLaunch (s : State) (who : Requester) (rec_ : BitVec 512) (notify : Bool) : Word × State :=
  let fail (c : Nat) : Word × State := (BitVec.ofNat 64 (2 ^ 63 + c), s)
  let i : CtxId := ⟨who.core, who.x⟩
  let f := s.fir i
  let live := if f.tag = who.tag then f.live else 0
  let cap := if f.tag = who.tag then f.cap else 0
  if recordBad rec_ || lrKind rec_ then fail 4
  else if !stageAny s who.part (lrStage rec_) then fail 6
  else if who.depth.toNat ≥ 8 then fail 2
  else if live ≥ cap then fail 3
  else if (s.partAt who.part).poolUsed ≥ 4096 then fail 1
  else
    let r := withField (withField rec_ 415 384 who.tag.toNat) 31 28 (who.depth.toNat + 1)
    let (h, s1) := enqueueLaunch s who.part r who.sup (dieOf who.core) (.device who.core who.x who.tag notify who)
    (BitVec.ofNat 64 h, modTagged (s1.modPart who.part fun q => { q with poolUsed := q.poolUsed + 1 }) i who.tag fun f => { f with live := f.live + 1 })

/-- `lnstat` (R234). -/
def launchStatus (s : State) (who : Requester) (pool : Bool) (handle : Word) : Word :=
  let f := s.fir ⟨who.core, who.x⟩
  if pool then
    BitVec.ofNat 64 (packFields [(4096 - (s.partAt who.part).poolUsed, 32), (f.cap, 16), (f.live, 0)])
  else
    match s.launchAt who.part handle.toNat with
    | some l => BitVec.ofNat 64 (packFields [(1, 63), (l.retired, 24), (l.placed, 0)])
    | none => 0

/-! ### Graphs (R74 to R76) -/

/-- The home die of a graph object; none when its first byte lies in no stack. -/
def graphDie (s : State) (p : Nat) (sup : Bool) (g : Nat) : Option Nat :=
  match engineHome s p sup g .read with
  | .ok pa => if pa < Config.hbmBytes then some (pa / Config.stackBytes / 2) else none
  | .error _ => none

def giNpred (i : BitVec 512) : Nat := fld i 7 0
def giPatch (i : BitVec 512) : Bool := bitAt i 24
def giNsucc (i : BitVec 512) : Nat := fld i 31 27
def giSuccs (i : BitVec 512) : List Nat := (List.range (Nat.min (giNsucc i) 24)).map fun j => fld i (32 + 16 * j + 15) (32 + 16 * j)

/-- Reads node i: its record and its information. -/
def graphNode (s : State) (p : Nat) (sup : Bool) (g i : Nat) : Eng (BitVec 512 × BitVec 512) := do
  let r ← engRead s p sup (g + 1344 + 128 * i) 64
  let n ← engRead s p sup (g + 1344 + 128 * i + 64) 64
  .ok (BitVec.ofNat 512 r, BitVec.ofNat 512 n)

def graphNodes (s : State) (p : Nat) (sup : Bool) (g n : Nat) : Eng (List (BitVec 512 × BitVec 512)) :=
  (List.range n).foldl (fun (acc : Eng (List (BitVec 512 × BitVec 512))) i => do
    let l ← acc
    let x ← graphNode s p sup g i
    .ok (l ++ [x])) (.ok [])

/-- Step 1 of R75: the nodes of a good object. An object that is not 64-byte aligned, and a node with nsucc above 24, are refused too
(log entry 27). -/
def graphCheck (s : State) (p : Nat) (sup : Bool) (g : Nat) : Eng (Option (List (BitVec 512 × BitVec 512))) := do
  let h ← engRead s p sup g 8
  let n := bitsOf h 8 0
  if n = 0 || n > 256 || g % 64 != 0 then .ok none
  else
    let ns ← graphNodes s p sup g n
    let listed := ns.flatMap fun x => giSuccs x.2
    let bad := listed.any (fun j => j ≥ n)
      || ns.zipIdx.any fun q =>
        let (r, i) := q.1
        giNsucc i > 24 || giNpred i != (listed.filter (· == q.2)).length || recordBad r || lrKind r || lrDepth r > 8 || lrSucc r != 0 || lrWait r != 0
          || (giPatch i && lrPstride r != 0) || !stageAny s p (lrStage r)
    .ok (if bad then none else some ns)

/-- Two addresses name the same graph object: by its home (R62). -/
def sameGraph (s : State) (p : Nat) (sup : Bool) (a b : Nat) : Bool :=
  a == b || match engineHome s p sup a .read, engineHome s p sup b .read with
    | .ok a, .ok b => a == b
    | _, _ => false

/-- Writes running and queued into the header of a graph. -/
def graphHeader (s : State) (p : Nat) (sup : Bool) (g : Nat) (running : Bool) (queued : Nat) : State × WinWrites :=
  match engRead s p sup g 8, engDest s p sup g with
  | .ok h, .ok pa => engStore s p pa 8 (setField (setField h 19 19 (boolNat running)) 18 16 queued)
  | _, _ => (s, [])

/-- Reads a patch of `n` bytes as the home scheduler reaches memory (R366). -/
def readPatch (s : State) (p : Nat) (sup : Bool) (va n : Nat) : Eng (List Byte) :=
  (List.range n).foldl (fun (acc : Eng (List Byte)) k => do
    let l ← acc
    let b ← engRead s p sup ((va + k) % 2 ^ 64) 1
    .ok (l ++ [BitVec.ofNat 8 b])) (.ok [])

/-- Copies a patch into a slot; bytes beyond it are zero (R76). A doubleword of an object that the scheduler may read and not write is left as
it is, here and in the header, and the replay is accepted (log entry 27). -/
def patchSlot (s : State) (p : Nat) (sup : Bool) (g slot : Nat) (patch : List Byte) : State × WinWrites :=
  (List.range 32).foldl (fun (acc : State × WinWrites) j =>
    let v := (List.range 8).foldl (fun (x : Nat) k => x + ((patch[8 * j + k]?).getD 0).toNat * 256 ^ k) 0
    match engDest acc.1 p sup (g + 64 + 256 * slot + 8 * j) with
    | .ok pa => let (s1, w) := engStore acc.1 p pa 8 v; (s1, acc.2 ++ w)
    | .error _ => acc) (s, [])

/-- Enqueues node i of a replay (R75) at the graph's home scheduler. While the object's first byte lies in no HBM stack any more there is none: a
node whose turn comes then is not enqueued, and the replay does not retire (log entry 27). -/
def enqueueNode (s : State) (p : Nat) (r : Replay) (i : Nat) (node : BitVec 512 × BitVec 512) : State :=
  match graphDie s p r.sup r.graph.toNat with
  | none => s
  | some d =>
    let rec_ := if giPatch node.2 then withField node.1 191 128 (r.graph.toNat + 64 + 256 * r.slot) else node.1
    (enqueueLaunch s p rec_ r.sup d (.graph r.graph i)).2

/-- A replay begins to run: the count-downs are taken and the nodes without predecessors enqueued. -/
def startReplay (s : State) (p : Nat) (r : Replay) (ns : List (BitVec 512 × BitVec 512)) : Replay × State :=
  let r1 := { r with running := true, counts := ns.map fun x => giNpred x.2, nodes := ns.length }
  (r1, ns.zipIdx.foldl (fun (s : State) q => if giNpred q.1.2 = 0 then enqueueNode s p r1 q.2 q.1 else s) s)

/-- Sets the value that an entry of a context has been given, wherever the entry is (R99). -/
def setEntryValue (s : State) (i : CtxId) (num : Nat) (v : Nat) : State :=
  let one (e : Entry) : Entry := if e.num = num then { e with value := v } else e
  s.modCtx i fun k => { k with rb := k.rb.map one, fir := { k.fir with aside := k.fir.aside.map one } }

/-- Answers a replay request: x[d], or a completion object with status 4 or 5 for a host record (R344). -/
def answerReplay (s : State) (p : Nat) (q : ReplayReq) (v : Word) : Eng (State × WinWrites) :=
  match q.who, q.host with
  | some (core, x, num), _ => .ok (setEntryValue s ⟨core, x⟩ num v.toNat, [])
  | none, some (hq, cobj) =>
    if bitAt v 63 then writeCompletion s p true cobj.toNat ⟨0xFFFFFFFF, fld v 7 0, 0, 0, 0⟩ (some hq) else .ok (s, [])
  | none, none => .ok (s, [])

/-- The home scheduler accepts, queues or refuses replay request k (R76): in request order for one graph. -/
def replayRequest (s : State) (p k : Nat) : State × WinWrites :=
  let pt := s.partAt p
  match pt.replayReqs[k]? with
  | none => (s, [])
  | some q =>
    let g := q.graph.toNat
    if (pt.replayReqs.take k).any fun o => sameGraph s p o.sup o.graph.toNat g then (s, [])
    else
      let left := s.modPart p fun t => { t with replayReqs := delAt k t.replayReqs }
      let finish (r : Eng (State × WinWrites)) : State × WinWrites := match r with
        | .ok x => x
        | .error _ => (s, [])
      let code (c : Nat) : Word := BitVec.ofNat 64 (2 ^ 63 + c)
      match orElseFault (graphCheck s p q.sup g) none with
      | .error _ => (s, [])
      | .ok none => finish (answerReplay left p q (code 4))
      | .ok (some ns) =>
        if (graphDie s p q.sup g).isNone then finish (answerReplay left p q (code 4))
        else
          let own := pt.replays.filter fun r => sameGraph s p r.sup r.graph.toNat g
          if own.length ≥ 5 then finish (answerReplay left p q (code 5))
          else
            let slot := ((List.range 5).find? fun i => !own.any fun r => r.slot == i).getD 0
            let r : Replay := ⟨q.graph, slot, q.sup, false, [], ns.length, 0, 0, 0⟩
            let (s1, w1) := patchSlot left p q.sup g slot q.patch
            let (s2, w2) := graphHeader s1 p q.sup g true own.length
            let (r1, s3) := if own.isEmpty then startReplay s2 p r ns else (r, s2)
            let s4 := s3.modPart p fun t => { t with replays := t.replays ++ [r1] }
            finish ((answerReplay s4 p q (BitVec.ofNat 64 slot)).map fun x => (x.1, w1 ++ w2 ++ x.2))

def modReplay (s : State) (p : Nat) (r : Replay) (f : Replay → Replay) : State :=
  s.modPart p fun q => { q with replays := q.replays.map fun o => if o == r then f o else o }

/-- The end of a replay (steps 5 and 6 of R75): the header's completion object, running cleared, the next one started. A cobj of the header
that is not 8-byte aligned gives no object and no event (log entry 27). -/
def endReplay (s : State) (p : Nat) (r : Replay) : Eng (State × WinWrites) := do
  let g := r.graph.toNat
  let cobj ← orElseFault (engRead s p r.sup (g + 8) 8) 0
  let (s1, w1) ← writeCompletion s p r.sup (if cobj % 8 = 0 then cobj else 0)
    ⟨0xFFFFFFFF, if r.bad = 0 then 1 else 2, r.done, r.bad, r.cause.toNat⟩ none
  let rest := (s1.partAt p).replays.filter fun o => o != r
  let s2 := s1.modPart p fun q => { q with replays := rest }
  match rest.find? fun o => sameGraph s2 p o.sup o.graph.toNat g with
  | none =>
    let (s3, w3) := graphHeader s2 p r.sup g false 0
    .ok (s3, w1 ++ w3)
  | some nx =>
    let n := (rest.filter fun o => sameGraph s2 p o.sup o.graph.toNat g).length
    let ns ← graphNodes s2 p nx.sup g nx.nodes
    let (s3, w3) := graphHeader s2 p nx.sup g true (n - 1)
    let (r1, s4) := startReplay s3 p nx ns
    .ok (modReplay s4 p nx fun _ => r1, w1 ++ w3)

/-- A node of a running replay retires: its completion object, its successors' count-downs, and after the last node the end of
the replay. While an object's nodes can no longer be read, the node, and the replay behind the last one, wait (log entry 27). -/
def graphNodeRetire (s : State) (p handle : Nat) : State × WinWrites :=
  match s.launchAt p handle with
  | none => (s, [])
  | some l =>
    match l.src with
    | .graph va node =>
      match (s.partAt p).replays.find? fun r => r.running && r.graph == va with
      | none => (s, [])
      | some r =>
        if !launchDone l || !launchQuiet s p handle then (s, [])
        else
          let step : Eng (State × WinWrites) := do
            let (s1, w1) ← writeCompletion s p l.sup (lrCobj l.record) (launchCompletion handle l) none
            let s2 := s1.modPart p fun q => { q with launches := delN handle q.launches }
            let info ← graphNode s2 p r.sup va.toNat node
            let bad := l.bad != 0
            let r0 := { r with done := r.done + 1, bad := r.bad + boolNat bad, cause := if bad && r.bad = 0 then l.cause.getD 0 else r.cause }
            let (r1, s3) ← (giSuccs info.2).foldl (fun (acc : Eng (Replay × State)) j => do
              let (r, s) ← acc
              let c := r.counts[j]?.getD 0
              let r' := { r with counts := setAt j (c - 1) r.counts }
              if c = 1 then
                let nd ← graphNode s p r.sup va.toNat j
                .ok (r', enqueueNode s p r' j nd)
              else .ok (r', s)) (.ok (r0, s2))
            let s4 := modReplay s3 p r fun _ => r1
            if r1.done ≥ r1.nodes then
              let (s5, w5) ← endReplay s4 p r1
              .ok (s5, w1 ++ w5)
            else .ok (s4, w1)
          match step with
          | .ok x => x
          | .error _ => (s, [])
    | _ => (s, [])

/-! ### Host queues (R61, R250, R348) -/

/-- The host writes a doorbell: the total of written records. -/
def hostDoorbell (s : State) (p q : Nat) (total : BitVec 64) : State :=
  let pt := s.partAt p
  let h := pt.hqchan[Fin.ofNat 64 q]
  let prev : Word := (getN q pt.doorbells).getD 0
  if q ≥ 64 || !bitAt h 63 || !partRunning s p || total ≤ prev then s
  else
    let s1 := s.modPart p fun t => { t with doorbells := putN q total t.doorbells }
    let ch := fld h 11 0
    if cV (s1.chanAt p ch) && cWtype (s1.chanAt p ch) == 1 then modChan s1 p ch fun c => { c with wr := total.setWidth 32 } else s1

/-- The scheduler reads the next record of host queue q. A record it cannot read counts as malformed. -/
def hostQueueRecord (s : State) (p q : Nat) : State × WinWrites :=
  let h := (s.partAt p).hqchan[Fin.ofNat 64 q]
  let ch := fld h 11 0
  let c := s.chanAt p ch
  if !bitAt h 63 || !partRunning s p || !cV c || cWtype c != 1 || cDelivered c = 0 then (s, [])
  else
    -- a scheduler's read of a host-queue record resets the watchdog (R336)
    let s0 := sinkReset (modChan s p ch fun c => { c with rd := c.rd + 1 }) p
    let die := cRcore c % 4
    let step : Eng (State × WinWrites) :=
      match engRead s p true (cHring c + 64 * (c.rd.toNat % Nat.max (cCap c) 1)) 64 with
      | .error .wait => .error .wait
      | .error .fault => refuseRecord s0 p 0 true (some (q, ch))
      | .ok v =>
        let r := BitVec.ofNat 512 v
        if !lrKind r then submitRecord s0 p r true die (.host q) (some (q, ch))
        else if recordBad r || lrDepth r > 8 || lrParent r != 0 then refuseRecord s0 p r true (some (q, ch))
        else
          match readPatch s p true (lrParams r) (lrGroups r) with
          | .error .wait => .error .wait
          | .error .fault => writeCompletion s0 p true (lrCobj r) ⟨0xFFFFFFFF, 4, 0, 0, 0⟩ (some q)
          | .ok patch =>
            .ok (s0.modPart p fun t => { t with
              replayReqs := t.replayReqs ++ [⟨BitVec.ofNat 64 (lrMap r), true, patch, none, some (q, BitVec.ofNat 64 (lrCobj r))⟩] }, [])
    match step with
    | .ok x => x
    | .error _ => (s, [])

end Sys2Proof.Machine
end

