-- ==== Sys2Proof/Machine/Loader.lean ====
section
/-!
DEFINITION. The loader (R11 to R23, R82, R365): one load of an image as one step, and its removal. A failure leaves the partition as
it was and only the returned status tells of it.
-/
namespace Sys2Proof.Machine

/-! ### The image's bytes (R11 to R18) -/

abbrev Bytes := List Byte

/-- `n` bytes at an offset, little-endian (R11). -/
def leAt (l : Bytes) (off n : Nat) : Nat := ((l.drop off).take n).foldr (fun b acc => b.toNat + 256 * acc) 0
/-- Replaces `n` bytes at an offset. -/
def putAt (l : Bytes) (off n v : Nat) : Bytes :=
  l.take off ++ (List.range n).map (fun k => BitVec.ofNat 8 (v / 256 ^ k)) ++ l.drop (off + n)
/-- Zero-filled to `n` bytes. -/
def padTo (l : Bytes) (n : Nat) : Bytes := l.take n ++ List.replicate (n - l.length) 0
def bytesNat (l : Bytes) : Nat := leAt l 0 l.length

/-- The header (R12) as a number. -/
def imgHeader (l : Bytes) : Nat := leAt l 0 64
def hdLength (h : Nat) : Nat := bitsOf h 447 384
def hdFw (h : Nat) : Nat := bitsOf h 173 168 + 1
def hdFh (h : Nat) : Nat := bitsOf h 182 176 + 1
def hdSys (h : Nat) : Bool := bitOf h 48
def hdLib (h : Nat) : Bool := bitOf h 49

/-- A section (R13). -/
structure Sect where
  kind : Nat
  wr : Bool
  empty : Bool
  align : Nat
  px : Nat
  py : Nat
  pw : Nat
  ph : Nat
  addr : Nat
  msize : Nat
  /-- where the contents stand in the file: offset and length -/
  file : Nat × Nat
  body : Bytes
  deriving DecidableEq, Repr

/-- A record (R18); `off` is the offset of its body in its section. -/
structure Rec where
  kind : Nat
  arg : Nat
  px : Nat
  py : Nat
  pw : Nat
  ph : Nat
  name : Nat
  off : Nat
  body : Bytes
  deriving DecidableEq, Repr

def guardE (c : Bool) (e : Nat) : Except Nat Unit := if c then .ok () else .error e

/-- Reads section entry i; status 2 for a malformed one. -/
def readSect (l : Bytes) (h i : Nat) : Except Nat Sect := do
  let e := leAt l (bitsOf h 287 256 + 48 * i) 48
  let kind := bitsOf e 7 0
  let fsize := bitsOf e 319 256
  let msize := bitsOf e 383 320
  let foff := bitsOf e 255 192
  guardE (1 ≤ kind && kind ≤ 7 && bitsOf e 95 64 == 0 && bitsOf e 23 11 == 0) 2
  guardE (bitOf e 8 == (kind == 1) && (kind == 5 || !bitOf e 9) && (kind == 3 || !bitOf e 10)) 2
  guardE (2 ≤ bitsOf e 31 24 && bitsOf e 31 24 ≤ 30) 2
  guardE (fsize ≤ msize && foff + fsize ≤ hdLength h) 2
  guardE (if kind ≤ 4 then bitsOf e 191 128 % 2 ^ bitsOf e 31 24 == 0 else bitsOf e 63 32 == 0 && bitsOf e 191 128 == 0) 2
  .ok { kind := kind, wr := bitOf e 9, empty := bitOf e 10, align := bitsOf e 31 24, px := bitsOf e 39 32, py := bitsOf e 47 40
        pw := bitsOf e 55 48 + 1, ph := bitsOf e 63 56 + 1, addr := bitsOf e 191 128, msize := msize, file := (foff, fsize), body := (l.drop foff).take fsize }

/-- Reads the records of a records section (R18), the zero-filled part included: what is no whole record is malformed. -/
def readRecs (body : Bytes) : Nat → Nat → Except Nat (List Rec)
  | 0, off => if off = body.length then .ok [] else .error 2
  | fuel + 1, off =>
    if off = body.length then .ok []
    else if off + 16 > body.length then .error 2
    else do
      let h := leAt body off 16
      let len := bitsOf h 95 64
      let kind := bitsOf h 7 0
      let arg := bitsOf h 31 16
      guardE (bitsOf h 15 8 == 0 && len % 8 == 0 && off + 16 + len ≤ body.length) 2
      guardE (1 ≤ kind && kind ≤ 8) 2
      guardE (if kind = 1 then arg < 20 else if kind = 4 then arg < 8 else arg == 0) 2
      let rest ← readRecs body fuel (off + 16 + len)
      .ok ({ kind := kind, arg := arg, px := bitsOf h 39 32, py := bitsOf h 47 40, pw := bitsOf h 55 48 + 1, ph := bitsOf h 63 56 + 1
             name := bitsOf h 127 96, off := off + 16, body := (body.drop (off + 16)).take len } :: rest)

def collectE {α β : Type} (f : α → Except Nat β) : List α → Except Nat (List β)
  | [] => .ok []
  | a :: l => do
    let b ← f a
    let r ← collectE f l
    .ok (b :: r)

/-- A parsed image. -/
structure Image where
  hdr : Nat
  sects : List Sect
  /-- records with the index of their section -/
  recs : List (Nat × Rec)
  bytes : Bytes
  deriving DecidableEq, Repr

/-- The structural checks of a graph object in an image (step 1 of R75 without the stage columns) and its reserved fields (R74, R21). A body
longer than the header, the patches and the n nodes is malformed too (log entry 26). -/
def graphBodyOk (b : Bytes) : Bool :=
  let hd := leAt b 0 64
  let n := bitsOf hd 8 0
  let node (i : Nat) : BitVec 512 := BitVec.ofNat 512 (leAt b (1344 + 128 * i) 64)
  let info (i : Nat) : BitVec 512 := BitVec.ofNat 512 (leAt b (1344 + 128 * i + 64) 64)
  let listed := (List.range n).flatMap fun i => giSuccs (info i)
  1 ≤ n && n ≤ 256 && b.length == 1344 + 128 * n && bitsOf hd 511 128 == 0 && bitsOf hd 63 20 == 0 && bitsOf hd 15 9 == 0
    && listed.all (fun j => j < n) && (List.range n).all fun i =>
    fld (info i) 511 416 == 0 && fld (info i) 26 25 == 0 && fld (info i) 23 8 == 0 && giNsucc (info i) ≤ 24 && giNpred (info i) == (listed.filter (· == i)).length && !recordBad (node i) && !lrKind (node i) && lrDepth (node i) ≤ 8
      && lrSucc (node i) == 0 && lrWait (node i) == 0 && (!giPatch (info i) || lrPstride (node i) == 0)

/-- The descriptor of a channel record as a channel whose cores are footprint offsets. -/
def recChan (r : Rec) : Chan := { Chan.reset with cfg := withField (BitVec.ofNat 512 (bytesNat r.body)) 0 0 1 }

/-- A channel record within a footprint of `fw` columns and `fh` rows: R237's own fields with the home and the ring still to fill in, and
offsets that the footprint holds (R19, R236). -/
def recChanOk (fw fh : Nat) (r : Rec) : Bool :=
  let c := recChan r
  let core := cRtype c == 0
  chanFieldsOk { c with cfg := withField c.cfg 140 136 0 } && !cXp c && !cProxy c
    && (cWtype c == 1 || (coreCol (cWcore c) + cW c ≤ fw && coreRow (cWcore c) + cH c ≤ fh))
    && (!core || (coreCol (cRcore c) < fw && coreRow (cRcore c) < fh))

/-- The conditions of R81 and R82 on the fields of an entry for class `cls`. -/
def handlerFieldsOk (cls : Nat) (h : BitVec 128) : Bool :=
  let k := hKind h
  let noActor := fld h 127 48 == 0
  fld h 47 41 == 0 && fld h 25 24 == 0 && fld h 23 6 == 0 && !bitAt h 1
    && (cls != 0 || k == 0) && (cls != 1 || k == 3) && (cls != 2 || (hEntry h == 0 && k == 0 && noActor)) && (k != 1 || 3 ≤ cls) && (k == 1 || noActor)
    && hEntry h < scratchBytes
    && (k != 1 || (fld h 67 60 ≥ 1 && (hActor h).all fun q => q.2 != 0 || q.1 == 0))

/-- An actor's used inputs are channels read by core n and its used outputs channels written by it (R82). -/
def actorOk (chan : Nat → Option Chan) (n : Nat) (h : BitVec 128) : Bool :=
  hKind h != 1 || (((hActor h).take 2).all (fun q => q.2 == 0 || (chan q.1).any fun c => isReader c n)
    && ((hActor h).drop 2).all (fun q => q.2 == 0 || (chan q.1).any fun c => isWriter c n))

/-- Reserved bits of a window record are 0, and the entry meets the first two conditions of R116 and keeps out of the code region. -/
def recWinOk (b : BitVec 256) : Bool := fld b 111 32 == 0 && fld b 11 4 == 0 && !bitAt b 1 && winSizeOk ⟨b, false, none⟩

/-- The bodies of R19. A kind 0x02 record of class delta is malformed, since kind 0x03 is the record of a delta queue (log entry 26). -/
def recBodyOk (fw fh : Nat) (r : Rec) : Bool :=
  match r.kind with
  | 1 => r.body.length == 16 && handlerFieldsOk r.arg (BitVec.ofNat 128 (bytesNat r.body))
  | 2 | 3 => r.body.length == 64 && (r.kind == 3) == (cClass (recChan r) == 2) && recChanOk fw fh r
  | 4 => r.body.length == 32 && recWinOk (BitVec.ofNat 256 (bytesNat r.body))
  | 5 => r.body.length == 8 && (let v := bytesNat r.body; 10 ≤ v && v ≤ 24)
  | 6 => r.body.length ≥ 16 && leAt r.body 4 4 == 0 && leAt r.body 8 8 % 8 == 0
  | 7 => r.body.length == 64 && !recordBad (BitVec.ofNat 512 (bytesNat r.body)) && lrDepth (BitVec.ofNat 512 (bytesNat r.body)) ≤ 8
  | _ => graphBodyOk r.body

/-- Cores of a subrectangle of a copy at origin (x, y). -/
def subCores (o : Nat × Nat) (px py pw ph : Nat) : List Nat :=
  (List.range (pw * ph)).map fun k => coreAtPos (o.1 + px + k % pw) (o.2 + py + k / pw)

def overlaps (a n b m : Nat) : Bool := a < b + m && b < a + n

/-- Two records reach a common core of the footprint. -/
def recsMeet (a b : Rec) : Bool := overlaps a.px a.pw b.px b.pw && overlaps a.py a.ph b.py b.ph

/-- Records against one another: an actor's channels, by their place among the image's channel and delta-queue records (log entry 26), are
read and written by every core that receives the record, and no two valid windows of a core share a line (R82, R116). -/
def recsOk (recs : List Rec) : Bool :=
  let chans := recs.filter fun r => r.kind == 2 || r.kind == 3
  let bits (r : Rec) : BitVec 256 := BitVec.ofNat 256 (bytesNat r.body)
  let wins := recs.filter fun r => r.kind == 4 && bitAt (bits r) 0
  (recs.all fun r => r.kind != 1 || (subCores (0, 0) r.px r.py r.pw r.ph).all fun n =>
      actorOk (fun k => chans[k]?.map recChan) n (BitVec.ofNat 128 (bytesNat r.body)))
    && wins.all fun a => wins.all fun b =>
      a.arg == b.arg || !recsMeet a b || (let v : Window := ⟨bits a, false, none⟩; let w : Window := ⟨bits b, false, none⟩
                                          !overlaps (wLine v) (wLines v) (wLine w) (wLines w))

/-- The order of R11: the tables lie behind the header and apart, the contents behind the tables (log entry 26: status 2). -/
def orderOk (h : Nat) (sects : List Sect) : Bool :=
  let tables := [(bitsOf h 287 256, 48 * bitsOf h 207 192), (bitsOf h 351 320, 16 * bitsOf h 239 224), (bitsOf h 383 352, 16 * bitsOf h 255 240)].filter
    fun t => t.2 != 0
  let contents := ((bitsOf h 319 288, bitsOf h 223 208) :: sects.map (·.file)).filter fun c => c.2 != 0
  tables.all (fun t => 64 ≤ t.1 && contents.all fun c => t.1 + t.2 ≤ c.1)
    && tables.zipIdx.all fun a => tables.zipIdx.all fun b => a.2 == b.2 || !overlaps a.1.1 a.1.2 b.1.1 b.1.2

/-! ### Symbols and relocations (R15 to R17) -/

/-- The zero-terminated name at an offset of the string table. -/
def nameAt (im : Image) (off : Nat) : Bytes := (im.bytes.drop (bitsOf im.hdr 319 288 + off)).takeWhile (· != 0)

/-- Symbol entry i. -/
def symAt (im : Image) (i : Nat) : Nat := leAt im.bytes (bitsOf im.hdr 351 320 + 16 * i) 16
/-- A symbol entry: reserved bits 0, a bind of R15, and a section of the image unless it is absolute or names a record. -/
def symOk (im : Image) (i : Nat) : Bool :=
  let e := symAt im i
  bitsOf e 15 8 == 0 && bitsOf e 7 0 ≤ 2 && (bitsOf e 7 0 == 2 || bitsOf e 31 16 == 0xFFFF || bitsOf e 31 16 < im.sects.length)

/-- The record that a symbol of bind 2 names: the value-th of one of these kinds, by name where two kinds offer one. -/
def symRecord (im : Image) (sym : Nat) (kinds : List Nat) : Option Nat :=
  let value := bitsOf sym 127 64
  let nth (k : Nat) : Option Nat := (((im.recs.zipIdx.filter fun q => q.1.2.kind == k).map (·.2))[value]?)
  let cands := kinds.filterMap nth
  (cands.find? fun i => (im.recs[i]?).any fun q => nameAt im q.2.name == nameAt im (bitsOf sym 63 32)).or cands.head?

/-- Relocation entry i. -/
def relocAt (im : Image) (i : Nat) : Nat := leAt im.bytes (bitsOf im.hdr 383 352 + 16 * i) 16
/-- The symbol that a relocation names. -/
def relocSym (im : Image) (r : Nat) : Nat := symAt im (bitsOf r 79 64)
/-- Majors of format I and M (R49). -/
def iMajor (w0 : Nat) : Bool := let m := bitsOf w0 8 3; (2 ≤ m && m ≤ 8) || m == 0x0D
def mMajor (w0 : Nat) : Bool := let m := bitsOf w0 8 3; m == 0x11 || m == 0x12 || m == 0x27
/-- Where the literal of an instruction stands behind it: after word 0, or after word 2 (R45). -/
def litOff (w0 : Nat) : Nat := if w0 % 4 = 2 then 4 else 12

/-- A relocation patches what its kind asks for, inside its section, with a symbol that has a value of that kind (R16, R17). A channel exists
once per copy, so CHAN patches only the sections of a copy. -/
def relocOk (im : Image) (i : Nat) : Bool :=
  let r := relocAt im i
  let sym := relocSym im r
  let off := bitsOf r 127 96
  match im.sects[bitsOf r 95 80]? with
  | none => false
  | some t =>
    let w0 := leAt t.body off 4
    let valued := bitsOf sym 7 0 != 2 || (symRecord im sym [6, 8]).isSome
    let names (kinds : List Nat) : Bool := bitsOf sym 7 0 == 2 && (symRecord im sym kinds).isSome
    let imm13 := iMajor w0 && w0 % 4 ≤ 1 && off + 4 ≤ t.msize
    bitsOf r 55 48 == 0 && bitsOf r 79 64 < bitsOf im.hdr 239 224 && (match bitsOf r 63 56 with
      | 1 => valued && off + 8 ≤ t.msize
      | 2 => valued && 2 ≤ w0 % 4 && (iMajor w0 || mMajor w0) && off + litOff w0 + 8 ≤ t.msize
      | 3 => names [2, 3] && imm13 && t.kind ≤ 4
      | 4 => names [5] && imm13
      | _ => false)

/-- Step 2 of R21: the structure, but for the bodies of records, which relocations still patch (`bodiesOk`). -/
def parseImage (bytes : Bytes) (sys : Bool) : Except Nat Image := do
  let h := imgHeader bytes
  let len := hdLength h
  guardE (bitsOf h 31 0 == 0x46524148 && bitsOf h 47 32 == 1 && bitsOf h 159 128 == 0x5A09) 2
  guardE (bitsOf h 63 50 == 0 && bitsOf h 167 160 == 0 && bitsOf h 175 174 == 0 && bitsOf h 191 183 == 0) 2
  guardE (len % 8 == 0 && bitsOf h 511 448 == len && (sys || !hdSys h)) 2
  let nsec := bitsOf h 207 192
  guardE (1 ≤ nsec && nsec ≤ 1024 && hdFw h ≤ 48 && hdFh h ≤ 96) 2
  guardE (bitsOf h 287 256 % 8 == 0 && bitsOf h 319 288 % 8 == 0 && bitsOf h 351 320 % 8 == 0 && bitsOf h 383 352 % 8 == 0) 2
  guardE (bitsOf h 287 256 + 48 * nsec ≤ len && bitsOf h 351 320 + 16 * bitsOf h 239 224 ≤ len && bitsOf h 383 352 + 16 * bitsOf h 255 240 ≤ len
    && bitsOf h 319 288 + bitsOf h 223 208 ≤ len) 2
  let sects ← collectE (readSect bytes h) (List.range nsec)
  guardE (orderOk h sects) 2
  let recs ← collectE (fun q : Sect × Nat =>
      if q.1.kind = 6 then (readRecs (padTo q.1.body q.1.msize) (q.1.msize / 16) 0).map (·.map fun r => (q.2, r)) else .ok [])
    sects.zipIdx
  let all := recs.flatten
  guardE (!hdLib h || all.all fun q => q.2.kind != 7 && q.2.kind != 8) 2
  let im : Image := ⟨h, sects, all, bytes⟩
  guardE ((List.range (bitsOf h 239 224)).all (symOk im) && (List.range (bitsOf h 255 240)).all (relocOk im)) 2
  .ok im

/-- The layout rules (R14, R20): status 5. A handler or window record whose subrectangle the footprint does not hold gives 5 as a section does,
and a channel record whose writer or reader it does not hold gives 2 as a malformed body (`recChanOk`): the spec names no status for either
(log entry 26). -/
def layoutOk (im : Image) (origins : Nat) : Bool :=
  let fw := hdFw im.hdr
  let fh := hdFh im.hdr
  let inside (px py pw ph : Nat) : Bool := px + pw ≤ fw && py + ph ≤ fh
  let region (t : Sect) : Bool := match t.kind with
    | 1 => t.addr + t.msize ≤ 0x4000
    | 2 | 3 => 0x4000 ≤ t.addr && t.addr + t.msize ≤ 0x14000
    | 4 => 0x100000 ≤ t.addr && t.addr + t.msize ≤ 0x200000
    | _ => true
  let placed := im.sects.filter fun t => t.kind ≤ 4
  placed.all (fun t => region t && inside t.px t.py t.pw t.ph)
    && (im.recs.all fun q => !(q.2.kind == 1 || q.2.kind == 4) || inside q.2.px q.2.py q.2.pw q.2.ph)
    && placed.zipIdx.all (fun q => placed.zipIdx.all fun r =>
      q.2 == r.2 || !(overlaps q.1.addr q.1.msize r.1.addr r.1.msize && overlaps q.1.px q.1.pw r.1.px r.1.pw && overlaps q.1.py q.1.ph r.1.py r.1.ph))
    && (origins != 0 || (placed.isEmpty && im.recs.all fun q => q.2.kind > 4))

/-! ### The signature (R23) -/

/-- SHA3-512 of an image's signed bytes (R23, R357). -/
def imageDigest (bytes : Bytes) : BitVec 512 := Config.sha3 (bytes.take (hdLength (imgHeader bytes)))

/-- The three checks of R23 against a test of key identifiers. A block with another magic, algorithm or nonzero padding, or one cut short, fails
them as well (status 1, log entry 26). -/
def signatureOk (bytes : Bytes) (keyOk : BitVec 512 → Bool) : Bool :=
  let len := hdLength (imgHeader bytes)
  let b := bytes.drop len
  let keyid := BitVec.ofNat 512 (leAt b 8 64)
  let digest := BitVec.ofNat 512 (leAt b 72 64)
  leAt b 0 4 == 0x47495348 && leAt b 4 2 == 0x87 && leAt b 6 2 == 0 && b.length ≥ 4768 && leAt b 4763 5 == 0
    && digest == imageDigest bytes && keyOk keyid && Config.mldsaOk keyid digest ((b.drop 136).take 4627)

/-- A keyid among those the partition accepts (R354). -/
def partKey (s : State) (p : Nat) (k : BitVec 512) : Bool :=
  (List.range 64).any fun i => bitAt (partDesc s p) (832 + i) && s.pkg.keys[Fin.ofNat 64 i] == k

/-! ### Allocation (step 4 of R21) -/

/-- A channel number is free: invalid and held by no load. -/
def freeChan (s : State) (p : Nat) (used : List Nat) : Option Nat :=
  let q := s.partAt p
  (List.range 4096).find? fun c => !cV (s.chanAt p c) && !hasNat used c && !q.loads.any fun l => hasNat l.channels c
def freeIndex (s : State) (p : Nat) (used : List Nat) : Option Nat :=
  let q := s.partAt p
  (List.range 256).find? fun c => !bitAt (indexAt s p c) 0 && !hasNat used c && !q.loads.any fun l => hasNat l.indexes c

/-- The ring lines in use at a reader core. -/
def ringLines (s : State) (p n : Nat) : List (Nat × Nat) :=
  ((s.partAt p).chans.filter fun q => isReader q.2 n).map fun q => (cRingline q.2, (cCap q.2 * cBytes q.2 + 127) / 128)
/-- The lowest free lines of 0x1_5000 to 0x1_5FFF (R22). -/
def freeRing (s : State) (p n need : Nat) : Option Nat :=
  (List.range 32).findSome? fun k =>
    let l := 0x2A0 + k
    if l + need ≤ 0x2C0 && (ringLines s p n).all fun r => !overlaps l need r.1 r.2 then some l else none

/-- The descriptor that a record gives for one copy: cores, ring and home filled in (R236). -/
def copyDesc (s : State) (p : Nat) (o : Nat × Nat) (ch : Nat) (b : BitVec 512) : Except Nat (BitVec 512) :=
  let core (f : Nat) : Nat := coreAtPos (o.1 + f % 48) (o.2 + f / 48)
  let d1 := withField b 44 32 (core (fld b 44 32))
  if fld b 11 10 = 0 then
    let rc := core (fld b 57 45)
    let need := (fld b 95 80 * (8 * 2 ^ fld b 5 3) + 127) / 128
    match freeRing s p rc need with
    | none => .error 4
    | some l => .ok (withField (withField (withField (withField d1 57 45 rc) 73 64 l) 142 141 (dieOf rc)) 140 136 (ch % 24))
  else .ok (withField (withField d1 142 141 (fld b 46 45)) 140 136 (ch % 24))

/-- Creates the channels of one copy: the numbers in record order. -/
def makeChans (p : Nat) (o : Nat × Nat) : List Rec → List Nat → State → Except Nat (List Nat × State)
  | [], used, s => .ok (used, s)
  | r :: rs, used, s =>
    match freeChan s p used with
    | none => .error 4
    | some ch => do
      let d ← copyDesc s p o ch (withField (BitVec.ofNat 512 (bytesNat r.body)) 0 0 1)
      let c : Chan := { Chan.reset with cfg := d }
      guardE (chanOk s p c && !cXp c && !cProxy c) 2
      guardE (chanPoolOk s p c) 4
      makeChans p o rs (used ++ [ch]) (chanEnable s p ch d)

/-- One piece of HBM that a load needs: its size, alignment and whether it is writable. -/
structure Piece where
  size : Nat
  align : Nat
  wr : Bool
  deriving DecidableEq, Repr

def roundUp (n m : Nat) : Nat := (n + m - 1) / m * m

/-- Offsets of the pieces from the start `base` of the load's HBM area, each at a virtual address of its alignment and on a page of its own,
and the area's size. -/
def layPieces (base : Nat) : List Piece → Nat → List Nat × Nat
  | [], at_ => ([], roundUp at_ 4096)
  | q :: qs, at_ =>
    let o := roundUp (base + at_) (Nat.max 4096 q.align) - base
    let (l, n) := layPieces base qs (o + q.size)
    (o :: l, n)

/-- Clears memory without touching its cells one by one. -/
def clearMem (s : State) (lo n : Nat) : State :=
  { s with mem := s.mem.filter fun c => !(lo ≤ c.1 && c.1 < lo + n), poison := s.poison.filter fun b => !(lo ≤ b && b < lo + n) }

/-- An address of [va, va + n) is mapped otherwise: by a valid range entry, which would come before what the loader enters (R108), or for
another load, which holds its mappings (R365). -/
def rangeTaken (s : State) (p va n : Nat) : Bool :=
  ((List.range 32).any fun i =>
    let e := (s.partAt p).ranges[Fin.ofNat 32 i]
    bitAt e 0 && overlaps (fld e 127 64) (fld e 191 128 - fld e 127 64) va n)
    || (s.partAt p).loads.any fun l => l.vas.any fun a => overlaps a.1 a.2 va n

/-- Maps one piece by a free range entry, readable and user-accessible (step 4 of R21): the entry. -/
def mapRange (s : State) (p va pa size : Nat) (wr : Bool) : Except Nat (Nat × State) :=
  match (List.range 32).find? fun i => !bitAt ((s.partAt p).ranges[Fin.ofNat 32 i]) 0 with
  | none => .error 4
  | some i =>
    let e : BitVec 256 := BitVec.ofNat 256 (packFields [((pa + (2 ^ 64 - va % 2 ^ 64)) % 2 ^ 64, 192), (va + roundUp size 4096, 128), (va, 64), (1, 3), (boolNat wr, 2), (1, 1), (1, 0)])
    .ok (i, s.modPart p fun q => { q with ranges := q.ranges.set (Fin.ofNat 32 i) e })

/-- A page that the loader may take for a page table: in the partition's HBM share, and in no load's area and no other table page. `area` is
the area of the load in hand. -/
def tablePageOk (s : State) (p : Nat) (area : Nat × Nat) (pa : Nat) : Bool :=
  pa % 4096 == 0 && pa + 4096 ≤ Config.hbmBytes && granted s p pa .write true && !overlaps pa 4096 area.1 area.2
    && !hasNat (s.partAt p).tables pa && (s.partAt p).loads.all fun l => l.hbm.all fun a => !overlaps pa 4096 a.1 a.2

/-- Maps one 4 KiB page in the page table, taking table pages from `spare`: the entry's address and the next spare page. A page that is mapped
already has no room for the section, and a table that lies in the load's own area would be erased with it (status 4, log entry 26). -/
def mapPage (p va pa : Nat) (wr : Bool) (area : Nat × Nat) : List Nat → Nat → Nat → State → Except Nat (Nat × Nat × State)
  | [], tbl, spare, s =>
    let a := tbl + 8 * (va / 4096 % 512)
    if bitOf (readMem s a 8) 0 || overlaps tbl 4096 area.1 area.2 then .error 4
    else .ok (a, spare, writeMem s a 8 (packFields [(1, 5), (boolNat wr, 4), (1, 3), (1, 1), (1, 0)] + pa / 4096 * 4096))
  | l :: ls, tbl, spare, s =>
    let a := tbl + 8 * (va / 2 ^ (39 - 9 * l) % 512)
    let e := readMem s a 8
    if overlaps tbl 4096 area.1 area.2 then .error 4
    else if bitOf e 0 then
      match walkEntry l e with
      | .table t => mapPage p va pa wr area ls t spare s
      | _ => .error 4
    else if !tablePageOk s p area spare then .error 4
    else
      let s1 := clearMem s spare 4096
      mapPage p va pa wr area ls spare (spare + 4096)
        (writeMem (s1.modPart p fun q => { q with tables := q.tables ++ [spare] }) a 8 (spare + 1))

/-- Maps the pages of one piece. -/
def mapPages (p va pa : Nat) (wr : Bool) (area : Nat × Nat) (n spare : Nat) (s : State) : Except Nat (List Nat × Nat × State) :=
  let root := (s.partAt p).ptroot
  if !bitAt root 0 then .error 4
  else (List.range n).foldl (fun (acc : Except Nat (List Nat × Nat × State)) k => do
    let (l, sp, s) ← acc
    let (a, sp', s') ← mapPage p (va + 4096 * k) (pa + 4096 * k) wr area [0, 1, 2] (fld root 49 12 * 4096) sp s
    .ok (l ++ [a], sp', s')) (.ok ([], spare, s))

/-! ### Relocation (R16, R17) -/

/-- What symbols and records resolve to in one copy. -/
structure Resolved where
  /-- load address of each section -/
  sect : List Nat
  /-- channel numbers of the records of kind 2 and 3 in record order -/
  chans : List Nat
  indexes : List Nat
  /-- addresses of the placement maps and graph objects, by index into the image's records -/
  objs : List (Nat × Nat)
  deriving DecidableEq, Repr

/-- S of R17 of a symbol that is no channel or index. -/
def symValue (im : Image) (res : Resolved) (sym : Nat) : Nat :=
  if bitsOf sym 7 0 = 2 then ((symRecord im sym [6, 8]).bind fun k => getN k res.objs).getD 0
  else if bitsOf sym 31 16 = 0xFFFF then bitsOf sym 127 64
  else (res.sect[bitsOf sym 31 16]?).getD 0 + bitsOf sym 127 64

/-- The number among those of `nums` of the record of these kinds that a symbol names. -/
def symNumber (im : Image) (sym : Nat) (kinds nums : List Nat) : Int :=
  let order := (im.recs.zipIdx.filter fun q => kinds.any (· == q.1.2.kind)).map (·.2)
  ((symRecord im sym kinds).bind fun k => nums[order.idxOf k]?).getD 0

/-- Patches one item (R17); status 2 for a number that does not fit imm13. -/
def applyReloc (im : Image) (res : Resolved) (sects : List Sect) (i : Nat) : Except Nat (List Sect) :=
  let r := relocAt im i
  let sym := relocSym im r
  let sec := bitsOf r 95 80
  let off := bitsOf r 127 96
  let a := signedOf 48 (bitsOf r 47 0)
  match sects[sec]? with
  | none => .error 2
  | some t =>
    let body := padTo t.body t.msize
    let w0 := leAt body off 4
    let put (o n v : Nat) : Except Nat (List Sect) := .ok (setAt sec { t with body := putAt body o n v } sects)
    let addr : Nat := ((symValue im res sym + a) % 2 ^ 64).toNat
    let imm13 (n : Int) : Except Nat (List Sect) :=
      if -4096 ≤ n + a && n + a < 4096 then put off 4 (setField w0 31 19 ((n + a) % 8192).toNat) else .error 2
    match bitsOf r 63 56 with
    | 1 => put off 8 addr
    | 2 => put (off + litOff w0) 8 addr
    | 3 => imm13 (symNumber im sym [2, 3] res.chans)
    | _ => imm13 (symNumber im sym [5] res.indexes)

/-- Whether relocation i patches a section of a copy. -/
def relocPerCopy (im : Image) (i : Nat) : Bool :=
  match im.sects[bitsOf (relocAt im i) 95 80]? with
  | some t => t.kind ≤ 4
  | none => false

/-- The relocations of one copy's sections. -/
def copyRelocs (im : Image) (res : Resolved) : Except Nat (List Sect) :=
  (List.range (bitsOf im.hdr 255 240)).foldl (fun (acc : Except Nat (List Sect)) i => do
    let l ← acc
    if relocPerCopy im i then applyReloc im res l i else .ok l) (.ok im.sects)

/-- The relocations of the shared sections, records among them, and whether each could be applied; one that fails leaves its section. -/
def sharedRelocs (im : Image) (res : Resolved) : List Sect × Bool :=
  (List.range (bitsOf im.hdr 255 240)).foldl (fun (acc : List Sect × Bool) i =>
    if relocPerCopy im i then acc
    else match applyReloc im res acc.1 i with
      | .ok l => (l, acc.2)
      | .error _ => (acc.1, false)) (im.sects, true)

/-! ### Writing (step 6 of R21, R22) -/

/-- Writes bytes at a device-physical address. -/
def writeBytes (s : State) (pa : Nat) (b : Bytes) : State := writeMem s pa b.length (bytesNat b)

/-- Lines of a scratchpad section. -/
def sectLines (t : Sect) : List Nat := (List.range ((t.addr + t.msize + 127) / 128 - t.addr / 128)).map fun k => t.addr / 128 + k

/-- Zeroes a scratchpad line and marks it full (R22). -/
def zeroLine (n : Nat) (s : State) (l : Nat) : State := setFull (clearMem s (scratchPa n (128 * l)) 128) n l

/-- Writes one section to one core. The lines of an `empty` section are left empty and not written (R13, R22). -/
def writeSect (t : Sect) (s : State) (n : Nat) : State :=
  let body := padTo t.body t.msize
  if t.kind = 4 then writeBytes s (hamperPa n (t.addr - 0x100000)) body
  else if t.empty then (sectLines t).foldl (fun (s : State) l => setEmpty s n l) s
  else writeBytes s (scratchPa n t.addr) body

/-- Zeroes every line that sections of a copy reach, before any is written; an `empty` section's lines are no such lines. -/
def zeroLines (t : Sect) (s : State) (n : Nat) : State :=
  if t.kind = 4 || t.empty then s else (sectLines t).foldl (zeroLine n) s

/-- Lines of the deque and of the two stacks, which the layout of R22 sets up zero and full. -/
def layoutLines : List Nat := (List.range 32).map (0x280 + ·) ++ (List.range 64).map (0x2C0 + ·)

/-- The layout of R22 in a core of a copy. -/
def coreLayout (s : State) (n : Nat) : State :=
  (layoutLines.foldl (zeroLine n) s).modCore n fun c => { c with
    rqbase := 0x14000, rqlim := 0x15000, rqtop := 0, rqbot := 0
    u := { c.u with stkbase := 0x16000, stklim := 0x17000 }
    n := { c.n with stkbase := 0x17000, stklim := 0x18000 } }

/-- A handler record's entry for one copy: the actor's channels are the image's channel and delta-queue records by their place
among them. -/
def handlerBody (h : BitVec 128) (chans : List Nat) : BitVec 128 :=
  if hKind h != 1 then h
  else
    let f (h : BitVec 128) (hi lo cnt : Nat) : BitVec 128 := if cnt = 0 then h else withField h hi lo ((chans[fld h hi lo]?).getD 0)
    f (f (f (f h 59 48 (fld h 67 60)) 79 68 (fld h 87 80)) 99 88 (fld h 107 100)) 119 108 (fld h 127 120)

/-- Writes the handler and window records of one copy; status 2 for an entry that its rules reject. -/
def writeEntries (p : Nat) (o : Nat × Nat) (chans : List Nat) : List Rec → State → Except Nat State
  | [], s => .ok s
  | r :: rs, s => do
    let cores := subCores o r.px r.py r.pw r.ph
    let s1 ← cores.foldl (fun (acc : Except Nat State) n => do
      let s ← acc
      if r.kind = 1 then
        let h := handlerBody (BitVec.ofNat 128 (bytesNat r.body)) chans
        guardE (handlerFieldsOk r.arg h && actorOk (fun k => some (s.chanAt p k)) n h) 2
        .ok (s.modCore n fun c => { c with handlers := c.handlers.set (Fin.ofNat 20 r.arg) h })
      else
        let w : Window := ⟨withField (BitVec.ofNat 256 (bytesNat r.body)) 3 2 0, false, none⟩
        guardE (winOk (s.coreAt n) r.arg w) 2
        .ok (setWin s n r.arg w)) (.ok s)
    writeEntries p o chans rs s1

/-- Step 4 of R21 for the channels: the numbers each origin's copy takes. -/
def allocChans (recs : List Rec) (p : Nat) : List (Nat × Nat) → List Nat → State → Except Nat (List (List Nat) × State)
  | [], _, s => .ok ([], s)
  | o :: os, used, s => do
    let (all, s1) ← makeChans p o (recs.filter fun r => r.kind == 2 || r.kind == 3) used s
    let (rest, s2) ← allocChans recs p os all s1
    .ok (all.drop used.length :: rest, s2)

/-- Steps 5 and 6 of R21 for one copy at an origin: its sections and entries. -/
def loadCopy (im : Image) (p : Nat) (res : Resolved) (recs : List Rec) (acc : Except Nat State) (o : (Nat × Nat) × List Nat) : Except Nat State := do
  let s ← acc
  let sects ← copyRelocs im { res with chans := o.2 }
  let placed := sects.filter fun t => t.kind ≤ 4
  let each (f : Sect → State → Nat → State) (s : State) : State :=
    placed.foldl (fun (s : State) t => (subCores o.1 t.px t.py t.pw t.ph).foldl (f t) s) s
  let s1 := (subCores o.1 0 0 (hdFw im.hdr) (hdFh im.hdr)).foldl coreLayout s
  writeEntries p o.1 o.2 (recs.filter fun r => r.kind == 1 || r.kind == 4) (each writeSect (each zeroLines s1))

/-! ### The load (R21) -/

/-- Footprints of two origins overlap. -/
def originsClash (im : Image) (os : List (Nat × Nat)) : Bool :=
  os.zipIdx.any fun a => os.zipIdx.any fun b =>
    a.2 < b.2 && overlaps a.1.1 (hdFw im.hdr) b.1.1 (hdFw im.hdr) && overlaps a.1.2 (hdFh im.hdr) b.1.2 (hdFh im.hdr)

/-- The records as the relocations of their sections leave them (R17). -/
def relocRecs (im : Image) (sects : List Sect) : List Rec :=
  im.recs.map fun q => match sects[q.1]? with
    | some t => { q.2 with body := ((padTo t.body t.msize).drop q.2.off).take q.2.body.length }
    | none => q.2

/-- Index descriptors are written valid (R264). -/
def writeIndexes (s : State) (p : Nat) (l : List (Nat × Nat × Nat)) : State :=
  l.foldl (fun (s : State) q => s.modPart p fun t => { t with
    indexes := putN q.1 (BitVec.ofNat 512 (packFields [(q.2.1, 64), (q.2.2, 8), (1, 0)])) t.indexes }) s

/-- Takes `n` free index numbers. -/
def takeIndexes (s : State) (p : Nat) : Nat → List Nat → Except Nat (List Nat)
  | 0, used => .ok used
  | n + 1, used => match freeIndex s p used with
    | none => .error 4
    | some i => takeIndexes s p n (used ++ [i])

/-- What one load needs of HBM: sections, index arrays, placement maps and graph objects. R21 gives the permissions of sections; index arrays
and graph objects are mapped writable, since engines and schedulers write them, and placement maps not (log entry 26). -/
def hbmPieces (im : Image) (recs : List Rec) : List Piece :=
  (im.sects.filter (·.kind == 5)).map (fun t => ⟨t.msize, 2 ^ t.align, t.wr⟩)
    ++ (recs.filter (·.kind == 5)).map (fun q => ⟨512 * 2 ^ Nat.min (bytesNat q.body) 24, 4096, true⟩)
    ++ (recs.filter (fun q => q.kind == 6 || q.kind == 8)).map (fun q => ⟨q.body.length, 4096, q.kind == 8⟩)

/-- Where one load comes to stand in HBM: its pieces with their offsets in the area, the area's size, and what its symbols resolve to. -/
structure Layout where
  pieces : List Piece
  offs : List Nat
  size : Nat
  res : Resolved
  deriving DecidableEq, Repr

/-- Places an image whose records are `recs` at the area's base, with these index numbers. -/
def layoutAt (im : Image) (base : Nat) (ixs : List Nat) (recs : List Rec) : Layout :=
  let pieces := hbmPieces im recs
  let (offs, size) := layPieces base pieces 0
  let va (k : Nat) : Nat := base + (offs[k]?).getD 0
  let hbm := (im.sects.zipIdx.filter fun q => q.1.kind == 5).map (·.2)
  let before := hbm.length + (recs.filter (·.kind == 5)).length
  let objs := (im.recs.zipIdx.filter fun q => q.1.2.kind == 6 || q.1.2.kind == 8).map (·.2)
  ⟨pieces, offs, size, im.sects.zipIdx.map (fun q => if q.1.kind = 5 then va (hbm.idxOf q.2) else q.1.addr), [], ixs,
    objs.zipIdx.map fun q => (q.1, va (before + q.2))⟩

/-- The image as its relocations leave it: the layout, the shared sections, the records and whether every relocation could be applied. Records
are read once those of their section have patched them: an index record's bucket count, which the layout itself rests on, must come out the
same by the layout that it gives (log entry 26). -/
def relocated (im : Image) (base : Nat) (ixs : List Nat) : Except Nat (Layout × List Sect × List Rec × Bool) := do
  let first := layoutAt im base ixs (im.recs.map (·.2))
  let lay := layoutAt im base ixs (relocRecs im (sharedRelocs im first.res).1)
  let (shared, ok) := sharedRelocs im lay.res
  let recs := relocRecs im shared
  guardE (hbmPieces im recs == lay.pieces) 2
  .ok (lay, shared, recs, ok)

/-- The rest of step 2 of R21: the bodies of the records. -/
def bodiesOk (im : Image) (recs : List Rec) : Bool :=
  recs.all (recBodyOk (hdFw im.hdr) (hdFh im.hdr)) && recsOk recs

/-- The body of a placement map or graph object as it is entered: the scheduler maintains running and queued (R74), which begin at 0 whatever
the image holds there (log entry 26). -/
def enteredBody (r : Rec) : Bytes := if r.kind = 8 then putAt r.body 0 8 (setField (leAt r.body 0 8) 19 16 0) else r.body

/-- Maps the pieces as the request asks: range entries, page-table entries and the state. -/
def mapPieces (r : LoadReq) (size : Nat) (ps : List (Piece × Nat)) (s : State) : Except Nat (List Nat × List Nat × State) :=
  if ps.isEmpty then .ok ([], [], s)
  else if ps.any fun q => rangeTaken s r.part (r.hbmVa + q.2) (roundUp q.1.size 4096) then .error 4
  else if r.mapKind.val = 1 then
    ps.foldl (fun (acc : Except Nat (List Nat × List Nat × State)) q => do
      let (rs, ts, s) ← acc
      let (i, s1) ← mapRange s r.part (r.hbmVa + q.2) (r.hbmPa + q.2) q.1.size q.1.wr
      .ok (rs ++ [i], ts, s1)) (.ok ([], [], s))
  else if r.mapKind.val = 2 then
    (ps.foldl (fun (acc : Except Nat (List Nat × Nat × State)) q => do
      let (ts, sp, s) ← acc
      let (l, sp1, s1) ← mapPages r.part (r.hbmVa + q.2) (r.hbmPa + q.2) q.1.wr (r.hbmPa, size) ((q.1.size + 4095) / 4096) sp s
      .ok (ts ++ l, sp1, s1)) (.ok ([], r.spare, s))).map fun x => ([], x.1, x.2.2)
  else .error 4

/-- The area lies in the partition's HBM share and meets no other load's and no table page, and its virtual addresses are such as the mapping
asked for can hold: a page table maps 48 bits (R108). -/
def areaOk (s : State) (r : LoadReq) (size : Nat) : Bool :=
  size == 0 || (r.hbmVa ≥ 0x200000 && r.hbmVa % 4096 == 0 && r.hbmPa % 4096 == 0 && r.hbmVa + size ≤ (if r.mapKind.val = 2 then 2 ^ 48 else 2 ^ 64) && r.hbmPa + size ≤ Config.hbmBytes
    && granted s r.part r.hbmPa .write true && granted s r.part (r.hbmPa + size - 1) .write true
    && ((s.partAt r.part).tables.all fun a => !overlaps r.hbmPa size a 4096)
    && (s.partAt r.part).loads.all fun l => l.hbm.all fun a => !overlaps r.hbmPa size a.1 a.2)

/-- All steps of R21 after the signature; an error is the status. -/
def loadSteps (s : State) (r : LoadReq) : Except Nat (State × WinWrites) := do
  let im ← parseImage r.image r.sys
  let p := r.part
  let nix := (im.recs.filter (·.2.kind == 5)).length
  let ixs := takeIndexes s p nix []
  let (lay, shared, recs, relocsOk) ← relocated im r.hbmVa (ixs.toOption.getD [])
  guardE (bodiesOk im recs) 2
  guardE (layoutOk im r.origins.length) 5
  let cores := r.origins.flatMap fun o => subCores o 0 0 (hdFw im.hdr) (hdFh im.hdr)
  guardE (r.origins.all fun o => o.1 + hdFw im.hdr ≤ Config.cols && o.2 + hdFh im.hdr ≤ Config.rows) 5
  guardE (cores.all (coreIn s p)) 5
  guardE (cores.all fun n => !(s.coreAt n).n.running && !(s.coreAt n).u.running && !(s.partAt p).loads.any fun l => hasNat l.cores n) 3
  guardE (!originsClash im r.origins) 5
  let ixs ← ixs
  let size := lay.size
  guardE (areaOk s r size) 4
  let (ranges, ptes, s1) ← mapPieces r size (lay.pieces.zip lay.offs) s
  let (chans, s2) ← allocChans recs p r.origins [] s1
  guardE relocsOk 2
  let s3 ← (r.origins.zip chans).foldl (loadCopy im p lay.res recs) (.ok (clearMem s2 r.hbmPa size))
  let pa (va : Nat) : Nat := r.hbmPa + (va - r.hbmVa)
  let s4 := (shared.zip lay.res.sect).foldl (fun (s : State) q => if q.1.kind = 5 then writeBytes s (pa q.2) q.1.body else s) s3
  let nsec := (im.sects.filter (·.kind == 5)).length
  let counts := (recs.filter (·.kind == 5)).map fun q => bytesNat q.body
  let s5 := writeIndexes s4 p ((ixs.zip counts).zipIdx.map fun q => (q.1.1, r.hbmVa + (lay.offs[nsec + q.2]?).getD 0, q.1.2))
  let objs := lay.res.objs
  let s6 := objs.foldl (fun (s : State) q => writeBytes s (pa q.2) ((recs[q.1]?.map enteredBody).getD [])) s5
  let body (i : Nat) : Bytes := (recs[i]?.map (·.body)).getD []
  let load := (((List.range ((s.partAt p).loads.length + 1)).find? fun h => !(s.partAt p).loads.any fun l => l.handle == h).getD 0)
  let entries (kind : Nat) : List (Nat × Nat) := r.origins.flatMap fun o =>
    (im.recs.filter (·.2.kind == kind)).flatMap fun q => (subCores o q.2.px q.2.py q.2.pw q.2.ph).map fun n => (n, q.2.arg)
  let graphs := (objs.filter fun q => (im.recs[q.1]?).any fun x => x.2.kind == 8).map fun q => BitVec.ofNat 64 q.2
  let s7 := s6.modPart p fun t => { t with
    loadStatus := 0
    loads := t.loads ++ [⟨load, imageDigest r.image, r.sys, cores, chans.flatten, ixs, ranges, if size = 0 then [] else [(r.hbmPa, size)], entries 1, entries 4, graphs, ptes,
      (lay.pieces.zip lay.offs).map fun q => (r.hbmVa + q.2, roundUp q.1.size 4096)⟩] }
  let die := match r.origins with
    | o :: _ => dieOf (coreAtPos o.1 o.2)
    | [] => let (_, _, y0, _) := partRect s p; y0 / 6
  let launches := (im.recs.zipIdx.filter fun q => q.1.2.kind == 7).map (·.2)
  .ok (launches.foldl (fun (acc : State × WinWrites) i =>
    let (t, w) := enterRecord acc.1 p (BitVec.ofNat 512 (bytesNat (body i)), die, load)
    (t, acc.2 ++ w)) (s7, []))

/-- One load (R21): on a failure only the returned status changes. -/
def imageLoad (s : State) (r : LoadReq) : State × WinWrites :=
  let fail (c : Nat) : State × WinWrites := (s.modPart r.part fun q => { q with loadStatus := c }, [])
  if !signatureOk r.image (partKey s r.part) then fail 1
  else match loadSteps s r with
    | .ok x => x
    | .error c => fail c

/-! ### Unloading (R365) -/

/-- Classes waiting or running in a context. -/
def ctxClasses (k : Context) : List Nat :=
  (if k.running then [k.fir.cls] else []) ++ k.yieldSlot.toList.map (·.cls) ++ k.hold.toList.map (fun m => hdrClass m.hdr)
    ++ k.runq.filterMap (fun e => match e with
      | .msg m => some (hdrClass m.hdr)
      | .actor a => some a.cls
      | .cont => none)
    ++ k.fir.range.toList.map fun r => r.cls.toNat

/-- A class that an image bound is in use on a core. -/
def classBusy (s : State) (n cls : Nat) : Bool :=
  let c := s.coreAt n
  hasNat (ctxClasses c.n) cls || hasNat (ctxClasses c.u) cls || (dequeIdx c).any (fun i => (dequeRead s n i).cls.toNat == cls)
    || [0, 1].any fun x => (getN (2 * n + x) s.shadows).any fun k => hasNat (ctxClasses k) cls

/-- The unload of one load (R365): status 3 and no change unless nothing of it is in use. A node's launch is live only while its replay is. An
index descriptor then reads 0 in every field, as one does whose number was never taken, and a table page that the loader took stays in the
page table (log entry 26). -/
def imageUnload (s : State) (p load : Nat) : State :=
  match (s.partAt p).loads.find? fun l => l.handle == load with
  | none => s
  | some l =>
    let free := !(l.binds.any fun b => l.cores.any fun n => classBusy s n b.2)
      && (s.partAt p).launches.all (fun q => match q.2.src with
        | .image h => h != load
        | _ => true)
      && (s.partAt p).imageRecs.all (fun q => q.2.2 != load)
      && (s.partAt p).replays.all (fun r => !l.graphs.any fun g => sameGraph s p r.sup r.graph.toNat g.toNat)
      && (s.partAt p).replayReqs.all (fun r => !l.graphs.any fun g => sameGraph s p r.sup r.graph.toNat g.toNat)
      && l.channels.all (fun ch => let c := s.chanAt p ch; c.wr == c.rd && c.sp == 0 && !openAnywhere s p ch)
    if !free then s.modPart p fun q => { q with loadStatus := 3 }
    else
      let s1 := l.binds.foldl (fun (s : State) b => s.modCore b.1 fun c => { c with handlers := c.handlers.set (Fin.ofNat 20 b.2) 0 }) s
      let s2 := l.wins.foldl (fun (s : State) w => setWin s w.1 w.2 Window.reset) s1
      let s3 := l.channels.foldl (fun (s : State) ch => channelDescriptorWrite s p ch 0 0 false) s2
      let s4 := l.ptes.foldl (fun (s : State) a => writeMem s a 8 0) s3
      s4.modPart p fun q => { q with
        loadStatus := 0
        indexes := q.indexes.filter fun i => !hasNat l.indexes i.1
        ranges := l.ranges.foldl (fun (v : Vector (BitVec 256) 32) i => v.set (Fin.ofNat 32 i) 0) q.ranges
        oldRanges := q.oldRanges ++ l.ranges.map (fun i => (i, q.ranges[Fin.ofNat 32 i]))
        loads := q.loads.filter fun o => o.handle != load }

end Sys2Proof.Machine
end

