-- ==== Sys2Proof/Machine/Creg.lean ====
section
/-!
DEFINITION. Control registers (R173, R176 to R179, R323, R325, R356): which exist, who may read and write them, what a read gives and
what a write does.
-/
namespace Sys2Proof.Machine

/-! ### Return-buffer entries as words (R97) -/

/-- What an entry with an x destination lands (R206, R211). -/
def Entry.word (e : Entry) : Word :=
  match e.ext with
  | .sign n => BitVec.ofInt 64 (signedOf (8 * n) (e.value % 2 ^ (8 * n)))
  | .zero n => BitVec.ofNat 64 (e.value % 2 ^ (8 * n))
  | .whole => BitVec.ofNat 64 e.value

def Dest.bits : Dest → Nat
  | .x r => r.val
  | .v r => 0x20 + r.val
  | .m r => 0x40 + r.val
  | .slots => 0x60

def EntryState.code : EntryState → Nat
  | .pending => 1
  | .faulted => 2
  | .returned => 3
  | .reissue => 4
  | .dropped => 0

def Entry.isX (e : Entry) : Bool := match e.dest with
  | .x _ => true
  | _ => false

/-- Bits [63:0] of an entry. -/
def Entry.info (e : Entry) : Word :=
  let cause := match e.fault, e.state with
    | some (_, c), .faulted => c.toNat
    | _, _ => 0
  BitVec.ofNat 64 (packFields [(bitsOf e.pc.toNat 16 0, 47), (e.dest.bits, 40), (cause, 32), (boolNat e.super, 3), (e.state.code, 0)])

/-! ### Which registers there are -/

/-- Access of one mode to a register. -/
structure CregAccess where
  userR : Bool
  userW : Bool
  supR : Bool
  supW : Bool
  deriving DecidableEq, Repr

/-- The table of R176 with the supervisor numbers of R323; none for a number that is not assigned or is the hypervisor's. -/
def cregAccess (n : Nat) : Option CregAccess :=
  if n = 0x06 || (0x07 ≤ n && n ≤ 0x0A) || n = 0x12 || (0x13 ≤ n && n ≤ 0x17) || n = 0x19 || n = 0x1A then some ⟨true, false, true, false⟩
  else if n ≤ 0x05 || n = 0x0D || n = 0x0E || n = 0x0F || n = 0x10 || n = 0x1C then some ⟨true, false, true, true⟩
  else if n = 0x0B || n = 0x0C || n = 0x11 || n = 0x1B then some ⟨true, true, true, true⟩
  else if n = 0x18 || n = 0x22 || n = 0x23 || n = 0x25 then some ⟨false, false, true, true⟩
  else if n = 0x20 || n = 0x21 || n = 0x24 then some ⟨false, false, true, false⟩
  else none

/-- A hypervisor register that this core may reach now (R356). -/
def hyperCreg (s : State) (core n : Nat) : Option (Fin 4) :=
  match mgmtOf core with
  | some d => if 0x80 ≤ n && n ≤ 0x85 && bitAt (s.pkg.mgmt[d]).hstatus 0 then some d else none
  | none => none

def cregReadable (s : State) (core : Nat) (sup : Bool) (n : Nat) : Bool :=
  match cregAccess n with
  | some a => if sup then a.supR else a.userR
  | none => (hyperCreg s core n).isSome
def cregWritable (s : State) (core : Nat) (sup : Bool) (n : Nat) : Bool :=
  match cregAccess n with
  | some a => if sup then a.supW else a.userW
  | none => (hyperCreg s core n).isSome

/-! ### Reading -/

def ctxBit : Ctx → Nat
  | .n => 0
  | .u => 1

def statusWord (x : Ctx) (f : Firing) : Word :=
  BitVec.ofNat 64 (packFields [(boolNat f.intrap, 3), (boolNat f.spm, 2), (ctxBit x, 1), (boolNat f.sup, 0)])
def launchWord (f : Firing) : Word := BitVec.ofNat 64 (packFields [(f.depth.toNat, 32), (f.launch.toNat, 0)])
def sfCount (k : Context) : Word := BitVec.ofNat 64 (packFields [(k.lost, 8), (k.sfq.length, 0)])
def SfRec.info (r : SfRec) : Word := BitVec.ofNat 64 (packFields [(r.inner.toNat, 8), (r.op.toNat, 0)])
/-- position (R179). -/
def positionWord (s : State) (n : Nat) : Word :=
  BitVec.ofNat 64 (packFields [(deviceNum s, 32), ((s.coreAt n).partition, 28), (dieOf n % 4, 26), (n, 13), (coreRow n, 6), (coreCol n, 0)])
/-- The selected set-aside entry, inside a handler (R323); none for a free one. -/
def selEntry (k : Context) : Option Entry :=
  if k.fir.intrap then (k.fir.aside[k.tbsel.toNat]?).filter fun e => e.state != .dropped else none

/-- The registers that a firing or its context holds (R176). -/
def ctxCreg (x : Ctx) (k : Context) (n : Nat) : Word :=
  match n with
  | 0x00 => statusWord x k.fir
  | 0x01 => k.cause
  | 0x02 => k.epc
  | 0x03 => k.tval
  | 0x04 => k.tvec
  | 0x05 => k.fpc
  | 0x07 => k.fir.tag.setWidth 64
  | 0x08 => k.fir.group.setWidth 64
  | 0x09 => k.fir.stage.setWidth 64
  | 0x0A => launchWord k.fir
  | 0x0B => k.fpctl.setWidth 64
  | 0x0C => k.peak
  | 0x0D => k.stkbase
  | 0x0E => k.stklim
  | 0x11 => k.fir.inner.toWord
  | 0x13 => sfCount k
  | 0x14 => (k.sfq.head?.map (·.pc)).getD 0
  | 0x15 => (k.sfq.head?.map (·.va)).getD 0
  | 0x16 => (k.sfq.head?.map (·.data)).getD 0
  | 0x17 => (k.sfq.head?.map SfRec.info).getD 0
  | 0x1A => k.retired
  | 0x1B => k.fir.outer.toWord
  | 0x22 => if k.fir.intrap then k.tbsel.setWidth 64 else 0
  | 0x23 => match selEntry k with
    | some e => if e.isX then e.word else 0
    | none => 0
  | 0x24 => ((selEntry k).map (·.va)).getD 0
  | 0x25 => ((selEntry k).map Entry.info).getD 0
  | _ => 0

/-- What a read of a register gives. -/
def cregRead (s : State) (i : CtxId) (n : Nat) : Word :=
  let c := s.coreAt i.core
  match n with
  | 0x06 => positionWord s i.core
  | 0x0F => c.rqbase
  | 0x10 => c.rqlim
  | 0x12 => c.gangpos
  | 0x19 => s.cycle
  | 0x1C => c.accowner.setWidth 64
  | 0x20 => BitVec.ofNat 64 c.rqtop
  | 0x21 => BitVec.ofNat 64 c.rqbot
  | _ =>
    match hyperCreg s i.core n with
    | some d =>
      let m := s.pkg.mgmt[d]
      match n with
      | 0x80 => m.hstatus
      | 0x81 => m.hcause
      | 0x82 => m.hepc
      | 0x83 => m.htvec
      | 0x84 => m.devnum.setWidth 64
      | _ => m.hevent.setWidth 64
    | none => ctxCreg i.x (c.ctx i.x) n

/-! ### Writing -/

/-- Bits of a word at the places of a mask. -/
def masked (v : Word) (m : Nat) : Word := v &&& BitVec.ofNat 64 m

/-- Drops the head record; the lost count goes with the last one (R325). A count that runs goes on from the earliest store that still has a
record for which a trap is due (R319, R324). -/
def sfPop (k : Context) : Context :=
  let q := k.sfq.drop 1
  { k with sfq := q, lost := if q.isEmpty then 0 else k.lost, skid := k.skid.bind fun _ => (q.find? fun r => !r.held).map fun r => k.issued - r.order }

/-- Replaces the selected set-aside entry (R323). -/
def setAside (k : Context) (e : Entry) : Context := { k with fir := { k.fir with aside := setAt k.tbsel.toNat e k.fir.aside } }

/-- A write of tbinfo: state 0 drops the entry, state 3 lets an x entry land what tbval holds (R323). Its accesses that have not been
performed are withdrawn. -/
def tbinfoWrite (k : Context) (v : Word) : Context :=
  match selEntry k with
  | none => k
  | some e =>
    let acc := k.acc.filter fun a => a.num != e.num
    if fld v 2 0 = 0 then setAside { k with acc := acc } { e with state := .dropped, fault := none, acq := none }
    else if fld v 2 0 = 3 && e.isX then
      setAside { k with acc := acc } { e with state := .returned, fault := none, value := e.word.toNat, ext := .whole, acq := none }
    else k

/-- A write of a register of a context or its firing. -/
def ctxCregWrite (k : Context) (n : Nat) (v : Word) : Context :=
  match n with
  | 0x00 => { k with fir := { k.fir with spm := bitAt v 2 } }
  | 0x01 => { k with cause := masked v 0x1FFFF }
  | 0x02 => { k with epc := v }
  | 0x03 => { k with tval := v }
  | 0x04 => { k with tvec := masked v 0x1FFFC }
  | 0x05 => { k with fpc := v }
  | 0x0B => { k with fpctl := v.setWidth 13 }
  | 0x0C => { k with peak := masked v 0x800000007FFFFFFF }
  | 0x0D => { k with stkbase := masked v 0x1FFF0 }
  | 0x0E => { k with stklim := masked v 0x1FFF0 }
  | 0x11 => { k with fir := ({ k.fir with inner := Loop.ofWord v } : Firing).fillLoops }
  | 0x18 => sfPop k
  | 0x1B => { k with fir := ({ k.fir with outer := Loop.ofWord v } : Firing).fillLoops }
  | 0x22 => if k.fir.intrap then { k with tbsel := v.setWidth 3 } else k
  | 0x23 => match selEntry k with
    | some e => if e.isX then setAside k { e with value := v.toNat, ext := .whole } else k
    | none => k
  | 0x25 => tbinfoWrite k v
  | _ => k

/-- Sets a deque bound, which empties the deque (R90). -/
def writeDequeBound (s : State) (n : Nat) (lim : Bool) (v : Word) : State :=
  s.modCore n fun c => { c with
    rqbase := if lim then c.rqbase else v, rqlim := if lim then v else c.rqlim, rqtop := 0, rqbot := 0 }

/-- What a write of a register does; read-only bits keep their value. -/
def cregWrite (s : State) (i : CtxId) (n : Nat) (v : Word) : State :=
  match n with
  | 0x0F => writeDequeBound s i.core false v
  | 0x10 => writeDequeBound s i.core true v
  | 0x1C => writeOwner s i.core (v.setWidth 32)
  | _ =>
    match hyperCreg s i.core n with
    | some d =>
      s.modPkg fun p =>
        let m := p.mgmt[d]
        let m' : Mgmt := match n with
          | 0x80 => { m with hstatus := masked v 1 }
          | 0x81 => { m with hcause := v }
          | 0x82 => { m with hepc := v }
          | 0x83 => { m with htvec := v }
          | 0x84 => if m.devnumSet then m else { m with devnum := v.setWidth 12, devnumSet := true }
          | _ => { m with hevent := m.hevent &&& ~~~(v.setWidth 4) }
        { p with mgmt := p.mgmt.set d m' }
    | none => s.modCtx i fun k => ctxCregWrite k n v

end Sys2Proof.Machine
end

