-- ==== Sys2Proof/Machine/Interrupt.lean ====
section
/-!
DEFINITION. Pre-emption (R327 to R332), group kill (R333), cluster reset (R334), the watchdog (R336, R337) and context-register
access by the supervisor (R346).
-/
namespace Sys2Proof.Machine

/-! ### Halting (R328) -/

/-- An access that may not be withdrawn once nothing but it is left of its instruction (R231, R289), or never (R235). -/
def AccKind.commits : AccKind → Bool
  | .launchDo _ _ | .hfillDo _ _ | .kick => true
  | _ => false

/-- Sets every unperformed entry to state 4 and withdraws its accesses (R100). -/
def reissueEntries (k : Context) : Context :=
  let own (num : Nat) : List Access := k.acc.filter fun a => a.feeds num
  let unperformed (e : Entry) : Bool := e.state == .pending && (own e.num).any fun a => !a.kind.commits
  let upd (e : Entry) : Entry := if unperformed e then { e with state := .reissue, value := e.base, fault := none } else e
  let all := k.rb ++ k.fir.aside
  { k with
    rb := k.rb.map upd
    fir := { k.fir with aside := k.fir.aside.map upd }
    acc := k.acc.filter fun a => !all.any fun e => unperformed e && a.feeds e.num }

/-- One targeted context halts: a gang context thaws its gang, a joiner withdraws, a `park` that has issued will issue again. -/
def haltCtx (s : State) (i : CtxId) (token : Nat) : State :=
  if (s.ctx i).halted then s
  else
    let s1 := if (s.coreAt i.core).cell.any fun c => c.x == i.x then thawGang s i.core .preempted else s
    let s2 := if (s1.ctx i).barrier.isSome && (s1.coreAt i.core).cell.isNone then withdraw s1 i else s1
    s2.modCtx i fun k => reissueEntries { k with halted := true, reason := 0x7, parked := none, token := BitVec.ofNat 16 token }

/-! ### Requests (R327) -/

def psToken (w : Word) : Nat := fld w 31 16
/-- The word of pstat. -/
def pstatWord (token : Nat) (refused saved halted busy : Bool) : Word :=
  BitVec.ofNat 64 (packFields [(token, 16), (boolNat refused, 3), (boolNat saved, 2), (boolNat halted, 1), (boolNat busy, 0)])
def psBusy (s : State) (p : Nat) : Bool := bitAt (s.partAt p).pstat 0

/-- The contexts that a target word names, in core order. -/
def targetsOf (v : Word) : List CtxId :=
  let w := fld v 48 43 + 1
  let h := fld v 55 49 + 1
  (List.range (w * h)).flatMap fun k =>
    let n := coreAtPos (fld v 35 30 + k % w) (fld v 42 36 + k / w)
    (if bitAt v 56 then [⟨n, .n⟩] else []) ++ (if bitAt v 57 then [⟨n, .u⟩] else [])

/-- A reserved value is set, or the rectangle leaves the partition. -/
def targetBad (s : State) (p : Nat) (v : Word) : Bool :=
  fld v 63 58 != 0 || fld v 57 56 == 0 || fld v 29 16 != 0
    || fld v 35 30 + fld v 48 43 + 1 > Config.cols || fld v 42 36 + fld v 55 49 + 1 > Config.rows
    || !(targetsOf v).all fun i => coreIn s p i.core

/-- A request that is refused: a kind 9 event and the token in pstat. While the fault event queue is full the write waits at the register (R320):
nothing happens yet. -/
def refuseRequest (s : State) (p : Nat) (v : Word) : State :=
  let t := fld v 15 0
  if !faultRoom s p 1 then s
  else faultEvent (s.modPart p fun q => { q with pstat := withField (withField q.pstat 31 16 t) 3 3 1 }) p (faultRecord 9 0 0 0 0 0 t 0 .n)

/-- The kind 5 event that is to come, once the fault event queue has room (R320). -/
def haltReport (s : State) (p : Nat) : State :=
  match (s.partAt p).haltEvent with
  | some token =>
    if faultRoom s p 1 then faultEvent (s.modPart p fun q => { q with haltEvent := none }) p (faultRecord 5 0 0 0 0 0 token.toNat 0 .n) else s
  | none => s

/-- A target has halted at its boundary: a trap whose entry waits for store checks comes first (R328), one that waits for the fault event
queue does not delay it (R320). -/
def atRest (k : Context) : Bool := k.trapping.isNone || !uncheckedStores k

/-- Every target has halted: pstat says so at once, and a kind 5 event is appended, once. -/
def noteHalted (s : State) (p : Nat) : State :=
  match (s.partAt p).request with
  | some (.halt, left, token) =>
    if !bitAt (s.partAt p).pstat 1 && left.all fun i => atRest (s.ctx i) then
      haltReport (s.modPart p fun q => { q with pstat := q.pstat ||| 2, haltEvent := some token }) p
    else s
  | _ => s

/-- Every target is done: saved set, busy cleared, a kind 6 event with the request's token; all of it waits for room in the fault event queue
(R320). pstat goes on showing a write that was refused since (R327). -/
def noteSaved (s : State) (p : Nat) : State :=
  match (s.partAt p).request, (s.partAt p).haltEvent with
  | some (_, [], token), none =>
    if !faultRoom s p 1 then s
    else
      let s1 := s.modPart p fun q => { q with
        request := none, pstat := pstatWord (psToken q.pstat) (bitAt q.pstat 3) true (bitAt q.pstat 1) false }
      faultEvent s1 p (faultRecord 6 0 0 0 0 0 token.toNat 0 .n)
  | _, _ => s

/-- What a request has still to report. -/
def requestReports (s : State) (p : Nat) : State := noteSaved (haltReport (noteHalted s p) p) p

/-- A target is done with. -/
def dropTarget (s : State) (p : Nat) (i : CtxId) : State :=
  s.modPart p fun q => match q.request with
    | some (k, left, t) => { q with request := some (k, left.filter (· != i), t) }
    | none => q

/-- A write to preq: every target that is not halted halts at its boundary (R328). -/
def preq (s : State) (p : Nat) (v : Word) : State :=
  if psBusy s p || targetBad s p v then refuseRequest s p v
  else
    let token := fld v 15 0
    let ts := (targetsOf v).filter fun i => !(s.ctx i).halted
    let leaves := ts.any fun i => (s.ctx i).barrier.isSome
    let s1 := (if leaves then resolveRest else id) (ts.foldl (fun (s : State) i => haltCtx s i token) s)
    let s2 := s1.modPart p fun q => { q with request := some (.halt, ts, BitVec.ofNat 16 token), pstat := pstatWord token false false false true }
    requestReports s2 p

/-! ### The save record (R330) -/

/-- An item of a record: offset, bytes, value. -/
abbrev SaveItem := Nat × Nat × Nat

/-- The 18 context registers that a record holds. -/
def savedCregs : List Nat := [0x00, 0x01, 0x02, 0x03, 0x04, 0x05, 0x07, 0x08, 0x09, 0x0A, 0x0B, 0x0C, 0x0D, 0x0E, 0x11, 0x13, 0x1A, 0x1B]

def dwords (off : Nat) (l : List Nat) : List SaveItem := l.zipIdx.map fun q => (off + 8 * q.2, 8, q.1)
def lines128 (off : Nat) (l : List Nat) : List SaveItem := l.zipIdx.map fun q => (off + 128 * q.2, 128, q.1 % 2 ^ 1024)

/-- Entries in the layout of R97, each padded to 32 bytes; free ones are zero. -/
def saveEntries (off : Nat) (l : List Entry) : List SaveItem :=
  (List.range 8).map fun j => match l[j]? with
    | some e => if e.state == .dropped then (off + 32 * j, 32, 0) else (off + 32 * j, 32, packFields [((if e.isX then e.word.toNat else j), 128), (e.va.toNat, 64), (e.info.toNat, 0)])
    | none => (off + 32 * j, 32, 0)

/-- Bytes 0x0040 to 0x1DFF of a context's record; the internal form's doublewords are free values. -/
def saveBlock (x : Ctx) (k : Context) (fresh : Nat) : List SaveItem :=
  let f := k.fir
  dwords 0x40 (savedCregs.map fun n => (ctxCreg x k n).toNat)
    ++ [(0xD0, 0x30, 0)]
    ++ dwords 0x100 ((List.finRange 32).map fun r => if isPort r then 0 else (f.readX r).toNat)
    ++ dwords 0x200 (f.m.toList.map (·.toNat))
    ++ dwords 0x240 [(f.range.map (·.lo.toNat)).getD 0, (f.range.map (·.hi.toNat)).getD 0]
    ++ dwords 0x250 ((List.range 22).map fun j => (Config.unitForm (fresh + j)).toNat)
    ++ (List.range 8).map (fun j => match k.sfq[j]? with
        | some r => (0x300 + 32 * j, 32, packFields [(r.info.toNat, 192), (r.data.toNat, 128), (r.va.toNat, 64), (r.pc.toNat, 0)])
        | none => (0x300 + 32 * j, 32, 0))
    ++ saveEntries 0x400 k.rb ++ saveEntries 0x500 f.aside
    ++ dwords 0x600 [f.asideInner.toWord.toNat, f.asideOuter.toWord.toNat]
    ++ lines128 0x800 ((List.range 8).map fun j => (k.rb[j]?.map (·.value)).getD 0)
    ++ lines128 0xC00 ((List.range 8).map fun j => (f.aside[j]?.map (·.value)).getD 0)
    ++ lines128 0x1000 (f.v.toList.map (·.toNat))

/-- The context that the yield slot's block is laid out from. -/
def yieldCtx (k : Context) (f : Firing) : Context := { k with fir := f, rb := [], sfq := [], lost := 0 }

/-- The skid field: instructions issued since S of R324, at most 11, or 15 when no record is queued. In a handler where no count runs it
tells them too. -/
def savedSkid (k : Context) : Nat :=
  match k.sfq.head? with
  | none => 15
  | some r => Nat.min (k.skid.getD (k.issued - r.order)) 11

/-- The whole record of a context; `frozen` says that its core's gang is (R273). -/
def saveRecord (x : Ctx) (k : Context) (frozen : Bool) (fresh : Nat) : List SaveItem :=
  let head := packFields [(savedSkid k, 44), (k.runq.length, 38), (boolNat k.hold.isSome, 37), (boolNat k.yieldSlot.isSome, 36),
    ((if frozen then 0xA else 7), 32),
    ((if k.running then k.fir.tag.toNat else 0), 0)]
  let msg (off : Nat) (m : Msg) : List SaveItem := [(off, 16, m.hdr.toNat), (off + 16, 128, m.payload.toNat)]
  dwords 0 [head, k.fir.pc.toNat, k.token.toNat] ++ [(0x18, 0x28, 0)]
    ++ saveBlock x k fresh
    ++ (match k.yieldSlot with
        | some f => (saveBlock x (yieldCtx k f) (fresh + 22)).map fun q => (q.1 + 0x2000, q.2)
        | none => [])
    ++ (match k.hold with
        | some m => msg 0x4000 m
        | none => [])
    ++ (k.runq.zipIdx.flatMap fun q => match q.1 with
        | .msg m => msg (0x4100 + 160 * q.2) m ++ [(0x4100 + 160 * q.2 + 144, 16, 0)]
        | _ => dwords (0x4100 + 160 * q.2) ((List.range 20).map fun j => (Config.unitForm (fresh + 44 + 20 * q.2 + j)).toNat))
    ++ [(0x5500, 0x2B00, 0)]

/-- The virtual address of a context's record. -/
def recordVa (s : State) (p : Nat) (i : CtxId) : Nat :=
  fld (s.partAt p).psave 63 15 * 0x8000 + (2 * i.core + ctxBit i.x) * 0x8000

/-- Writes a record with ordinary stores; none when a page does not translate or a line holds stores. -/
def writeRecord (s : State) (p va : Nat) : List SaveItem → Option State
  | [] => some s
  | (off, n, v) :: l =>
    -- zero runs may cross pages: they are cut at 128-byte lines
    let cuts := (List.range ((n + 127) / 128)).map fun j => (off + 128 * j, Nat.min 128 (n - 128 * j), v / 2 ^ (1024 * j) % 2 ^ 1024)
    match cuts.foldl (fun (acc : Option State) q => match acc with
      | none => none
      | some s => match engDest s p true ((va + q.1) % 2 ^ 64) with
        | .ok pa => some (storeBytes s p pa q.2.1 q.2.2)
        | .error _ => none) (some s) with
    | none => none
    | some s1 => writeRecord s1 p va l

/-- What the core keeps of a context after its save: the interface's messages in flight and the model's counters. -/
def emptied (k : Context) (halted saved : Bool) : Context :=
  { k with
    running := false, fir := Firing.reset, trapping := none, rb := [], sfq := [], lost := 0, skid := none, runq := [], hold := none
    yieldSlot := none, reason := if halted then 0x7 else 0, chanWait := none, parked := none, evLine := false, halted := halted
    saved := saved, parity := false, barrier := none, killed := [] }

/-- The held message enters a run queue that has room (R84). -/
def enterHeld (x : Ctx) (k : Context) : Context :=
  match k.hold with
  | some m => if k.runq.length < runqCap x then { k with runq := k.runq ++ [.msg m], hold := none } else k
  | none => k

/-- Every performed entry has returned or faulted and every issued store has passed its checks (step 5 of R328). -/
def savable (k : Context) : Bool :=
  k.trapping.isNone && !uncheckedStores k && (k.rb ++ k.fir.aside).all fun e => e.state != .pending

/-- Saves a halted context. -/
def saveCtx (s : State) (p : Nat) (i : CtxId) : State :=
  let k := s.ctx i
  match writeRecord s p (recordVa s p i) (saveRecord i.x k (s.coreAt i.core).cell.isSome s.fresh) with
  | none => s
  | some s1 =>
    let s2 := { s1 with shadows := putN (shadowKey i) { k with killed := [] } s1.shadows, fresh := s1.fresh + 44 + 20 * k.runq.length }
    requestReports (dropTarget (s2.setCtx i (emptied k true true)) p i) p

/-! ### Restoring (R331) -/

/-- Reads `n` bytes of a record. -/
def recordRead (s : State) (p va off n : Nat) : Option Nat :=
  match engineHome s p true ((va + off) % 2 ^ 64) .read with
  | .ok pa => some (readHome s pa n)
  | .error _ => none

/-- A return-buffer entry as the record holds it. -/
def restoreEntry (rd : Nat → Nat → Nat) (off lines j : Nat) (e : Entry) : Option Entry :=
  let w := rd (off + 32 * j) 24
  let st : Option EntryState := match bitsOf w 2 0 with
    | 1 => some .pending
    | 2 => some .faulted
    | 3 => some .returned
    | 4 => some .reissue
    | _ => if e.state == .dropped then some .dropped else none
  match st with
  | none => none
  | some st =>
    let va := BitVec.ofNat 64 (bitsOf w 127 64)
    let word := bitsOf w 191 128
    some { e with
      state := st, va := va, super := bitOf w 3, pc := BitVec.ofNat 64 (bitsOf w 63 47), again := true
      ext := if e.isX then .whole else e.ext
      value := match e.dest with
        | .x _ => word
        | .slots => e.value
        | _ => rd (lines + 128 * j) 128
      fault := if st == .faulted then some (((e.fault.map (·.1)).getD 0), BitVec.ofNat 8 (bitsOf w 39 32)) else e.fault }

/-- Entries of a buffer: an x entry that has not returned keeps the way its bytes become a value. -/
def restoreEntries (rd : Nat → Nat → Nat) (off lines : Nat) (l : List Entry) : List Entry :=
  l.zipIdx.filterMap fun q => (restoreEntry rd off lines q.2 q.1).map fun e => if e.state == .returned then e else { e with ext := q.1.ext }

/-- Fills a context from bytes 0x0040 to 0x1DFF of a block. -/
def restoreBlock (rd : Nat → Nat → Nat) (k : Context) : Context :=
  let dw (off : Nat) : Word := BitVec.ofNat 64 (rd off 8)
  let cr (n : Nat) : Word := dw (0x40 + 8 * savedCregs.idxOf n)
  let f := k.fir
  let sfc := cr 0x13
  { k with
    cause := cr 1, epc := cr 2, tval := cr 3, tvec := cr 4, fpc := cr 5
    fpctl := (cr 0x0B).setWidth 13, peak := cr 0x0C, stkbase := cr 0x0D, stklim := cr 0x0E, retired := cr 0x1A
    lost := fld sfc 15 8
    sfq := (List.range (fld sfc 3 0)).map fun j =>
      let r := rd (0x300 + 32 * j) 32
      ⟨j, BitVec.ofNat 64 (bitsOf r 63 0), BitVec.ofNat 64 (bitsOf r 127 64), BitVec.ofNat 64 (bitsOf r 191 128), BitVec.ofNat 8 (bitsOf r 207 200),
        BitVec.ofNat 3 (bitsOf r 194 192), (k.sfq[j]?.map (·.order)).getD 0, (k.sfq[j]?.map (·.held)).getD false⟩
    rb := restoreEntries rd 0x400 0x800 k.rb
    fir := { f with
      sup := bitAt (cr 0) 0, spm := bitAt (cr 0) 2, intrap := bitAt (cr 0) 3
      tag := (cr 7).setWidth 32, group := (cr 8).setWidth 16, stage := (cr 9).setWidth 4
      launch := (cr 0x0A).setWidth 32, depth := BitVec.ofNat 4 (fld (cr 0x0A) 35 32)
      inner := Loop.ofWord (cr 0x11), outer := Loop.ofWord (cr 0x1B)
      x := Vector.ofFn fun (r : Fin 32) => dw (0x100 + 8 * r.val)
      m := Vector.ofFn fun (r : Fin 8) => dw (0x200 + 8 * r.val)
      v := Vector.ofFn fun (r : Fin 28) => BitVec.ofNat 1024 (rd (0x1000 + 128 * r.val) 128)
      range := f.range.map fun r => { r with lo := dw 0x240, hi := dw 0x248 }
      aside := restoreEntries rd 0x500 0xC00 f.aside
      asideInner := Loop.ofWord (dw 0x600), asideOuter := Loop.ofWord (dw 0x608) } }

/-- Run-queue entry j of a record: a message is read from it, an actor or a continuation is part of the internal form. -/
def restoreQEntry (k : Context) (msg : Nat → Msg) (j : Nat) : QEntry :=
  match k.runq[j]? with
  | some (QEntry.actor a) => QEntry.actor a
  | some QEntry.cont => QEntry.cont
  | _ => QEntry.msg (msg j)

/-- A firing of a record, with the events of R174 that came while it was saved. -/
def withEvents (live f : Firing) : Firing := { f with evMsg := f.evMsg || live.evMsg, evFlit := f.evFlit || live.evFlit }

/-- The context that a record restores, `k` holding what the record's internal form stands for: among it whether a count of R324 runs in a
handler. A parity error that was to be reported at the next boundary still is (R335). -/
def restoreCtx (rd : Nat → Nat → Nat) (k live : Context) : Context :=
  let head := rd 0 8
  let r := restoreBlock rd k
  let msg (off : Nat) : Msg := ⟨BitVec.ofNat 128 (rd off 16), BitVec.ofNat 1024 (rd (off + 16) 128)⟩
  let skid := bitsOf head 47 44
  { r with
    running := bitsOf head 31 0 != 0
    fir := withEvents live.fir { r.fir with pc := BitVec.ofNat 64 (rd 8 8) }
    skid := if skid = 15 then none else if r.fir.intrap then k.skid.map fun _ => skid else some skid
    yieldSlot :=
      if bitOf head 36 then k.yieldSlot.map fun f => withEvents live.fir (restoreBlock (fun off n => rd (off + 0x2000) n) (yieldCtx k f)).fir
      else none
    hold := if bitOf head 37 then some (msg 0x4000) else none
    runq := (List.range (bitsOf head 43 38)).map (restoreQEntry k fun j => msg (0x4100 + 160 * j))
    halted := false, saved := false, reason := 0
    -- what a record does not hold stays with the core
    seq := live.seq, acc := live.acc, num := live.num, inj := live.inj, ports := live.ports, issued := live.issued, tbsel := live.tbsel
    readyAt := live.readyAt, evLine := false, parked := none, barrier := none, trapping := none, chanWait := none, parity := k.parity || live.parity }

/-- A message of partition `p` that a kill or a discard drops: a group start counts as an end. -/
def dropStart (p : Nat) (how : EndKind) (s : State) (m : Msg) : State := countStart s p m how

/-- Messages of a context's run queue and hold slot. -/
def queuedMsgs (k : Context) : List Msg :=
  k.runq.filterMap (fun e => match e with
    | .msg m => some m
    | _ => none) ++ k.hold.toList

/-- Drops the messages, the yielded firing and the range of the groups killed while a context was saved, and ends its firing (R331, R333). -/
def applyKills (s : State) (i : CtxId) (gs : List Nat) : State :=
  if gs.isEmpty then s
  else
    let k := s.ctx i
    let p := (s.coreAt i.core).partition
    let hit (m : Msg) : Bool := hasNat gs (hdrGroup m.hdr)
    let s1 := ((queuedMsgs k).filter hit).foldl (dropStart p .killed) s
    let yk := k.yieldSlot.any fun f => hasNat gs f.group.toNat
    let s2 := match k.yieldSlot with
      | some f => if yk then countFiring s1 p f .killed else s1
      | none => s1
    let s3 := s2.modCtx i fun k => enterHeld i.x { k with
      fir := { k.fir with range := k.fir.range.filter fun r => !hasNat gs r.group.toNat }
      runq := k.runq.filter fun e => match e with
        | .msg m => !hit m
        | .cont => !yk
        | .actor _ => true
      hold := k.hold.filter fun m => !hit m
      yieldSlot := if yk then none else k.yieldSlot }
    if k.running && hasNat gs k.fir.group.toNat then endFiring s3 i .killed else s3

/-- Restores one target from its record; it waits while its core is frozen (R274) or a page of the record does not translate. -/
def restoreTarget (s : State) (p : Nat) (i : CtxId) : State :=
  if (s.coreAt i.core).cell.isSome then s
  else match getN (shadowKey i) s.shadows with
  | none => dropTarget s p i
  | some k =>
    let va := recordVa s p i
    if !(List.range 8).all fun j => (recordRead s p va (4096 * j) 8).isSome then s
    else
      let k' := restoreCtx (fun off n => (recordRead s p va off n).getD 0) k (s.ctx i)
      let s1 := { s.setCtx i k' with shadows := delN (shadowKey i) s.shadows }
      dropTarget (applyKills s1 i k.killed) p i

/-- A presume or pdiscard is refused unless every target is halted and saved. -/
def savedTargets (s : State) (v : Word) : Bool := (targetsOf v).all fun i => (s.ctx i).halted && (s.ctx i).saved

/-- A write to presume; a partition that is stopping ignores it (R355). -/
def presume (s : State) (p : Nat) (v : Word) : State :=
  if partState s p = 3 then s
  else if psBusy s p || targetBad s p v || !savedTargets s v then refuseRequest s p v
  else
    let token := fld v 15 0
    let ts := targetsOf v
    let s1 := s.modPart p fun q => { q with
      request := some (.restore, ts, BitVec.ofNat 16 token), pstat := pstatWord token false false false true }
    requestReports (ts.foldl (fun (s : State) i => restoreTarget s p i) s1) p

/-- One target is discarded (R332). -/
def discardTarget (s : State) (i : CtxId) : State :=
  let s0 := s.setCtx i (emptied (s.ctx i) false false)
  match getN (shadowKey i) s.shadows with
  | none => s0
  | some k =>
    let ended := (if k.running then [k.fir] else []) ++ k.yieldSlot.toList
    let p := (s.coreAt i.core).partition
    let s1 := ended.foldl (fun (s : State) f => countFiring s p f (.faulted 0x10)) s0
    let s2 := (queuedMsgs k).foldl (dropStart p (.faulted 0x10)) s1
    { s2 with shadows := delN (shadowKey i) s2.shadows }

/-- A write to pdiscard. -/
def pdiscard (s : State) (p : Nat) (v : Word) : State :=
  if psBusy s p || targetBad s p v || !savedTargets s v then refuseRequest s p v
  else
    let token := fld v 15 0
    let s1 := (targetsOf v).foldl discardTarget s
    requestReports (s1.modPart p fun q => { q with
      request := some (.discard, [], BitVec.ofNat 16 token), pstat := pstatWord token false false false true }) p

/-- The service hart's step on one target of the request in progress: a save, or a restore that had to wait (R330, R331). -/
def contextSave (s : State) (i : CtxId) : State :=
  let p := (s.coreAt i.core).partition
  match (s.partAt p).request with
  | some (.halt, left, _) =>
    if !left.any (· == i) then s
    else
      let s1 := requestReports (resumeTrap s i) p
      if savable (s1.ctx i) then saveCtx s1 p i else s1
  | some (.restore, left, _) => if left.any (· == i) then requestReports (restoreTarget s p i) p else s
  | _ => s

/-! ### Group kill (R333) -/

/-- Thaws the gangs of which the firings that a kill or a reset ends are members, each with all its killed members at once (R280, R282). -/
def killGangs (s : State) (run : List CtxId) : State :=
  let gang (i : CtxId) : Bool := (s.coreAt i.core).cell.any fun c => c.x == i.x
  let cores := (run.filter gang).map (·.core)
  cores.foldl (fun (s : State) n => thawGang s n (.killed cores)) s

/-- Ends the running firings of some contexts by a kill or a reset: gangs thaw, joins withdraw, and what then mismatches ends (R272). -/
def killAll (s : State) (run : List CtxId) : State :=
  let leaves := run.any fun i => (s.ctx i).barrier.isSome
  (if leaves then resolveRest else id)
    (run.foldl (fun (s : State) i => endFiring (if (s.ctx i).barrier.isSome then withdraw s i else s) i .killed) (killGangs s run))

/-- Rewrites a core's deque without the entries that `p` drops. -/
def dequeFilter (s : State) (n : Nat) (p : Range → Bool) : State :=
  let c := s.coreAt n
  let keep := ((dequeIdx c).map (dequeRead s n)).filter fun r => !p r
  if keep.length = dequeLen c then s
  else
    let s1 := keep.zipIdx.foldl (fun (s : State) q => dequeWrite s n ((c.rqtop + q.2) % dequeCap c) q.1) s
    s1.modCore n fun c => { c with rqbot := (c.rqtop + keep.length) % dequeCap c }

def groupFiring (g : Nat) (k : Context) : Bool := k.running && k.fir.group.toNat == g

/-- Discards the messages, the yielded firing, the ranges and the deque entries of a group on one core; the Nat counts group starts
that had not started. -/
def killCore (p g : Nat) (acc : Nat × State) (n : Nat) : Nat × State :=
  let hit (m : Msg) : Bool := hdrGroup m.hdr == g
  let one (acc : Nat × State) (x : Ctx) : Nat × State :=
    let i : CtxId := ⟨n, x⟩
    let k := acc.2.ctx i
    let ms := (queuedMsgs k).filter hit
    let s1 := ms.foldl (dropStart p .killed) acc.2
    let yk := k.yieldSlot.any fun f => f.group.toNat == g
    let s2 := match k.yieldSlot with
      | some f => if yk then countFiring s1 p f .killed else s1
      | none => s1
    let q := k.runq.filter fun e => match e with
      | .msg m => !hit m
      | .cont => !yk
      | .actor _ => true
    let s3 := s2.modCtx i fun k => enterHeld x { k with
      runq := q, hold := k.hold.filter (fun m => !hit m), yieldSlot := if yk then none else k.yieldSlot
      inj := k.inj.filter fun j => hdrGroup j.msg.hdr != g
      fir := { k.fir with range := k.fir.range.filter fun r => r.group.toNat != g } }
    (acc.1 + (ms.filter fun m => isGroupStart m.hdr).length, s3)
  let (c, s1) := one (one acc .n) .u
  let s2 := modSteal s1 n fun t => match t.reply with
    | some (some r) => if r.group.toNat = g then { t with reply := none, stale := false, tried := 0, roundEnd := none, idleSince := none } else t
    | _ => t
  (c, dequeFilter s2 n fun r => r.group.toNat == g)

/-- A service-hart request with the cancel mark if it is of a group. -/
def markCancel (g : Nat) (r : HartReq) : HartReq := if r.who.group.toNat = g then { r with cancel := true } else r

/-- A write to gkill (R333): firings, messages, ranges and starts go at once, requests at their next chunk boundary. The kill of a group that is
not live has nothing to do but its event; while there is no room for it the write waits (R320). -/
def gkill (s : State) (p : Nat) (v : Word) : State :=
  let g := fld v 15 0
  let live := (findGroup s g).any fun q => q.part == p
  if !live then (if faultRoom s p 1 then faultEvent s p (faultRecord 7 0 0 0 0 g 0 0 .n) else s)
  else
    let cores := (s.cores.filter fun q => q.2.partition == p).map (·.1)
    let run := cores.flatMap fun n => ([Ctx.n, Ctx.u].filter fun x => groupFiring g ((s.coreAt n).ctx x)).map fun x => (⟨n, x⟩ : CtxId)
    let s1 := killAll s run
    let (starts, s2) := cores.foldl (killCore p g) (0, s1)
    -- group starts on their way
    let flying := s2.pkg.engine.filter fun m => hdrGroup m.msg.hdr == g && coreIn s2 p m.dest
    let s3 := flying.foldl (fun (s : State) m => dropStart p .killed s m.msg) s2
    let s4 := s3.modPkg fun k => { k with engine := k.engine.filter fun m => !(hdrGroup m.msg.hdr == g && coreIn s2 p m.dest) }
    let fs := (flying.filter fun m => isGroupStart m.msg.hdr).length
    let s5 := (partClusters s4 p).foldl (fun (s : State) cl =>
      if (s.clusterAt cl).reqs.isEmpty && (s.clusterAt cl).waiting.isEmpty then s
      else s.modCluster cl fun c => { c with reqs := c.reqs.map (markCancel g), waiting := c.waiting.map (markCancel g) }) s4
    let s6 := { s5 with shadows := s5.shadows.map fun q => (q.1, if (s5.coreAt (q.1 / 2)).partition = p then { q.2 with killed := insNat g q.2.killed } else q.2) }
    addKill s6 p g (run.length + starts + fs)
where
  addKill (s : State) (p g n : Nat) : State := s.modPart p fun q => { q with killing := q.killing ++ [(g, n)] }

/-- An issued store that a kill lets go on (R333), a copy's kick among them. -/
def AccKind.isStore : AccKind → Bool
  | .store _ _ | .block _ _ _ _ | .kick => true
  | _ => false

/-- The stores of a group's ended firings have been performed or have failed, and its service-hart requests are cancelled. -/
def killQuiet (s : State) (p g : Nat) : Bool :=
  s.cores.all (fun q => (q.2.n.acc ++ q.2.u.acc).all fun a => !(a.kind.isStore && a.who.part == p && a.who.group.toNat == g))
    && s.clusters.all fun q => (q.2.reqs ++ q.2.waiting).all fun r => !(r.cancel && r.who.part == p && r.who.group.toNat == g)

/-- Group kills of a partition complete, each with its kind 7 event (R333), as far as the fault event queue has room (R320). -/
def killProgress (s : State) (p : Nat) : State :=
  (s.partAt p).killing.foldl (fun (s : State) q =>
    if killQuiet s p q.1 && faultRoom s p 1 then
      faultEvent (s.modPart p fun t => { t with killing := dropFirst (· == q) t.killing }) p (faultRecord 7 0 q.2 0 0 q.1 0 0 .n)
    else s) s

/-! ### Cluster reset (R334) -/

/-- A reset ends the saved firings of a context too, and its saved starts never start. -/
def killSaved (s : State) (i : CtxId) : State :=
  match getN (shadowKey i) s.shadows with
  | none => s
  | some k =>
    let ended := (if k.running then [k.fir] else []) ++ k.yieldSlot.toList
    let p := (s.coreAt i.core).partition
    let s1 := ended.foldl (fun (s : State) f => countFiring s p f .killed) s
    let s2 := (queuedMsgs k).foldl (dropStart p .killed) s1
    { s2 with shadows := delN (shadowKey i) s2.shadows }.modCtx i fun k => { k with halted := false, saved := false }

/-- A write to creset by the hypervisor, through the window of any partition: the firings of the cluster end, stores and messages that have left
go on, and the request of the partition that has the cluster counts its targets as done (R338). -/
def creset (s : State) (p : Nat) (v : Word) : State :=
  let cl := fld v 8 0
  if !bitAt v 9 || fld v 63 10 != 0 || cl ≥ Config.clusters || partState s p == 3 || (s.clusterAt cl).resetAt.isSome then s
  else
    let ids := (clusterCores cl).flatMap fun n => [(⟨n, .n⟩ : CtxId), ⟨n, .u⟩]
    let s1 := killAll s (ids.filter fun i => (s.ctx i).running)
    let s2 := ids.foldl killSaved (ids.foldl (fun (s : State) i => match (s.ctx i).yieldSlot with
      | some f => (countFiring s (s.coreAt i.core).partition f .killed).modCtx i fun k => { k with yieldSlot := none }
      | none => s) s1)
    let s3 := s2.modCluster cl fun c => { c with resetAt := some s.now }
    let own := clusterPart s cl
    requestReports (s3.modPart own fun q => match q.request with
      | some (k, left, t) => { q with request := some (k, left.filter fun i => clusterOf i.core != cl, t) }
      | none => q) own

/-- Packet k of a context, a posted access or, behind those, an injected message, is discarded with a kind 8 event; it waits for room in the
queue (R320). -/
def losePacket (s : State) (i : CtxId) (k : Nat) : State :=
  let c := s.ctx i
  let event (t : State) (p pa : Nat) : State := if faultRoom s p 1 then faultEvent t p (faultRecord 8 0 pa 0 0 0 0 i.core i.x) else s
  match c.acc[k]? with
  | some a => if a.kind.posted then event (s.modCtx i fun c => { c with acc := delAt k c.acc }) a.who.part (a.pa.getD 0) else s
  | none =>
    let j := k - c.acc.length
    if j < c.inj.length then event (s.modCtx i fun c => { c with inj := delAt j c.inj }) (s.coreAt i.core).partition 0 else s

/-- A packet that has had no tail for 256 cycles is discarded. -/
def resetTailTimeout (s : State) (i : CtxId) (k : Nat) : State :=
  match (s.clusterAt (clusterOf i.core)).resetAt with
  | some t => if t + 256 ≤ s.now then losePacket s i k else s
  | none => s

/-- What has not left a context by the end of a reset is lost. -/
def losePackets (s : State) (i : CtxId) : State :=
  (List.range ((s.ctx i).acc.length + (s.ctx i).inj.length)).reverse.foldl (fun (s : State) k => losePacket s i k) s

/-- Clears one core at the end of a reset; group starts that never started count as killed. -/
def resetCore (s : State) (n : Nat) : State :=
  let c := s.coreAt n
  let s1 := (queuedMsgs c.n ++ queuedMsgs c.u).foldl (dropStart c.partition .killed) s
  let ctx (k : Context) : Context :=
    { k with running := false, rb := [], runq := [], hold := none, yieldSlot := none, ports := Vector.replicate 4 Port.reset
             halted := false, saved := false, reason := 0, readyAt := 0, parked := none
             fir := { k.fir with aside := [], range := none, actor := none, opened := [] } }
  let s2 := s1.modCore n fun c => { c with
    n := ctx c.n, u := ctx c.u, filling := [], rqtop := 0, rqbot := 0, steal := Steal.reset
    wins := c.wins.map fun w => { w with bits := withField (withField w.bits 3 2 0) 0 0 0, drop := false } }
  writeOwner s2 n 0

/-- A context has a packet that a reset loses. -/
def leavesPacket (k : Context) : Bool := k.acc.any (fun a => a.kind.posted) || !k.inj.isEmpty

/-- The end of a reset, after the 4,096 cycles in which what had left could arrive: what is left of the packets is lost first. While the fault
event queue has no room for them and for the reset's own event, the reset goes on (R320). -/
def clusterResetComplete (s : State) (cl : Nat) : State × WinWrites :=
  match (s.clusterAt cl).resetAt with
  | none => (s, [])
  | some t =>
    if s.now < t + 4096 then (s, [])
    else
      let s := (clusterCores cl).foldl (fun (s : State) n => losePackets (losePackets s ⟨n, .n⟩) ⟨n, .u⟩) s
      if ((clusterCores cl).any fun n => leavesPacket (s.coreAt n).n || leavesPacket (s.coreAt n).u) || !faultRoom s (clusterPart s cl) 1 then (s, [])
      else
      let c := s.clusterAt cl
      let (s1, w) := (c.reqs ++ c.waiting).foldl (fun (acc : State × WinWrites) r =>
        let (s1, w) := cancelRequest acc.1 cl r
        (s1, acc.2 ++ w)) (s.modCluster cl fun c => { c with waiting := [] }, [])
      let s2 := (clusterCores cl).foldl resetCore s1
      let s3 := s2.modCluster cl fun c => { c with tcache := [], reqs := [], waiting := [], stalled := none, asking := none, resetAt := none }
      let key (n : Nat) : Bool := clusterOf (n / 2) == cl
      let s4 := { s3 with shadows := s3.shadows.filter fun q => !key q.1 }
      (faultEvent s4 (clusterPart s cl) (faultRecord 4 0 cl 0 0 0 0 0 .n), w)

/-! ### Watchdog (R336, R337) -/

/-- The reason a context reports (R89, R273); `frozen` says that its core's gang is. -/
def reportReason (s : State) (frozen : Bool) (k : Context) : Nat :=
  if k.halted then 0x7
  else if frozen then 0xA
  else if k.trapping.isSome then 0x8
  else if !k.running then (if !k.runq.isEmpty && s.now < k.readyAt then 0x6 else 0)
  else k.reason

/-- The 32 bytes of a core. -/
def snapshotCore (s : State) (n : Nat) : Nat :=
  let c := s.coreAt n
  let tag (k : Context) : Nat := if k.running then k.fir.tag.toNat else 0
  packFields [(tag c.u, 160), (tag c.n, 128), (bitsOf c.u.fir.pc.toNat 16 0, 96), (bitsOf c.n.fir.pc.toNat 16 0, 64), (c.u.runq.length, 16), (c.n.runq.length, 8),
    (reportReason s c.cell.isSome c.u, 4), (reportReason s c.cell.isSome c.n, 0)]

/-- The 32 bytes of one core at a home: memory, what leaves for the host, or a control window's doublewords. -/
def snapshotStore (s : State) (p pa v : Nat) : State × WinWrites :=
  if isWindow pa then (s, (List.range 4).map fun j => (pa + 8 * j, BitVec.ofNat 64 (v / 2 ^ (64 * j)))) else (storeBytes s p pa 32 v, [])

/-- Writes the snapshot. It fails when hangbuf is 0 or one of its stores faults, and waits for a fill-pending line. -/
def writeSnapshot (s : State) (p : Nat) : Eng (State × WinWrites) :=
  let va := fld (s.partAt p).hangbuf 63 12 * 4096
  if va = 0 then .error .fault
  else
    (partCores s p).zipIdx.foldl (fun (acc : Eng (State × WinWrites)) q => do
      let (t, w) ← acc
      let pa ← engDest t p true (va + 32 * q.2)
      let (t1, w1) := snapshotStore t p pa (snapshotCore s q.1)
      .ok (t1, w ++ w1)) (.ok (s, []))

/-- The watchdog's count has reached its interval: one report per silent stretch, once the fault event queue has room for it (R320). The
snapshot's own stores are no sink of the stretch that it reports (log entry 40). -/
def watchdogExpiry (s : State) (p : Nat) : State × WinWrites :=
  let q := s.partAt p
  let units := fld q.wdog 31 0
  if units = 0 || q.wreported || q.wcount < units * 1024 || !faultRoom s p 1 then (s, [])
  else
    let report (t : State) (addr : Nat) : State :=
      faultEvent (t.modPart p fun r => { r with wcount := q.wcount, wreported := true }) p (faultRecord 3 0 q.wcount addr 0 0 0 0 .n)
    match writeSnapshot s p with
    | .ok (t, w) => (report t (fld q.hangbuf 63 12 * 4096), w)
    | .error .fault => (report s 0, [])
    | .error .wait => (s, [])

/-- One cycle of the watchdog: it counts while a context of the partition is not halted. -/
def watchdogTick (s : State) (p : Nat) : State :=
  let someLive := (partCores s p).any fun n => !(s.coreAt n).n.halted || !(s.coreAt n).u.halted
  if someLive then s.modPart p fun q => { q with wcount := q.wcount + 1 } else s

/-! ### Context registers from outside (R346) -/

/-- A write of pcra: with go set and no operation in progress, it starts one. -/
def pcraWrite (s : State) (p : Nat) (v : Word) : State :=
  s.modPart p fun q =>
    if bitAt q.pcra 61 then q
    else if bitAt v 23 then { q with pcra := BitVec.ofNat 64 (2 ^ 61 + fld v 22 0) }
    else { q with pcra := BitVec.ofNat 64 (fld q.pcra 63 62 * 2 ^ 62 + fld v 22 0) }

/-- The operation completes or is refused. -/
def pcraComplete (s : State) (p : Nat) : State :=
  let q := s.partAt p
  let a := q.pcra
  if !bitAt a 61 then s
  else
    let i : CtxId := ⟨fld a 12 0, if bitAt a 13 then .u else .n⟩
    let n := fld a 21 14
    let wr := bitAt a 22
    let k := s.ctx i
    let ok := coreIn s p i.core && !k.running && !k.halted && (if wr then cregWritable s i.core true n else cregReadable s i.core true n)
    let fin (s : State) (refused : Bool) : State :=
      s.modPart p fun q => { q with pcra := BitVec.ofNat 64 (packFields [(1, 63), (boolNat refused, 62), (fld a 22 0, 0)]) }
    if !ok then fin s true
    else if wr then fin (cregWrite s i n q.pcdata) false
    else fin (s.modPart p fun q => { q with pcdata := cregRead s i n }) false

end Sys2Proof.Machine
end

