-- ==== Sys2Proof/Machine/Control.lean ====
section
/-!
DEFINITION. Writes of the control windows: the core's (R81, R116, R129, R130), the service hart's (R121, R126), the die's (R351 to
R354, R360) and the partition's (R58, R109, R110, R125, R237, R241 to R249, R264, R272, R320, R327 to R337, R345, R346, R348). Any
agent's write of a window goes through `windowWrite`, which the steps named after a register share.
-/
namespace Sys2Proof.Machine

/-! ### Fields of a doubleword -/

/-- The bits of a mask from the new value, the others as they were. -/
def mergeMask (old v : Word) (m : Nat) : Word := masked v m ||| (old &&& ~~~(BitVec.ofNat 64 m))

/-- Doubleword j of an image replaced. -/
def setDw {n : Nat} (w : BitVec n) (j : Nat) (v : Word) : BitVec n := withField w (64 * j + 63) (64 * j) v.toNat
/-- Doubleword j of an image. -/
def getDw {n : Nat} (w : BitVec n) (j : Nat) : Word := w.extractLsb' (64 * j) 64

/-! ### Error logs (R129, R130) -/

/-- Frees entry i of a log. -/
def freeLogEntry (s : State) (a : ErrArray) (i : Nat) : State :=
  let l := getLog s a
  setLog s a { l with entries := l.entries.set (Fin.ofNat 8 i) 0 }
/-- Clears the overflow counter of an array. -/
def clearOverflow (s : State) (a : ErrArray) : State := setLog s a { getLog s a with overflow := 0 }
/-- Writes the injection register of an array; bits 13 and 12 are reserved. -/
def armInjection (s : State) (a : ErrArray) (v : Word) : State := setLog s a { getLog s a with inject := masked v (2 ^ 64 - 1 - 0x3000) }

/-- A write at an offset into an array's log: ones clear their bits of the count field, and all ones free the entry. -/
def logWrite (s : State) (a : ErrArray) (o : Nat) (v : Word) : State :=
  if o % 32 / 8 != 2 then s
  else if fld v 31 16 = 0xFFFF then freeLogEntry s a (o / 32)
  else
    let l := getLog s a
    let i := Fin.ofNat 8 (o / 32)
    setLog s a { l with entries := l.entries.set i (l.entries[i] &&& ~~~(BitVec.ofNat 256 (fld v 31 16 * 2 ^ 144))) }

/-! ### The core control window (R106) -/

/-- A write of one doubleword of a window entry: it is left absent; a fill that runs for the old contents ends absent (R116). -/
def winEntryWrite (s : State) (n e j : Nat) (v : Word) : State :=
  let w := winAt (s.coreAt n) e
  let m := if j = 0 then 0xFFFFF001 else if j = 1 then 0xFFFF000000000000 else 2 ^ 64 - 1
  let img := setDw w.bits j (mergeMask (getDw w.bits j) v m)
  setWin s n e { w with bits := withField img 3 2 0, drop := w.drop || wState w == 1 || wState w == 3 }

/-- Fields of a handler entry's doubleword: its reserved bits and bits [25:24] are 0 (R81; DESIGN CHOICE, notes/assumptions/29.md: a
write that sets one of them writes the rest). -/
def handlerMask (j : Nat) : Nat := if j = 0 then 0xFFFF01FFFC00003D else 2 ^ 64 - 1

def coreWinWrite (s : State) (n o : Nat) (v : Word) : State :=
  if 0x100 ≤ o && o < 0x240 then
    let c := Fin.ofNat 20 ((o - 0x100) / 16)
    s.modCore n fun k => { k with handlers := k.handlers.set c (setDw k.handlers[c] (o % 16 / 8) (masked v (handlerMask (o % 16 / 8)))) }
  else if 0x400 ≤ o && o < 0x500 then winEntryWrite s n ((o - 0x400) / 32) (o % 32 / 8) v
  else if 0x800 ≤ o && o < 0xB00 then logWrite s (.core n ((o - 0x800) / 0x100)) (o % 0x100) v
  else if 0xB00 ≤ o && o < 0xB18 then clearOverflow s (.core n ((o - 0xB00) / 8))
  else if 0xC00 ≤ o && o < 0xC18 then armInjection s (.core n ((o - 0xC00) / 8)) v
  else s

/-! ### The service-hart window (R121, R126) -/

/-- None: a kick is held because the queue is full (R118). -/
def hartWinWrite (s : State) (who : Requester) (cl o : Nat) (v : Word) : Option (State × WinWrites) :=
  if o = 0 then enterKick s cl who v
  else if o = 8 then
    some (if fld v 9 8 = 1 then hartReplay s cl (fld v 4 0) else if fld v 9 8 = 2 then hartCancel s cl (fld v 4 0) else (s, []))
  else if 0x800 ≤ o && o < 0x900 then some (logWrite s (.cluster cl) (o % 0x100) v, [])
  else if o = 0xB00 then some (clearOverflow s (.cluster cl), [])
  else if o = 0xC00 then some (armInjection s (.cluster cl) v, [])
  else some (s, [])

/-! ### The partition control window -/

/-- A write of one doubleword of range entry i: the old contents stay usable until `xinv` (R109). -/
def rangeWrite (s : State) (p i j : Nat) (v : Word) : State :=
  s.modPart p fun q =>
    let e := q.ranges[Fin.ofNat 32 i]
    let w := if j = 0 then masked v 0xF else if j = 3 then v else masked v (2 ^ 64 - 0x1000)
    { q with ranges := q.ranges.set (Fin.ofNat 32 i) (setDw e j w), oldRanges := q.oldRanges ++ [(i, e)] }

/-! ### Index descriptors and buckets (R264) -/

def ixV (d : BitVec 512) : Bool := bitAt d 0
def ixLb (d : BitVec 512) : Nat := fld d 12 8
def ixBase (d : BitVec 512) : Nat := fld d 127 64
def ixLive (d : BitVec 512) : Nat := fld d 63 32
/-- The bucket of a key. -/
def ixBucket (d : BitVec 512) (key : Nat) : Nat := key * 0x9E3779B97F4A7C15 % 2 ^ 64 / 2 ^ (64 - ixLb d)
/-- The VA of bucket b. -/
def ixVa (d : BitVec 512) (b : Nat) : Nat := (ixBase d + 512 * b) % 2 ^ 64

/-- An entry that is not free. -/
def ixUsed (e : BitVec 512) : Bool := fld e 95 64 != 0 || bitAt e 113
/-- The eight entries of a bucket's bytes. -/
def ixEntries (v : Nat) : List (BitVec 512) := (List.range 8).map fun j => BitVec.ofNat 512 (v / 2 ^ (512 * j))

/-- Entries of an index's array that are not free, as the supervisor's translation reaches them. -/
def liveEntries (s : State) (p : Nat) (d : BitVec 512) : Nat :=
  (List.range (2 ^ ixLb d)).foldl (fun acc b => match engineHome s p true (ixVa d b) .read with
    | .ok pa => acc + ((ixEntries (readMem s pa 512)).filter ixUsed).length
    | .error _ => acc) 0

/-- A write of an index descriptor while it is not valid (R264): live counts what the array holds when the descriptor becomes valid. -/
def indexWrite (s : State) (p i j : Nat) (v : Word) : State :=
  let d := indexAt s p i
  if bitAt d 0 then s
  else
    let w := if j = 0 then mergeMask (getDw d 0) v 0x1F01 else if j = 1 then masked v (2 ^ 64 - 0x1000) else getDw d j
    let d1 := setDw d j w
    let d2 := if bitAt d1 0 then withField d1 63 32 (liveEntries s p d1) else d1
    s.modPart p fun q => { q with indexes := putN i d2 q.indexes }

/-- Clears pending event sources (R345). -/
def clearPevpend (s : State) (p : Nat) (v : Word) : State := s.modPart p fun q => { q with pevpend := q.pevpend &&& ~~~(v.setWidth 6) }

/-- A register of a partition's control window that has no behaviour beyond holding its bits. -/
def partRegWrite (q : Partition) (o : Nat) (v : Word) : Partition :=
  if o = 0x800 then { q with ptroot := masked v 0x3FFFFFFFFF001 }
  else if o = 0x90000 then { q with gangtmo := masked v 0xFFFFFFFF }
  else if o = 0x90120 then { q with psave := masked v (2 ^ 64 - 0x8000) }
  else if o = 0x90138 then { q with wdog := masked v 0xFFFFFFFF }
  else if o = 0x90140 then { q with hangbuf := masked v (2 ^ 64 - 0x1000) }
  else if o = 0x90200 then { q with pevcfg := masked v 0x7FFFFFF }
  else if o = 0x90218 then { q with pcdata := v }
  else if 0x90300 ≤ o && o < 0x90380 then { q with stgmap := q.stgmap.set (Fin.ofNat 16 ((o - 0x90300) / 8)) (v.setWidth 12) }
  else if 0x92000 ≤ o && o < 0x92200 then { q with hqchan := q.hqchan.set (Fin.ofNat 64 ((o - 0x92000) / 8)) (masked v 0x800000000007FFFF) }
  else q

def partWinWrite (s : State) (hyp : Bool) (p o : Nat) (v : Word) : State :=
  if 0x1000 ≤ o && o < 0x1400 then rangeWrite s p ((o - 0x1000) / 32) (o % 32 / 8) v
  else if o = 0x2808 then popCopyFault s p
  else if 0x40000 ≤ o && o < 0x80000 then channelDescriptorWrite s p ((o - 0x40000) / 64) (o % 64 / 8) v hyp
  else if 0x80000 ≤ o && o < 0x84000 then indexWrite s p ((o - 0x80000) / 64) (o % 64 / 8) v
  else if 0x84000 ≤ o && o < 0x84200 then poolDescriptorWrite s p ((o - 0x84000) / 32) (o % 32 / 8) v
  else if o = 0x88008 then popChanEvent s p
  else if o = 0x88010 then slotVoid s p v
  else if o = 0x88018 then spillResume s p v
  else if o = 0x90100 then preq s p v
  else if o = 0x90108 then presume s p v
  else if o = 0x90110 then pdiscard s p v
  else if o = 0x90128 then gkill s p v
  else if o = 0x90130 then (if hyp then creset s p v else s)
  else if o = 0x90148 then popFaultEvent s p
  else if o = 0x90208 then clearPevpend s p v
  else if o = 0x90210 then pcraWrite s p v
  else s.modPart p fun q => partRegWrite q o v

/-! ### Partitions (R354, R355) -/

def setPartDesc (s : State) (p : Nat) (d : BitVec 1024) : State := s.modPkg fun k => { k with parts := k.parts.set (Fin.ofNat 16 p) d }

/-- The rectangles of two descriptors share a cluster. -/
def rectsMeet (a b : BitVec 1024) : Bool :=
  fld a 25 22 ≤ fld b 29 26 && fld b 25 22 ≤ fld a 29 26 && fld a 34 30 ≤ fld b 39 35 && fld b 34 30 ≤ fld a 39 35
/-- Their HBM shares overlap. -/
def sharesMeet (a b : BitVec 1024) : Bool :=
  fld a 703 640 < fld b 703 640 + fld b 767 704 && fld b 703 640 < fld a 703 640 + fld a 767 704

/-- A descriptor that may become defined: rectangle and share inside the device, and no overlap with a partition in use. -/
def definable (s : State) (p : Nat) (d : BitVec 1024) : Bool :=
  fld d 25 22 ≤ fld d 29 26 && fld d 29 26 < 12 && fld d 34 30 ≤ fld d 39 35 && fld d 39 35 < 24
    && fld d 703 640 % 2 ^ 30 == 0 && fld d 767 704 % 2 ^ 30 == 0 && fld d 703 640 + fld d 767 704 ≤ Config.hbmBytes
    && (List.range 16).all fun q => q == p || partState s q == 0 || (!rectsMeet d (partDesc s q) && !sharesMeet d (partDesc s q))

/-- State 01: a free partition is defined. -/
def partitionDefine (s : State) (p : Nat) : State :=
  let d := partDesc s p
  if fld d 1 0 = 0 && definable s p d then setPartDesc s p (withField d 1 0 1) else s

/-- `n` bytes of memory as a list. -/
def memBytes (s : State) (pa n : Nat) : List Byte := (List.range n).map fun k => Mem.read (pa + k) s.mem

/-- The request for a partition's system image, with the loader's own choices: its HBM sections lie behind the image, mapped by
range entries from 0x1_0000_0000 on. -/
def systemLoad (s : State) (p : Nat) : LoadReq :=
  let d := partDesc s p
  let at_ := fld d 831 768
  let len := Nat.min (hdLength (readMem s at_ 64) + 4768) Config.hbmBytes
  let area := Nat.max (fld d 703 640) (roundUp (at_ + len) 4096)
  let (x0, _, y0, _) := partRect s p
  { part := p, sys := true, image := memBytes s at_ len, origins := [(4 * x0, 4 * y0)], hbmVa := 0x100000000, hbmPa := area
    mapKind := 1, spare := 0 }

/-- State 10: a defined partition starts: its window takes its reset values, every core's position names it, and the hypervisor loads
the system image at the top-left core. -/
def partitionStart (s : State) (p : Nat) : State × WinWrites :=
  let d := partDesc s p
  if fld d 1 0 != 1 then (s, [])
  else
    let s1 := (setPartDesc s p (withField d 1 0 2)).setPart p Partition.reset
    let s2 := (partCores s1 p).foldl (fun (s : State) n => s.modCore n fun c => { c with partition := p }) s1
    imageLoad s2 (systemLoad s2 p)

/-- The channels of other partitions that reach across to partition p are revoked (R251). -/
def revokeAcross (s : State) (p : Nat) : State :=
  (s.parts.flatMap fun q => (q.2.chans.filter fun c => cV c.2 && (cProxy c.2 || cXp c.2) && cXpart c.2 == p).map fun c => (q.1, c.1)).foldl
    (fun (s : State) q => closeEverywhere (modChan s q.1 q.2 fun c => { c with cfg := withField c.cfg 0 0 0 }) q.1 q.2) s

/-- The end of a stop, once every cluster has been reset: resources are released and the partition is free. -/
def finishStop (s : State) (p : Nat) : State :=
  if partState s p != 3 || (partClusters s p).any fun cl => (s.clusterAt cl).resetAt.isSome then s
  else
    let s1 := (revokeAcross s p).modPart p fun q => { q with
      chans := [], indexes := [], pools := Vector.replicate 16 0, watch := [], request := none, haltEvent := none, launches := [], poolUsed := 0
      replays := [], replayReqs := [], rgroups := [], loads := [], tables := [], doorbells := [], imageRecs := [], killing := [] }
    let own (it : SchedItem) : Bool := it.part == p
    let s2 := { s1 with dies := s1.dies.map fun q => (q.1, { q.2 with
      queue := q.2.queue.filter (!own ·), arriving := q.2.arriving.filter (!own ·), groups := q.2.groups.filter (·.part != p)
      churn := q.2.churn.map fun c => (c.1, c.2.filter (·.part != p)) }) }
    setPartDesc s2 p (withField (partDesc s2 p) 1 0 0)

/-- State 11: a running partition stops: every cluster is reset, and what follows comes with the end of the last reset. -/
def partitionStop (s : State) (p : Nat) : State :=
  let d := partDesc s p
  if fld d 1 0 != 2 then s
  else
    let s1 := (partClusters s p).foldl (fun (s : State) cl => creset s p (BitVec.ofNat 64 (cl + 512))) s
    setPartDesc s1 p (withField d 1 0 3)

/-- A cluster reset ends; with the last one a stopping partition becomes free. -/
def resetComplete (s : State) (cl : Nat) : State × WinWrites :=
  let (s1, w) := clusterResetComplete s cl
  (finishStop s1 (clusterPart s cl), w)

/-- Bits of a descriptor's doubleword that hold fields. -/
def descMask (j : Nat) : Nat :=
  if j = 0 then 0xFFFFC00003 else if j = 1 then 0x1FFFFFF else if j < 10 then 0 else 2 ^ 64 - 1

/-- A write of one doubleword of a partition descriptor: a free partition's fields are written, and the state field asks for the
transitions of R355. -/
def partDescWrite (s : State) (p j : Nat) (v : Word) : State × WinWrites :=
  let d := partDesc s p
  let st := fld d 1 0
  if j != 0 then (if st = 0 then setPartDesc s p (setDw d j (masked v (descMask j))) else s, [])
  else if st = 0 then
    let d1 := setDw d 0 (masked v 0xFFFFC00000)
    match fld v 1 0 with
    | 0 => (setPartDesc s p d1, [])
    | 1 => if definable s p d1 then (setPartDesc s p (withField d1 1 0 1), []) else (s, [])
    | _ => (s, [])
  else if st = 1 && fld v 1 0 = 2 then partitionStart s p
  else if st = 2 && fld v 1 0 = 3 then (partitionStop s p, [])
  else (s, [])

/-! ### The die control window -/

/-- The base of BAR2 (R349): a value that is not aligned to the BAR's size, or whose window would pass the end of HBM, is ignored. -/
def writeBar2base (s : State) (v : Word) : State :=
  let size := 2 ^ s.pkg.bar2log
  if v.toNat % size = 0 && v.toNat + size ≤ Config.hbmBytes then s.modPkg fun k => { k with bar2base := v } else s

/-- A write of one doubleword of export entry e: ignored when it sets a reserved bit or a misaligned field (R353). -/
def exportWrite (s : State) (e j : Nat) (v : Word) : State :=
  let ok := if j = 0 then fld v 63 24 == 0 && fld v 7 3 == 0 else if j = 3 then fld v 63 50 == 0 && fld v 11 0 == 0 else fld v 63 36 == 0 && fld v 11 0 == 0
  if ok then s.modPkg fun k => { k with exports := k.exports.set (Fin.ofNat 8 e) (setDw k.exports[Fin.ofNat 8 e] j v) } else s

/-- Eight route entries at once; bits [6:4] of each are 0 (R351). -/
def routeWrite (s : State) (dev : Nat) (v : Word) : State :=
  s.modPkg fun k => { k with routes := (List.range 8).foldl (fun l j =>
    putN (dev + j) ((v.extractLsb' (8 * j) 8) &&& (0x8F : BitVec 8)) l) k.routes }

def setMon (s : State) (d i : Nat) (m : Monitor) : State := s.modDie d fun q => { q with monitors := putN i m q.monitors }

/-- Statistics cleared by cfg's clear bit (R360). -/
def clearMon (m : Monitor) : Monitor := { m with min := 0xFFFFFFFF, max := 0, count := 0, bins := Vector.replicate 16 0 }

/-- A write of a monitor's doubleword. -/
def monitorWrite (s : State) (d i r : Nat) (v : Word) : State :=
  let m := monAt s d i
  if r = 0 then
    let m1 := { m with cfg := masked v 0xF11FFF0F }
    setMon s d i (if bitAt v 25 then clearMon m1 else m1)
  else if r = 8 then setMon s d i { m with min := v }
  else if r = 0x10 then setMon s d i { m with max := v }
  else if r = 0x18 then setMon s d i { m with count := v }
  else if 0x40 ≤ r && r < 0x80 then
    let b := (r - 0x40) / 4
    setMon s d i { m with bins := (m.bins.set (Fin.ofNat 16 b) (v.setWidth 32)).set (Fin.ofNat 16 (b + 1)) (v.extractLsb' 32 32) }
  else s

/-- Clears the export refusal counter (R353). -/
def clearRefusals (s : State) : State := s.modPkg fun k => { k with refusals := 0 }

/-- A write of a die control window; only the hypervisor's reaches one. -/
def dieWinWrite (s : State) (d o : Nat) (v : Word) : State × WinWrites :=
  if 0x200000 ≤ o && o < 0x202000 then (monitorWrite s d ((o - 0x200000) / 0x100) (o % 0x100) v, [])
  else if 0x300000 ≤ o && o < 0x300000 + 0x100 * dieArrays d then (logWrite s (.die d ((o - 0x300000) / 0x100)) (o % 0x100) v, [])
  else if 0x304000 ≤ o && o < 0x304000 + 8 * dieArrays d then (clearOverflow s (.die d ((o - 0x304000) / 8)), [])
  else if 0x305000 ≤ o && o < 0x305000 + 8 * dieArrays d then (armInjection s (.die d ((o - 0x305000) / 8)) v, [])
  else if d != 0 then (s, [])
  else if 0x100000 ≤ o && o < 0x100800 then partDescWrite s ((o - 0x100000) / 0x80) (o % 0x80 / 8) v
  else if 0x110000 ≤ o && o < 0x111000 then
    let i := Fin.ofNat 64 ((o - 0x110000) / 64)
    (s.modPkg fun k => { k with keys := k.keys.set i (setDw k.keys[i] (o % 64 / 8) v) }, [])
  else if 0x120000 ≤ o && o < 0x121000 then (routeWrite s (o - 0x120000) v, [])
  else if 0x121000 ≤ o && o < 0x121100 then (exportWrite s ((o - 0x121000) / 32) (o % 32 / 8) v, [])
  else if o = 0x121100 then (clearRefusals s, [])
  else if o = 0x121108 then (writeBar2base s v, [])
  else (s, [])

/-! ### Any window -/

/-- A write to preq, presume or pdiscard that is to be refused, or to gkill for a group that is not live, waits while the fault event queue is
full (R320). -/
def requestHeld (s : State) (p o : Nat) (v : Word) : Bool :=
  !faultRoom s p 1 && (if o = 0x90100 then psBusy s p || targetBad s p v
    else if o = 0x90108 then partState s p != 3 && (psBusy s p || targetBad s p v || !savedTargets s v)
    else if o = 0x90128 then !(findGroup s (fld v 15 0)).any fun q => q.part == p
    else o = 0x90110 && (psBusy s p || targetBad s p v || !savedTargets s v))

/-- A write of one doubleword of a window on behalf of `who`; none while it is held. Hypervisor registers need `hyp`. -/
def windowWrite (s : State) (hyp : Bool) (who : Requester) (pa : Nat) (v : Word) : Option (State × WinWrites) :=
  match regionOf (pa - pa % 8) with
  | some (.coreWin n o) => some (coreWinWrite s n o v, [])
  | some (.hartWin cl o) => hartWinWrite s who cl o v
  | some (.dieWin d o) => if hyp then some (dieWinWrite s d o v) else some (s, [])
  | some (.partWin p o) => if requestHeld s p o v then none else some (partWinWrite s hyp p o v, [])
  | _ => some (s, [])

/-- Performs window writes, and those that they cause, in order; none while one of them is held. -/
def drainWrites (hyp : Bool) (who : Requester) : Nat → State → WinWrites → Option State
  | _, s, [] => some s
  | 0, s, _ => some s
  | fuel + 1, s, (pa, v) :: l =>
    match windowWrite s hyp who pa v with
    | none => none
    | some (s1, w) => drainWrites hyp who fuel s1 (l ++ w)

/-- More window writes than one step can cause. -/
def drainFuel : Nat := 65536

/-- The requester that stands for the hypervisor, a loader or an engine with no firing. -/
def noFiring (p : Nat) : Requester :=
  { core := 0, x := .n, part := p, tag := 0, group := 0xFFFF, launch := 0xFFFFFFFF, depth := 0, stage := 0, sup := true }

/-- A step whose window writes are then performed; a held one keeps the whole step from happening. -/
def settle (s : State) (who : Requester) (r : State × WinWrites) : State := (drainWrites false who drainFuel r.1 r.2).getD s

/-- What the bytes of a doubleword that are not written stand for: what a read gives, and 0 where a 1 would clear a bit (R129, R345). -/
def unwritten (s : State) (a : Nat) : Nat :=
  let w := (winRead s a).toNat
  let log (o base size : Nat) : Nat := if base ≤ o && o < base + size && o % 32 / 8 = 2 then setField w 31 16 0 else w
  match regionOf a with
  | some (.coreWin _ o) => log o 0x800 0x300
  | some (.hartWin _ o) => log o 0x800 0x100
  | some (.dieWin d o) => log o 0x300000 (0x100 * dieArrays d)
  | some (.partWin _ o) => if o = 0x90208 then 0 else w
  | _ => w

/-- A write of `n` bytes at a window, doubleword by doubleword. -/
def windowBytes (s : State) (hyp : Bool) (who : Requester) (pa n v : Nat) : Option State :=
  let first := pa - pa % 8
  let count := (pa % 8 + n + 7) / 8
  let words := (List.range count).map fun k =>
    let a := first + 8 * k
    let lo := Nat.max pa a - a
    let hi := Nat.min (pa + n) (a + 8) - a
    let part := v / 2 ^ (8 * (a + lo - pa)) % 2 ^ (8 * (hi - lo))
    (a, BitVec.ofNat 64 (if hi - lo = 8 then part else setField (unwritten s a) (8 * hi - 1) (8 * lo) part))
  drainWrites hyp who drainFuel s words

end Sys2Proof.Machine
end

