-- ==== Sys2Proof/Machine/HostPort.lean ====
section
/-!
DEFINITION. The package around the work: the host port (R347, R349), the boot (R357 to R359), device links and peers (R350 to R353),
hypervisor events (R356), monitors (R360) and gating (R361).
-/
namespace Sys2Proof.Machine

/-! ### MSI-X and hypervisor events -/

/-- A hypervisor event is signalled on the four management cores (R356): bit 0 hmbox, 1 link change, 2 export refusal, 3 thermal. -/
def hyperEvent (s : State) (bit : Nat) : State :=
  s.modPkg fun k => { k with mgmt := k.mgmt.map fun m => { m with hevent := m.hevent ||| (1#4 <<< bit) } }

/-- Writing 1 to hevent bits of a management core clears them. -/
def clearHevent (s : State) (d : Nat) (v : Word) : State :=
  s.modPkg fun k =>
    let m := k.mgmt[Fin.ofNat 4 d]
    { k with mgmt := k.mgmt.set (Fin.ofNat 4 d) { m with hevent := m.hevent &&& ~~~(v.setWidth 4) } }

/-- Writes an MSI-X table entry: an unmasked vector that was pending is sent (R347). -/
def writeMsix (s : State) (vec : Nat) (e : BitVec 128) : State :=
  let i := Fin.ofNat 64 vec
  s.modPkg fun k =>
    let t := k.msixTable.set i e
    if bitAt k.msixPba vec && !bitAt e 96 then
      { k with msixTable := t, msixPba := k.msixPba &&& ~~~(1#64 <<< vec), toHost := .msix vec :: k.toHost }
    else { k with msixTable := t }

/-- Unmasking a vector. -/
def unmaskMsix (s : State) (vec : Nat) : State :=
  if vec < 64 then writeMsix s vec (withField (s.pkg.msixTable[Fin.ofNat 64 vec]) 96 96 0) else s

/-! ### Starts (R357, R358) -/

/-- What a start keeps of the package: the flash, the size of BAR2, what the host has written to its own registers. -/
def startPackage (k : Package) (warm : Bool) (v : Word) : Package :=
  { Package.reset with
    warm := warm, keep := warm && bitAt v 2, persist := bitAt v 3
    rsize := k.rsize, rchunk := k.rchunk, rbuf := k.rbuf, hmbox := k.hmbox
    msixTable := k.msixTable, msixPba := k.msixPba, toHost := k.toHost, toPeer := k.toPeer, bar2log := k.bar2log, flashed := k.flashed }

/-- Contexts keep their counts of completed instructions over a warm start (R176: since cold start). -/
def keepRetired (l : List (Nat × Core)) : List (Nat × Core) :=
  l.map fun q => (q.1, { Core.reset with
    n := { Context.reset with retired := q.2.n.retired }, u := { Context.reset with retired := q.2.u.retired }, empty := q.2.empty })

/-- A warm start keeps the dies' column repair (R358). -/
def keepColrep (l : List (Nat × Die)) : List (Nat × Die) := l.map fun q => (q.1, { Die.reset with colrep := q.2.colrep })

/-- Begins a start: every core, cluster, die and partition takes its reset state; memory keeps its bytes until the boot clears it. -/
def beginStart (s : State) (warm : Bool) (v : Word) : State :=
  raiseMsix { State.reset with
    mem := s.mem, poison := s.poison, sched := s.sched, slot := s.slot, fresh := s.fresh
    cores := if warm then keepRetired s.cores else s.cores.map fun q => (q.1, { Core.reset with empty := q.2.empty })
    dies := if warm then keepColrep s.dies else []
    cycle := if warm then s.cycle else 0
    pkg := startPackage s.pkg warm v } 0

/-- A devctl write that asks for a start: one written while a start runs takes effect after it. -/
def devctlStart (s : State) (warm : Bool) (v : Word) : State :=
  if s.pkg.starting then s.modPkg fun k => { k with nextStart := some v } else beginStart s warm v

/-- A devctl write: bit 0 a cold start, else bit 1 a warm one; without either, bit 3 says whether a recovered image is to persist (R347,
R359). -/
def devctlWrite (s : State) (v : Word) : State :=
  if bitAt v 0 then devctlStart s false v else if bitAt v 1 then devctlStart s true v else s.modPkg fun k => { k with persist := bitAt v 3 }

/-- A start that waited begins. -/
def nextStart (s : State) : State :=
  match s.pkg.nextStart with
  | none => s
  | some v => beginStart s (!bitAt v 0) v

/-- The boot goes on to a stage: vector 0 is raised. -/
def toStage (s : State) (st : Nat) : State := raiseMsix (s.modPkg fun k => { k with stage := BitVec.ofNat 8 st }) 0

/-- An error stops the start at its stage. -/
def bootError (s : State) (e : BitVec 8) (detail : BitVec 16) : State :=
  nextStart (s.modPkg fun k => { k with error := e, detail := detail, starting := false })

/-- Bytes of a recovery chunk, and of a hamper (R359, R105). -/
def chunkBytes : Nat := 0x100000

/-- Byte `a` of the image staged in die 0's hampers: chunk k in the hamper of core k (R359; DESIGN CHOICE, notes/assumptions/34.md: which
hamper holds which chunk). -/
def stagedPa (a : Nat) : Nat := hamperPa (a / chunkBytes) (a % chunkBytes)

/-- The firmware image: the staged one, as verified or as it lies in the hampers, the one written to the flash by a recovery, or the
flash's own. -/
def firmware (s : State) : List Byte :=
  let ofCells (c : List Host.Cell) (n : Nat) : List Byte := (List.range n).map fun k => Mem.read k c
  let size := Nat.min s.pkg.rsize.toNat 0x10000000
  if s.pkg.stagedUse then
    match s.pkg.recovered with
    | some c => ofCells c size
    | none => (List.range size).map fun a => Mem.read (stagedPa a) s.mem
  else match s.pkg.flashed with
    | some c => ofCells c (Nat.min (hdLength (Mem.readLE c 0 64) + 4768) 0x10000000)
    | none => (List.range Config.flashLen).map Config.flash

/-- The cells of a byte string. -/
def cellsOf (b : List Byte) : List Host.Cell := (b.zipIdx.filter fun q => q.1 != 0).map fun q => (q.2, q.1)

/-- Stage 0x03: what the verification of the firmware image finds; 0 when it passes. -/
def verifyFirmware (b : List Byte) : BitVec 8 :=
  let len := hdLength (imgHeader b)
  let key := BitVec.ofNat 512 (leAt (b.drop len) 8 64)
  if key != Config.fusedKey then 2
  else if !signatureOk b (fun k => k == Config.fusedKey) then 3
  else if bitsOf (imgHeader b) 79 64 < Config.fusedFloor.toNat then 4
  else 0

/-- Stage 0x06: HBM, hampers and scratchpads are cleared to zero and every line is marked full (R113, R357). -/
def clearMemory (s : State) : State :=
  { s with mem := [], poison := [], cores := s.cores.map fun q => (q.1, { q.2 with empty := [], filling := [] }) }

/-- The stage after HBM training and column test, which a warm start skips, as it does the clear when devctl[2] was set. -/
def afterVerify (k : Package) : Nat := if !k.warm then 4 else if k.keep then 7 else 6

/-- Each link trains, whatever comes of it (R350). -/
def trainLinks (s : State) : State :=
  { s.modPkg fun k => { k with links := Vector.ofFn fun (i : Fin 16) => ⟨Config.linkTrains (s.fresh + i.val), 0⟩ } with fresh := s.fresh + 16 }

/-- What the column test of a die may find (R77): at most two defective columns, the second above the first; what it finds is free. -/
def testedColumns (w : BitVec 32) : BitVec 32 :=
  let v1 := bitAt w 15
  let p0 := if v1 then fld w 5 0 % 49 else fld w 5 0 % 50
  let p1 := if v1 then p0 + 1 + fld w 13 8 % (49 - p0) else fld w 13 8 % 50
  BitVec.ofNat 32 (packFields [(boolNat v1, 15), (p1, 8), (boolNat (bitAt w 7 || v1), 7), (p0, 0)])

/-- The column test writes every die's colrep. -/
def testColumns (s : State) : State :=
  { (List.range 4).foldl (fun (s : State) d => s.modDie d fun q => { q with colrep := testedColumns (Config.colrep (s.fresh + d)) }) s with
    fresh := s.fresh + 4 }

/-- A context of a management core at the hypervisor's first instruction. -/
def hyperStart (k : Context) : Context := { k with running := true, fir := { k.fir with pc := 0, sup := true } }

/-- The hypervisor starts on the management core of die d (R357): the firmware image's sections lie in the core's own scratchpad, and its
context N starts at address 0 in hypervisor mode (DESIGN CHOICE, notes/assumptions/9.md: where, and at which address). -/
def startHypervisor (im : List Sect) (s : State) (d : Nat) : State :=
  let n := Config.cores + d
  let s1 := (im.filter fun t => 1 ≤ t.kind && t.kind ≤ 3).foldl (fun (s : State) t => writeSect t s n) s
  (s1.modCore n fun c => { c with n := hyperStart c.n }).modPkg fun k => { k with
    mgmt := k.mgmt.set (Fin.ofNat 4 d) { k.mgmt[Fin.ofNat 4 d] with hstatus := 1 } }

/-- The sections of the firmware image. -/
def firmwareSects (s : State) : List Sect :=
  match parseImage (firmware s) true with
  | .ok im => im.sects
  | .error _ => []

/-- The boot advances by one stage, or stops with an error. The errors of image and verification follow from the image; those of
training, column test and hypervisor start are the step's arguments. -/
def bootStage (s : State) (err : BitVec 8) (detail : BitVec 16) : State :=
  let k := s.pkg
  if !k.starting || k.error != 0 then s
  else
    match k.stage.toNat with
    | 0x01 => toStage (trainLinks s) 0x02
    | 0x02 => if (firmware s).isEmpty then bootError s 1 0 else toStage s 0x03
    | 0x03 =>
      let b := firmware s
      let e := verifyFirmware b
      if e != 0 then bootError s e 0
      else toStage (s.modPkg fun k => { k with fwDigest := imageDigest b, recovered := if k.stagedUse then some (cellsOf b) else none })
        (afterVerify k)
    | 0x04 => if err = 5 && detail.toNat < 8 then bootError s 5 detail else toStage s 0x05
    | 0x05 => if err = 6 && detail.toNat < 4 then bootError s 6 detail else toStage (testColumns s) 0x06
    | 0x06 => toStage (clearMemory s) 0x07
    | 0x07 =>
      if err = 7 then bootError s 7 0
      else
        let s1 := (List.range 4).foldl (startHypervisor (firmwareSects s)) s
        toStage (s1.modPkg fun k => { k with flashed := if k.persist && k.recovered.isSome then k.recovered else k.flashed }) 0x08
    | 0x08 => nextStart ((toStage s 0x0F).modPkg fun k => { k with starting := false })
    | _ => s

/-! ### Recovery (R359) -/

/-- A write of a chunk number: the boot ROM stages the chunk in the buffer in one of die 0's hampers (R359). -/
def recoveryChunk (s : State) (v : Word) : State :=
  let s1 := s.modPkg fun k => { k with rchunk := v }
  if s.pkg.error != 0 && v.toNat < 256 then writeMem s1 (stagedPa (v.toNat * chunkBytes)) chunkBytes (Mem.readLE s.pkg.rbuf 0 chunkBytes)
  else s1

/-- A write to rgo: the start goes on at stage 0x03 with the staged image. -/
def recoveryGo (s : State) : State :=
  let k := s.pkg
  if k.starting || k.error = 0 || k.error = 8 then s
  else toStage (s.modPkg fun k => { k with error := 0, detail := 0, starting := true, stagedUse := true, recovered := none }) 0x03

/-! ### Host accesses (R347, R349, R308) -/

/-- A write of the doubleword at 0x2FF8 of hmbox signals the hypervisor. -/
def hmboxWrite (s : State) (off n v : Nat) : State :=
  let s1 := s.modPkg fun k => { k with hmbox := Mem.writeLE k.hmbox off n v }
  if off ≤ 0xFFF && 0xFF8 < off + n then hyperEvent s1 0 else s1

/-- A write of `n` bytes of BAR0. -/
def bar0Write (s : State) (o n v : Nat) : State :=
  let w := BitVec.ofNat 64 v
  if o = 0x8 then devctlWrite s w
  else if o = 0x1000 then s.modPkg fun k => { k with rsize := BitVec.ofNat 64 (Nat.min v 0x10000000) }
  else if o = 0x1008 then recoveryChunk s w
  else if o = 0x1010 then recoveryGo s
  else if 0x2000 ≤ o && o < 0x3000 then hmboxWrite s (o - 0x2000) n v
  else if 0x100000 ≤ o && o < 0x108000 && o % 0x800 < 0x200 && o % 8 = 0 then
    hostDoorbell s ((o - 0x100000) / 0x800) (o % 0x800 / 8) w
  else if 0x200000 ≤ o && o < 0x300000 then s.modPkg fun k => { k with rbuf := Mem.writeLE k.rbuf (o - 0x200000) n v }
  else if 0x3F0000 ≤ o && o < 0x3F0400 then
    let vec := (o - 0x3F0000) / 16
    let lo := 8 * (o % 16)
    writeMsix s vec (withField (s.pkg.msixTable[Fin.ofNat 64 vec]) (lo + 8 * n - 1) lo v)
  else s

/-- What a host read of a doubleword of BAR0 gives (R347). -/
def bar0Read (s : State) (o : Nat) : Word :=
  let k := s.pkg
  if o = 0 then BitVec.ofNat 64 (packFields [(k.stage.toNat, 24), (k.error.toNat, 16), (k.detail.toNat, 0)])
  else if o = 0x10 then BitVec.ofNat 64 (packFields [(Config.serial.toNat, 32), (deviceNum s, 16), (0x5A09, 0)])
  else if 0x40 ≤ o && o < 0x80 then Config.idkey.extractLsb' (64 * ((o - 0x40) / 8)) 64
  else if o = 0x1000 then k.rsize
  else if o = 0x1008 then k.rchunk
  else if 0x2000 ≤ o && o < 0x3000 then BitVec.ofNat 64 (Mem.readLE k.hmbox (o - 0x2000) 8)
  else if 0x180000 ≤ o && o < 0x188000 && o % 0x800 < 0x200 then
    let p := (o - 0x180000) / 0x800
    let h := (s.partAt p).hqchan[Fin.ofNat 64 (o % 0x800 / 8)]
    if bitAt h 63 && partRunning s p then (s.chanAt p (fld h 11 0)).rd.setWidth 64 else 0
  else if 0x200000 ≤ o && o < 0x300000 then BitVec.ofNat 64 (Mem.readLE k.rbuf (o - 0x200000) 8)
  else if 0x3F0000 ≤ o && o < 0x3F0400 then (k.msixTable[Fin.ofNat 64 ((o - 0x3F0000) / 16)]).extractLsb' (64 * (o % 16 / 8)) 64
  else if o = 0x3F8000 then k.msixPba
  else 0

/-- What a host read of `n` bytes gives, none for a poisoned TLP (R349). -/
def hostRead (s : State) (bar2 : Bool) (o n : Nat) : Option Word :=
  if bar2 then
    let pa := s.pkg.bar2base.toNat + o
    if (poisonedIn s pa n).isSome then none else some (BitVec.ofNat 64 (readMem s pa n))
  else some (BitVec.ofNat 64 ((bar0Read s (o - o % 8)).toNat / 2 ^ (8 * (o % 8)) % 2 ^ (8 * n)))

/-- A host access of 1 to 8 bytes inside a BAR: a read is answered (R308), a write is performed at its home. -/
def hostAccess (s : State) (a : HostAcc) : State :=
  let n := a.size
  let v := a.value.toNat % 2 ^ (8 * n)
  let inside := if a.bar2 then a.offset + n ≤ 2 ^ s.pkg.bar2log && s.pkg.bar2base.toNat + a.offset + n ≤ Config.hbmBytes else a.offset + n ≤ 0x400000
  if n = 0 || n > 8 || !inside then s
  else if !a.write then sendHost s (.reply (hostRead s a.bar2 a.offset n))
  else if a.bar2 then writeMem s (s.pkg.bar2base.toNat + a.offset) n v
  else bar0Write s a.offset n v

/-! ### The hypervisor's side of hmbox (R347, R357) -/

/-- The hypervisor has started. -/
def hyperRuns (s : State) : Bool := (List.finRange 4).any fun d => bitAt (s.pkg.mgmt[d]).hstatus 0

/-- The hypervisor writes bytes of hmbox, which raises vector 0. -/
def hyperMbox (s : State) (off n v : Nat) : State :=
  if hyperRuns s && off + n ≤ 0x1000 then raiseMsix (s.modPkg fun k => { k with hmbox := Mem.writeLE k.hmbox off n v }) 0 else s

/-- The digests of the running partitions' system images. -/
def systemDigests (s : State) : List (Nat × BitVec 512) :=
  ((List.range 16).filter (partRunning s)).flatMap fun p => ((s.partAt p).loads.filter (·.sys)).map fun l => (p, l.digest)

/-- The bytes of a bit vector, little-endian. -/
def bytesOf {w : Nat} (n : Nat) (d : BitVec w) : List Byte := (List.range n).map fun k => d.extractLsb' (8 * k) 8

/-- What the report signs: the firmware digest, then each running system image's, 64 bytes each. -/
def reportSigned (fw : BitVec 512) (images : List (Nat × BitVec 512)) : List Byte := bytesOf 64 fw ++ images.flatMap fun q => bytesOf 64 q.2

/-- The report as bytes: what it signs, and the signature. -/
def Report.bytes (r : Report) : List Byte := reportSigned r.firmware r.images ++ bytesOf 4627 r.signature

/-- Bytes of hmbox below the doubleword that signals: what one answer holds. -/
def mboxPart : Nat := 0xFF8

/-- On the host's request through hmbox, the hypervisor returns its report, signed with the identity key, through hmbox (R357): it writes part j of the
report's bytes below the doubleword at 0xFF8, j being the number that the request wrote there, which raises vector 0. The form of request and
report is not given (DESIGN CHOICE, notes/assumptions/35.md). -/
def hyperReport (s : State) : State :=
  if !hyperRuns s || !(List.finRange 4).any fun d => bitAt (s.pkg.mgmt[d]).hevent 0 then s
  else
    let images := systemDigests s
    let r : Report := ⟨s.pkg.fwDigest, images, Config.idSign (reportSigned s.pkg.fwDigest images)⟩
    let part := (r.bytes.drop (mboxPart * Mem.readLE s.pkg.hmbox mboxPart 8)).take mboxPart
    raiseMsix (s.modPkg fun k => { k with
      report := some r
      hmbox := Mem.writeLE k.hmbox 0 mboxPart (leAt part 0 mboxPart)
      mgmt := k.mgmt.map fun m => { m with hevent := m.hevent &&& ~~~1#4 } }) 0

/-- The host resizes BAR2: 1 GiB to 512 GiB; bar2base stays as it is (R349). -/
def resizeBar2 (s : State) (log : Nat) : State := if 30 ≤ log && log ≤ 39 then s.modPkg fun k => { k with bar2log := log } else s

/-! ### Device links (R350 to R352) -/


/-- A home on a peer device that is reached over link l. -/
def overLink (s : State) (l : Nat) (pa : Nat) : Bool :=
  match regionOf pa with
  | some (.peer dev _) => (linkOf s dev).any fun k => k.val == l
  | _ => false

/-- Faults an entry of a context, wherever it is, with the lowest byte first (R99, R200). -/
def faultEntry (s : State) (i : CtxId) (num pos : Nat) (cause : BitVec 8) (tval : Word) : State :=
  let one (e : Entry) : Entry :=
    if e.num != num then e
    else if e.fault.any fun f => f.1 ≤ pos then e
    else { e with fault := some (pos, cause), va := tval }
  s.modCtx i fun k => { k with rb := k.rb.map one, fir := { k.fir with aside := k.fir.aside.map one } }

/-- A load or an atomic that waits for a reply over link l. -/
def loadOver (s : State) (l : Nat) (a : Access) : Bool :=
  (match a.kind with
    | .load _ | .vload _ _ | .atomic _ _ _ _ => true
    | _ => false) && (accHome s a).any (overLink s l)
/-- A posted store that is on its way over link l. -/
def storeOver (s : State) (l : Nat) (a : Access) : Bool :=
  (match a.kind with
    | .store _ _ | .block _ _ _ _ => true
    | _ => false) && a.pa.any (overLink s l)

/-- One context's losses when link l goes down: its messages are abandoned, its loads fault, its stores are lost. -/
def contextDown (l : Nat) (s : State) (i : CtxId) : State :=
  let k := s.ctx i
  let msgs := (k.inj.zipIdx.filter fun q => (linkOf s q.1.device).any (fun m => m.val == l) && q.1.device != deviceNum s).map (·.2)
  let s1 := msgs.reverse.foldl (fun (s : State) j => abandonMsg s i j) s
  let hit := k.acc.filter (loadOver s l)
  let s2 := hit.foldl (fun (s : State) a => faultEntry s i a.num a.pos 0x03 a.va) s1
  let lost (e : Entry) : Entry := if hit.any fun a => a.num == e.num then { e with acq := none } else e
  s2.modCtx i fun c => { c with
    acc := c.acc.filter fun a => !loadOver s l a && !storeOver s l a
    rb := c.rb.map lost, fir := { c.fir with aside := c.fir.aside.map lost } }

/-- A partition has a peer grant over link l. -/
def peerGrant (s : State) (p l : Nat) : Bool :=
  let d := partDesc s p
  bitAt d 88 && s.pkg.routes.any fun r => bitAt r.2 7 && fld r.2 3 0 == l && fld d 75 64 ≤ r.1 && r.1 ≤ fld d 87 76

/-- A link goes down. Its record in a full fault event queue keeps no other agent waiting: it waits behind the 64 (R320; log entry 39). -/
def linkDown (s : State) (l : Nat) : State :=
  if l ≥ 16 || !(s.pkg.links[Fin.ofNat 16 l]).up then s
  else
    let ids := s.cores.flatMap fun q => [(⟨q.1, .n⟩ : CtxId), ⟨q.1, .u⟩]
    let lost (p : Nat) : Nat := ((ids.filter fun i => (s.coreAt i.core).partition == p).map fun i =>
      ((s.ctx i).acc.filter (storeOver s l)).length).foldl (· + ·) 0
    let s1 := s.modPkg fun k => { k with links := k.links.set (Fin.ofNat 16 l) ⟨false, 0⟩ }
    let s2 := ids.foldl (contextDown l) s1
    let s3 := (List.range 16).foldl (fun (s : State) p =>
      if peerGrant s p l then faultEvent s p (faultRecord 10 0 (l + lost p % 65536 * 65536) 0 0 0 0 0 .n) else s) s2
    hyperEvent s3 1

/-- The firing tags and partitions of the accesses and messages of contexts that are to cross link l. -/
def flitsOver (s : State) (l : Nat) : List (Nat × Nat) :=
  s.cores.flatMap fun q => [q.2.n, q.2.u].flatMap fun k =>
    ((k.acc.filter fun a => (accHome s a).any (overLink s l)).map fun a => (a.who.tag.toNat, a.who.part))
      ++ (k.inj.filter fun j => j.device != deviceNum s && (linkOf s j.device).any fun m => m.val == l).map fun j => (hdrTag j.msg.hdr, q.2.partition)

/-- Tag and partition of the flit at the head of link l: one of those that are to cross it, or an engine's; which of them is a free value
(R129, R350). -/
def headFlit (s : State) (l fr : Nat) : Nat × Nat :=
  let f := flitsOver s l
  f[Config.strikeAt fr % (f.length + 1)]?.getD (0, 0)

/-- A CRC error: the first asks for a replay of the flit at the head, a later one is a replay that failed, and the eighth of those takes the
link down. -/
def linkReplay (s : State) (l : Nat) : State :=
  let k := s.pkg.links[Fin.ofNat 16 l]
  if l ≥ 16 || !k.up then s
  else if k.fails ≥ 8 then linkDown s l
  else
    let (fr, s1) := (s.modPkg fun q => { q with links := q.links.set (Fin.ofNat 16 l) ⟨true, k.fails + 1⟩ }).nextFresh
    let (tag, part) := headFlit s l fr
    logError s1 (.die 0 (27 + l)) 4 l tag part

/-- The hypervisor retrains a link; a lane that fails leaves it down, or takes it down with all that this loses (R352). -/
def linkRetrain (s : State) (l : Nat) (trained : Bool) : State :=
  if l ≥ 16 then s
  else if !trained && (s.pkg.links[Fin.ofNat 16 l]).up then linkDown s l
  else hyperEvent (s.modPkg fun k => { k with links := k.links.set (Fin.ofNat 16 l) ⟨trained, 0⟩ }) 1

/-- A flit for another device is forwarded on the link its own route entry names; without one it goes nowhere. -/
def forwardFlit (s : State) (f : LinkFlit) : State :=
  if f.dest = deviceNum s || !linkUp s f.dest then s
  else match linkOf s f.dest with
    | some l => (linkPassed s f.dest 0 0).modPkg fun k => { k with forwarded := k.forwarded ++ [(l.val, f)] }
    | none => s

/-! ### Peer accesses (R353) -/

/-- The lowest-numbered export entry that a peer access matches. -/
def exportMatch (s : State) (dev o : Nat) : Option (BitVec 256) :=
  (List.range 8).findSome? fun e =>
    let x := s.pkg.exports[Fin.ofNat 8 e]
    if bitAt x 0 && fld x 99 64 ≤ o && o < fld x 163 128 && (fld x 19 8 == dev || fld x 19 8 == 0xFFF) then some x else none

def peerNeed : PeerKind → Need
  | .load => .read
  | .store => .write
  | .atomic _ _ _ => .both

/-- Whether an export entry's r and w bits allow the access. -/
def exportAllows (x : BitVec 256) (n : Need) : Bool :=
  match n with
  | .read => bitAt x 1
  | .write => bitAt x 2
  | .both => bitAt x 1 && bitAt x 2

/-- The home of a peer's access; none when it is refused. -/
def peerHome (s : State) (a : PeerAcc) : Option (Nat × Nat) :=
  match exportMatch s a.dev a.offset with
  | none => none
  | some x =>
    let pa := fld x 241 192 + (a.offset - fld x 99 64)
    let p := fld x 23 20
    if exportAllows x (peerNeed a.kind) && granted s p pa (peerNeed a.kind) false then some (pa, p) else none

/-- A load or an atomic of a peer is answered. -/
def peerReply (s : State) (r : PeerReply) : State := s.modPkg fun k => { k with toPeer := r :: k.toPeer }

/-- A refused access: a store counts, a load or an atomic is answered with cause 0x03, and every refusal signals the hypervisor. -/
def peerRefused (s : State) (a : PeerAcc) : State :=
  let s1 := match a.kind with
    | .store => s.modPkg fun k => { k with refusals := if k.refusals.toNat = 2 ^ 64 - 1 then k.refusals else k.refusals + 1 }
    | _ => peerReply s (.fault a.dev 0x03)
  hyperEvent s1 2

/-! ### Monitors (R360) -/

/-- The bin of a value. -/
def monBin (v : Nat) : Nat := Nat.min (bitLen v) 15

/-- What a level source shows now; a latency source and the channel-group queue depth take the sample's own value. -/
def monLevel (s : State) (d : Nat) (m : Monitor) (v : Nat) : Nat :=
  let t := fld m.cfg 20 8
  match fld m.cfg 3 0 with
  | 4 => occupancy s (fld m.cfg 31 28) t
  | 5 => (churnOf s d t).length
  | 6 => (s.clusterAt t).reqs.length
  | _ => v

/-- One sample of an enabled monitor; a level is sampled every 1,024 cycles. -/
def monitorSample (s : State) (d i : Nat) (v : Word) : State :=
  let m := monAt s d i
  let src := fld m.cfg 3 0
  if i ≥ 32 || !bitAt m.cfg 24 || src ≥ 8 || (4 ≤ src && s.now % 1024 != 0) then s
  else
    let x := monLevel s d m v.toNat
    let b := Fin.ofNat 16 (monBin x)
    let w := BitVec.ofNat 64 x
    setMon s d i { m with
      min := if x < m.min.toNat then w else m.min
      max := if m.max.toNat < x then w else m.max
      count := if m.count.toNat = 2 ^ 64 - 1 then m.count else m.count + 1
      bins := m.bins.set b (if (m.bins[b]).toNat = 2 ^ 32 - 1 then m.bins[b] else m.bins[b] + 1) }

/-- Clears a monitor's statistics. -/
def monitorClear (s : State) (d i : Nat) : State := if i < 32 then setMon s d i (clearMon (monAt s d i)) else s

/-! ### Gating (R361) -/

/-- A limit is crossed: the first gating step is entered, for this cause, and the hypervisor hears of it. For either cause hevent's thermal
bit says so (DESIGN CHOICE, notes/assumptions/35.md: R361 has temperature and current reported, R356 gives one bit). -/
def throttleEnter (s : State) (d : Nat) (c : GateCause) : State :=
  let s1 := s.modDie d fun q => { q with
    hot := q.hot || c == .temperature, overCurrent := q.overCurrent || c == .current, gates := if q.gates.isEmpty then [c] else q.gates }
  hyperEvent s1 3

/-- After a further millisecond the gating deepens, for a cause that holds. -/
def throttleStep (s : State) (d : Nat) : State :=
  s.modDie d fun q =>
    if q.gates.length = 1 && (q.hot || q.overCurrent) then { q with gates := (if q.hot then .temperature else .current) :: q.gates } else q

/-- The release condition of a cause holds; the step entered last is released unless the other cause still holds. -/
def throttleRelease (s : State) (d : Nat) (c : GateCause) : State :=
  s.modDie d fun q =>
    let hot := q.hot && c != .temperature
    let current := q.overCurrent && c != .current
    { q with hot := hot, overCurrent := current, gates := if hot || current then q.gates else q.gates.drop 1 }

/-- At 110 °C every die stops and devstat shows error 8; a start that ran has stopped, so that one written meanwhile takes effect (R358). -/
def thermalShutdown (s : State) : State := nextStart (hyperEvent (s.modPkg fun k => { k with error := 8, detail := 0, starting := false }) 3)

end Sys2Proof.Machine
end

