-- ==== Sys2Proof/Machine/Perform.lean ====
section
/-!
DEFINITION. Accesses at their homes (R291 to R298): when an issued access may be performed, and what performing it does; the checks of
posted stores (R208, R325); the return of results (R97); index operations (R264 to R267); records, contributions and kicks that
arrive.
-/
namespace Sys2Proof.Machine

/-! ### Order -/

/-- The buckets of an index that an operation has still to visit: from the first on, the last one if it ends (R264, R267). -/
def ixRange (d : BitVec 512) : IndexOp → Nat × Option Nat
  | .upd r | .look r => (ixBucket d (fld r 63 0), some (ixBucket d (fld r 63 0)))
  | .next b _ | .clear b => (b, none)

/-- The lines of the buckets that an index operation has still to visit, page by page: of each page the first line and how many. -/
def ixSpans (s : State) (w : Requester) (x : Nat) (op : IndexOp) : List (Nat × Nat) :=
  let d := indexAt s w.part x
  let (b, last) := ixRange d op
  let stop := (last.map (· + 1)).getD (2 ^ ixLb d)
  (List.range ((stop + 7) / 8 - b / 8)).filterMap fun j =>
    let lo := Nat.max b (8 * (b / 8 + j))
    match engineHome s w.part w.sup (ixVa d lo) .read with
    | .ok pa => some (pa / 128, 4 * (Nat.min stop (8 * (b / 8 + j) + 8) - lo))
    | .error _ => none

/-- The lines of memory that an access touches: runs of a first one and how many. -/
def accSpans (s : State) (a : Access) : List (Nat × Nat) :=
  match a.kind with
  | .load _ | .vload _ _ | .peek | .atomic _ _ _ _ | .store _ _ | .block _ _ _ _ | .kick => (accHome s a).toList.map fun pa => (pa / 128, 1)
  | .index x op => ixSpans s a.who x op
  | .hfillDo _ _ => (accHome s a).toList.map fun pa => (pa / 128, 32)
  | _ => []

/-- An access that leaves its core as a packet: the home of a memory access outside the own core. -/
def packetHome (s : State) (i : CtxId) (a : Access) : Option Nat :=
  match a.kind with
  | .load _ | .vload _ _ | .atomic _ _ _ _ | .store _ _ | .block _ _ _ _ | .kick =>
    (accHome s a).filter fun pa => destUnit pa != some (.core i.core)
  | _ => none
/-- Access `a` has been delivered to its bank, where it waits (R113, R114). -/
def delivered (s : State) (i : CtxId) (a : Access) : Bool :=
  match a.pa with
  | some pa => match lineOf pa with
    | some (n, _) => (waitAt s n i a).isSome
    | none => false
  | none => false
/-- An earlier packet `b` comes before the packet `a`: one of the same lane and unit that has not been delivered (R294), or one that the
bank of both has refused (R114, which keeps per-source order as R84 does). -/
def packetBefore (s : State) (i : CtxId) (b a : Access) : Bool :=
  match packetHome s i b, packetHome s i a with
  | some x, some y =>
    destUnit x == destUnit y && if b.refused.isSome then x / 128 % 8 == y / 128 % 8 else laneOf x == laneOf y && !delivered s i b
  | _, _ => false
/-- Messages use lane 0: a later packet of lane 0 to a core is delivered after an earlier message to it, unless that has been refused or
travels by a group's tree (R294). -/
def messageBefore (s : State) (i : CtxId) (a : Access) : Bool :=
  match packetHome s i a with
  | some pa => laneOf pa == 0 && (s.ctx i).inj.any fun j =>
      j.num < a.num && j.gid.isNone && j.refused.isNone && j.device == deviceNum s && j.targets.any fun t => destUnit pa == some (.core t)
  | none => false

/-- Two accesses share a line. -/
def spansMeet (a b : List (Nat × Nat)) : Bool := a.any fun p => b.any fun q => p.1 < q.1 + q.2 && q.1 < p.1 + p.2

/-- Two records of one context to one channel keep their order, as do two reads of one channel (R255, R294). -/
def sameChannel (a b : AccKind) : Bool :=
  match a, b with
  | .chan c (.read _), .chan d (.read _) => c == d
  | .chan c (.res _), .chan d (.res _) => c == d
  | .chan c _, .chan d _ => c == d && a.isRecord && b.isRecord
  | _, _ => false

/-- Two index operations of a context that visit a bucket in common: per bucket they keep program order (R264). -/
def indexBefore (s : State) (b a : Access) : Bool :=
  match b.kind, a.kind with
  | .index x p, .index y q =>
    let d := indexAt s a.who.part x
    x == y && (ixRange d p).2.all (fun e => (ixRange d q).1 ≤ e) && (ixRange d q).2.all (fun e => (ixRange d p).1 ≤ e)
  | _, _ => false

/-- A `fence.rel` holds stores, atomics, kicks and channel writes (R213). -/
def AccKind.fenced : AccKind → Bool
  | .store _ _ | .block _ _ _ _ | .atomic _ _ _ _ | .kick => true
  | k => k.isRecord

/-- Whether the home of an access lies within a scope. -/
def accInScope (s : State) (sc : Scope) (i : CtxId) (a : Access) : Bool :=
  if a.kind.isRecord then recordInScope s sc i a else (accHome s a).any fun pa => inScope sc i.core pa

/-- Whether access `k` of a context may be performed now: program order on its lines, buckets and channels (R295, R264, R255), delivery in
lanes (R294), the releases and fences (R303, R213). -/
def mayPerform (s : State) (i : CtxId) (k : Nat) (a : Access) : Bool :=
  let before := (s.ctx i).acc.take k
  let sp := accSpans s a
  (before.all fun b => !spansMeet (accSpans s b) sp && !sameChannel b.kind a.kind && !indexBefore s b a && !packetBefore s i b a)
    && !messageBefore s i a
    && (!a.kind.fenced || fencesPassed s i a.num fun sc => accInScope s sc i a)
    && (match a.rel with
      | some sc => a.kind == .fence || releasedBefore s i a.num sc allMsgs
      | none => true)

/-! ### The end of an access -/

/-- Changes the entry numbered `num` of a context, in the return buffer or set aside. -/
def modEntry (s : State) (i : CtxId) (num : Nat) (f : Entry → Entry) : State :=
  let one (e : Entry) : Entry := if e.num = num then f e else e
  s.modCtx i fun k => { k with rb := k.rb.map one, fir := { k.fir with aside := k.fir.aside.map one } }

def entryAt (s : State) (i : CtxId) (num : Nat) : Option Entry :=
  let k := s.ctx i
  (k.rb ++ k.fir.aside).find? fun e => e.num == num

/-- Removes access `k`; fences that hold nothing any more go with it. -/
def dropAcc (s : State) (i : CtxId) (k : Nat) : State :=
  let s1 := s.modCtx i fun c => { c with acc := delAt k c.acc }
  s1.modCtx i fun c => { c with acc := c.acc.filter fun a =>
    !(a.kind == .fence && releasedBefore s1 i a.num (a.rel.getD .core) allMsgs) }

/-- Access `k` has been performed and gives `size` bytes to its entry. -/
def finishAcc (s : State) (i : CtxId) (k : Nat) (a : Access) (size v : Nat) : State :=
  let s1 := modEntry s i a.num fun e => { e with value := setField e.value (8 * (a.pos + size) - 1) (8 * a.pos) v, acq := none }
  dropAcc s1 i k

/-- Access `k` faults: its entry reports it at the marker (R99). -/
def faultAcc (s : State) (i : CtxId) (k : Nat) (a : Access) (cause : Nat) (tval : Word) : State :=
  dropAcc (modEntry (faultEntry s i a.num a.pos (BitVec.ofNat 8 cause) tval) i a.num fun e => { e with acq := none }) i k

/-- The address of the protected word at which an access of `va` to `pa` meets poison (R335). -/
def poisonVa (va : Word) (pa word : Nat) : Word := va + BitVec.ofNat 64 word - BitVec.ofNat 64 pa

/-- The window that an own access to a scratchpad line touches first (R117). -/
def firstTouch (s : State) (i : CtxId) (pa : Nat) : Option Nat :=
  match lineOf pa with
  | some (n, l) => if n = i.core then absentWindow (s.coreAt n) l else none
  | none => none

/-- The home of access `a`: the one it waits at, or where its address translates now. -/
def homeFor (s : State) (a : Access) (n : Need) : Home × State :=
  match a.pa with
  | some pa => (.ok pa, s)
  | none => resolve s a.who a.va.toNat n

/-- Access `k` as changed. -/
def setAcc (s : State) (i : CtxId) (k : Nat) (a : Access) : State := s.modCtx i fun c => { c with acc := setAt k a c.acc }

/-- The request and its answer pass the paths between the core and a home outside it (R130). -/
def travel (s : State) (i : CtxId) (a : Access) (pa : Nat) : State :=
  if destUnit pa == some (.core i.core) then s else passPaths s (dieOf i.core) a.who.tag.toNat a.who.part pa

/-- Access `k` at its home: `go` performs it once the line lets it, and nothing else at that bank comes before it (R113, R114). A line that
is empty keeps a load waiting, one that is fill-pending a store; a link that is down keeps both (R352). A bank with 16 remote requests
refuses another one, which is sent again after 64 cycles. -/
def atBank (s : State) (i : CtxId) (k : Nat) (a : Access) (pa : Nat) (load : Bool) (go : State → State) : State :=
  match lineOf pa with
  | none => if linkWaits s pa then s else go (travel s i a pa)
  | some (n, l) =>
    let blocked := if load then lineEmpty s n l else lineFilling s n l
    match bankAnswer s n l i a blocked with
    | .go => go (travel (leaveWaits s n i a) i a pa)
    | .wait => if blocked then joinWaits (setAcc s i k { a with pa := some pa, refused := none }) n l i { a with pa := some pa } load else s
    | .refuse => setAcc s i k { a with refused := some s.now }

/-! ### Loads and atomics -/

/-- A load of `n` bytes at the access's address; `touches` is false for `fe.peek`, which reads whatever the line's bit. A peer device may
refuse it (R353). -/
def performLoad (s : State) (i : CtxId) (k : Nat) (a : Access) (n : Nat) (touches : Bool) : State :=
  match homeFor (bump s) a .read with
  | (.error c, s1) => faultAcc s1 i k a c a.va
  | (.ok pa, s1) =>
    if !touches then finish pa s1
    else match firstTouch s1 i pa with
      | some e => touchWindow s1 i.core e a.who a.num
      | none => atBank s1 i k a pa true (finish pa)
where
  finish (pa : Nat) (s1 : State) : State :=
    if peerRefuses s1 pa then faultAcc s1 i k a 0x03 a.va
    else match poisonedIn s1 pa n with
      | some w => faultAcc s1 i k a 0x0F (poisonVa a.va pa w)
      | none => finishAcc s1 i k a n (readHome s1 pa n)

/-- The active 4-byte elements of a mask. -/
def activeElems (m : BitVec 32) : List Nat := (List.range 32).filter fun j => bitAt m j

/-- A vector load of one block: its active elements at one instant (R200, R201); with `one`, the word at its address for each of them. -/
def performVload (s : State) (i : CtxId) (k : Nat) (a : Access) (m : BitVec 32) (one : Bool) : State :=
  match homeFor (bump s) a .read with
  | (.error c, s1) => faultAcc s1 i k a c a.va
  | (.ok pa, s1) =>
    match firstTouch s1 i pa with
    | some e => touchWindow s1 i.core e a.who a.num
    | none => atBank s1 i k a pa true (finish pa)
where
  off (j : Nat) : Nat := if one then 0 else 4 * j
  finish (pa : Nat) (s1 : State) : State :=
    if peerRefuses s1 pa then faultAcc s1 i k a 0x03 a.va
    else match (activeElems m).findSome? fun j => poisonedIn s1 (pa + off j) 4 with
      | some w => faultAcc s1 i k a 0x0F (poisonVa a.va pa w)
      | none =>
        let s2 := modEntry s1 i a.num fun e => { e with
          value := (activeElems m).foldl (fun v j => setField v (32 * j + 31) (32 * j) (readHome s1 (pa + off j) 4)) e.value }
        dropAcc s2 i k

/-- The new value of an atomic (R211) on `w` bits. -/
def amoNew (op w old opnd cmp : Nat) : Nat :=
  let x := opnd % 2 ^ w
  match op with
  | 0 => (old + x) % 2 ^ w
  | 1 => old &&& x
  | 2 => old ||| x
  | 3 => old ^^^ x
  | 4 => if signedOf w old < signedOf w x then old else x
  | 5 => if signedOf w old < signedOf w x then x else old
  | 6 => Nat.min old x
  | 7 => Nat.max old x
  | 8 => x
  | 9 => if old = cmp % 2 ^ w then x else old
  | 10 => (fpAdd fp32 envPlain old x).1
  | _ => (fpAdd fpBf16 envPlain (old % 65536) (x % 65536)).1 + 65536 * (fpAdd fpBf16 envPlain (old / 65536) (x / 65536)).1

/-- What an atomic at a peer device comes to: refused with cause 0x03, or 0x0C where no scratchpad homes it, else performed; which of them is
a free value, and so is what it answers (R212, R353). -/
def peerAtomic (s : State) (pa : Nat) : Option Nat :=
  if peerRefuses s pa then some 0x03 else if Config.freeBit s.fresh then some 0x0C else none

/-- An atomic at the bank that homes it (R211, R212). -/
def performAtomic (s : State) (i : CtxId) (k : Nat) (a : Access) (op : Nat) (dbl : Bool) (opnd cmp : Word) : State :=
  match homeFor (bump s) a .both with
  | (.error c, s1) => faultAcc s1 i k a c a.va
  | (.ok pa, s1) =>
    match regionOf pa with
    | some (.peer _ _) => atBank s1 i k a pa true (peer pa)
    | _ =>
      if (lineOf pa).isNone then faultAcc s1 i k a 0x0C a.va
      else match firstTouch s1 i pa with
        | some e => touchWindow s1 i.core e a.who a.num
        | none => atBank s1 i k a pa true (finish pa)
where
  n : Nat := if dbl then 8 else 4
  peer (pa : Nat) (s1 : State) : State :=
    match peerAtomic s1 pa with
    | some c => faultAcc s1 i k a c a.va
    | none => finishAcc s1 i k a n (readHome s1 pa n)
  finish (pa : Nat) (s1 : State) : State :=
    match poisonedIn s1 pa n with
    | some w => faultAcc s1 i k a 0x0F (poisonVa a.va pa w)
    | none =>
      let old := readMem s1 pa n
      finishAcc (storeBytesBy s1 a.who.part a.who.tag.toNat pa n (amoNew op (8 * n) old opnd.toNat cmp.toNat)) i k a n old

/-! ### Stores -/

/-- Bytes of a scalar store (R208). -/
def storeSize (func : Nat) : Nat := if func < 3 then 2 ^ func else 8

/-- The store-fault record queue with one more record, in program order (R325, R326). -/
def insertRecord (r : SfRec) : List SfRec → List SfRec
  | [] => [r]
  | q :: l => if r.num < q.num then r :: q :: l else q :: insertRecord r l

/-- A failing check of a posted store (R325): a record while the queue has room, else one more lost store. A firing that has ended
leaves no record. -/
def failStore (s : State) (i : CtxId) (k : Nat) (a : Access) (func : Nat) (data : Word) (inner : Nat) : State :=
  let c := s.ctx i
  let alive := (firingsOf c).any fun f => f.tag == a.who.tag
  let r : SfRec := ⟨a.num, a.pc, a.va, BitVec.ofNat 64 (data.toNat % 2 ^ (8 * storeSize func)), BitVec.ofNat 8 inner, BitVec.ofNat 3 func, a.order, false⟩
  let s1 := if !alive then s
    else if c.sfq.length < 8 then
      s.modCtx i fun c => { c with sfq := insertRecord r c.sfq, skid := some (Nat.max (c.skid.getD 0) (c.issued - a.order)) }
    else s.modCtx i fun c => { c with lost := Nat.min (c.lost + 1) 255 }
  dropAcc s1 i k

/-- The translation, permission and grant checks of posted store `k` (R208): it is then homed, or fails. A `stf` outside every
scratchpad fails with inner cause 0x03 (R209). -/
def checkStore (s : State) (i : CtxId) (k : Nat) : State :=
  match (s.ctx i).acc[k]? with
  | none => s
  | some a =>
    match a.kind, a.pa with
    | .store func data, none =>
      match resolve (bump s) a.who a.va.toNat .write with
      | (.error c, s1) => failStore s1 i k a func data c
      | (.ok pa, s1) =>
        if func = 5 && (lineOf pa).isNone then failStore s1 i k a func data 0x03
        else setAcc s1 i k { a with pa := some pa }
    | _, _ => s

/-- Writes the bytes of a store at a home: plain memory, a control window, or bytes that leave the device. None: it is held. -/
def writeHome (s : State) (who : Requester) (pa n v : Nat) : Option State :=
  if isWindow pa then windowBytes s (inHypervisor s who) who pa n v else some (storeBytesBy s who.part who.tag.toNat pa n v)

/-- A scalar store whose checks have passed. -/
def performStore (s : State) (i : CtxId) (k : Nat) (a : Access) (func : Nat) (data : Word) : State :=
  match a.pa with
  | none => s
  | some pa =>
    match firstTouch s i pa with
    | some e => touchWindow s i.core e a.who a.num
    | none => atBank s i k a pa false fun s1 =>
      let n := storeSize func
      match writeHome s1 a.who pa n (data.toNat % 2 ^ (8 * n)) with
      | none => s
      | some s2 =>
        let s3 := match lineOf pa with
          | some (c, l) => if func = 5 then setFull s2 c l else s2
          | none => s2
        dropAcc s3 i k

/-- The bytes that a block writes, as runs: the whole of it, or each run of adjacent active elements (R202). -/
def activeRuns (size : Nat) (m : BitVec 32) : List (Nat × Nat) :=
  if size < 128 || m == BitVec.allOnes 32 then [(0, size)]
  else (activeElems m).foldr (fun j l => match l with
    | (o, n) :: t => if o = 4 * j + 4 then (4 * j, n + 4) :: t else (4 * j, 4) :: (o, n) :: t
    | [] => [(4 * j, 4)]) []

/-- Writes the runs of a block at its home; none while one of them is held. -/
def writeRuns (who : Requester) (pa : Nat) (data : Vec) : List (Nat × Nat) → State → Option State
  | [], s => some s
  | (o, n) :: l, s =>
    match writeHome s who (pa + o) n (data.toNat / 2 ^ (8 * o) % 2 ^ (8 * n)) with
    | none => none
    | some s1 => writeRuns who pa data l s1

/-- A block store: one element of a `vscatter`, or the active elements of a line at one instant (R202, R291). -/
def performBlock (s : State) (i : CtxId) (k : Nat) (a : Access) (size : Nat) (m : BitVec 32) (data : Vec) (poison : Bool) : State :=
  match a.pa with
  | none => s
  | some pa =>
    match firstTouch s i pa with
    | some e => touchWindow s i.core e a.who a.num
    | none => atBank s i k a pa false fun s1 =>
      if poison && isPlain pa then dropAcc (storePoison s1 pa) i k
      else match writeRuns a.who pa data (activeRuns size m) s1 with
        | none => s
        | some s2 => dropAcc s2 i k
where
  storePoison (s : State) (pa : Nat) : State :=
    let v := data.toNat % 2 ^ (8 * size)
    writePoison (storeBytesBy s a.who.part a.who.tag.toNat pa size v) a.who.tag.toNat pa size v

/-! ### Kicks, launches and the other requests -/

/-- A kick reaches the kick register (R121): `copy` is held while the queue is full, `copy.st` (pos 1) is answered at once (R217).
The management cores, which no cluster of R1 holds, use service hart and translation cache 288 (DESIGN CHOICE: log entry 9). -/
def performKick (s : State) (i : CtxId) (k : Nat) (a : Access) : State :=
  match enterKick s (clusterOf i.core) a.who a.va with
  | none => if a.pos = 1 then dropAcc (modEntry s i a.num fun e => { e with value := 1 }) i k else s
  | some (s1, w) =>
    match drainWrites false a.who drainFuel s1 w with
    | none => s
    | some s2 => dropAcc (modEntry s2 i a.num fun e => { e with value := 0 }) i k

/-- Accesses that read for the same entry have all been performed. -/
def readsDone (s : State) (i : CtxId) (k : Nat) (a : Access) : Bool := ((s.ctx i).acc.take k).all fun b => b.num != a.num

/-- An entry that a failed read has left with a fault. -/
def entryFaulted (s : State) (i : CtxId) (num : Nat) : Bool := (entryAt s i num).any fun e => e.fault.isSome

/-- The value of the entry of access `k`, which is then done. -/
def answerAcc (s : State) (i : CtxId) (k : Nat) (a : Access) (v : Nat) : State :=
  dropAcc (modEntry s i a.num fun e => { e with value := v, acq := none }) i k

/-- What the reads of access `k` have given: held by itself once its entry is gone; none while they are not done, or where one of them
has faulted. -/
def operands (s : State) (i : CtxId) (k : Nat) (a : Access) {w : Type} (kept : Option w) (f : Nat → w) : Option w :=
  match kept with
  | some v => some v
  | none => if readsDone s i k a && !entryFaulted s i a.num then some (f (((entryAt s i a.num).map (·.value)).getD 0)) else none

/-- `launch` once its record has been read (R231). -/
def performLaunch (s : State) (i : CtxId) (k : Nat) (a : Access) (notify : Bool) (kept : Option (BitVec 512)) : State :=
  match operands s i k a kept (BitVec.ofNat 512) with
  | some r =>
    let (w, s1) := deviceLaunch s a.who r notify
    answerAcc s1 i k a w.toNat
  | none => if readsDone s i k a then dropAcc s i k else s

/-- `replay`: the graph's home scheduler reads the patch, and the request goes to it (R76, R233). A patch that cannot be read refuses the
replay with code 4 and raises no trap (R366); an empty line of it keeps the request waiting. -/
def performReplay (s : State) (i : CtxId) (k : Nat) (a : Access) (n : Nat) (va graph : Word) : State :=
  match readPatch (bump s) a.who.part a.who.sup va.toNat n with
  | .error .wait => s
  | .error .fault => answerAcc (bump s) i k a (2 ^ 63 + 4)
  | .ok patch =>
    dropAcc ((bump s).modPart a.who.part fun q => { q with
      replayReqs := q.replayReqs ++ [⟨graph, a.who.sup, patch, some (i.core, i.x, a.num), none⟩] }) i k

/-- The firing of a context with a tag. -/
def taggedFiring (k : Context) (tag : BitVec 32) : Option Firing := (firingsOf k).find? fun f => f.tag == tag

/-- `join` (R232): once every child has retired, and every earlier launch of the firing has been answered, the counts are returned and
reset. -/
def performJoin (s : State) (i : CtxId) (k : Nat) (a : Access) : State :=
  match taggedFiring (s.ctx i) a.who.tag with
  | none => answerAcc s i k a 0
  | some f =>
    let open_ := ((s.ctx i).acc.take k).any fun b => match b.kind with
      | .launchDo _ _ => b.who.tag == a.who.tag
      | _ => false
    if f.live != 0 || open_ then s
    else
      let v := packFields [(f.firstCause.toNat, 40), (f.bad % 2 ^ 16, 24), (f.joined % 2 ^ 24, 0)]
      answerAcc (modTagged s i a.who.tag fun g => { g with joined := 0, bad := 0, firstCause := 0 }) i k a v

/-- The clusters that an `xinv` covers. -/
def scopeClusters (s : State) (core : Nat) (p : Nat) : Scope → List Nat
  | .cluster => [clusterOf core]
  | .die => (List.range Config.clusters).filter fun cl => dieOfCluster cl == dieOf core
  | _ => (List.range Config.clusters).filter fun cl => (partClusters s p).any fun c => dieOfCluster c == dieOfCluster cl

/-- `xinv` (R175, R111): every walk and every check of this model is one step, so the removal completes it. -/
def performXinv (s : State) (i : CtxId) (k : Nat) (a : Access) (kind : Nat) (sc : Scope) (va : Word) : State :=
  let p := a.who.part
  let s1 :=
    if kind = 2 then s.modPart p fun q => { q with oldRanges := [] }
    else (scopeClusters s i.core p sc).foldl (fun (s : State) cl =>
      if (s.clusterAt cl).tcache.isEmpty then s
      else s.modCluster cl fun c => { c with
        tcache := c.tcache.filter fun e => !(e.part == p && (kind == 1 || e.covers p va.toNat)) }) s
  answerAcc s1 i k a 0

/-- `h.fill` once its lines have been read: the block is written (R289). -/
def performHfill (s : State) (i : CtxId) (k : Nat) (a : Access) (block : Nat) (kept : Option Nat) : State :=
  match operands s i k a kept id with
  | some v => answerAcc (writeMemBy s a.who.tag.toNat (hamperPa i.core (4096 * block)) 4096 (v % 2 ^ 32768)) i k a 0
  | none => if readsDone s i k a then dropAcc s i k else s

/-! ### Channels (R255, R257, R263) -/

/-- A read is assigned the next delivered record. -/
def performRead (s : State) (i : CtxId) (k : Nat) (a : Access) (ch : Nat) (two : Bool) : State :=
  let p := a.who.part
  if !readServed s p i.core ch a.who.tag then s
  else match headRecord s p ch with
    | .poison w => faultAcc s i k a 0x0F (BitVec.ofNat 64 (w - scratchPa i.core 0))
    | .record d =>
      let s1 := modEntry (consumeHead s p ch) i a.num fun e => { e with value := d % 2 ^ 1024, acq := none }
      dropAcc (if two then modEntry s1 i (a.num + 1) fun e => { e with value := d / 2 ^ 1024, acq := none } else s1) i k

/-- `dq.quiet`: one cork leaves every delta input, in one step. -/
def performQuiet (s : State) (i : CtxId) (k : Nat) (a : Access) : State :=
  if !quietReady s i then s
  else
    let ins := deltaInputs s i
    answerAcc (ins.foldl (fun (s : State) ch => consumeHead s a.who.part ch) s) i k a ins.length

/-- An actor firing has used up to n units of what it has set aside of an output. -/
def Actor.spend (a : Actor) (ch n : Nat) : Actor :=
  let m := if a.chans[2]? == some ch then Nat.min n a.out0 else 0
  { a with out0 := a.out0 - m, out1 := if a.chans[3]? == some ch then a.out1 - (n - m) else a.out1 }

/-- A shared ring grants a reservation, or it joins those that wait at the reader's unit (R248). Its slots come from what an actor firing has set
aside, as far as that goes (R87). -/
def performRes (s : State) (i : CtxId) (k : Nat) (a : Access) (ch n : Nat) : State :=
  let (rp, rc) := a.side
  let asks := (i, a.num)
  if resGranted s rp rc i a.who.tag a.num n then
    let (first, s1) := grantSlots s rp rc n i
    let s2 := modChan s1 rp rc fun c => { c with asking := c.asking.filter fun q => q != asks && stillAsks s q }
    answerAcc (modTagged s2 i a.who.tag fun f => { f with actor := f.actor.map fun r => r.spend ch n }) i k a (first * 2 ^ 32 + ch)
  else if (s.chanAt rp rc).asking.any (· == asks) then s
  else modChan s rp rc fun c => { c with asking := c.asking.filter (stillAsks s) ++ [asks] }

/-- A posted record or publish reaches the reader's unit, also after its grant was revoked (R251); one whose channel is no longer valid goes nowhere. -/
def performRecord (s : State) (i : CtxId) (k : Nat) (a : Access) (op : ChanOp) : State :=
  let (rp, rc) := a.side
  let c := s.chanAt rp rc
  if !cV c then dropAcc s i k
  else if cRtype c != 0 then s
  else match op with
    | .write d => match deliver s rp rc (d.toNat % 2 ^ (8 * cBytes c)) i.core with
      | (true, s1) => dropAcc s1 i k
      | (false, s1) => s1
    | .pub seq d => dropAcc (publish s rp rc seq (d.toNat % 2 ^ (8 * cBytes c))) i k
    | _ => s

/-- A posted emit or cork reaches the churn (R259, R260). -/
def performChurn (s : State) (i : CtxId) (k : Nat) (a : Access) (op : ChanOp) : State :=
  let (rp, rc) := a.side
  if !cV (s.chanAt rp rc) then dropAcc s i k
  else match op with
    | .emit d => dropAcc (churnRecord s rp rc d i.core) i k
    | .cork => dropAcc (churnCork s rp rc i.core) i k
    | _ => s

/-! ### Index operations (R264 to R267) -/

/-- Adds to the live count of an index. -/
def addLive (s : State) (p x : Nat) (n : Int) : State :=
  s.modPart p fun q =>
    let d := (getN x q.indexes).getD 0
    { q with indexes := putN x (withField d 63 32 (((ixLive d : Int) + n) % 2 ^ 32).toNat) q.indexes }

/-- A record as an index entry keeps it: key, length and payload, bytes at and beyond length 0, multiplicity 0 (R258, R266). -/
def ixFresh (r : BitVec 512) : BitVec 512 :=
  BitVec.ofNat 512 (packFields [(r.toNat / 2 ^ 128 % 2 ^ (8 * Nat.min (dqLength r) 48), 128), (dqLength r, 96), (fld r 63 0, 0)])

/-- `ix.upd` on a bucket (R266): the result, the new bucket's entry to write with its place, and the change of the live count. -/
def ixUpdate (es : List (BitVec 512)) (r : BitVec 512) : Nat × Option (Nat × BitVec 512) × Int :=
  let hit := (List.range 8).find? fun j => match es[j]? with
    | some e => ixUsed e && dqMatch e r
    | none => false
  let upd (j : Nat) (e : BitVec 512) (absent : Bool) : Nat × Option (Nat × BitVec 512) × Int :=
    let old := dqMult e
    let (new, ovf) := if bitAt e 113 then (old, true) else satAdd old (dqMult r)
    let e' := dqWith e new ovf
    (packFields [(boolNat absent, 34), (boolNat ovf, 33), (boolNat ((old == 0) != (new == 0)), 32), ((new % 2 ^ 32).toNat, 0)],
      some (j, e'), (boolNat (ixUsed e') : Int) - boolNat (ixUsed e))
  match hit with
  | some j => upd j (es[j]?.getD 0) false
  | none =>
    if fld r 95 64 = 0 then (0, none, 0)
    else match (List.range 8).find? fun j => (es[j]?).any fun e => !ixUsed e with
      | none => (2 ^ 40, none, 0)
      | some j => upd j (ixFresh r) true

/-- `ix.look` on a bucket. -/
def ixLookup (es : List (BitVec 512)) (r : BitVec 512) : Nat :=
  match es.find? fun e => ixUsed e && dqMatch e r with
  | some e => packFields [(boolNat (bitAt e 113), 33), (fld e 95 64, 0)]
  | none => 0

/-- The index and the bucket that an operation works on now. -/
def ixPlace (d : BitVec 512) : IndexOp → Nat
  | .upd r => ixBucket d (fld r 63 0)
  | .look r => ixBucket d (fld r 63 0)
  | .next b _ => b
  | .clear b => b
def ixNeed : IndexOp → Need
  | .upd _ | .clear _ => .both
  | _ => .read

/-- Access `k` goes on with another bucket. -/
def ixGoOn (s : State) (i : CtxId) (k : Nat) (a : Access) (x : Nat) (d : BitVec 512) (op : IndexOp) (b : Nat) : State :=
  setAcc s i k { a with kind := .index x op, va := BitVec.ofNat 64 (ixVa d b) }

/-- The index engine performs one operation on one bucket, indivisibly. -/
def performIndex (s : State) (i : CtxId) (k : Nat) (a : Access) (x : Nat) (op : IndexOp) : State :=
  let p := a.who.part
  let d := indexAt s p x
  let cur := ((entryAt s i a.num).map (·.value)).getD 0
  if !ixV d then answerAcc s i k a (match op with | .next _ _ => 0 | _ => 2 * 2 ^ 40)
  else
    let b := ixPlace d op
    let last := 2 ^ ixLb d
    let va := BitVec.ofNat 64 (ixVa d b)
    let ended : Option Nat := match op with
      | .next b _ => if b ≥ last then some ((2 ^ 64 - 1) * 2 ^ 512) else none
      | .clear b => if b ≥ last then some cur else none
      | _ => none
    match ended with
    | some v => answerAcc s i k a v
    | none =>
      match engineHome (bump s) p a.who.sup (ixVa d b) (ixNeed op) with
      | .error c => faultAcc s i k a c va
      | .ok pa =>
        if !isPlain pa then faultAcc s i k a 0x03 va
        else match poisonedIn s pa 512 with
          | some w => faultAcc s i k a 0x0F (poisonVa va pa w)
          | none =>
            let s0 := bump s
            let es := ixEntries (readMem s pa 512)
            match op with
            | .look r => answerAcc s0 i k a (ixLookup es r)
            | .upd r =>
              let (v, w, n) := ixUpdate es r
              let s1 := match w with
                | some (j, e) => addLive (storeBytes s0 p (pa + 64 * j) 64 e.toNat) p x n
                | none => s0
              answerAcc s1 i k a v
            | .next _ e =>
              match (List.range 8).find? fun j => e ≤ j && (es[j]?).any ixUsed with
              | some j =>
                let nb := if j = 7 then b + 1 else b
                let cursor := packFields [((j + 1) % 8, 32), (nb % 2 ^ 24, 8), (x, 0)]
                answerAcc s0 i k a ((es[j]?.getD 0).toNat + cursor * 2 ^ 512)
              | none => ixGoOn s0 i k a x d (.next (b + 1) 0) (b + 1)
            | .clear _ =>
              let n := (es.filter ixUsed).length
              let s1 := addLive (storeBytes s0 p pa 512 0) p x (-(n : Int))
              let s2 := modEntry s1 i a.num fun e => { e with value := e.value + n }
              ixGoOn s2 i k a x d (.clear (b + 1)) (b + 1)

/-! ### The steps -/

/-- A refused access is not sent again before 64 cycles have passed (R114). -/
def resendDue (s : State) (a : Access) : Bool := a.refused.all fun t => t + 64 ≤ s.now

/-- A step that needs access `k` of a context and its order. -/
def withAccess (s : State) (i : CtxId) (k : Nat) (f : Access → State) : State :=
  match (s.ctx i).acc[k]? with
  | none => s
  | some a => if mayPerform s i k a && resendDue s a then f a else s

/-- A home performs access `k` (R291): loads, stores, atomics, and the requests that wait for a condition (R235). -/
def performAccess (s : State) (i : CtxId) (k : Nat) : State :=
  withAccess s i k fun a => match a.kind with
    | .load n => performLoad s i k a n true
    | .vload m one => performVload s i k a m one
    | .peek => performLoad s i k a 8 false
    | .atomic op dbl opnd cmp => performAtomic s i k a op dbl opnd cmp
    | .store func data => performStore s i k a func data
    | .block n m data poison => performBlock s i k a n m data poison
    | .chan ch (.read two) => performRead s i k a ch two
    | .chan _ .quiet => performQuiet s i k a
    | .grpWait gid => match groupResult s a.who.part gid with
      | some v => answerAcc s i k a v.toNat
      | none => s
    | .grpFree gid => let (v, s1) := freeGroup s a.who.part gid; answerAcc s1 i k a v.toNat
    | .join => performJoin s i k a
    | .launchDo notify kept => performLaunch s i k a notify kept
    | .replayDo n va graph => performReplay s i k a n va graph
    | .lnstat pool h => answerAcc s i k a (launchStatus s a.who pool h).toNat
    | .hfillDo b kept => performHfill s i k a b kept
    | .xinv kind sc va => performXinv s i k a kind sc va
    | .slot n =>
      if bitAt (s.coreAt i.core).slotPoison n.val then faultAcc s i k a 0x0F a.va
      else answerAcc s i k a ((s.coreAt i.core).slots[n]).toNat
    | .fence => if releasedBefore s i a.num (a.rel.getD .core) allMsgs then dropAcc s i k else s
    | _ => s

/-- A kick of a context reaches the service hart. -/
def copyKick (s : State) (i : CtxId) (k : Nat) : State :=
  withAccess s i k fun a => match a.kind with
    | .kick => performKick s i k a
    | _ => s
/-- A record or publish of a context reaches the reader's unit. -/
def recordArrival (s : State) (i : CtxId) (k : Nat) : State :=
  withAccess s i k fun a => match a.kind with
    | .chan _ (.write d) => performRecord s i k a (.write d)
    | .chan _ (.pub q d) => performRecord s i k a (.pub q d)
    | _ => s
/-- A reservation of a context is granted. -/
def resArrival (s : State) (i : CtxId) (k : Nat) : State :=
  withAccess s i k fun a => match a.kind with
    | .chan ch (.res n) => performRes s i k a ch n
    | _ => s
/-- An emit, or a cork, of a context reaches the churn. -/
def emitArrival (s : State) (i : CtxId) (k : Nat) : State :=
  withAccess s i k fun a => match a.kind with
    | .chan _ (.emit d) => performChurn s i k a (.emit d)
    | _ => s
def corkArrival (s : State) (i : CtxId) (k : Nat) : State :=
  withAccess s i k fun a => match a.kind with
    | .chan _ .cork => performChurn s i k a .cork
    | _ => s
/-- The index engine performs an operation of a context. -/
def indexArrival (s : State) (i : CtxId) (k : Nat) : State :=
  withAccess s i k fun a => match a.kind with
    | .index x op => performIndex s i k a x op
    | _ => s
/-- A contribution is taken into its member's router, or dropped. -/
def redArrival (s : State) (i : CtxId) (k : Nat) : State :=
  withAccess s i k fun a => match a.kind with
    | .contribute gid i64 v => dropAcc (contribute s a.who.part gid i.core i64 v) i k
    | _ => s

/-- Whatever step access `k` waits for. -/
def anyAccess (s : State) (i : CtxId) (k : Nat) : State :=
  match (s.ctx i).acc[k]? with
  | none => s
  | some a => match a.kind with
    | .kick => copyKick s i k
    | .chan _ (.write _) | .chan _ (.pub _ _) => recordArrival s i k
    | .chan _ (.res _) => resArrival s i k
    | .chan _ (.emit _) => emitArrival s i k
    | .chan _ .cork => corkArrival s i k
    | .index _ _ => indexArrival s i k
    | .contribute _ _ _ => redArrival s i k
    | .store _ _ => if a.pa.isNone then checkStore s i k else performAccess s i k
    | _ => performAccess s i k

/-- Entry `k` of a context, the return buffer's before those set aside, returns once everything it waits for has been performed
(R97). -/
def returnEntry (s : State) (i : CtxId) (k : Nat) : State :=
  let c := s.ctx i
  match (c.rb ++ c.fir.aside)[k]? with
  | none => s
  | some e =>
    let waits := c.acc.any (fun a => a.feeds e.num) || (s.partAt (s.coreAt i.core).partition).replayReqs.any fun q => q.who == some (i.core, i.x, e.num)
    if e.state != .pending || waits then s
    else modEntry s i e.num fun e => { e with state := if e.fault.isSome then .faulted else .returned }

/-! ### Errors (R128, R335) -/

/-- The kind of a log entry (R129). -/
def errCode : ErrKind → Nat
  | .corrected => 1
  | .uncorrectable => 2
  | .parity => 3
  | .crcResent => 4
  | .crcAbandoned => 5

/-- The partition that an error is logged with (R129): its core's or cluster's; of a memory-side unit the one whose HBM share holds the address;
of a path that of the access's firing, whose tag names its core (R80), or of the address for an engine's. -/
def errorPart (s : State) (a : ErrArray) (address tag : Nat) : Nat :=
  match a with
  | .core c _ => (s.coreAt c).partition
  | .cluster cl => clusterPart s cl
  | .die _ n => if (1 ≤ n && n ≤ 24) || tag = 0 then homePart s address else (s.coreAt (tag / 2 ^ 19)).partition

/-- The error that an injection register has armed is applied: single bit, two bits, parity or CRC as types 1 to 4 (R130). -/
def disarm (s : State) (e : ErrorReport) : State :=
  let l := getLog s e.array
  if bitAt l.inject 0 && fld l.inject 3 1 == errCode e.kind && fld l.inject 63 14 == e.address % 2 ^ 50 then
    setLog s e.array { l with inject := withField l.inject 0 0 0 }
  else s

/-- Parity of a context's registers, return buffer or FIFOs: cause 0x0F is due at its next boundary (R335). -/
def parityDue (s : State) (c : Nat) (x : Ctx) : State := s.modCtx ⟨c, x⟩ fun k => { k with parity := true }

/-- Parity in a register file of a core: a frozen member's gang thaws first, the fault its own (R280). -/
def parityError (s : State) (c : Nat) (x : Ctx) : State :=
  parityDue (if (s.coreAt c).cell.isSome then thawGang s c (.fault 2 [c]) else s) c x

/-- A pulse-lane flit with a parity error arrives and is discarded: the first on its way, or the last that has arrived (R280). -/
def discardFlit (k : Context) (d : Dir) : Context :=
  let p := portAt k d
  setPort k d (match p.fly with
    | _ :: l => { p with fly := l }
    | [] => { p with q := p.q.dropLast })

/-- What an uncorrectable or a parity error does to what it hits (R128, R335): poisoned, dropped, or made undefined. -/
def hitTarget (s1 : State) (kind : Nat) (target : ErrTarget) : State :=
  let (fr, s2) := s1.nextFresh
  let w := Config.parityWord fr
  match target with
  | .memory pa => { s1 with poison := insNat (protBase pa) s1.poison }
  | .xreg c x r => parityError (s2.modFir ⟨c, x⟩ fun f => f.writeX r (w.setWidth 64)) c x
  | .vreg c x r => parityError (s2.modFir ⟨c, x⟩ fun f => f.writeV r w) c x
  | .mreg c x r => parityError (s2.modFir ⟨c, x⟩ fun f => f.writeM r (w.setWidth 64)) c x
  | .buffer c x => parityDue (s2.modCtx ⟨c, x⟩ fun k => match k.rb with
      | [] => k
      | b :: l => { k with rb := { b with value := w.toNat } :: l }) c x
  | .fifo c x d => parityDue (s2.modCtx ⟨c, x⟩ fun k => match (portAt k d).q with
      | [] => k
      | f :: l => setPort k d { portAt k d with q := { f with bits := w } :: l }) c x
  | .cell c => thawGang s1 c (.fault (if kind = 3 then 2 else 1) [c])
  | .pulse c d => match (s1.coreAt c).cell with
    | some cell => thawGang (s1.modCtx ⟨c, cell.x⟩ fun k => discardFlit k d) c (.fault 3 [c])
    | none => s1
  | .tcache cl k => s1.modCluster cl fun c => { c with tcache := delAt k c.tcache }
  | .path => s1

/-- A register, a return buffer or a port FIFO of a core, as a free value chooses it. -/
def strikeTarget (n k : Nat) : ErrTarget :=
  let x : Ctx := if k % 2 = 0 then .n else .u
  let j := k / 2 % 77
  if j < 32 then .xreg n x (Fin.ofNat 32 j)
  else if j < 60 then .vreg n x (Fin.ofNat 28 (j - 32))
  else if j < 68 then .mreg n x (Fin.ofNat 8 (j - 60))
  else if j < 73 then .buffer n x
  else .fifo n x ([Dir.north, .east, .south, .west][j - 73]?.getD .north)

/-- The error armed in a core's injection register for its register files, return buffers and port FIFOs is applied to a write there (R130): a
flipped bit is a parity error; a CRC error has nothing to strike. When the target is written, and which target the register means, are free
values (log entry 38). -/
def strikeCore (s : State) (n : Nat) : State :=
  let l := getLog s (.core n 2)
  let type := fld l.inject 3 1
  if !bitAt l.inject 0 || !Config.strikes s.fresh || type = 0 || 4 < type then s
  else
    let (fr, s1) := (setLog s (.core n 2) { l with inject := withField l.inject 0 0 0 }).nextFresh
    if type = 4 then s1
    else
      let target := strikeTarget n (Config.strikeAt fr)
      let x : Ctx := if Config.strikeAt fr % 2 = 0 then .n else .u
      let k := s.ctx ⟨n, x⟩
      hitTarget (logError s1 (.core n 2) 3 (fld l.inject 63 14) (if k.running then k.fir.tag.toNat else 0) (s.coreAt n).partition) 3 target

/-- A path error armed on a die strikes a flit of its engines, which the steps of schedulers, index and spill units send: while one of them has
work, whether such a flit is the next is a free value (R130; log entry 38). -/
def strikeEngines (s : State) (d : Nat) : State :=
  let q := s.dieAt d
  let busy := !q.queue.isEmpty || !q.arriving.isEmpty || !q.groups.isEmpty || q.churn.any fun c => !c.2.isEmpty
  if busy && Config.strikes s.fresh then [0, 25, 26].foldl (fun (s : State) a => strikePath s (.die d a) 0 q.turn) s else s

/-- An error as the hardware reports it: it is logged with the tag of the access, and what it hits is corrected, poisoned, dropped or made
undefined. -/
def errorDetected (s : State) (e : ErrorReport) : State :=
  let kind := errCode e.kind
  let s1 := logError (disarm s e) e.array kind e.address e.tag.toNat (errorPart s e.array e.address e.tag.toNat)
  if kind == 2 || kind == 3 then hitTarget s1 kind e.target else s1

end Sys2Proof.Machine
end

