-- ==== Sys2Proof/Machine/Operands.lean ====
section
/-!
DEFINITION. Operand forms (R44 to R48, R180 to R184): immediates and offsets, registers and ports as sources, lanes, active lanes, and
how a vector or mask result is put together.
-/
namespace Sys2Proof.Machine

/-! ### Immediates (R45) -/

/-- The immediate of format I. -/
def immVal : Imm → Word
  | .short v => v.signExtend 64
  | .lit v => v
/-- The offset of a scalar format M instruction. -/
def offVal : Off → Word
  | .short v => v.signExtend 64
  | .lit v => v
/-- The offset of a vector memory instruction: imm10 counts 128-byte lines, a literal counts bytes (R199). -/
def voffVal : Off → Word
  | .short v => v.signExtend 64 * 128
  | .lit v => v

/-! ### Sources (R46, R47, R48) -/

/-- The ports that a list of source fields names, in the order in which their flits are consumed. -/
def portsOf (l : List (Fin 32)) : List Dir := l.filterMap portDir

/-- Reads a scalar source: a register, or the low 64 bits of the head flit of a port, which is consumed whole. -/
def takeX (s : State) (i : CtxId) (r : Reg) : Word × State :=
  match portDir r with
  | some d => (((portHead (s.ctx i) d).map fun f => f.bits.setWidth 64).getD 0, popPort s i d)
  | none => ((s.fir i).readX r, s)

/-- Reads a vector source: a register, or the head flit of a port, a 64-bit one zero-extended. -/
def takeV (s : State) (i : CtxId) (r : VReg) : Vec × State :=
  match portDir r with
  | some d => (((portHead (s.ctx i) d).map (·.bits)).getD 0, popPort s i d)
  | none => ((s.fir i).readV r, s)

/-- A scalar source without consuming it: what a check before issue sees. -/
def peekX (s : State) (i : CtxId) (r : Reg) : Word := (takeX s i r).1

/-- Register number `r + k`. -/
def regPlus (r : Fin 32) (k : Nat) : Fin 32 := Fin.ofNat 32 (r.val + k)

/-- Bytes of a run of scalar registers, little-endian: `n` registers from `r`. -/
def regsNat (f : Firing) (r : Reg) (n : Nat) : Nat :=
  (List.range n).foldr (fun k acc => (f.readX (regPlus r k)).toNat + 2 ^ 64 * acc) 0

/-! ### Lanes (R180, R181) -/

def fLane : FFmt → Nat
  | .f32 => 32
  | .bf16 => 16
def iLane : IFmt → Nat
  | .i32 => 32
  | .i16 => 16
  | .i8 => 8
def vLane : VFmt → Nat
  | .f32 | .i32 => 32
  | .bf16 | .i16 => 16
  | .i8 => 8
/-- Lanes of w bits in a vector. -/
def laneCount (w : Nat) : Nat := 1024 / w
/-- The mask bit that governs lane i of w bits: bit i, and bit i >> 1 for 8-bit lanes (R133). -/
def laneBit (w i : Nat) : Nat := if w = 8 then i / 2 else i
/-- A governing mask: field 0 makes every lane active (R44). -/
def maskBits (f : Firing) (m : MReg) : Word := if m.val = 0 then BitVec.allOnes 64 else f.readM m
/-- Lane i of w bits is active. -/
def laneActive (f : Firing) (m : MReg) (w i : Nat) : Bool := bitAt (maskBits f m) (laneBit w i)

/-- The mask of an instruction whose extension word may be absent. -/
def mextMask : Option MExt → MReg
  | some e => e.m
  | none => 0
def mextZero : Option MExt → Bool
  | some e => e.mz
  | none => false
def rextMask : Option RExt → MReg
  | some e => e.m
  | none => 0
def rextZero : Option RExt → Bool
  | some e => e.mz
  | none => false
/-- RNE in the one-word form (R43). -/
def rextRm : Option RExt → RM
  | some e => e.rm
  | none => .rne

/-- The old value of a vector destination: a port has none (R182). -/
def oldVec (s : State) (i : CtxId) (d : VReg) : Vec := if (portDir d).isSome then 0 else (s.fir i).readV d

/-- A complete result of w-bit lanes (R182): inactive lanes are zero or keep the old value. -/
def mergeLanes (w : Nat) (act : Nat → Bool) (mz : Bool) (old : Vec) (f : Nat → Nat) : Vec :=
  packLanes w ((List.range (laneCount w)).map fun j => if act j then f j else if mz then 0 else laneN w old j)

/-- Bit j of a mask result over lanes of w bits (R183): lane j, or lanes 2j and 2j + 1 of 8-bit lanes. -/
def maskLane (w : Nat) (f : Nat → Bool) (j : Nat) : Bool :=
  if w = 8 then f (2 * j) && f (2 * j + 1) else if j < laneCount w then f j else false

/-- A complete mask result (R183). A bit that stands for no lane is 0; inactive lanes are 0 or keep the old bit. -/
def maskResult (w : Nat) (act : Nat → Bool) (mz : Bool) (old : Word) (f : Nat → Bool) : Word :=
  BitVec.ofNat 64 ((List.range 64).foldr (fun j acc =>
    boolNat (if laneCount w ≤ j then false
      else if act (if w = 8 then 2 * j else j) then maskLane w f j else !mz && bitAt old j) + 2 * acc) 0)

end Sys2Proof.Machine
end

