-- ==== Sys2Proof/Machine/Flags.lean ====
section
/-!
DEFINITION. The floating control register and its flags (R139), rounding modes and flush bits (R141, R185), and the peak register (R145
to R147).
-/
namespace Sys2Proof.Machine

/-- The rounding mode in force: rm, or frm when rm is dynamic (R139). -/
def modeOf (fpctl : BitVec 13) : RM → RM
  | .dyn => match fld fpctl 1 0 with
    | 0 => .rne
    | 1 => .rtz
    | 2 => .rdn
    | _ => .rup
  | rm => rm

/-- Operand and result flush of a format: FP32 in [3:2], BF16 in [5:4], FP16 in [7:6] (R139). -/
def dazOf (fpctl : BitVec 13) (f : FpFmt) : Bool := bitAt fpctl (if f = fp32 then 2 else if f = fpBf16 then 4 else 6)
def ftzOf (fpctl : BitVec 13) (f : FpFmt) : Bool := bitAt fpctl (if f = fp32 then 3 else if f = fpBf16 then 5 else 7)

/-- How an operation of format `f` rounds under fpctl (R141). -/
def envOf (fpctl : BitVec 13) (f : FpFmt) (rm : RM) : FpEnv := ⟨modeOf fpctl rm, dazOf fpctl f, ftzOf fpctl f⟩

/-- A conversion from `src` to `dst`: the operand flush of the one and the result flush of the other (R141); a widening conversion takes
no result flush (R142). -/
def convEnv (fpctl : BitVec 13) (src dst : FpFmt) (rm : RM) : FpEnv :=
  ⟨modeOf fpctl rm, dazOf fpctl src, dst.mb ≤ src.mb && ftzOf fpctl dst⟩

/-- Sets sticky flags (R139). -/
def orFlags (fpctl : BitVec 13) (fl : Flags) : BitVec 13 := fpctl ||| (fl.setWidth 13 <<< 8)
def addFlags (s : State) (i : CtxId) (fl : Flags) : State := s.modCtx i fun k => { k with fpctl := orFlags k.fpctl fl }

/-- The scalar and vector formats. -/
def fpOf : FFmt → FpFmt
  | .f32 => fp32
  | .bf16 => fpBf16

/-- Updates peak from source elements (R146). -/
def addPeak (s : State) (i : CtxId) (l : List FVal) : State := s.modCtx i fun k => { k with peak := l.foldl peakOf k.peak }

end Sys2Proof.Machine
end

