-- ==== Sys2Proof/Machine/Issue.lean ====
section
/-!
DEFINITION. The instruction boundary: what an instruction waits for and what it traps on before it issues (R48, R55, R88, R98 to R103,
R207, R319, R324), in one operation that every instruction's meaning goes through; and the fetch (R40).
-/
namespace Sys2Proof.Machine

/-! ### What an instruction asks before it issues -/

/-- What is peculiar to an instruction at its boundary. Registers are named by their fields. -/
structure Plan where
  /-- source fields in the order a, b, c, d in which their port flits are consumed (R48) -/
  reads : List (Fin 32) := []
  /-- destination fields -/
  writes : List (Fin 32) := []
  /-- return-buffer entries it takes (R97) -/
  entries : State → CtxId → Nat := fun _ _ => 0
  /-- behaves as marked whatever its w bit (R98, R228, R271) -/
  lands : Bool := false
  /-- waits for every store check and takes a store-fault trap (R214, R227, R271) -/
  drains : Bool := false
  /-- a `done` in a handler takes no store-fault trap (R322) -/
  spares : State → CtxId → Bool := fun _ _ => false
  /-- illegal in this mode (R170, R173) -/
  illegal : State → CtxId → Bool := fun _ _ => false
  /-- its own synchronous fault: cause and tval -/
  fault : State → CtxId → Option (Word × Word) := fun _ _ => none
  /-- homes of the accesses it issues, which an earlier `ld.acq` may hold (R207) -/
  homes : State → CtxId → List Nat := fun _ _ => []
  /-- another wait: its reason, and the channel it waits for -/
  wait : State → CtxId → Option (Nat × Option Nat) := fun _ _ => none

/-- Bytes of an instruction. -/
def byteLen (ins : Instr) : Nat := 4 * (encode ins).length
/-- Word 0 of an instruction. -/
def word0Of (ins : Instr) : Word := BitVec.ofNat 64 ((encode ins).headD 0)
/-- The switch marker (R98): bit w of word 0. -/
def marked (ins : Instr) : Bool := bitAt (word0Of ins) 2

/-! ### Addresses and checks -/

/-- The effective address of a scalar memory instruction (R205). -/
def eaOf (s : State) (i : CtxId) (a : Reg) (off : Word) : Word := peekX s i a + off

/-- The stack check of R101 on `n` bytes. -/
def inStack (k : Context) (ea : Word) (n : Nat) : Bool := k.stkbase.toNat ≤ ea.toNat && ea.toNat + n ≤ k.stklim.toNat

/-- Misalignment, then the stack check, of an access of `n` bytes through base field `a` (R101, R206, R208, R212). -/
def memFault (s : State) (i : CtxId) (a : Reg) (ea : Word) (n : Nat) : Option (Word × Word) :=
  if ea.toNat % n != 0 then some (0x02, ea)
  else if a.val = 2 && !inStack (s.ctx i) ea n then some (0x06, ea)
  else none

/-- The home of an access of the running firing, if it has one. -/
def homesOf (s : State) (i : CtxId) (n : Need) (l : List Word) : List Nat :=
  l.filterMap fun va => match homeOf s (requester s i) va.toNat n with
    | .ok pa => some pa
    | .error _ => none

/-- The cause of the failing check of a vector store or spill: the lowest failing address and its inner cause (R202). -/
def storeCheck (s : State) (i : CtxId) (l : List Word) : Option (Word × Word) :=
  let bad := l.filterMap fun va => match homeOf s (requester s i) va.toNat .write with
    | .ok _ => none
    | .error c => some (va, c)
  let low := bad.foldl (fun (b : Option (Word × Nat)) q => match b with
    | none => some q
    | some r => if q.1.toNat < r.1.toNat then some q else some r) none
  low.map fun q => (BitVec.ofNat 64 (packFields [(1, 16), (q.2, 8), (0x05, 0)]), q.1)

/-- The lowest of some addresses. -/
def lowest (l : List Word) : Option Word :=
  l.foldl (fun (b : Option Word) a => match b with
    | none => some a
    | some r => if a.toNat < r.toNat then some a else some r) none

/-- Active 4-byte elements of a vector memory instruction: element number and address (R200). -/
def elemsAt (f : Firing) (m : MReg) (adr : Nat → Word) : List (Nat × Word) :=
  ((List.range 32).filter fun j => bitAt (maskBits f m) j).map fun j => (j, adr j)
/-- Addresses of a `vld` or `vst`. -/
def lineAdr (ea : Word) (j : Nat) : Word := ea + BitVec.ofNat 64 (4 * j)
/-- Addresses of a `vgather` or `vscatter` (R199). -/
def laneAdr (f : Firing) (ea : Word) (j : Nat) : Word := ea + (f.lat.extractLsb' (32 * j) 32).signExtend 64

/-- The mask as the elements of a 128-byte block. -/
def elemMask (f : Firing) (m : MReg) : BitVec 32 := (maskBits f m).setWidth 32

/-- Alignment and stack checks of a vector memory instruction (R200): `block` for the 128-byte forms. A stack trap's tval is ea (R101). -/
def vecFault (s : State) (i : CtxId) (a : Reg) (ea : Word) (block : Bool) (els : List (Nat × Word)) : Option (Word × Word) :=
  let mis := if block then (if ea.toNat % 128 != 0 then some ea else none) else lowest ((els.filter fun q => q.2.toNat % 4 != 0).map (·.2))
  match mis with
  | some va => some (0x02, va)
  | none =>
    if a.val = 2 && els.any (fun q => !inStack (s.ctx i) q.2 4) then some (0x06, ea) else none

/-- User mode. -/
def userMode (s : State) (i : CtxId) : Bool := !(s.fir i).sup

/-- Accumulator ownership (R286): cause 0x09 when another firing owns it. -/
def ownerFault (s : State) (i : CtxId) : Option (Word × Word) :=
  let o := (s.coreAt i.core).accowner
  if o != 0 && o != (s.fir i).tag then some (0x09, o.setWidth 64) else none
/-- The supervisor skips the check, but for `acc.tag` and `gang`. -/
def accFault (s : State) (i : CtxId) : Option (Word × Word) := if userMode s i then ownerFault s i else none

/-! ### Channel operands (R239, R252) -/

/-- The role a channel instruction needs. -/
inductive ChRole where
  | writer | reader | either
  deriving DecidableEq, Repr

/-- The channel an operand names, in the firing's partition. -/
def chanOf (s : State) (i : CtxId) (v : Word) : Chan := s.chanAt (s.coreAt i.core).partition (fld v 11 0)

/-- Misuse of a channel operand: `high` allows a slot in [63:32], `kmax k` the classes and record sizes accepted. -/
def chanBad (s : State) (i : CtxId) (v : Word) (role : ChRole) (accepts : Nat → Nat → Bool) (opened high : Bool) : Bool :=
  let c := chanOf s i v
  fld v 31 12 != 0 || (!high && fld v 63 32 != 0)
    || !(match role with
      | .writer => isWriter c i.core
      | .reader => isReader c i.core
      | .either => isWriter c i.core || isReader c i.core)
    || !accepts (cClass c) (cK c) || (opened && !hasNat (s.fir i).opened (fld v 11 0))

/-- Cause 0x0B with tval x[a]. -/
def misuse (b : Bool) (v : Word) : Option (Word × Word) := if b then some (0x0B, v) else none

/-- Which declared slot of an actor firing still holds a reservation for a channel: 0 in0, 1 in1, 2 out0, 3 out1 (R87, R244). The
channels are those of the entry as it was when the firing was queued (R82). -/
def actorSlot (s : State) (i : CtxId) (ch : Nat) (out : Bool) : Option Nat :=
  match (s.fir i).actor with
  | none => none
  | some a =>
    let left := [a.in0, a.in1, a.out0, a.out1]
    (if out then [2, 3] else [0, 1]).find? fun j =>
      match a.chans[j]?, left[j]? with
      | some c, some r => c == ch && r != 0
      | _, _ => false

/-- Uses one unit of a reservation. -/
def useSlot (s : State) (i : CtxId) (ch : Nat) (out : Bool) : State :=
  match actorSlot s i ch out with
  | none => s
  | some j => s.modFir i fun f => { f with actor := f.actor.map fun a =>
      match j with
      | 0 => { a with in0 := a.in0 - 1 }
      | 1 => { a with in1 := a.in1 - 1 }
      | 2 => { a with out0 := a.out0 - 1 }
      | _ => { a with out1 := a.out1 - 1 } }

/-- A write at the bound (R243), what other firings have set aside of it counted (R87), or behind an unacknowledged cork (R260), waits with reason
0x4. For the cork a write within an actor's own reservation waits too, though R87 and R244 have it not park for room: they and R260 do not say
which holds (DESIGN CHOICE, notes/assumptions/24.md). -/
def boundWait (s : State) (i : CtxId) (ch : Nat) : Option (Nat × Option Nat) :=
  let p := (s.coreAt i.core).partition
  let c := s.chanAt p ch
  if cMulti c && hasNat c.unacked i.core then some (0x4, some ch)
  else if (actorSlot s i ch true).isNone && cLimit c ≤ cOcc c i.core + setAsideOn s i.core ch true (some (s.fir i).tag) then some (0x4, some ch)
  else none

/-- Where a record is accepted: the reader's core, or the memory of the churn's die, both on the reader's side (R251). -/
def recordHome (s : State) (i : CtxId) (ch : Nat) : List Nat :=
  let q := readerSide s (s.coreAt i.core).partition ch
  let c := s.chanAt q.1 q.2
  if cClass c = 2 then [cHdie c * 2 * Config.stackBytes] else [scratchPa (cRcore c) 0]

/-! ### Messages (R218, R219) -/

/-- The destination of `send` or `sendv`: device and core, or the tval of cause 0x0E. -/
def sendDest (s : State) (i : CtxId) (b : Reg) (xb : Word) (dx dy : BitVec 8) : Except Word (Nat × Nat) :=
  let p := (s.coreAt i.core).partition
  if b.val = 0 then
    match coreAtOffset i.core dx.toInt dy.toInt with
    | some n => if coreIn s p n then .ok (deviceNum s, n) else .error ((dy ++ dx).signExtend 64)
    | none => .error ((dy ++ dx).signExtend 64)
  else
    let n := fld xb 12 0
    let dev := fld xb 24 13
    if dev = deviceNum s then (if coreIn s p n then .ok (dev, n) else .error xb)
    else if n < Config.cores && granted s p (peerBase + dev * 0x1000000000) .write true then .ok (dev, n) else .error xb

def destFault (r : Except Word (Nat × Nat)) : Option (Word × Word) :=
  match r with
  | .error v => some (0x0E, v)
  | .ok _ => none
def destHome (s : State) (r : Except Word (Nat × Nat)) : List Nat :=
  match r with
  | .ok (dev, n) => if dev = deviceNum s then [scratchPa n 0] else [peerBase + dev * 0x1000000000]
  | .error _ => []
/-- A ninth message waits (R219). -/
def slotWait (s : State) (i : CtxId) : Option (Nat × Option Nat) := if (s.ctx i).inj.length < 8 then none else some (0x2, none)

/-! ### Loops and fences -/

/-- A word that can be fetched: its instruction's length is that of word 0's len field (R41). -/
def fetchWord (s : State) (n : Nat) (a : Nat) : Nat := readMem s (scratchPa n a) 4

/-- Why word `a` cannot be fetched (R40, R335): its cause and tval. -/
def fetchFault (s : State) (n a : Nat) : Option (Word × Word) :=
  if a ≥ scratchBytes then some (0x03, BitVec.ofNat 64 a)
  else if (poisonedIn s (scratchPa n a) 4).isSome then some (0x0F, BitVec.ofNat 64 a)
  else none

/-- The distance of a loop's last instruction, and its count. -/
def loopEnd (pc : Word) (dist : BitVec 13) : Word := pc + BitVec.ofNat 64 (4 * dist.toNat)

/-- The faults of a loop instruction (R161). -/
def loopFault (s : State) (i : CtxId) (dist : BitVec 13) (n : Nat) : Option (Word × Word) :=
  let f := s.fir i
  let at_ (l : Loop) : Bool := l.act && l.stop.toNat == f.pc.toNat / 4
  if at_ f.inner || at_ f.outer then some (0x0D, 0)
  else if n = 0 then fetchFault s i.core (loopEnd f.pc dist).toNat
  else if f.inner.act && f.outer.act then some (0x0D, 0)
  else none

/-- A place operand of `grp.arm` (R8, R221): cause 0x0E when the root lies outside the mesh or the partition. -/
def placeFault (s : State) (i : CtxId) (dx dy : BitVec 8) : Option (Word × Word) :=
  match coreAtOffset i.core dx.toInt dy.toInt with
  | some n => if coreIn s (s.coreAt i.core).partition n then none else some (0x0E, (dy ++ dx).signExtend 64)
  | none => some (0x0E, (dy ++ dx).signExtend 64)

/-- A load or an atomic (R213). -/
def AccKind.isRead : AccKind → Bool
  | .load _ | .vload _ _ | .peek | .atomic _ _ _ _ => true
  | _ => false

/-- Accesses that a fence waits for: those before it whose homes lie within its scope. -/
def fenceWait (s : State) (i : CtxId) (kind : FenceKind) (sc : Scope) : Option (Nat × Option Nat) :=
  let k := s.ctx i
  let inside (a : Access) : Bool := accInScope s sc i a || (a.kind.isMemory && (accHome s a).isNone)
  let counts (a : Access) : Bool := a.kind.isMemory && inside a && match kind with
    | .acq => a.kind.isRead
    | .full => true
    | .rel => false
  let recs := match kind with
    | .full => k.acc.any (fun a => a.kind.isRecord && recordInScope s sc i a) || k.inj.any (messageInScope s sc i)
    | _ => false
  if !(k.acc.any counts) && !recs then none
  else if k.acc.any fun a => counts a && k.rb.any fun e => a.feeds e.num then some (0x1, none) else some (0x3, none)

/-! ### Plans -/

def one : State → CtxId → Nat := fun _ _ => 1

/-- A load of `n` bytes (R206). -/
def loadPlan (a : Reg) (off : Word) (n : Nat) : Plan where
  reads := [a]
  entries := one
  fault := fun s i => memFault s i a (eaOf s i a off) n
  homes := fun s i => homesOf s i .read [eaOf s i a off]

/-- A store of `n` bytes (R208). -/
def storePlan (d a : Reg) (off : Word) (n : Nat) : Plan where
  reads := [a, d]
  fault := fun s i => memFault s i a (eaOf s i a off) n
  homes := fun s i => homesOf s i .write [eaOf s i a off]

/-- An atomic (R210, R212). -/
def amoPlan (d a b : Reg) (n : Nat) : Plan where
  reads := [a, b, d]
  entries := one
  fault := fun s i => memFault s i a (peekX s i a) n
  homes := fun s i => homesOf s i .both [peekX s i a]

/-- Sources and a destination, nothing else. -/
def regPlan (reads writes : List (Fin 32)) : Plan where
  reads := reads
  writes := writes
/-- Sources and an outstanding result. -/
def outPlan (reads : List (Fin 32)) : Plan where
  reads := reads
  entries := one

/-- A vector load (R200, R201); `block` for `vld`. -/
def vloadPlan (a : Reg) (off : Word) (m : MReg) (block : Bool) (adr : Firing → Word → Nat → Word) : Plan where
  reads := [a]
  entries := one
  fault := fun s i => vecFault s i a (eaOf s i a off) block (elemsAt (s.fir i) m (adr (s.fir i) (eaOf s i a off)))
  homes := fun s i => homesOf s i .read ((elemsAt (s.fir i) m (adr (s.fir i) (eaOf s i a off))).map (·.2))

/-- A vector store: its own failing check comes last (R202). -/
def vstorePlan (d a : Reg) (off : Word) (m : MReg) (block : Bool) (adr : Firing → Word → Nat → Word) : Plan where
  reads := [a, d]
  fault := fun s i =>
    let els := elemsAt (s.fir i) m (adr (s.fir i) (eaOf s i a off))
    (vecFault s i a (eaOf s i a off) block els).or (storeCheck s i (els.map (·.2)))
  homes := fun s i => homesOf s i .write ((elemsAt (s.fir i) m (adr (s.fir i) (eaOf s i a off))).map (·.2))

/-- Own-scratchpad lines (R215): any other address raises cause 0x03. -/
def linePlan (a : Reg) (n : Nat) (writes : List Reg) : Plan where
  reads := [a]
  writes := writes
  fault := fun s i =>
    let v := peekX s i a
    if v.toNat ≥ scratchBytes || v.toNat / 128 + n > 768 then some (0x03, v) else none

/-- A kick (R217). -/
def kickPlan (a : Reg) (entries : Nat) : Plan where
  reads := [a]
  entries := fun _ _ => entries
  fault := fun s i => let v := peekX s i a; if v.toNat % 64 != 0 then some (0x02, v) else none
  homes := fun _ i => [hartWinBase + clusterOf i.core * 0x10000]

/-- A channel operand in x[a], and one more condition of misuse. -/
def chanPlan (a : Reg) (reads writes : List (Fin 32)) (role : ChRole) (accepts : Nat → Nat → Bool) (opened high : Bool)
    (more : State → CtxId → Word → Bool) : Plan where
  reads := a :: reads
  writes := writes
  fault := fun s i =>
    let v := peekX s i a
    misuse (chanBad s i v role accepts opened high || more s i v) v

def noMore (_ : State) (_ : CtxId) (_ : Word) : Bool := false
/-- Plain channels with k up to a limit; plain and shared ones; delta queues. -/
def plainTo (kmax : Nat) (cls k : Nat) : Bool := cls == 0 && k ≤ kmax
def readTo (kmax : Nat) (cls k : Nat) : Bool := cls ≤ 1 && k ≤ kmax
def deltaOnly (cls _ : Nat) : Bool := cls == 2
def anyClass (_ _ : Nat) : Bool := true

/-- Registers d and following hold a record of 8·2^k bytes (R254): one register may be any, more lie in x1 to x27. -/
def dataRegsBad (d : Reg) (k : Nat) : Bool := k != 0 && !(1 ≤ d.val && d.val + 2 ^ k - 1 ≤ 27)
/-- A 256-byte record takes v[d] and v[d+1], d in v0 to v18. -/
def dataVecBad (d : VReg) (k : Nat) : Bool := k == 5 && !(8 ≤ d.val && d.val ≤ 26)

/-- A record's write: it waits at the bound (R243). -/
def recordPlan (p : Plan) (a : Reg) : Plan :=
  { p with
    wait := fun s i => boundWait s i (fld (peekX s i a) 11 0)
    homes := fun s i => recordHome s i (fld (peekX s i a) 11 0) }

/-- A record that `dq.emit` refuses (R262). -/
def emitBad (s : State) (i : CtxId) (a : Reg) (d : VReg) : Bool :=
  let (_, s1) := takeX s i a
  let r := (takeV s1 i d).1
  fld r 111 96 > 48 || fld r 95 64 == 0x80000000

/-- The bucket an index operation goes to (R264). -/
def indexHome (s : State) (i : CtxId) (x b : Nat) (n : Need) : List Nat :=
  let p := (s.coreAt i.core).partition
  match engineHome s p (s.fir i).sup (ixVa (indexAt s p x) b) n with
  | .ok pa => [pa]
  | .error _ => []
/-- `ix.upd` and `ix.look` (R265). -/
def keyPlan (d : Reg) (a : VReg) (n : Need) : Plan where
  reads := [a, d]
  entries := one
  fault := fun s i => let v := (s.fir i).readX d; if fld v 63 8 != 0 then some (0x0B, v) else none
  homes := fun s i =>
    let x := fld ((s.fir i).readX d) 7 0
    indexHome s i x (ixBucket (indexAt s (s.coreAt i.core).partition x) (fld (takeV s i a).1 63 0)) n

/-- A hamper address of 256 bytes (R289). -/
def hamperPlan (a : Reg) (reads : List (Fin 32)) (entries : Nat) : Plan where
  reads := a :: reads
  entries := fun _ _ => entries
  fault := fun s i =>
    let v := peekX s i a
    if v.toNat % 256 != 0 then some (0x02, v) else if v.toNat < 0x100000 || v.toNat ≥ 0x200000 then some (0x03, v) else none
  homes := fun s i => homesOf s i .read [peekX s i a]

/-- Blocks of `acc.spill` and `acc.fill`. -/
def slotAdrs (ea : Word) : List Word := (List.range 64).map fun sl => ea + BitVec.ofNat 64 (128 * sl)

/-- What an instruction asks at its boundary. -/
def planOf : Instr → Plan
  | .nop _ | .trap _ | .bkpt _ => {}
  | .eret _ => { illegal := userMode }
  | .getc o => { writes := [o.d], illegal := fun s i => !cregReadable s i.core (s.fir i).sup o.creg.toNat }
  | .setc o => { reads := [o.a], illegal := fun s i => !cregWritable s i.core (s.fir i).sup o.creg.toNat }
  | .park o =>
    { reads := [o.a], writes := [o.d]
      fault := fun s i => let v := peekX s i o.a; if o.a.val != 0 && v.toNat ≥ scratchBytes then some (0x03, v) else none }
  | .xinv o => { reads := [o.a], entries := one, illegal := userMode }
  | .add o | .sub o | .and o | .or o | .xor o | .andn o | .sll o | .srl o | .sra o | .slt o | .sltu o | .min o | .max o | .minu o
  | .maxu o | .bext o | .mul o | .mulh o | .mulhu o | .mulhsu o => regPlan [o.a, o.b] [o.d]
  | .clz o | .ctz o | .popc o | .sextW o | .zextW o => regPlan [o.a] [o.d]
  | .addi o | .andi o | .ori o | .xori o | .slti o | .sltiu o => regPlan [o.a] [o.d]
  | .slli o | .srli o | .srai o => regPlan [o.a] [o.d]
  | .lih o => regPlan [] [o.d]
  | .div o | .divu o | .rem o | .remu o => outPlan [o.a, o.b]
  | .beq o | .bne o | .blt o | .bge o | .bltu o | .bgeu o | .bbs o | .bbc o => regPlan [o.a, o.b] []
  | .jal o => regPlan [] [o.d]
  | .jalr o =>
    { reads := [o.a], writes := [o.d]
      fault := fun s i => let t := peekX s i o.a + immVal o.imm; if t.toNat % 4 != 0 then some (0x02, t) else none }
  | .loop o => { reads := [o.a], fault := fun s i => loopFault s i o.dist (fld (peekX s i o.a) 31 0) }
  | .loopi o => { fault := fun s i => loopFault s i o.dist o.cnt.toNat }
  | .fadd o | .fsub o | .fmul o => regPlan [o.a, o.b] [o.d]
  | .fdiv o => outPlan [o.a, o.b]
  | .fsqrt o => outPlan [o.a]
  | .fmin o | .fmax o | .feq o | .flt o | .fle o | .fsgnj o | .fsgnjn o => regPlan [o.a, o.b] [o.d]
  | .fclass o | .frsqe o | .frcpe o => regPlan [o.a] [o.d]
  | .fcvtF32I64 o | .fcvtI64F32 o => regPlan [o.a] [o.d]
  | .fcvtF32Bf16 o | .fcvtF32F16 o => regPlan [o.a] [o.d]
  | .fcvtBf16F32 o | .fcvtF16F32 o => regPlan [o.a] [o.d]
  | .fmadd o | .fmsub o | .fnmadd o | .fnmsub o => regPlan [o.a, o.b, o.c] [o.d]
  | .ldB o | .ldBu o => loadPlan o.a (offVal o.off) 1
  | .ldH o | .ldHu o => loadPlan o.a (offVal o.off) 2
  | .ldW o | .ldWu o => loadPlan o.a (offVal o.off) 4
  | .ldD o => loadPlan o.a (offVal o.off) 8
  | .ldAcq o => loadPlan o.a (offVal o.off) 8
  | .stB o => storePlan o.d o.a (offVal o.off) 1
  | .stH o => storePlan o.d o.a (offVal o.off) 2
  | .stW o => storePlan o.d o.a (offVal o.off) 4
  | .stD o | .stf o => storePlan o.d o.a (offVal o.off) 8
  | .stRel o => storePlan o.d o.a (offVal o.off) 8
  | .amoAdd o | .amoAnd o | .amoOr o | .amoXor o | .amoMin o | .amoMax o | .amoMinu o | .amoMaxu o | .amoSwap o | .amoCas o =>
    amoPlan o.d o.a o.b (if o.dbl then 8 else 4)
  | .amoFaddF32 o | .amoFaddBf16x2 o => amoPlan o.d o.a o.b 4
  | .fence o => { wait := fun s i => fenceWait s i o.kind o.scope }
  | .drain _ => { drains := true }
  | .feClr o | .feSet o => linePlan o.a (o.n1.toNat + 1) []
  | .feTest o => linePlan o.a 1 [o.d]
  | .fePeek o =>
    { reads := [o.a], entries := one
      fault := fun s i =>
        let v := peekX s i o.a
        if v.toNat % 8 != 0 then some (0x02, v) else if v.toNat ≥ scratchBytes then some (0x03, v) else none
      homes := fun s i => homesOf s i .read [peekX s i o.a] }
  | .winSet o => regPlan [] [o.d]
  | .winDrop _ | .winTouch _ => {}
  | .winState o => regPlan [] [o.d]
  | .copy o => kickPlan o.a 0
  | .copySt o => kickPlan o.a 1
  | .send o =>
    { reads := [o.b], wait := slotWait
      fault := fun s i => destFault (sendDest s i o.b (peekX s i o.b) o.dx o.dy)
      homes := fun s i => destHome s (sendDest s i o.b (peekX s i o.b) o.dx o.dy) }
  | .sendv o =>
    { reads := [o.a, o.b], wait := slotWait
      fault := fun s i => destFault (sendDest s i o.b (peekX (takeV s i o.a).2 i o.b) o.dx o.dy)
      homes := fun s i => destHome s (sendDest s i o.b (peekX (takeV s i o.a).2 i o.b) o.dx o.dy) }
  | .mcast o =>
    { wait := slotWait
      homes := fun s i => (rMembers (s.rgroupAt (s.coreAt i.core).partition o.gid.val)).map fun n => scratchPa n 0 }
  | .grpArm o => { outPlan [o.a, o.b] with fault := fun s i => placeFault s i o.dx o.dy }
  | .redF32 o | .redI64 o => regPlan [o.a] []
  | .grpWait _ | .grpFree _ => outPlan []
  | .done _ =>
    { lands := true, drains := true, spares := fun s i => (s.fir i).intrap
      wait := fun s i =>
        if (s.fir i).intrap && !faultRoom s (s.coreAt i.core).partition (recordEvents (s.ctx i)) then some (0x3, none) else none }
  | .yield _ => { lands := true }
  | .rngPush o => regPlan [] [o.d]
  | .rngTake o => regPlan [o.a] []
  | .launch o =>
    { reads := [o.a], entries := one
      fault := fun s i => let v := peekX s i o.a; if v.toNat % 64 != 0 then some (0x02, v) else none
      homes := fun s i => homesOf s i .read [peekX s i o.a] }
  | .join _ => outPlan []
  | .replay o =>
    { entries := one
      homes := fun s i =>
        match engineHome s (s.coreAt i.core).partition (s.fir i).sup ((s.fir i).readX (regPlus o.a 1)).toNat .read with
        | .ok pa => if o.n.toNat = 0 then [] else [pa]
        | .error _ => [] }
  | .lnstat o => outPlan [o.a]
  | .chOpen o => chanPlan o.a [] [o.d] .either anyClass false false noMore
  | .chW o => recordPlan (chanPlan o.a [o.d] [] .writer (plainTo 3) true false fun s i v => dataRegsBad o.d (cK (chanOf s i v))) o.a
  | .chWv o => recordPlan (chanPlan o.a [o.d] [] .writer (plainTo 5) true false fun s i v => dataVecBad o.d (cK (chanOf s i v))) o.a
  | .chR o => { chanPlan o.a [] [] .reader (readTo 0) true false noMore with entries := one }
  | .chRv o =>
    { chanPlan o.a [] [] .reader (readTo 5) true false fun s i v => dataVecBad o.d (cK (chanOf s i v)) with
      entries := fun s i => if cK (chanOf s i (peekX s i o.a)) = 5 then 2 else 1 }
  | .chAvail o => chanPlan o.a [] [o.d] .reader anyClass true false noMore
  | .chSpace o => chanPlan o.a [] [o.d] .writer (fun c _ => c == 0 || c == 2) true false noMore
  | .chRes o =>
    { chanPlan o.a [] [] .writer (fun c k => c == 1 && k ≤ 4) true false fun s i v => o.n1.toNat + 1 > cCap (chanOf s i v) with entries := one }
  | .chPub o =>
    { chanPlan o.a [o.d] [] .writer (fun c _ => c == 1) true true fun s i v =>
        let p := (s.coreAt i.core).partition
        let (rp, rc) := readerSide s p (fld v 11 0)
        (if o.vec then dataVecBad o.d (cK (chanOf s i v)) else dataRegsBad o.d (cK (chanOf s i v)))
          || !unpublished (s.chanAt rp rc) i.core (fld v 63 32) with
      homes := fun s i => recordHome s i (fld (peekX s i o.a) 11 0) }
  | .chClose o => chanPlan o.a [] [] .either anyClass false false noMore
  | .dqEmit o => recordPlan (chanPlan o.a [o.d] [] .writer deltaOnly true false fun s i _ => emitBad s i o.a o.d) o.a
  | .dqRead o => { chanPlan o.a [] [] .reader deltaOnly true false noMore with entries := one }
  | .dqCork o => recordPlan (chanPlan o.a [] [] .writer deltaOnly true false noMore) o.a
  | .dqCons o => chanPlan o.a [] [o.d] .reader deltaOnly true false noMore
  | .dqQuiet _ => outPlan []
  | .ixUpd o => keyPlan o.d o.a .both
  | .ixLook o => keyPlan o.d o.a .read
  | .ixNext o =>
    { reads := [o.a], entries := one
      fault := fun s i =>
        let v := peekX s i o.a
        misuse (ixV (indexAt s (s.coreAt i.core).partition (fld v 7 0)) && fld v 63 35 != 0) v
      homes := fun s i => let v := peekX s i o.a; indexHome s i (fld v 7 0) (fld v 31 8) .read }
  | .ixClear o =>
    { reads := [o.a], entries := one, homes := fun s i => indexHome s i (fld (peekX s i o.a) 7 0) 0 .both }
  | .vadd o | .vsub o | .vmul o => regPlan [o.a, o.b] [o.d]
  | .vmin o | .vmax o => regPlan [o.a, o.b] [o.d]
  | .vabs o | .vneg o | .vrsqe o | .vrcpe o | .vexp2 o => regPlan [o.a] [o.d]
  | .vfeq o | .vflt o | .vfle o => regPlan [o.a, o.b] []
  | .vfmadd o | .vfmsub o | .vfnmadd o | .vfnmsub o => regPlan [o.a, o.b, o.c] [o.d]
  | .vaddI o | .vsubI o | .vmulI o | .vand o | .vor o | .vxor o | .vsll o | .vsrl o | .vsra o | .vminI o | .vmaxI o | .vminu o
  | .vmaxu o => regPlan [o.a, o.b] [o.d]
  | .vieq o | .vilt o | .viltu o => regPlan [o.a, o.b] []
  | .vcvt o => regPlan [o.a] [o.d]
  | .vquant o => regPlan [o.a, o.c] [o.d]
  | .vdequant o => regPlan [o.a, o.c] [o.d]
  | .vredsum o | .vredmax o | .vredmin o => regPlan [o.a] [o.d]
  | .vscan o | .vbcast o | .vcompress o | .vmov o => regPlan [o.a] [o.d]
  | .vperm o | .vslup o | .vsldn o | .vins o | .vext o => regPlan [o.a, o.b] [o.d]
  | .viota o => regPlan [] [o.d]
  | .vsel o => regPlan [o.a, o.b] [o.d]
  | .mand _ | .mor _ | .mxor _ | .mnot _ => {}
  | .mpopc o | .mfirst o | .mget o => regPlan [] [o.d]
  | .mset o => regPlan [o.a] []
  | .vld o => vloadPlan o.a (voffVal o.off) (mextMask o.ext) true (fun _ => lineAdr)
  | .vst o => vstorePlan o.d o.a (voffVal o.off) (o.ext.getD 0) true (fun _ => lineAdr)
  | .vgather o => vloadPlan o.a (voffVal o.off) (mextMask o.ext) false laneAdr
  | .vscatter o => vstorePlan o.d o.a (voffVal o.off) (o.ext.getD 0) false laneAdr
  | .vldbc o => vbcPlan o.a (voffVal o.off) (mextMask o.ext)
  | .vanc o => regPlan [o.a, o.b] []
  | .gang o =>
    { reads := [o.a], writes := [o.d], lands := true, drains := true
      fault := fun s i => let v := peekX s i o.a; if gangOk s i.core v then ownerFault s i else some (0x0A, v) }
  | .gstat o => regPlan [] [o.d]
  | .accRd _ => { entries := one, fault := accFault }
  | .accWr o => { reads := [o.d], fault := accFault }
  | .accZero _ => { fault := accFault }
  | .accSpill o =>
    { reads := [o.a]
      fault := fun s i => let v := peekX s i o.a
        (accFault s i).or (if v.toNat % 128 != 0 then some (0x02, v) else storeCheck s i (slotAdrs v))
      homes := fun s i => homesOf s i .write (slotAdrs (peekX s i o.a)) }
  | .accFill o =>
    { reads := [o.a], entries := one
      fault := fun s i => let v := peekX s i o.a
        (accFault s i).or (if v.toNat % 128 != 0 then some (0x02, v) else none)
      homes := fun s i => homesOf s i .read (slotAdrs (peekX s i o.a)) }
  | .accTag o => { reads := [o.a], writes := [o.d], fault := ownerFault }
  | .hLd o => hamperPlan o.a [] 2
  | .hSt o => hamperPlan o.a [] 0
  | .hFill o =>
    { reads := [o.a, o.b], entries := one
      fault := fun s i =>
        let (x, s1) := takeX s i o.a
        let y := peekX s1 i o.b
        if y.toNat % 128 != 0 then some (0x02, y) else if x.toNat ≥ 256 then some (0x03, x)
        else if y.toNat + 4096 > scratchBytes then some (0x03, y) else none
      homes := fun s i => let y := peekX (takeX s i o.a).2 i o.b; [scratchPa i.core y.toNat] }
  -- the steps of other agents have no boundary of their own
  | _ => {}
where
  vbcPlan (a : Reg) (off : Word) (m : MReg) : Plan :=
    { reads := [a], entries := one
      fault := fun s i =>
        let ea := eaOf s i a off
        if ea.toNat % 4 != 0 then some (0x02, ea) else vecFault s i a ea false (elemsAt (s.fir i) m fun _ => ea)
      homes := fun s i => homesOf s i .read [eaOf s i a off] }

/-! ### Landing (R98, R99) -/

/-- An entry lands: its flags, its destination unless superseded, and lat for a vector (R98, R152, R182, R184, R287). -/
def landEntry (s : State) (i : CtxId) (e : Entry) : State :=
  let s1 := addFlags s i e.flags
  match e.dest with
  | .x r => if e.super then s1 else s1.modFir i fun f => f.writeX r e.word
  | .v r =>
    let v := BitVec.ofNat 1024 e.value
    s1.modFir i fun f =>
      let f1 := if e.super then f else f.writeV r v
      if e.superLat then f1 else f1.setLat v
  | .m r => if e.super then s1 else s1.modFir i fun f => f.writeM r e.word
  | .slots => s1.modCore i.core fun c => { c with
      slots := (Vector.range 64).map fun j => BitVec.ofNat 1024 (e.value / 2 ^ (1024 * j)), slotPoison := 0 }

/-- Lands the whole buffer in program order. -/
def landAll (s : State) (i : CtxId) : State :=
  if (s.ctx i).rb.isEmpty then s
  else ((s.ctx i).rb.foldl (fun s e => landEntry s i e) s).modCtx i fun k => { k with rb := [] }

/-- An entry that is performed again before the marker decides: of state 4, or faulted and not performed again since `eret` (R99). -/
def Entry.redo (e : Entry) : Bool := e.state == .reissue || (e.state == .faulted && !e.again)

/-- Accesses in program order with those of an entry put back. -/
def putAccess (a : Access) : List Access → List Access
  | [] => [a]
  | b :: l => if a.num < b.num then a :: b :: l else b :: putAccess a l

/-- Performs those entries again, once each. -/
def performAgain (k : Context) : Context :=
  let again := k.rb.filter Entry.redo
  { k with
    rb := k.rb.map fun e => if e.redo then { e with state := .pending, value := e.base, fault := none, again := true } else e
    acc := (again.flatMap (·.req)).foldl (fun l a => putAccess a l) k.acc }

/-! ### The boundary -/

/-- What an instruction does at its boundary. -/
inductive Gate where
  /-- the context is at no boundary at which it could issue -/
  | stay
  | trap (t : TrapInfo) (s : State)
  | park (reason : Nat) (chan : Option Nat) (s : State)
  /-- it issues -/
  | go (s : State)

/-- The context could issue: a running firing that nothing stops (R79, R85, R271, R274, R319, R329). -/
def atBoundary (s : State) (i : CtxId) : Bool :=
  let k := s.ctx i
  k.running && !k.halted && k.trapping.isNone && k.parked.isNone && k.barrier.isNone && k.readyAt ≤ s.now && !coreStopped s i.core

/-- The store-fault trap (R318, R324). -/
def storeTrap (s : State) (i : CtxId) : TrapInfo :=
  let k := s.ctx i
  ⟨k.fir.pc, (headFault k).1, (headFault k).2, none⟩

/-- Some store issued eleven instructions ago or earlier has not passed its checks (R324). -/
def skidWait (k : Context) : Bool :=
  k.acc.any fun a => match a.kind with
    | .store _ _ => a.pa.isNone && a.order + 11 ≤ k.issued
    | _ => false

/-- What comes first at a boundary, whatever the instruction: a parity error (R335), a store-fault trap that is due, the skid limit. -/
def boundary (s : State) (i : CtxId) (drains spares : Bool) : Option Gate :=
  let k := s.ctx i
  if k.parity then some (.trap ⟨k.fir.pc, 0x0F, 0, none⟩ (s.modCtx i fun k => { k with parity := false }))
  else if !spares && k.skid.any (fun n => drains || 11 ≤ n) then some (.trap (storeTrap s i) s)
  else if skidWait k then some (.park 0x3 none s)
  else none

/-- The marker (R98, R99): none when the buffer has landed, in the state given. -/
def marker (s : State) (i : CtxId) : Option Gate × State :=
  let k := s.ctx i
  if k.rb.any Entry.redo then (some (.park 0x1 none (s.modCtx i performAgain)), s)
  else if k.rb.any fun e => e.state == .pending then (some (.park 0x1 none s), s)
  else match k.rb.find? fun e => e.state == .faulted with
    | some e => (some (.trap ⟨k.fir.pc, BitVec.ofNat 64 ((e.fault.map fun f => f.2.toNat).getD 0), e.va, some e.pc⟩ s), s)
    | none => (none, landAll s i)

/-- A port named that faces beyond the mesh or the partition (R48). Of several the tval names the first, sources in the order a, b, c, d
before destinations; R48 does not say which (DESIGN CHOICE, notes/assumptions/12.md). -/
def edgePort (s : State) (i : CtxId) (l : List (Fin 32)) : Option (Fin 32) :=
  l.find? fun r => match portDir r with
    | some d => (portPeer s i d).isNone
    | none => false

/-- Every port read holds a flit for each time it is named (R48). -/
def flitsThere (s : State) (i : CtxId) (l : List (Fin 32)) : Bool :=
  (portsOf l).all fun d => ((portsOf l).filter (· == d)).length ≤ (portAt (s.ctx i) d).q.length

/-- Every port written has room in the neighbour's FIFO (R48). -/
def roomThere (s : State) (i : CtxId) (l : List (Fin 32)) : Bool :=
  (portsOf l).all fun d => match neighbour i.core d with
    | some n => portRoom (s.ctx ⟨n, i.x⟩) (dirBack d) ((portsOf l).filter (· == d)).length
    | none => true

/-- An `ld.acq` of this context that has not been performed, a trap's set-aside ones among them, and whose scope holds one of the homes
(R207). -/
def acquireHolds (s : State) (i : CtxId) (homes : List Nat) : Bool :=
  ((s.ctx i).rb ++ (s.ctx i).fir.aside).any fun e => match e.acq with
    | some sc => homes.any (inScope sc i.core)
    | none => false

/-- The rest of the boundary, once a marker has landed the buffer (R103). Cause 0x0E of a port comes before the wait for another port's
flit and before the instruction's other faults; R48 and R103 do not say (DESIGN CHOICE, notes/assumptions/12.md). -/
def landedGate (s : State) (i : CtxId) (p : Plan) : Gate :=
  let pc := (s.fir i).pc
  if p.drains && uncheckedStores (s.ctx i) then .park 0x3 none s
  else match edgePort s i (p.reads ++ p.writes) with
    | some r => .trap ⟨pc, 0x0E, BitVec.ofNat 64 r.val, none⟩ s
    | none =>
      if !flitsThere s i p.reads then .park 0x2 none s
      else match p.fault s i with
        | some (c, v) => .trap ⟨pc, c, v, none⟩ s
        | none =>
          if !roomThere s i p.writes then .park 0x2 none s
          else if acquireHolds s i (p.homes s i) then .park 0x1 none s
          else match p.wait s i with
            | some (r, ch) => .park r ch s
            | none => .go s

/-- Whether the instruction lands the buffer before it issues (R98). -/
def needsMarker (s : State) (i : CtxId) (ins : Instr) : Bool :=
  marked ins || (planOf ins).lands || (s.ctx i).rb.length + (planOf ins).entries s i > 8

/-- A vector store's own failing check is taken as one trap with a store-fault trap that is due (R202). -/
def ownStoreFault (s : State) (i : CtxId) (ins : Instr) : Option TrapInfo :=
  let p := planOf ins
  if (needsMarker s i ins && !(s.ctx i).rb.isEmpty) || !flitsThere s i p.reads then none
  else match p.fault s i with
    | some (c, v) => if bitAt c 16 then some ⟨(s.fir i).pc, c, v, none⟩ else none
    | none => none

/-- The boundary of an instruction at the pc of a context. -/
def gate (s : State) (i : CtxId) (ins : Instr) : Gate :=
  let p := planOf ins
  if !atBoundary s i then .stay
  else match boundary s i p.drains (p.spares s i) with
    | some (.trap t s1) => .trap (if fld t.cause 7 0 = 5 then (ownStoreFault s i ins).getD t else t) s1
    | some g => g
    | none =>
      if p.illegal s i then .trap ⟨(s.fir i).pc, 0x01, word0Of ins, none⟩ s
      else if needsMarker s i ins then
        match marker s i with
        | (some g, _) => g
        | (none, s1) => landedGate s1 i p
      else landedGate s i p

/-- What a gate that does not let the instruction issue does to the state. -/
def Gate.settle (g : Gate) (i : CtxId) (s : State) : State :=
  match g with
  | .stay => s
  | .trap t s1 => takeTrap s1 i t
  | .park r ch s1 => s1.modCtx i fun k => { k with reason := r, chanWait := ch }
  | .go s1 => s1

/-- An instruction at its boundary in the context that holds the issue slot: it traps, waits, or issues with its effect. -/
def issue (ins : Instr) (effect : State → CtxId → State) (s : State) : State :=
  match gate s s.slot ins with
  | .go s1 => effect (countIssue s1 s.slot) s.slot
  | g => g.settle s.slot s

/-- The instruction at the pc completes and execution goes on behind it. -/
def finishOp (s : State) (i : CtxId) (ins : Instr) : State := completeNext s i (byteLen ins)

/-! ### Accesses of an instruction -/

/-- The reader's side of the channel that an access goes to, as its descriptor names it when the access issues (R251). -/
def sideOf (s : State) (p : Nat) : AccKind → Nat × Nat
  | .chan ch _ => readerSide s p ch
  | _ => (0, 0)

/-- An access of the instruction at the pc, at its place in program order. -/
def newAccess (s : State) (i : CtxId) (num : Nat) (va : Word) (kind : AccKind) (pos : Nat) (rel : Option Scope) : Access :=
  let k := s.ctx i
  { num := num, va := va, kind := kind, who := requester s i, pc := k.fir.pc, pos := pos, rel := rel, pa := none
    side := sideOf s (s.coreAt i.core).partition kind, refused := none, order := k.issued }

/-- The next place in program order. -/
def nextNum (s : State) (i : CtxId) : Nat := (s.ctx i).num

/-- Posts accesses: they take the next place in program order. -/
def postAccesses (s : State) (i : CtxId) (l : List Access) : State :=
  s.modCtx i fun k => { k with acc := k.acc ++ l, num := k.num + 1 }

/-- An entry for the instruction at the pc (R97). -/
def newEntry (s : State) (i : CtxId) (va : Word) (dest : Dest) (ext : Ext) (base : Nat) : Entry :=
  { num := nextNum s i, pc := (s.fir i).pc, va := va, dest := dest, ext := ext, super := false, superLat := false, state := .pending
    value := base, base := base, fault := none, flags := 0, acq := none, req := [], again := true }

/-- Takes an entry with its accesses; earlier results for the same destination are superseded (R98). -/
def takeEntry (s : State) (i : CtxId) (e : Entry) (l : List Access) : State :=
  s.modCtx i fun k =>
    let k1 := supersede e.dest k
    { k1 with rb := k1.rb ++ [{ e with req := l }], acc := k1.acc ++ l, num := k1.num + 1 }

/-- One entry with one access. -/
def takeOne (s : State) (i : CtxId) (va : Word) (dest : Dest) (ext : Ext) (kind : AccKind) (rel : Option Scope) : State :=
  takeEntry s i (newEntry s i va dest ext 0) [newAccess s i (nextNum s i) va kind 0 rel]

/-- An entry whose result is known at issue: it has no access to wait for, but those it names serve to perform it again. -/
def takeDone (s : State) (i : CtxId) (e : Entry) : State :=
  s.modCtx i fun k =>
    let k1 := supersede e.dest k
    { k1 with rb := k1.rb ++ [e], num := k1.num + 1 }

/-- An outstanding arithmetic result (R152). -/
def takeValue (s : State) (i : CtxId) (va : Word) (d : Reg) (v : Nat) (fl : Flags) : State :=
  takeDone s i { newEntry s i va (.x d) .whole v with flags := fl }

end Sys2Proof.Machine
end

