-- ==== Sys2Proof/Machine/Fetch.lean ====
section
/-!
DEFINITION. Instruction fetch (R40, R56), the choice of a context each cycle (R88), and the store-fault trap at a boundary (R103, R324).
-/
namespace Sys2Proof.Machine

/-- What a fetch at an address gives. -/
inductive Fetched where
  /-- a word that cannot be fetched: cause and tval (R40, R335) -/
  | fault (cause tval : Word)
  /-- an illegal instruction: its word 0 (R56) -/
  | illegal (word0 : Word)
  | ins (i : Instr)
  deriving DecidableEq, Repr

/-- The words from an address, as many as word 0's len field asks for (R41). -/
def fetchWords (s : State) (n pc : Nat) : List Nat :=
  (List.range (wordCount (fetchWord s n pc))).map fun k => fetchWord s n (pc + 4 * k)

/-- Fetches the instruction at `pc` from core n's own scratchpad, whatever the lines' bits (R40). A fetch fault on any word comes before
the illegal-instruction trap (R56). -/
def fetch (s : State) (n pc : Nat) : Fetched :=
  match fetchFault s n pc with
  | some (c, v) => .fault c v
  | none =>
    match (List.range (wordCount (fetchWord s n pc))).findSome? fun k => fetchFault s n (pc + 4 * k) with
    | some (c, v) => .fault c v
    | none => match decode (fetchWords s n pc) with
      | .ok i => .ins i
      | .error _ => .illegal (BitVec.ofNat 64 (fetchWord s n pc))

/-- The fetch of a context's next instruction. -/
def fetchNext (s : State) (i : CtxId) : Fetched := fetch s i.core (s.fir i).pc.toNat

/-- The boundary of a word that is no instruction (R103 orders 1 to 3). -/
def badGate (s : State) (i : CtxId) (cause tval : Word) : Gate :=
  if !atBoundary s i then .stay
  else match boundary s i false false with
    | some g => g
    | none => .trap ⟨(s.fir i).pc, cause, tval, none⟩ s

/-- The boundary at a context's pc. -/
def nextGate (s : State) (i : CtxId) : Gate :=
  match fetchNext s i with
  | .fault c v => badGate s i c v
  | .illegal w => badGate s i 0x01 w
  | .ins ins => gate s i ins

/-- Whether a context is ready (R88), with the park state of one that is not (R89). A trap that is due takes the cycle. -/
def readiness (s : State) (i : CtxId) : Bool × State :=
  match nextGate s i with
  | .go _ | .trap _ _ => (true, s.modCtx i fun k => { k with reason := 0, chanWait := none })
  | .stay =>
    let k := s.ctx i
    (false, if k.running && !k.halted && s.now < k.readyAt then s.modCtx i fun k => { k with reason := 0x6 } else s)
  | .park r ch s1 => (false, s1.modCtx i fun k => { k with reason := r, chanWait := ch })

/-- Gives the issue slot to a context. -/
def grant (s : State) (i : CtxId) (nwait : Nat) : State :=
  { s.modCore i.core fun c => { c with nwait := nwait } with slot := i, granted := true }

/-- One issue cycle of a core (R88): a trap whose checks are complete is entered (R319), then a context is chosen. -/
def issueCycle (s : State) (n : Nat) : State :=
  if coreStopped s n || gatedOff s (dieOf n) then s
  else
    let (u, s1) := readiness (resumeTrap s ⟨n, .u⟩) ⟨n, .u⟩
    let (nn, s2) := readiness (resumeTrap s1 ⟨n, .n⟩) ⟨n, .n⟩
    let w := (s2.coreAt n).nwait
    if u && (!nn || w < 15) then grant s2 ⟨n, .u⟩ (if nn then w + 1 else 0)
    else if nn then grant s2 ⟨n, .n⟩ 0
    else s2.modCore n fun c => { c with nwait := 0 }

/-- The store-fault trap due at a context's next boundary (R103, R324). -/
def storeFaultTrap (s : State) (i : CtxId) : State :=
  match nextGate s i with
  | .trap t s1 => if fld t.cause 7 0 = 5 then takeTrap s1 i t else s
  | _ => s

end Sys2Proof.Machine
end

