-- ==== Sys2Proof/Machine/EventOps.lean ====
section
/-!
DEFINITION. Operations of the agents' steps that no earlier file holds: the end of a `park` (R174), messages in flight with the device
links (R84, R219, R350), page-table walks (R110), peer accesses (R353), and the resends of refused requests (R84, R114).
-/
namespace Sys2Proof.Machine

/-! ### park (R174) -/

/-- The events that would end the `park` of a context now: [0] message, [1] flit, [2] line. -/
def parkEvents (k : Context) : Nat := packFields [(boolNat k.evLine, 2), (boolNat k.fir.evFlit, 1), (boolNat k.fir.evMsg, 0)]

/-- The `park` of a context completes with a set of events. A flit it reads is consumed now, so that a `park` that pre-emption ended can
run again (R48, R174). -/
def endPark (s : State) (i : CtxId) (set : Nat) : State :=
  match (s.ctx i).parked with
  | none => s
  | some q =>
    let s1 := s.modCtx i fun k => { k with parked := none, evLine := false, fir := { k.fir with evMsg := false, evFlit := false } }
    completeNext (writeDest (takeX s1 i q.a).2 i q.d (BitVec.ofNat 64 set)) i 4

/-- An event ends a `park`. -/
def parkWake (s : State) (i : CtxId) : State :=
  if parkEvents (s.ctx i) = 0 || coreStopped s i.core || (s.ctx i).halted then s else endPark s i (parkEvents (s.ctx i))

/-- A `park` ends after 65,536 cycles with no event. -/
def parkTimeout (s : State) (i : CtxId) : State :=
  match (s.ctx i).parked with
  | none => s
  | some q =>
    if parkEvents (s.ctx i) = 0 && q.time + 65536 ≤ s.now && !coreStopped s i.core && !(s.ctx i).halted then endPark s i 8 else s

/-! ### Messages in flight (R84, R219) -/

/-- Whether message `k` of a context may travel now: over a link that is up, if it goes to another device. -/
def mayTravel (s : State) (j : Inj) : Bool := j.device == deviceNum s || linkUp s j.device

/-- Message `k` of a source reaches its core or its device link, or is refused. A refused one first waits for its resend. -/
def messageArrival (s : State) (src : MsgSrc) (k : Nat) : State :=
  match src with
  | .ctx c x =>
    match (s.ctx ⟨c, x⟩).inj[k]? with
    | some j =>
      if j.refused.isSome || !mayTravel s j then s
      else
        let s1 := transmit s ⟨c, x⟩ k
        if j.device = deviceNum s then s1 else linkPassed s1 j.device (hdrTag j.msg.hdr) (s.coreAt c).partition
    | none => s
  | .engine => if (s.pkg.engine[k]?).any fun m => m.refused.isNone then transmitEngine s k else s

/-- After 64 cycles a refused message is sent again. -/
def messageResend (s : State) (src : MsgSrc) (k : Nat) : State :=
  match src with
  | .ctx c x =>
    match (s.ctx ⟨c, x⟩).inj[k]? with
    | some j => if mayTravel s j && j.refused.any fun t => t + 64 ≤ s.now then transmit s ⟨c, x⟩ k else s
    | none => s
  | .engine => if (s.pkg.engine[k]?).any fun m => m.refused.any fun t => t + 64 ≤ s.now then transmitEngine s k else s

/-- A message of another device comes over its link, for a core of this one: it is delivered as those of engines are (R84, R219, R304). -/
def peerMessage (s : State) (dev core dest : Nat) (m : Msg) : State :=
  if dev != deviceNum s && linkUp s dev && dest < Config.cores then postEngine (linkPassed s dev (hdrTag m.hdr) 0) (.peer dev core) dest m else s

/-- A transmission that reaches no receiver intact; after eight the message is abandoned (R219), and the error is logged against the
crossbar of the sender's die (R128). -/
def sendFailure (s : State) (i : CtxId) (k : Nat) : State :=
  match (s.ctx i).inj[k]? with
  | none => s
  | some j =>
    if !injReady s i k j then s
    else if j.fails + 1 ≥ 8 then
      let pa := scratchPa (j.targets.headD 0) 0
      abandonMsg (logError s (.die (dieOf i.core) 0) 5 pa (hdrTag j.msg.hdr) (s.coreAt i.core).partition) i k
    else s.modCtx i fun c => { c with inj := setAt k { j with fails := j.fails + 1 } c.inj }

/-! ### Translation (R110, R111) -/

/-- The cluster walker completes a walk of a partition's table: a leaf enters the translation cache. -/
def translationWalk (s : State) (cl p : Nat) (va : Word) : State := (cacheWalk s cl p va.toNat).2

/-! ### Requests of other agents -/

/-- The requester of a peer device's access, charged to a partition: it acts in user mode on no context's behalf. -/
def peerRequester (p : Nat) : Requester := noFiring p

/-- A line whose full bit is clear keeps a reader out (R113), a fill-pending one a store (R114). -/
def lineHolds (s : State) (pa : Nat) (load : Bool) : Bool :=
  (lineOf pa).any fun q => if load then lineEmpty s q.1 q.2 else lineFilling s q.1 q.2

/-- Messages of a peer device. Its accesses name no core of it, so that each is ordered with those of all its cores (R294, R307; log entry 24). -/
def EngSrc.isPeer (dev : Nat) : EngSrc → Bool
  | .peer d _ => d == dev
  | _ => false

/-- A peer's access at its home (R353, R307): a store is performed, an atomic at a scratchpad bank, and loads and atomics are answered with the
bytes read, or with the cause that they fault with: 0x0F for poison (R335), 0x0C for an atomic that no scratchpad homes (R212). What a line or an
earlier message of the device holds back is left for a later step. -/
def peerAccess (s : State) (a : PeerAcc) : State :=
  match peerHome s a with
  | none => peerRefused s a
  | some (pa, p) =>
    let answer (t : State) (v : Nat) : State := peerReply t (.value a.dev (BitVec.ofNat 64 v))
    let load := a.kind != .store
    if lineHolds s pa load || engineBefore s (EngSrc.isPeer a.dev) pa then s
    else match a.kind with
    | .store => (writeHome s (peerRequester p) pa a.size (a.value.toNat % 2 ^ (8 * a.size))).getD s
    | .load =>
      if (poisonedIn s pa a.size).isSome then peerReply s (.fault a.dev 0x0F) else answer (bump s) (readHome (bump s) pa a.size)
    | .atomic op opnd cmp =>
      if (lineOf pa).isNone then peerReply s (.fault a.dev 0x0C)
      else if (poisonedIn s pa a.size).isSome then peerReply s (.fault a.dev 0x0F)
      else
        let old := readMem s pa a.size
        answer (storeBytes s p pa a.size (amoNew op.val (8 * a.size) old opnd.toNat cmp.toNat)) old

/-- A remote request that a full bank refused is sent again after 64 cycles (R114). -/
def remoteRequestResend (s : State) (i : CtxId) (k : Nat) : State :=
  match (s.ctx i).acc[k]? with
  | some a => if a.refused.isSome && resendDue s a then anyAccess s i k else s
  | none => s

/-- Window writes by the supervisor or the hypervisor as agents without a context. -/
def settleHyp (s : State) (p : Nat) (r : State × WinWrites) : State := (drainWrites true (noFiring p) drainFuel r.1 r.2).getD s

/-- Window writes that an engine leaves behind, on behalf of a partition. -/
def settlePart (s : State) (p : Nat) (r : State × WinWrites) : State := settle s (noFiring p) r

end Sys2Proof.Machine
end

