-- ==== Sys2Proof/Machine/Round.lean ====
section
/-!
DEFINITION. The model's own order of steps where the schedule in the state names none (notes/assumptions/1.md): a round gives every agent
a turn at what it may have to do, then lets one cycle pass. What is not enabled when its turn comes changes nothing, so a round
only fixes an order; the spec allows any.
-/
namespace Sys2Proof.Machine

/-- Steps taken one after the other. -/
def inOrder (l : List (State → State)) (s : State) : State := l.foldl (fun s f => f s) s

/-- The same step for each of some numbers. -/
def forEach {α : Type} (l : List α) (f : State → α → State) (s : State) : State := l.foldl f s

/-- Indexes of a list, the last one first: a step that removes its element leaves the others where they are. -/
def downTo (n : Nat) : List Nat := (List.range n).reverse

/-- What a context may have to do besides its accesses, results and messages. -/
def contextTurn (s : State) (i : CtxId) : State :=
  inOrder [fun s => forEach [Dir.north, .east, .south, .west] (fun s d => flitArrival s i d) s, fun s => parkWake s i,
    fun s => parkTimeout s i, fun s => freeze s i, fun s => barrierTimeout s i, fun s => contextSave s i,
    fun s => rangeRemainderPush s i, fun s => firingStart s i] s

/-- What a core may have to do besides its contexts' work and the issue of instructions. -/
def coreTurn (s : State) (n : Nat) : State :=
  inOrder [fun s => strikeCore s n, fun s => forEach (List.range 20) (fun s c => actorReady s n c) s, fun s => pulse s n, fun s => thawDone s n,
    fun s => stealRoundRetry s n, fun s => stealRequest s n, fun s => stealServe s n, fun s => stealReply s n] s

/-- What a cluster's service hart may have to do. -/
def clusterTurn (s : State) (cl : Nat) : State :=
  let p := clusterPart s cl
  inOrder [fun s => forEach ((s.clusterAt cl).reqs.map (·.slot)) (fun s k => settlePart s p (hartChunk s cl k)) s,
    fun s => settlePart s p (resetComplete s cl), fun s => donationRequest s cl, fun s => donationServe s cl] s

/-- What a die's scheduler may have to do. -/
def dieTurn (s : State) (d : Nat) : State :=
  inOrder [fun s => strikeEngines s d, fun s => forEach (s.dieAt d).arriving (fun s _ => groupForward s d 0) s,
    fun s => forEach ((s.dieAt d).queue.map (·.part)) (fun s p => groupPlace s d p) s,
    fun s => forEach ((s.dieAt d).groups.map (·.gid)) (fun s g => groupRetire s d g) s] s

/-- What a channel's unit, spill engine and credits may have to do. -/
def chanTurn (p : Nat) (s : State) (ch : Nat) : State :=
  inOrder [fun s => churnArrival s p ch 0, fun s => spillRefill s p ch,
    fun s => forEach (s.chanAt p ch).credits (fun s w => creditArrival s p ch w) s, fun s => sharedRingHang s p ch] s

/-- What the routers of a reduction group may have to do. -/
def groupTurn (p : Nat) (s : State) (g : Nat) : State :=
  inOrder [fun s => forEach (downTo (s.rgroupAt p g).packets.length) (fun s k => packetArrival s p g k) s,
    fun s => forEach (downTo (s.rgroupAt p g).flushes.length) (fun s k => flushArrival s p g k) s,
    fun s => redTimeout s p g, fun s => drainComplete s p g] s

/-- A live launch retires: as a graph's node, or by itself. -/
def launchTurn (p : Nat) (s : State) (h : Nat) : State :=
  match s.launchAt p h with
  | some l => match l.src with
    | .graph _ _ => settlePart s p (graphNodeRetire s p h)
    | _ => settlePart s p (launchRetire s p h)
  | none => s

/-- What a partition's units may have to do. -/
def partTurn (s : State) (p : Nat) : State :=
  let q := s.partAt p
  inOrder [forEach (q.chans.map (·.1)) (chanTurn p), forEach (q.rgroups.map (·.1)) (groupTurn p),
    fun s => forEach (watchedGroups s p) (fun s g => channelDeadlock s p g) s,
    forEach ((List.range 64).filter fun k => q.hqchan[Fin.ofNat 64 k] != 0) (fun s k => settlePart s p (hostQueueRecord s p k)),
    forEach (q.launches.map (·.1)) (launchTurn p),
    fun s => forEach (downTo (s.partAt p).replayReqs.length) (fun s k => settlePart s p (replayRequest s p k)) s,
    fun s => settlePart s p (retryRecords s p), fun s => pcraComplete s p, fun s => killProgress s p, fun s => requestReports s p,
    fun s => settlePart s p (watchdogExpiry s p)] s

/-- Turns of one context. -/
def contextTurns (n : Nat) (x : Ctx) (k : Context) : List Turn :=
  ((downTo k.acc.length).map fun j => .access ⟨n, x⟩ j) ++ ((downTo (k.rb.length + k.fir.aside.length)).map fun j => .result ⟨n, x⟩ j)
    ++ ((downTo k.inj.length).map fun j => .message (.ctx n x) j) ++ [.context ⟨n, x⟩]

/-- One round of turns, the last of them a cycle that passes. -/
def roundOf (s : State) : List Turn :=
  (if s.pkg.starting then [Turn.boot] else []) ++ ((downTo s.pkg.engine.length).map fun k => Turn.message .engine k)
    ++ (s.clusters.map fun q => Turn.cluster q.1) ++ (s.dies.map fun q => Turn.die q.1) ++ (s.parts.map fun q => Turn.part q.1)
    ++ (s.cores.flatMap fun q => contextTurns q.1 .u q.2.u ++ contextTurns q.1 .n q.2.n ++ [.core q.1, .issue q.1]) ++ [.tick]

/-- One cycle passes (R94, R245, R336): the counter, the thieves' idle time, the monitors' and the sinks' watches. -/
def tick (s : State) : State :=
  let idle (c : Core) : Option Nat := if coreIdle c then (if c.steal.idleSince.isNone then some s.now else c.steal.idleSince) else none
  let s1 : State := { s with
    cycle := s.cycle + 1
    cores := s.cores.map fun q => (q.1, { q.2 with steal := { q.2.steal with idleSince := idle q.2 } }) }
  s1.parts.foldl (fun (s : State) q => if partRunning s q.1 then watchdogTick (watchTick s q.1) q.1 else s) s1

/-- A turn that is no named step. -/
def ownTurn (s : State) : Turn → State
  | .tick => tick s
  | .ev _ => s
  | .access i k => anyAccess s i k
  | .result i k => returnEntry s i k
  | .message src k => messageArrival (messageResend s src k) src k
  | .context i => contextTurn s i
  | .core n => coreTurn s n
  | .issue n => issueCycle s n
  | .cluster cl => clusterTurn s cl
  | .die d => dieTurn s d
  | .part p => partTurn s p
  | .boot => bootStage s 0 0
  | .hmbox off n v => hyperMbox s off n v
  | .report => hyperReport s
  | .resize log => resizeBar2 s log
  | .peerMessage dev core dest m => peerMessage s dev core dest m

/-! ### A stopped device, and the placing of a program -/

/-- Thermal shutdown has stopped every die (R361). -/
def deviceStopped (s : State) : Bool := s.pkg.error == 8

/-- What the PCIe port still does on a stopped device (R361): BAR0 and the vector table. -/
def hostSide : Instr → Bool
  | .devctlColdStart _ | .devctlWarmStart _ | .recoveryChunk _ | .recoveryGo | .hmboxSignal _ | .msixUnmask _ => true
  | .hostAccess a => !a.bar2
  | _ => false

/-- The step that the schedule names takes place: it is an agent's step, and the device is not stopped or the step is the host's. -/
def mayStep (s : State) (i : Instr) : Bool := i.isStep && (!deviceStopped s || hostSide i)

/-- Stores words at rising addresses of a scratchpad, unpoisoned. -/
def placeWords (s : State) (n : Nat) : Nat → List Nat → State
  | _, [] => s
  | a, w :: l => placeWords { s with
      mem := Mem.writeLE s.mem (scratchPa n a) 4 w
      poison := s.poison.filter fun b => !(b < scratchPa n a + 4 && scratchPa n a < b + protBytes b) } n (a + 4) l

/-- A context at a boundary at address 0, so that it fetches there. -/
def atZero (k : Context) : Context :=
  { k with running := true, halted := false, trapping := none, parked := none, barrier := none, readyAt := 0, parity := false, skid := none
           fir := { k.fir with pc := 0 } }

/-- An instruction's words at address 0 of core 0, and its N context about to fetch them with the issue slot granted. -/
def placeProgram (s : State) (ws : List Nat) : State :=
  let s1 := placeWords s 0 0 ws
  let s2 := (s1.modCore 0 fun c => { c with cell := none, n := atZero c.n }).modCluster 0 fun c => { c with resetAt := none }
  { s2.modPkg fun k => { k with error := if k.error == 8 then 0 else k.error } with slot := ⟨0, .n⟩, granted := true }

end Sys2Proof.Machine
end

