-- ==== Sys2Proof/Machine/Scalar.lean ====
section
/-!
DEFINITION. Scalar integer instructions (R154 to R158).
-/
namespace Sys2Proof.Machine

/-! ### Shared forms -/

/-- An instruction that writes one scalar result of x[a] and x[b] at issue. -/
def alu2 (ins : Instr) (d a b : Reg) (f : Word → Word → Word) (s : State) : State :=
  issue ins (fun s i =>
    let (x, s) := takeX s i a
    let (y, s) := takeX s i b
    finishOp (writeDest s i d (f x y)) i ins) s

/-- An instruction that writes one scalar result of x[a] at issue. -/
def alu1 (ins : Instr) (d a : Reg) (f : Word → Word) (s : State) : State :=
  issue ins (fun s i =>
    let (x, s) := takeX s i a
    finishOp (writeDest s i d (f x)) i ins) s

/-- An instruction whose scalar result of x[a] and x[b] is outstanding (R152). -/
def outstanding2 (ins : Instr) (d a b : Reg) (f : Word → Word → Word) (s : State) : State :=
  issue ins (fun s i =>
    let (x, s) := takeX s i a
    let (y, s) := takeX s i b
    finishOp (takeValue s i x d (f x y).toNat 0) i ins) s

/-! ### The results -/

/-- Bits [5:0] of a shift amount or bit number (R154). -/
def shiftAmt (y : Word) : Nat := fld y 5 0
def sllOf (x y : Word) : Word := x <<< shiftAmt y
def srlOf (x y : Word) : Word := x >>> shiftAmt y
def sraOf (x y : Word) : Word := x.sshiftRight (shiftAmt y)
def sltOf (x y : Word) : Word := boolWord (x.slt y)
def sltuOf (x y : Word) : Word := boolWord (x.ult y)
def minOf (x y : Word) : Word := if x.slt y then x else y
def maxOf (x y : Word) : Word := if x.slt y then y else x
def minuOf (x y : Word) : Word := if x.ult y then x else y
def maxuOf (x y : Word) : Word := if x.ult y then y else x
/-- Leading zeros, 64 for zero. -/
def clzOf (x : Word) : Word := BitVec.ofNat 64 (64 - bitLen x.toNat)
/-- Trailing zeros, 64 for zero. -/
def ctzOf (x : Word) : Word := BitVec.ofNat 64 (((List.range 64).find? (bitAt x)).getD 64)
/-- Set bits. -/
def popcOf (x : Word) : Word := BitVec.ofNat 64 ((List.range 64).filter (bitAt x)).length
def bextOf (x y : Word) : Word := boolWord (bitAt x (shiftAmt y))

/-- Bits [127:64] of a product. -/
def highHalf (p : Int) : Word := BitVec.ofInt 64 (p / 2 ^ 64)
def mulhOf (x y : Word) : Word := highHalf (x.toInt * y.toInt)
def mulhuOf (x y : Word) : Word := highHalf (x.toNat * y.toNat)
def mulhsuOf (x y : Word) : Word := highHalf (x.toInt * (y.toNat : Int))

/-- The largest and the least signed word. -/
def maxWord : Word := 0x7FFFFFFFFFFFFFFF
def minWord : Word := 0x8000000000000000
/-- Signed quotient, truncated toward zero and saturated toward the sign of the true result (R158). -/
def divOf (x y : Word) : Word :=
  if y = 0 then (if x.slt 0 then minWord else maxWord)
  else if x = minWord && y = BitVec.allOnes 64 then maxWord
  else BitVec.ofInt 64 (x.toInt.tdiv y.toInt)
def divuOf (x y : Word) : Word := if y = 0 then BitVec.allOnes 64 else BitVec.ofNat 64 (x.toNat / y.toNat)
/-- Signed remainder with the sign of the dividend; 0 of a division by zero. -/
def remOf (x y : Word) : Word := if y = 0 then 0 else BitVec.ofInt 64 (x.toInt.tmod y.toInt)
def remuOf (x y : Word) : Word := if y = 0 then 0 else BitVec.ofNat 64 (x.toNat % y.toNat)

/-! ### Meanings -/

/-- `add` (R154). -/
def execAdd (o : OpsDAB) (s : State) : Host.Outcome State Fault Refusal := .next (alu2 (.add o) o.d o.a o.b (fun x y => x + y) s)

/-- `sub` (R154). -/
def execSub (o : OpsDAB) (s : State) : Host.Outcome State Fault Refusal := .next (alu2 (.sub o) o.d o.a o.b (fun x y => x - y) s)

/-- `and` (R154). -/
def execAnd (o : OpsDAB) (s : State) : Host.Outcome State Fault Refusal := .next (alu2 (.and o) o.d o.a o.b (fun x y => x &&& y) s)

/-- `or` (R154). -/
def execOr (o : OpsDAB) (s : State) : Host.Outcome State Fault Refusal := .next (alu2 (.or o) o.d o.a o.b (fun x y => x ||| y) s)

/-- `xor` (R154). -/
def execXor (o : OpsDAB) (s : State) : Host.Outcome State Fault Refusal := .next (alu2 (.xor o) o.d o.a o.b (fun x y => x ^^^ y) s)

/-- `andn` (R154). -/
def execAndn (o : OpsDAB) (s : State) : Host.Outcome State Fault Refusal := .next (alu2 (.andn o) o.d o.a o.b (fun x y => x &&& ~~~y) s)

/-- `sll` (R154). -/
def execSll (o : OpsDAB) (s : State) : Host.Outcome State Fault Refusal := .next (alu2 (.sll o) o.d o.a o.b sllOf s)

/-- `srl` (R154). -/
def execSrl (o : OpsDAB) (s : State) : Host.Outcome State Fault Refusal := .next (alu2 (.srl o) o.d o.a o.b srlOf s)

/-- `sra` (R154). -/
def execSra (o : OpsDAB) (s : State) : Host.Outcome State Fault Refusal := .next (alu2 (.sra o) o.d o.a o.b sraOf s)

/-- `slt` (R154). -/
def execSlt (o : OpsDAB) (s : State) : Host.Outcome State Fault Refusal := .next (alu2 (.slt o) o.d o.a o.b sltOf s)

/-- `sltu` (R154). -/
def execSltu (o : OpsDAB) (s : State) : Host.Outcome State Fault Refusal := .next (alu2 (.sltu o) o.d o.a o.b sltuOf s)

/-- `min` (R154). -/
def execMin (o : OpsDAB) (s : State) : Host.Outcome State Fault Refusal := .next (alu2 (.min o) o.d o.a o.b minOf s)

/-- `max` (R154). -/
def execMax (o : OpsDAB) (s : State) : Host.Outcome State Fault Refusal := .next (alu2 (.max o) o.d o.a o.b maxOf s)

/-- `minu` (R154). -/
def execMinu (o : OpsDAB) (s : State) : Host.Outcome State Fault Refusal := .next (alu2 (.minu o) o.d o.a o.b minuOf s)

/-- `maxu` (R154). -/
def execMaxu (o : OpsDAB) (s : State) : Host.Outcome State Fault Refusal := .next (alu2 (.maxu o) o.d o.a o.b maxuOf s)

/-- `clz` (R154). -/
def execClz (o : OpsDA) (s : State) : Host.Outcome State Fault Refusal := .next (alu1 (.clz o) o.d o.a clzOf s)

/-- `ctz` (R154). -/
def execCtz (o : OpsDA) (s : State) : Host.Outcome State Fault Refusal := .next (alu1 (.ctz o) o.d o.a ctzOf s)

/-- `popc` (R154). -/
def execPopc (o : OpsDA) (s : State) : Host.Outcome State Fault Refusal := .next (alu1 (.popc o) o.d o.a popcOf s)

/-- `sext.w` (R154). -/
def execSextW (o : OpsDA) (s : State) : Host.Outcome State Fault Refusal := .next (alu1 (.sextW o) o.d o.a (fun x => (x.setWidth 32).signExtend 64) s)

/-- `zext.w` (R154). -/
def execZextW (o : OpsDA) (s : State) : Host.Outcome State Fault Refusal := .next (alu1 (.zextW o) o.d o.a (fun x => (x.setWidth 32).setWidth 64) s)

/-- `bext` (R154). -/
def execBext (o : OpsDAB) (s : State) : Host.Outcome State Fault Refusal := .next (alu2 (.bext o) o.d o.a o.b bextOf s)

/-- `addi` (R155). -/
def execAddi (o : OpsI) (s : State) : Host.Outcome State Fault Refusal := .next (alu1 (.addi o) o.d o.a (fun x => x + immVal o.imm) s)

/-- `andi` (R155). -/
def execAndi (o : OpsI) (s : State) : Host.Outcome State Fault Refusal := .next (alu1 (.andi o) o.d o.a (fun x => x &&& immVal o.imm) s)

/-- `ori` (R155). -/
def execOri (o : OpsI) (s : State) : Host.Outcome State Fault Refusal := .next (alu1 (.ori o) o.d o.a (fun x => x ||| immVal o.imm) s)

/-- `xori` (R155). -/
def execXori (o : OpsI) (s : State) : Host.Outcome State Fault Refusal := .next (alu1 (.xori o) o.d o.a (fun x => x ^^^ immVal o.imm) s)

/-- `slti` (R155). -/
def execSlti (o : OpsI) (s : State) : Host.Outcome State Fault Refusal := .next (alu1 (.slti o) o.d o.a (fun x => sltOf x (immVal o.imm)) s)

/-- `sltiu` (R155). -/
def execSltiu (o : OpsI) (s : State) : Host.Outcome State Fault Refusal := .next (alu1 (.sltiu o) o.d o.a (fun x => sltuOf x (immVal o.imm)) s)

/-- `slli` (R156). -/
def execSlli (o : OpsShift) (s : State) : Host.Outcome State Fault Refusal := .next (alu1 (.slli o) o.d o.a (fun x => x <<< o.sh.toNat) s)

/-- `srli` (R156). -/
def execSrli (o : OpsShift) (s : State) : Host.Outcome State Fault Refusal := .next (alu1 (.srli o) o.d o.a (fun x => x >>> o.sh.toNat) s)

/-- `srai` (R156). -/
def execSrai (o : OpsShift) (s : State) : Host.Outcome State Fault Refusal := .next (alu1 (.srai o) o.d o.a (fun x => x.sshiftRight o.sh.toNat) s)

/-- `lih` (R157). -/
def execLih (o : OpsU) (s : State) : Host.Outcome State Fault Refusal :=
  .next (issue (.lih o) (fun s i => finishOp (writeDest s i o.d (o.imm.signExtend 64 <<< 14)) i (.lih o)) s)

/-- `mul` (R158). -/
def execMul (o : OpsDAB) (s : State) : Host.Outcome State Fault Refusal := .next (alu2 (.mul o) o.d o.a o.b (fun x y => x * y) s)

/-- `mulh` (R158). -/
def execMulh (o : OpsDAB) (s : State) : Host.Outcome State Fault Refusal := .next (alu2 (.mulh o) o.d o.a o.b mulhOf s)

/-- `mulhu` (R158). -/
def execMulhu (o : OpsDAB) (s : State) : Host.Outcome State Fault Refusal := .next (alu2 (.mulhu o) o.d o.a o.b mulhuOf s)

/-- `mulhsu` (R158). -/
def execMulhsu (o : OpsDAB) (s : State) : Host.Outcome State Fault Refusal := .next (alu2 (.mulhsu o) o.d o.a o.b mulhsuOf s)

/-- `div` (R158): outstanding. -/
def execDiv (o : OpsDAB) (s : State) : Host.Outcome State Fault Refusal := .next (outstanding2 (.div o) o.d o.a o.b divOf s)

/-- `divu` (R158): outstanding. -/
def execDivu (o : OpsDAB) (s : State) : Host.Outcome State Fault Refusal := .next (outstanding2 (.divu o) o.d o.a o.b divuOf s)

/-- `rem` (R158): outstanding. -/
def execRem (o : OpsDAB) (s : State) : Host.Outcome State Fault Refusal := .next (outstanding2 (.rem o) o.d o.a o.b remOf s)

/-- `remu` (R158): outstanding. -/
def execRemu (o : OpsDAB) (s : State) : Host.Outcome State Fault Refusal := .next (outstanding2 (.remu o) o.d o.a o.b remuOf s)

end Sys2Proof.Machine
end

