-- ==== Sys2Proof/Machine/ControlFlow.lean ====
section
/-!
DEFINITION. Branches, jumps and loops (R159 to R163), traps and control registers (R170 to R175).
-/
namespace Sys2Proof.Machine

/-! ### Shared forms -/

/-- A branch of major 0x0B: taken when the test holds, to pc + 4·sext(off10) (R159). -/
def branch (ins : Instr) (a b : Reg) (off : BitVec 10) (test : Word → Word → Bool) (s : State) : State :=
  issue ins (fun s i =>
    let (x, s) := takeX s i a
    let (y, s) := takeX s i b
    let pc := (s.fir i).pc
    complete s i (if test x y then .branch (pc + off.signExtend 64 * 4) else .next (pc + 4))) s

/-- A loop level for the body that starts behind a loop instruction at `pc` (R161, R162). -/
def loopLevel (pc : Word) (dist : BitVec 13) (n : Nat) : Loop where
  act := true
  start := ((pc + 4) >>> 2).setWidth 15
  stop := (loopEnd pc dist >>> 2).setWidth 15
  lc := BitVec.ofNat 32 (n - 1)

/-- Starts a loop of count `n`, its faults being checked: a zero count skips the body, any other pushes the current level (R161). -/
def startLoop (s : State) (i : CtxId) (dist : BitVec 13) (n : Nat) : State :=
  let f := s.fir i
  let stop := loopEnd f.pc dist
  if n = 0 then complete s i (.next (stop + BitVec.ofNat 64 (4 * wordCount (fetchWord s i.core stop.toNat))))
  else
    let s1 := s.modFir i fun f => { f with
      outer := if f.inner.act then f.inner else f.outer
      inner := loopLevel f.pc dist n }
    complete s1 i (.next (f.pc + 4))

/-- Counts an instruction whose completion changes no loop level. -/
def countRetired (s : State) (i : CtxId) : State := s.modCtx i fun k => { k with retired := k.retired + 1, reason := 0 }

/-! ### Meanings -/

/-- `beq` (R159). -/
def execBeq (o : OpsB) (s : State) : Host.Outcome State Fault Refusal := .next (branch (.beq o) o.a o.b o.off (fun x y => x == y) s)

/-- `bne` (R159). -/
def execBne (o : OpsB) (s : State) : Host.Outcome State Fault Refusal := .next (branch (.bne o) o.a o.b o.off (fun x y => x != y) s)

/-- `blt` (R159). -/
def execBlt (o : OpsB) (s : State) : Host.Outcome State Fault Refusal := .next (branch (.blt o) o.a o.b o.off (fun x y => x.slt y) s)

/-- `bge` (R159). -/
def execBge (o : OpsB) (s : State) : Host.Outcome State Fault Refusal := .next (branch (.bge o) o.a o.b o.off (fun x y => !x.slt y) s)

/-- `bltu` (R159). -/
def execBltu (o : OpsB) (s : State) : Host.Outcome State Fault Refusal := .next (branch (.bltu o) o.a o.b o.off (fun x y => x.ult y) s)

/-- `bgeu` (R159). -/
def execBgeu (o : OpsB) (s : State) : Host.Outcome State Fault Refusal := .next (branch (.bgeu o) o.a o.b o.off (fun x y => !x.ult y) s)

/-- `bbs` (R159). -/
def execBbs (o : OpsB) (s : State) : Host.Outcome State Fault Refusal := .next (branch (.bbs o) o.a o.b o.off (fun x y => bitAt x (shiftAmt y)) s)

/-- `bbc` (R159). -/
def execBbc (o : OpsB) (s : State) : Host.Outcome State Fault Refusal := .next (branch (.bbc o) o.a o.b o.off (fun x y => !bitAt x (shiftAmt y)) s)

/-- `jal` (R160). -/
def execJal (o : OpsJ) (s : State) : Host.Outcome State Fault Refusal :=
  .next (issue (.jal o) (fun s i =>
    let pc := (s.fir i).pc
    complete (writeDest s i o.d (pc + 4)) i (.jump (pc + o.off.signExtend 64 * 4))) s)

/-- `jalr` (R160): x[a] is read before x[d] is written. -/
def execJalr (o : OpsI) (s : State) : Host.Outcome State Fault Refusal :=
  .next (issue (.jalr o) (fun s i =>
    let (x, s) := takeX s i o.a
    let pc := (s.fir i).pc
    complete (writeDest s i o.d (pc + BitVec.ofNat 64 (byteLen (.jalr o)))) i (.jump (x + immVal o.imm))) s)

/-- `loop` (R161): the count is x[a][31:0]. -/
def execLoop (o : OpsLoop) (s : State) : Host.Outcome State Fault Refusal :=
  .next (issue (.loop o) (fun s i =>
    let (x, s) := takeX s i o.a
    startLoop s i o.dist (fld x 31 0)) s)

/-- `loopi` (R161). -/
def execLoopi (o : OpsLoopi) (s : State) : Host.Outcome State Fault Refusal := .next (issue (.loopi o) (fun s i => startLoop s i o.dist o.cnt.toNat) s)

/-- `nop` (R170). -/
def execNop (o : OpsW) (s : State) : Host.Outcome State Fault Refusal := .next (issue (.nop o) (fun s i => finishOp s i (.nop o)) s)

/-- `trap` (R171): it completes, then enters the handler. -/
def execTrap (o : OpsTrap) (s : State) : Host.Outcome State Fault Refusal :=
  .next (issue (.trap o) (fun s i =>
    let s1 := finishOp s i (.trap o)
    takeTrap s1 i ⟨(s1.fir i).pc, 0x07, o.code.setWidth 64, none⟩) s)

/-- `eret` (R172): its completion changes no loop level (R163). -/
def execEret (o : OpsW) (s : State) : Host.Outcome State Fault Refusal := .next (issue (.eret o) (fun s i => countRetired (returnTrap s i) i) s)

/-- `getc` (R173). -/
def execGetc (o : OpsGetc) (s : State) : Host.Outcome State Fault Refusal :=
  .next (issue (.getc o) (fun s i => finishOp (writeDest s i o.d (cregRead s i o.creg.toNat)) i (.getc o)) s)

/-- `setc` (R173): the write takes effect before the next instruction. -/
def execSetc (o : OpsSetc) (s : State) : Host.Outcome State Fault Refusal :=
  .next (issue (.setc o) (fun s i =>
    let (x, s) := takeX s i o.a
    finishOp (cregWrite s i o.creg.toNat x) i (.setc o)) s)

/-- `park` (R174): the context waits with reason 0x5 until an event ends it. -/
def execPark (o : OpsDA) (s : State) : Host.Outcome State Fault Refusal :=
  .next (issue (.park o) (fun s i =>
    let line := if o.a.val = 0 then none else some ((peekX s i o.a).toNat / 128)
    s.modCtx i fun k => { k with parked := some ⟨s.now, line, o.d, o.a⟩, evLine := false, reason := 0x5 }) s)

/-- `bkpt` (R171): a trap without completing. -/
def execBkpt (o : OpsW) (s : State) : Host.Outcome State Fault Refusal :=
  .next (issue (.bkpt o) (fun s i => takeTrap s i ⟨(s.fir i).pc, 0x08, 0, none⟩) s)

/-- `xinv` (R175): outstanding, and a release at its scope. -/
def execXinv (o : OpsXinv) (s : State) : Host.Outcome State Fault Refusal :=
  .next (issue (.xinv o) (fun s i =>
    let (x, s) := takeX s i o.a
    finishOp (takeOne s i x (.x o.d) .whole (.xinv o.kind.val o.scope x) (some o.scope)) i (.xinv o)) s)

end Sys2Proof.Machine
end

