-- ==== Sys2Proof/Machine/Floating.lean ====
section
/-!
DEFINITION. Scalar floating instructions (R148, R149, R151, R165 to R169).
-/
namespace Sys2Proof.Machine

/-! ### Shared forms -/

/-- The fpctl of a context as the instruction finds it at issue (R139). -/
def fpctlOf (s : State) (i : CtxId) : BitVec 13 := (s.ctx i).fpctl

/-- A floating operand: the low bits of a register (R131). -/
def lowBits (f : FpFmt) (x : Word) : Nat := x.toNat % 2 ^ f.width

/-- An immediate floating result with its flags: the bits above it are clear (R165). -/
def writeFp (s : State) (i : CtxId) (d : Reg) (r : Nat × Flags) : State := addFlags (writeDest s i d (BitVec.ofNat 64 r.1)) i r.2

/-- A floating instruction of x[a]: what it gives under fpctl. -/
def float1 (ins : Instr) (f : FpFmt) (d a : Reg) (op : BitVec 13 → Nat → Nat × Flags) (s : State) : State :=
  issue ins (fun s i =>
    let (x, s) := takeX s i a
    finishOp (writeFp s i d (op (fpctlOf s i) (lowBits f x))) i ins) s

/-- A floating instruction of x[a] and x[b]. -/
def float2 (ins : Instr) (f : FpFmt) (d a b : Reg) (op : BitVec 13 → Nat → Nat → Nat × Flags) (s : State) : State :=
  issue ins (fun s i =>
    let (x, s) := takeX s i a
    let (y, s) := takeX s i b
    finishOp (writeFp s i d (op (fpctlOf s i) (lowBits f x) (lowBits f y))) i ins) s

/-- A fused multiply-add of x[a], x[b] and x[c] (R169): `np` and `nz` negate the product and the addend. -/
def float3 (ins : Instr) (o : OpsF3) (np nz : Bool) (s : State) : State :=
  issue ins (fun s i =>
    let (x, s) := takeX s i o.a
    let (y, s) := takeX s i o.b
    let (z, s) := takeX s i o.c
    let f := (fpOf o.fmt)
    let r := fpFma f (envOf (fpctlOf s i) f o.rm) np nz (lowBits f x) (lowBits f y) (lowBits f z)
    finishOp (writeFp s i o.d r) i ins) s

/-- The rounding mode of a scalar floating instruction: RNE in the one-word form (R43, R165). -/
def extRm : Option RM → RM
  | some rm => rm
  | none => .rne

/-- A comparison's result as an integer. -/
def boolPair (r : Bool × Flags) : Nat × Flags := (boolNat r.1, r.2)

/-- A narrowing conversion from FP32 with pk (R146, R168). -/
def narrow (ins : Instr) (dst : FpFmt) (d a : Reg) (rm : RM) (pk : Bool) (s : State) : State :=
  issue ins (fun s i =>
    let (x, s) := takeX s i a
    let env := convEnv (fpctlOf s i) fp32 dst rm
    let bits := lowBits fp32 x
    let s1 := if pk then addPeak s i [operand fp32 env.daz bits] else s
    finishOp (writeFp s1 i d (fpConvert fp32 dst env.daz env bits)) i ins) s

/-! ### Meanings -/

/-- `fadd` (R166). -/
def execFadd (o : OpsF2R) (s : State) : Host.Outcome State Fault Refusal := 
  .next (float2 (.fadd o) (fpOf o.fmt) o.d o.a o.b (fun c => fpAdd (fpOf o.fmt) (envOf c (fpOf o.fmt) (extRm o.ext))) s)

/-- `fsub` (R166). -/
def execFsub (o : OpsF2R) (s : State) : Host.Outcome State Fault Refusal := 
  .next (float2 (.fsub o) (fpOf o.fmt) o.d o.a o.b (fun c => fpSub (fpOf o.fmt) (envOf c (fpOf o.fmt) (extRm o.ext))) s)

/-- `fmul` (R166). -/
def execFmul (o : OpsF2R) (s : State) : Host.Outcome State Fault Refusal := 
  .next (float2 (.fmul o) (fpOf o.fmt) o.d o.a o.b (fun c => fpMul (fpOf o.fmt) (envOf c (fpOf o.fmt) (extRm o.ext))) s)

/-- `fdiv` (R152, R166): outstanding; its rounding mode is the one at issue. -/
def execFdiv (o : OpsF2R) (s : State) : Host.Outcome State Fault Refusal :=
  .next (issue (.fdiv o) (fun s i =>
    let (x, s) := takeX s i o.a
    let (y, s) := takeX s i o.b
    let f := (fpOf o.fmt)
    let r := fpDiv f (envOf (fpctlOf s i) f (extRm o.ext)) (lowBits f x) (lowBits f y)
    finishOp (takeValue s i x o.d r.1 r.2) i (.fdiv o)) s)

/-- `fsqrt` (R152, R166): outstanding. -/
def execFsqrt (o : OpsF1R) (s : State) : Host.Outcome State Fault Refusal :=
  .next (issue (.fsqrt o) (fun s i =>
    let (x, s) := takeX s i o.a
    let f := (fpOf o.fmt)
    let r := fpSqrt f (envOf (fpctlOf s i) f (extRm o.ext)) (lowBits f x)
    finishOp (takeValue s i x o.d r.1 r.2) i (.fsqrt o)) s)

/-- `fmin` (R167). -/
def execFmin (o : OpsF2) (s : State) : Host.Outcome State Fault Refusal := 
  .next (float2 (.fmin o) (fpOf o.fmt) o.d o.a o.b (fun c => fpMinMax (fpOf o.fmt) (dazOf c (fpOf o.fmt)) false) s)

/-- `fmax` (R167). -/
def execFmax (o : OpsF2) (s : State) : Host.Outcome State Fault Refusal := 
  .next (float2 (.fmax o) (fpOf o.fmt) o.d o.a o.b (fun c => fpMinMax (fpOf o.fmt) (dazOf c (fpOf o.fmt)) true) s)

/-- `feq` (R167). -/
def execFeq (o : OpsF2) (s : State) : Host.Outcome State Fault Refusal := 
  .next (float2 (.feq o) (fpOf o.fmt) o.d o.a o.b (fun c x y => boolPair (fpCmp (fpOf o.fmt) (dazOf c (fpOf o.fmt)) 0 x y)) s)

/-- `flt` (R167). -/
def execFlt (o : OpsF2) (s : State) : Host.Outcome State Fault Refusal := 
  .next (float2 (.flt o) (fpOf o.fmt) o.d o.a o.b (fun c x y => boolPair (fpCmp (fpOf o.fmt) (dazOf c (fpOf o.fmt)) 1 x y)) s)

/-- `fle` (R167). -/
def execFle (o : OpsF2) (s : State) : Host.Outcome State Fault Refusal := 
  .next (float2 (.fle o) (fpOf o.fmt) o.d o.a o.b (fun c x y => boolPair (fpCmp (fpOf o.fmt) (dazOf c (fpOf o.fmt)) 2 x y)) s)

/-- `fclass` (R167). -/
def execFclass (o : OpsF1) (s : State) : Host.Outcome State Fault Refusal := 
  .next (float1 (.fclass o) (fpOf o.fmt) o.d o.a (fun c x => (fpClass (fpOf o.fmt) (dazOf c (fpOf o.fmt)) x, 0)) s)

/-- `fsgnj` (R167). -/
def execFsgnj (o : OpsF2) (s : State) : Host.Outcome State Fault Refusal := 
  .next (float2 (.fsgnj o) (fpOf o.fmt) o.d o.a o.b (fun c => fpSgnj (fpOf o.fmt) (dazOf c (fpOf o.fmt)) false) s)

/-- `fsgnjn` (R167). -/
def execFsgnjn (o : OpsF2) (s : State) : Host.Outcome State Fault Refusal := 
  .next (float2 (.fsgnjn o) (fpOf o.fmt) o.d o.a o.b (fun c => fpSgnj (fpOf o.fmt) (dazOf c (fpOf o.fmt)) true) s)

/-- `fcvt.f32.i64` (R168): all 64 bits of x[a]. -/
def execFcvtF32I64 (o : OpsCvtR) (s : State) : Host.Outcome State Fault Refusal :=
  .next (issue (.fcvtF32I64 o) (fun s i =>
    let (x, s) := takeX s i o.a
    finishOp (writeFp s i o.d (intToFp fp32 (envOf (fpctlOf s i) fp32 (extRm o.ext)) x.toInt)) i (.fcvtF32I64 o)) s)

/-- `fcvt.i64.f32` (R168): writes all 64 bits of x[d]. -/
def execFcvtI64F32 (o : OpsCvtR) (s : State) : Host.Outcome State Fault Refusal :=
  .next (issue (.fcvtI64F32 o) (fun s i =>
    let (x, s) := takeX s i o.a
    let c := fpctlOf s i
    let r := fpToInt 64 (modeOf c (extRm o.ext)) (operand fp32 (dazOf c fp32) (lowBits fp32 x))
    finishOp (addFlags (writeDest s i o.d (BitVec.ofInt 64 r.1)) i r.2) i (.fcvtI64F32 o)) s)

/-- `fcvt.f32.bf16` (R168): exact. -/
def execFcvtF32Bf16 (o : OpsCvt) (s : State) : Host.Outcome State Fault Refusal :=
  .next (float1 (.fcvtF32Bf16 o) fpBf16 o.d o.a (fun c => fpConvert fpBf16 fp32 (dazOf c fpBf16) (convEnv c fpBf16 fp32 .rne)) s)

/-- `fcvt.bf16.f32` (R168). -/
def execFcvtBf16F32 (o : OpsCvtP) (s : State) : Host.Outcome State Fault Refusal :=
  .next (narrow (.fcvtBf16F32 o) fpBf16 o.d o.a (extRm (o.ext.map (·.1))) ((o.ext.map (·.2)).getD false) s)

/-- `fcvt.f32.f16` (R168): exact. -/
def execFcvtF32F16 (o : OpsCvt) (s : State) : Host.Outcome State Fault Refusal :=
  .next (float1 (.fcvtF32F16 o) fp16 o.d o.a (fun c => fpConvert fp16 fp32 (dazOf c fp16) (convEnv c fp16 fp32 .rne)) s)

/-- `fcvt.f16.f32` (R168). -/
def execFcvtF16F32 (o : OpsCvtP) (s : State) : Host.Outcome State Fault Refusal :=
  .next (narrow (.fcvtF16F32 o) fp16 o.d o.a (extRm (o.ext.map (·.1))) ((o.ext.map (·.2)).getD false) s)

/-- `frsqe` (R148, R151). -/
def execFrsqe (o : OpsF1) (s : State) : Host.Outcome State Fault Refusal :=
  .next (float1 (.frsqe o) (fpOf o.fmt) o.d o.a (fun c => fpRsqe (fpOf o.fmt) (envOf c (fpOf o.fmt) .rne)) s)

/-- `frcpe` (R149, R151). -/
def execFrcpe (o : OpsF1) (s : State) : Host.Outcome State Fault Refusal :=
  .next (float1 (.frcpe o) (fpOf o.fmt) o.d o.a (fun c => fpRcpe (fpOf o.fmt) (envOf c (fpOf o.fmt) .rne)) s)

/-- `fmadd` (R169). -/
def execFmadd (o : OpsF3) (s : State) : Host.Outcome State Fault Refusal := .next (float3 (.fmadd o) o false false s)

/-- `fmsub` (R169). -/
def execFmsub (o : OpsF3) (s : State) : Host.Outcome State Fault Refusal := .next (float3 (.fmsub o) o false true s)

/-- `fnmadd` (R169). -/
def execFnmadd (o : OpsF3) (s : State) : Host.Outcome State Fault Refusal := .next (float3 (.fnmadd o) o true true s)

/-- `fnmsub` (R169). -/
def execFnmsub (o : OpsF3) (s : State) : Host.Outcome State Fault Refusal := .next (float3 (.fnmsub o) o true false s)

end Sys2Proof.Machine
end

