-- ==== Sys2Proof/Machine/Memory.lean ====
section
/-!
DEFINITION. Scalar memory instructions: loads, stores, atomics, fences (R205 to R214), full/empty bits (R215), windows (R216) and copies
(R217).
-/
namespace Sys2Proof.Machine

/-! ### Shared forms -/

/-- A load of `n` bytes into x[d] (R206): outstanding. -/
def load (ins : Instr) (d a : Reg) (off : Word) (n : Nat) (ext : Ext) (s : State) : State :=
  issue ins (fun s i =>
    let (x, s) := takeX s i a
    finishOp (takeOne s i (x + off) (.x d) ext (.load n) none) i ins) s

/-- A store (R208): posted; `func` is its func3 and `rel` its release scope. -/
def store (ins : Instr) (d a : Reg) (off : Word) (func : Nat) (rel : Option Scope) (s : State) : State :=
  issue ins (fun s i =>
    let (x, s) := takeX s i a
    let (y, s) := takeX s i d
    finishOp (postAccesses s i [newAccess s i (nextNum s i) (x + off) (.store func y) 0 rel]) i ins) s

/-- An atomic (R210, R211): operand x[b], expected value x[d]; the old value is outstanding. -/
def atomic (ins : Instr) (d a b : Reg) (op : Nat) (dbl : Bool) (ext : Ext) (s : State) : State :=
  issue ins (fun s i =>
    let (x, s) := takeX s i a
    let (y, s) := takeX s i b
    let (z, s) := takeX s i d
    finishOp (takeOne s i x (.x d) ext (.atomic op dbl y z) none) i ins) s

/-- How the old value of an integer atomic lands: a word is sign-extended (R211). -/
def amoExt (dbl : Bool) : Ext := if dbl then .whole else .sign 4

/-- An operation on each of `n` lines from the line of an own-scratchpad address (R215). -/
def eachLine (f : State → Nat → Nat → State) (s : State) (c : Nat) (x : Word) (n : Nat) : State :=
  (List.range n).foldl (fun s k => f s c (x.toNat / 128 + k)) s

/-- The image that `win.set` writes for entry e: the fields of R116 but state and v, of which v is set. -/
def windowImage (v : Nat) : BitVec 256 := BitVec.ofNat 256
  (packFields [(bitsOf v 255 112, 112), (bitsOf v 31 12, 12), (1, 0)])

/-! ### Meanings -/

/-- `ld.b` (R206). -/
def execLdB (o : OpsM) (s : State) : Host.Outcome State Fault Refusal := .next (load (.ldB o) o.d o.a (offVal o.off) 1 (.sign 1) s)

/-- `ld.bu` (R206). -/
def execLdBu (o : OpsM) (s : State) : Host.Outcome State Fault Refusal := .next (load (.ldBu o) o.d o.a (offVal o.off) 1 (.zero 1) s)

/-- `ld.h` (R206). -/
def execLdH (o : OpsM) (s : State) : Host.Outcome State Fault Refusal := .next (load (.ldH o) o.d o.a (offVal o.off) 2 (.sign 2) s)

/-- `ld.hu` (R206). -/
def execLdHu (o : OpsM) (s : State) : Host.Outcome State Fault Refusal := .next (load (.ldHu o) o.d o.a (offVal o.off) 2 (.zero 2) s)

/-- `ld.w` (R206). -/
def execLdW (o : OpsM) (s : State) : Host.Outcome State Fault Refusal := .next (load (.ldW o) o.d o.a (offVal o.off) 4 (.sign 4) s)

/-- `ld.wu` (R206). -/
def execLdWu (o : OpsM) (s : State) : Host.Outcome State Fault Refusal := .next (load (.ldWu o) o.d o.a (offVal o.off) 4 (.zero 4) s)

/-- `ld.d` (R206). -/
def execLdD (o : OpsM) (s : State) : Host.Outcome State Fault Refusal := .next (load (.ldD o) o.d o.a (offVal o.off) 8 .whole s)

/-- `ld.acq` (R207): its entry is an acquire until it has been performed; the one-word form has package scope (R43). -/
def execLdAcq (o : OpsMS) (s : State) : Host.Outcome State Fault Refusal :=
  .next (issue (.ldAcq o) (fun s i =>
    let (x, s) := takeX s i o.a
    let va := x + offVal o.off
    let e := { newEntry s i va (.x o.d) .whole 0 with acq := some (o.scope.getD .package) }
    finishOp (takeEntry s i e [newAccess s i (nextNum s i) va (.load 8) 0 none]) i (.ldAcq o)) s)

/-- `st.b` (R208). -/
def execStB (o : OpsM) (s : State) : Host.Outcome State Fault Refusal := .next (store (.stB o) o.d o.a (offVal o.off) 0 none s)

/-- `st.h` (R208). -/
def execStH (o : OpsM) (s : State) : Host.Outcome State Fault Refusal := .next (store (.stH o) o.d o.a (offVal o.off) 1 none s)

/-- `st.w` (R208). -/
def execStW (o : OpsM) (s : State) : Host.Outcome State Fault Refusal := .next (store (.stW o) o.d o.a (offVal o.off) 2 none s)

/-- `st.d` (R208). -/
def execStD (o : OpsM) (s : State) : Host.Outcome State Fault Refusal := .next (store (.stD o) o.d o.a (offVal o.off) 3 none s)

/-- `st.rel` (R209): package scope in the one-word form. -/
def execStRel (o : OpsMS) (s : State) : Host.Outcome State Fault Refusal := .next (store (.stRel o) o.d o.a (offVal o.off) 4 (some (o.scope.getD .package)) s)

/-- `stf` (R209): a release at package scope that sets the line full. -/
def execStf (o : OpsM) (s : State) : Host.Outcome State Fault Refusal := .next (store (.stf o) o.d o.a (offVal o.off) 5 (some .package) s)

/-- `amo.add` (R211). -/
def execAmoAdd (o : OpsAmo) (s : State) : Host.Outcome State Fault Refusal := .next (atomic (.amoAdd o) o.d o.a o.b 0 o.dbl (amoExt o.dbl) s)

/-- `amo.and` (R211). -/
def execAmoAnd (o : OpsAmo) (s : State) : Host.Outcome State Fault Refusal := .next (atomic (.amoAnd o) o.d o.a o.b 1 o.dbl (amoExt o.dbl) s)

/-- `amo.or` (R211). -/
def execAmoOr (o : OpsAmo) (s : State) : Host.Outcome State Fault Refusal := .next (atomic (.amoOr o) o.d o.a o.b 2 o.dbl (amoExt o.dbl) s)

/-- `amo.xor` (R211). -/
def execAmoXor (o : OpsAmo) (s : State) : Host.Outcome State Fault Refusal := .next (atomic (.amoXor o) o.d o.a o.b 3 o.dbl (amoExt o.dbl) s)

/-- `amo.min` (R211). -/
def execAmoMin (o : OpsAmo) (s : State) : Host.Outcome State Fault Refusal := .next (atomic (.amoMin o) o.d o.a o.b 4 o.dbl (amoExt o.dbl) s)

/-- `amo.max` (R211). -/
def execAmoMax (o : OpsAmo) (s : State) : Host.Outcome State Fault Refusal := .next (atomic (.amoMax o) o.d o.a o.b 5 o.dbl (amoExt o.dbl) s)

/-- `amo.minu` (R211). -/
def execAmoMinu (o : OpsAmo) (s : State) : Host.Outcome State Fault Refusal := .next (atomic (.amoMinu o) o.d o.a o.b 6 o.dbl (amoExt o.dbl) s)

/-- `amo.maxu` (R211). -/
def execAmoMaxu (o : OpsAmo) (s : State) : Host.Outcome State Fault Refusal := .next (atomic (.amoMaxu o) o.d o.a o.b 7 o.dbl (amoExt o.dbl) s)

/-- `amo.swap` (R211). -/
def execAmoSwap (o : OpsAmo) (s : State) : Host.Outcome State Fault Refusal := .next (atomic (.amoSwap o) o.d o.a o.b 8 o.dbl (amoExt o.dbl) s)

/-- `amo.cas` (R211). -/
def execAmoCas (o : OpsAmo) (s : State) : Host.Outcome State Fault Refusal := .next (atomic (.amoCas o) o.d o.a o.b 9 o.dbl (amoExt o.dbl) s)

/-- `amo.fadd.f32` (R211). -/
def execAmoFaddF32 (o : OpsDAB) (s : State) : Host.Outcome State Fault Refusal := .next (atomic (.amoFaddF32 o) o.d o.a o.b 10 false (.zero 4) s)

/-- `amo.fadd.bf16x2` (R211). -/
def execAmoFaddBf16x2 (o : OpsDAB) (s : State) : Host.Outcome State Fault Refusal := .next (atomic (.amoFaddBf16x2 o) o.d o.a o.b 11 false (.zero 4) s)

/-- `fence` (R213): acquire and full fences have waited at the boundary; a release fence holds later accesses until those before it have
been performed. -/
def execFence (o : OpsFence) (s : State) : Host.Outcome State Fault Refusal :=
  .next (issue (.fence o) (fun s i =>
    let k := s.ctx i
    let s1 := match o.kind with
      | .rel => if k.acc.isEmpty && k.inj.isEmpty then s
        else postAccesses s i [newAccess s i (nextNum s i) 0 .fence 0 (some o.scope)]
      | _ => s
    finishOp s1 i (.fence o)) s)

/-- `drain` (R214): its waits and its trap are at the boundary. -/
def execDrain (o : OpsW) (s : State) : Host.Outcome State Fault Refusal := .next (issue (.drain o) (fun s i => finishOp s i (.drain o)) s)

/-- `fe.clr` (R215). -/
def execFeClr (o : OpsFe) (s : State) : Host.Outcome State Fault Refusal :=
  .next (issue (.feClr o) (fun s i =>
    let (x, s) := takeX s i o.a
    finishOp (eachLine setEmpty s i.core x (o.n1.toNat + 1)) i (.feClr o)) s)

/-- `fe.set` (R215). -/
def execFeSet (o : OpsFe) (s : State) : Host.Outcome State Fault Refusal :=
  .next (issue (.feSet o) (fun s i =>
    let (x, s) := takeX s i o.a
    finishOp (eachLine setFull s i.core x (o.n1.toNat + 1)) i (.feSet o)) s)

/-- `fe.test` (R215). -/
def execFeTest (o : OpsDA) (s : State) : Host.Outcome State Fault Refusal :=
  .next (issue (.feTest o) (fun s i =>
    let (x, s) := takeX s i o.a
    let l := x.toNat / 128
    let v := packFields [(boolNat (lineFilling s i.core l), 1), (boolNat (!lineEmpty s i.core l), 0)]
    finishOp (writeDest s i o.d (BitVec.ofNat 64 v)) i (.feTest o)) s)

/-- `fe.peek` (R215): outstanding. -/
def execFePeek (o : OpsDA) (s : State) : Host.Outcome State Fault Refusal :=
  .next (issue (.fePeek o) (fun s i =>
    let (x, s) := takeX s i o.a
    finishOp (takeOne s i x (.x o.d) .whole .peek none) i (.fePeek o)) s)

/-- `win.set` (R216): the image's own conditions come before the entry's state (DEDUCED, notes/assumptions/20.md). -/
def execWinSet (o : OpsWinSet) (s : State) : Host.Outcome State Fault Refusal :=
  .next (issue (.winSet o) (fun s i =>
    let w := winAt (s.coreAt i.core) o.e.val
    let img : Window := ⟨windowImage (regsNat (s.fir i) o.a 4), false, none⟩
    let code := if !winOk (s.coreAt i.core) o.e.val img then 1 else if wState w = 1 || wState w = 3 then 2 else 0
    let s1 := if code = 0 then setWin s i.core o.e.val img else s
    finishOp (writeDest s1 i o.d (BitVec.ofNat 64 code)) i (.winSet o)) s)

/-- `win.drop` (R216, R117): at once, or once the fill has completed or been cancelled. -/
def execWinDrop (o : OpsWin) (s : State) : Host.Outcome State Fault Refusal :=
  .next (issue (.winDrop o) (fun s i =>
    let w := winAt (s.coreAt i.core) o.e.val
    let s1 := if wState w = 1 || wState w = 3 then setWin s i.core o.e.val { w with drop := true } else setWinState s i.core o.e.val 0
    finishOp s1 i (.winDrop o)) s)

/-- `win.touch` (R216). -/
def execWinTouch (o : OpsWin) (s : State) : Host.Outcome State Fault Refusal :=
  .next (issue (.winTouch o) (fun s i =>
    let w := winAt (s.coreAt i.core) o.e.val
    let s1 := if wV w && wState w = 0 then touchWindow s i.core o.e.val (requester s i) (nextNum s i) else s
    finishOp s1 i (.winTouch o)) s)

/-- `win.state` (R216). -/
def execWinState (o : OpsWinState) (s : State) : Host.Outcome State Fault Refusal :=
  .next (issue (.winState o) (fun s i =>
    let w := winAt (s.coreAt i.core) o.e.val
    finishOp (writeDest s i o.d (BitVec.ofNat 64 (packFields [(boolNat (wV w), 2), (wState w, 0)]))) i (.winState o)) s)

/-- `copy` (R217): a posted kick, a store-release at package scope. -/
def execCopy (o : OpsA) (s : State) : Host.Outcome State Fault Refusal :=
  .next (issue (.copy o) (fun s i =>
    let (x, s) := takeX s i o.a
    finishOp (postAccesses s i [newAccess s i (nextNum s i) x .kick 0 (some .package)]) i (.copy o)) s)

/-- `copy.st` (R217): the same kick, never held; whether it entered the queue is outstanding. -/
def execCopySt (o : OpsDA) (s : State) : Host.Outcome State Fault Refusal :=
  .next (issue (.copySt o) (fun s i =>
    let (x, s) := takeX s i o.a
    let a := newAccess s i (nextNum s i) x .kick 1 (some .package)
    finishOp (takeEntry s i (newEntry s i x (.x o.d) .whole 0) [a]) i (.copySt o)) s)

end Sys2Proof.Machine
end

