-- ==== Sys2Proof/Machine/Messages.lean ====
section
/-!
DEFINITION. Messages (R218 to R220) and reduction groups (R221 to R226) as instructions.
-/
namespace Sys2Proof.Machine

/-! ### Shared forms -/

/-- The header of a message of the running firing (R83). -/
def senderHeader (s : State) (i : CtxId) (bytes : Nat) (x : Ctx) (cls : Nat) : BitVec 128 :=
  let f := s.fir i
  header f.tag.toNat f.launch.toNat f.group.toNat f.depth.toNat f.stage.toNat bytes i.core (deviceNum s) x cls

/-- The payload of `send` and `mcast`: `bytes` bytes of consecutive registers (R218). -/
def regPayload (f : Firing) (a : Reg) (bytes : Nat) : Vec := BitVec.ofNat 1024 (regsNat f a ((bytes + 7) / 8) % 2 ^ (8 * bytes))

/-- A message takes an injection slot (R219). -/
def postMessage (s : State) (i : CtxId) (device : Nat) (targets : List Nat) (gid : Option Nat) (addr : Word) (m : Msg) : State :=
  let rel : Scope := if device = deviceNum s then .package else .system
  s.modCtx i fun k => { k with
    inj := k.inj ++ [⟨k.num, device, targets, m, gid, addr, 0, none, rel⟩]
    num := k.num + 1 }

/-- A message to one core, whose destination the boundary has checked. -/
def sendTo (s : State) (i : CtxId) (dest : Except Word (Nat × Nat)) (m : Msg) : State :=
  match dest with
  | .error _ => s
  | .ok (dev, n) => postMessage s i dev [n] none (BitVec.ofNat 64 (packFields [(dev, 13), (n, 0)])) m

/-- A contribution to a reduction group (R224): posted, a release at package scope. -/
def contributeOp (ins : Instr) (a : VReg) (gid : Nat) (i64 : Bool) (s : State) : State :=
  issue ins (fun s i =>
    let (v, s) := takeV s i a
    finishOp (postAccesses s i [newAccess s i (nextNum s i) 0 (.contribute gid i64 v) 0 (some .package)]) i ins) s

/-- A request that travels to a group's root (R225): outstanding. -/
def groupOp (ins : Instr) (d : VReg) (gid : Nat) (kind : AccKind) (s : State) : State :=
  issue ins (fun s i => finishOp (takeOne s i (BitVec.ofNat 64 gid) (.v (vIdx d)) .whole kind none) i ins) s

/-! ### Meanings -/

/-- `send` (R218, R219). -/
def execSend (o : OpsSend) (s : State) : Host.Outcome State Fault Refusal :=
  .next (issue (.send o) (fun s i =>
    let (y, s) := takeX s i o.b
    let m : Msg := ⟨senderHeader s i o.bytes.toNat o.ctx o.cls.val, regPayload (s.fir i) o.a o.bytes.toNat⟩
    finishOp (sendTo s i (sendDest s i o.b y o.dx o.dy) m) i (.send o)) s)

/-- `sendv` (R218, R219). -/
def execSendv (o : OpsSendv) (s : State) : Host.Outcome State Fault Refusal :=
  .next (issue (.sendv o) (fun s i =>
    let (v, s) := takeV s i o.a
    let (y, s) := takeX s i o.b
    let m : Msg := ⟨senderHeader s i 128 o.ctx o.cls.val, v⟩
    finishOp (sendTo s i (sendDest s i o.b y o.dx o.dy) m) i (.sendv o)) s)

/-- `mcast` (R220): to a group that is not armed it is dropped with a partition event (R345 bit 5). -/
def execMcast (o : OpsMcast) (s : State) : Host.Outcome State Fault Refusal :=
  .next (issue (.mcast o) (fun s i =>
    let p := (s.coreAt i.core).partition
    let g := s.rgroupAt p o.gid.val
    let m : Msg := ⟨senderHeader s i o.bytes.toNat o.ctx o.cls.val, regPayload (s.fir i) o.a o.bytes.toNat⟩
    let s1 := if g.state = .armed then postMessage s i (deviceNum s) (rMembers g) (some o.gid.val) 0 m else partEvent s p 5
    finishOp s1 i (.mcast o)) s)

/-- `grp.arm` (R221): performed at issue; its code is outstanding. -/
def execGrpArm (o : OpsArm) (s : State) : Host.Outcome State Fault Refusal :=
  .next (issue (.grpArm o) (fun s i =>
    let (x, s) := takeX s i o.a
    let (y, s) := takeX s i o.b
    let args : ArmArgs := ⟨o.gid.val, x, y, o.dx.toInt, o.dy.toInt, o.timeout.toNat, o.i64, o.yfirst⟩
    let (code, s1) := armGroup s (s.coreAt i.core).partition i.core args
    finishOp (takeValue s1 i x o.d code 0) i (.grpArm o)) s)

/-- `red.f32` (R224). -/
def execRedF32 (o : OpsRed) (s : State) : Host.Outcome State Fault Refusal := .next (contributeOp (.redF32 o) o.a o.gid.val false s)

/-- `red.i64` (R224). -/
def execRedI64 (o : OpsRed) (s : State) : Host.Outcome State Fault Refusal := .next (contributeOp (.redI64 o) o.a o.gid.val true s)

/-- `grp.wait` (R225). -/
def execGrpWait (o : OpsGrp) (s : State) : Host.Outcome State Fault Refusal :=
  .next (groupOp (.grpWait o) o.d o.gid.val (.grpWait o.gid.val) s)

/-- `grp.free` (R225). -/
def execGrpFree (o : OpsGrp) (s : State) : Host.Outcome State Fault Refusal :=
  .next (groupOp (.grpFree o) o.d o.gid.val (.grpFree o.gid.val) s)

end Sys2Proof.Machine
end

