-- ==== Sys2Proof/Machine/Work.lean ====
section
/-!
DEFINITION. The end of a firing, ranges, launches and replays as instructions (R227 to R234).
-/
namespace Sys2Proof.Machine

/-! ### Shared forms -/

/-- `done` completes (R227); inside a handler the firing ends faulted with cause[7:0], and the records it leaves are reported (R322). -/
def retire (s : State) (i : CtxId) : State :=
  let s1 := countRetired s i
  let k := s1.ctx i
  if k.fir.intrap then
    let code := k.cause.setWidth 8
    droppedRecords (endFiring s1 i (.faulted code)) i k code
  else endFiring s1 i .normal

/-- A firing that yields moves whole to the yield slot, and its continuation to the tail of the run queue (R228). -/
def moveToSlot (x : Ctx) (k : Context) : Context :=
  if k.runq.isEmpty || runqCap x ≤ k.runq.length || k.yieldSlot.isSome then k
  else { k with
    running := false
    yieldSlot := some k.fir
    runq := k.runq ++ [.cont]
    fir := { k.fir with range := none, actor := none, opened := [] } }

/-- A deque entry of the running firing (R229). -/
def ownRange (f : Firing) (a : Reg) (cls : Nat) : Range where
  lo := f.readX a
  hi := f.readX (regPlus a 1)
  arg := f.readX (regPlus a 2)
  launch := f.launch
  group := f.group
  depth := f.depth
  stage := f.stage
  cls := BitVec.ofNat 5 cls

/-- The claim of a current range by k, and what is left (R230). -/
def claim (r : Range) (k : Word) : Word × Word × Range :=
  let e := BitVec.ofNat 64 (Nat.min (r.lo.toNat + k.toNat) r.hi.toNat)
  (r.lo, e, { r with lo := e })

/-- Reads of `n` doublewords from a base: their positions in the entry's value. -/
def dwordReads (s : State) (i : CtxId) (base : Word) (n : Nat) : List Access :=
  (List.range n).map fun j => newAccess s i (nextNum s i) (base + BitVec.ofNat 64 (8 * j)) (.load 8) (8 * j) none

/-! ### Meanings -/

/-- `done` (R227, R322). -/
def execDone (o : OpsW) (s : State) : Host.Outcome State Fault Refusal := .next (issue (.done o) (fun s i => retire s i) s)

/-- `yield` (R228). -/
def execYield (o : OpsW) (s : State) : Host.Outcome State Fault Refusal :=
  .next (issue (.yield o) (fun s i => (finishOp s i (.yield o)).modCtx i (moveToSlot i.x)) s)

/-- `rng.push` (R229). -/
def execRngPush (o : OpsPush) (s : State) : Host.Outcome State Fault Refusal :=
  .next (issue (.rngPush o) (fun s i =>
    let r := ownRange (s.fir i) o.a o.cls.toNat
    let code := if r.hi.toNat ≤ r.lo.toNat then 2 else if dequeFull (s.coreAt i.core) then 1 else 0
    let s1 := if code = 0 then endSteal (dequePush s i.core r) i.core else s
    finishOp (writeDest s1 i o.d (BitVec.ofNat 64 code)) i (.rngPush o)) s)

/-- `rng.take` (R230): outside a range firing both results are 0. -/
def execRngTake (o : OpsDA) (s : State) : Host.Outcome State Fault Refusal :=
  .next (issue (.rngTake o) (fun s i =>
    let (x, s) := takeX s i o.a
    let (lo, hi, s1) : Word × Word × State := match (s.fir i).range with
      | none => (0, 0, s)
      | some r => let (lo, hi, left) := claim r x; (lo, hi, s.modFir i fun f => { f with range := some left })
    finishOp (writeDest (writeDest s1 i o.d lo) i (regPlus o.d 1) hi) i (.rngTake o)) s)

/-- `launch` (R231): the record is read as ordinary loads read it, then the scheduler acts; a release at package scope. -/
def execLaunch (o : OpsLaunch) (s : State) : Host.Outcome State Fault Refusal :=
  .next (issue (.launch o) (fun s i =>
    let (x, s) := takeX s i o.a
    let last := newAccess s i (nextNum s i) x (.launchDo o.notify none) 0 (some .package)
    finishOp (takeEntry s i (newEntry s i x (.x o.d) .whole 0) (dwordReads s i x 8 ++ [last])) i (.launch o)) s)

/-- `join` (R232): outstanding until every live child has retired. -/
def execJoin (o : OpsD) (s : State) : Host.Outcome State Fault Refusal :=
  .next (issue (.join o) (fun s i => finishOp (takeOne s i 0 (.x o.d) .whole .join none) i (.join o)) s)

/-- `replay` (R233): the request goes to the graph's home, which reads the patch (R366); a release at package scope. -/
def execReplay (o : OpsReplay) (s : State) : Host.Outcome State Fault Refusal :=
  .next (issue (.replay o) (fun s i =>
    let f := s.fir i
    let g := f.readX o.a
    finishOp (takeOne s i g (.x o.d) .whole (.replayDo (8 * o.n.toNat) (f.readX (regPlus o.a 1)) g) (some .package)) i (.replay o)) s)

/-- `lnstat` (R234): outstanding. -/
def execLnstat (o : OpsLnstat) (s : State) : Host.Outcome State Fault Refusal :=
  .next (issue (.lnstat o) (fun s i =>
    let (x, s) := takeX s i o.a
    finishOp (takeOne s i x (.x o.d) .whole (.lnstat o.sel1 x) none) i (.lnstat o)) s)

end Sys2Proof.Machine
end

