-- ==== Sys2Proof/Machine/Channels.lean ====
section
/-!
DEFINITION. Channels, delta queues and indexes as instructions (R252 to R267).
-/
namespace Sys2Proof.Machine

/-! ### Shared forms -/

/-- The partition of a context's core. -/
def partOf (s : State) (i : CtxId) : Nat := (s.coreAt i.core).partition

/-- A posted access of a channel's writer: a release at package scope (R254); what counts toward the writer's occupancy does so now. -/
def postRecord (s : State) (i : CtxId) (v : Word) (op : ChanOp) (counts : Bool) : State :=
  let ch := fld v 11 0
  let s1 := if counts then modChan (useSlot s i ch true) (partOf s i) ch fun c => addOcc c i.core else s
  postAccesses s1 i [newAccess s1 i (nextNum s1 i) v (.chan ch op) 0 (some .package)]

/-- A read of a channel (R255): outstanding; `two` takes a second entry for bytes 128 to 255. -/
def readRecord (s : State) (i : CtxId) (v : Word) (d : Dest) (d2 : Option Dest) : State :=
  let ch := fld v 11 0
  let s1 := takeOne (useSlot s i ch false) i v d .whole (.chan ch (.read d2.isSome)) none
  match d2 with
  | none => s1
  | some e => takeEntry s1 i (newEntry s1 i v e .whole 0) []

/-- The data of a record of 2^k doublewords in scalar registers, the first of which may be a port (R254). -/
def scalarRecord (s : State) (i : CtxId) (d : Reg) (k : Nat) : Nat × State :=
  let (y, s1) := takeX s i d
  (if k = 0 then y.toNat else regsNat (s.fir i) d (2 ^ k), s1)

/-- The data of a record in vector registers: two of them hold 256 bytes. -/
def vectorRecord (s : State) (i : CtxId) (d : VReg) (k : Nat) : Nat × State :=
  let (y, s1) := takeV s i d
  (if k = 5 then y.toNat + 2 ^ 1024 * ((s.fir i).readV (regPlus d 1)).toNat else y.toNat % 2 ^ (64 * 2 ^ k), s1)

/-- An immediate result about the channel that x[a] names. -/
def chanQuery (ins : Instr) (d a : Reg) (f : State → CtxId → Word → Nat) (s : State) : State :=
  issue ins (fun s i =>
    let (v, s) := takeX s i a
    finishOp (writeDest s i d (BitVec.ofNat 64 (f s i v))) i ins) s

/-- An index operation (R265): outstanding; its access is homed at its bucket (R310). -/
def indexOp (s : State) (i : CtxId) (v : Word) (d : Dest) (op : IndexOp) : State :=
  let x := fld v 7 0
  let q := indexAt s (partOf s i) x
  takeEntry s i (newEntry s i v d .whole 0)
    [newAccess s i (nextNum s i) (BitVec.ofNat 64 (ixVa q (ixPlace q op))) (.index x op) 0 none]

/-! ### What the queries answer -/

/-- What `ch.open` answers, and the channels the firing then has open (R253). -/
def openCode (s : State) (i : CtxId) (ch : Nat) : Nat :=
  let f := s.fir i
  if hasNat f.opened ch then 1
  else if openIn s ⟨i.core, otherCtx i.x⟩ ch then 2
  else if 8 ≤ f.opened.length then 3 else 0
def openWord (c : Chan) (n code : Nat) : Nat :=
  packFields [(cBound c, 40), (cClass c, 13), (cK c, 10), (boolNat (isReader c n), 9), (boolNat (isWriter c n), 8), (code, 0)]

/-- Records delivered and not read (R256): of a shared ring, those of the published slots in sequence from the head. -/
def availOf (c : Chan) : Nat := cServable c

/-- The j-th delivered record of a channel: in the ring, then in the spill. -/
def deliveredRecord (s : State) (p ch j : Nat) : Nat :=
  let c := s.chanAt p ch
  if j < cInRing c then readMem s (slotPa c (c.rd + BitVec.ofNat 32 j).toNat) (cBytes c)
  else
    let idx := c.spillHead + (j - cInRing c)
    match c.spill[idx / segRecords c]? with
    | none => 0
    | some g => match engineHome s p true (g.toNat + idx % segRecords c * cBytes c) .read with
      | .ok pa => readMem s pa (cBytes c)
      | .error _ => 0

/-- What `dq.cons` answers (R263): records ahead of the first cork, and corks. -/
def consOf (s : State) (p ch : Nat) : Nat :=
  let corks := (List.range (cDelivered (s.chanAt p ch))).map fun j => bitOf (deliveredRecord s p ch j) 112
  packFields [((corks.filter id).length, 24), ((corks.takeWhile (!·)).length, 0)]

/-- The record that `dq.emit` sends (R262). -/
def emitRecord (v : Vec) : BitVec 512 := BitVec.ofNat 512
  (packFields [(fld v 511 128 % 2 ^ (8 * Nat.min (fld v 111 96) 48), 128), (fld v 111 0, 0)])

/-! ### Channels -/

/-- `ch.open` (R253). -/
def execChOpen (o : OpsDA) (s : State) : Host.Outcome State Fault Refusal :=
  .next (issue (.chOpen o) (fun s i =>
    let (v, s) := takeX s i o.a
    let ch := fld v 11 0
    let code := openCode s i ch
    let s1 := if code = 0 then s.modFir i fun f => { f with opened := f.opened ++ [ch] } else s
    finishOp (writeDest s1 i o.d (BitVec.ofNat 64 (openWord (chanOf s i v) i.core code))) i (.chOpen o)) s)

/-- `ch.w` (R254). -/
def execChW (o : OpsDA) (s : State) : Host.Outcome State Fault Refusal :=
  .next (issue (.chW o) (fun s i =>
    let (v, s) := takeX s i o.a
    let (data, s) := scalarRecord s i o.d (cK (chanOf s i v))
    finishOp (postRecord s i v (.write (BitVec.ofNat 2048 data)) true) i (.chW o)) s)

/-- `ch.wv` (R254). -/
def execChWv (o : OpsDA) (s : State) : Host.Outcome State Fault Refusal :=
  .next (issue (.chWv o) (fun s i =>
    let (v, s) := takeX s i o.a
    let (data, s) := vectorRecord s i o.d (cK (chanOf s i v))
    finishOp (postRecord s i v (.write (BitVec.ofNat 2048 data)) true) i (.chWv o)) s)

/-- `ch.r` (R255). -/
def execChR (o : OpsDA) (s : State) : Host.Outcome State Fault Refusal :=
  .next (issue (.chR o) (fun s i =>
    let (v, s) := takeX s i o.a
    finishOp (readRecord s i v (.x o.d) none) i (.chR o)) s)

/-- `ch.rv` (R255): a 256-byte record lands in v[d] and v[d+1]. -/
def execChRv (o : OpsDA) (s : State) : Host.Outcome State Fault Refusal :=
  .next (issue (.chRv o) (fun s i =>
    let (v, s) := takeX s i o.a
    let second := if cK (chanOf s i v) = 5 then some (Dest.v (vIdx (regPlus o.d 1))) else none
    finishOp (readRecord s i v (.v (vIdx o.d)) second) i (.chRv o)) s)

/-- `ch.avail` (R256). -/
def execChAvail (o : OpsDA) (s : State) : Host.Outcome State Fault Refusal :=
  .next (chanQuery (.chAvail o) o.d o.a (fun s i v => availOf (chanOf s i v)) s)

/-- `ch.space` (R256). -/
def execChSpace (o : OpsDA) (s : State) : Host.Outcome State Fault Refusal :=
  .next (chanQuery (.chSpace o) o.d o.a (fun s i v => let c := chanOf s i v; cLimit c - cOcc c i.core) s)

/-- `ch.res` (R248, R257): outstanding until the reader's unit grants it. -/
def execChRes (o : OpsRes) (s : State) : Host.Outcome State Fault Refusal :=
  .next (issue (.chRes o) (fun s i =>
    let (v, s) := takeX s i o.a
    let ch := fld v 11 0
    finishOp (takeOne s i v (.x o.d) .whole (.chan ch (.res (o.n1.toNat + 1))) none) i (.chRes o)) s)

/-- The publish of a slot issues: no other one may (R257). -/
def sendSlot (s : State) (i : CtxId) (v : Word) : State :=
  let q := readerSide s (partOf s i) (fld v 11 0)
  markSent s q.1 q.2 (fld v 63 32)

/-- `ch.pub` (R257): the slot is x[a][63:32]. -/
def execChPub (o : OpsPub) (s : State) : Host.Outcome State Fault Refusal :=
  .next (issue (.chPub o) (fun s i =>
    let (v, s) := takeX s i o.a
    let k := cK (chanOf s i v)
    let (data, s) := if o.vec then vectorRecord s i o.d k else scalarRecord s i o.d k
    finishOp (postRecord (sendSlot s i v) i v (.pub (fld v 63 32) (BitVec.ofNat 2048 data)) false) i (.chPub o)) s)

/-- `ch.close` (R253). -/
def execChClose (o : OpsA) (s : State) : Host.Outcome State Fault Refusal :=
  .next (issue (.chClose o) (fun s i =>
    let (v, s) := takeX s i o.a
    finishOp (s.modFir i fun f => { f with opened := delNat (fld v 11 0) f.opened }) i (.chClose o)) s)

/-! ### Delta queues -/

/-- `dq.emit` (R262). -/
def execDqEmit (o : OpsDA) (s : State) : Host.Outcome State Fault Refusal :=
  .next (issue (.dqEmit o) (fun s i =>
    let (v, s) := takeX s i o.a
    let (r, s) := takeV s i o.d
    finishOp (postRecord s i v (.emit (emitRecord r)) true) i (.dqEmit o)) s)

/-- `dq.read` (R262). -/
def execDqRead (o : OpsDA) (s : State) : Host.Outcome State Fault Refusal :=
  .next (issue (.dqRead o) (fun s i =>
    let (v, s) := takeX s i o.a
    finishOp (readRecord s i v (.v (vIdx o.d)) none) i (.dqRead o)) s)

/-- The writer's cork is not acknowledged yet: with multi set, its next record waits (R260). -/
def awaitCork (s : State) (i : CtxId) (v : Word) : State :=
  modChan s (partOf s i) (fld v 11 0) fun c => if cMulti c then { c with unacked := insNat i.core c.unacked } else c

/-- `dq.cork` (R260, R262). -/
def execDqCork (o : OpsA) (s : State) : Host.Outcome State Fault Refusal :=
  .next (issue (.dqCork o) (fun s i =>
    let (v, s) := takeX s i o.a
    finishOp (awaitCork (postRecord s i v .cork true) i v) i (.dqCork o)) s)

/-- `dq.cons` (R263). -/
def execDqCons (o : OpsDA) (s : State) : Host.Outcome State Fault Refusal :=
  .next (chanQuery (.dqCons o) o.d o.a (fun s i v => consOf s (partOf s i) (fld v 11 0)) s)

/-- `dq.quiet` (R263): outstanding. -/
def execDqQuiet (o : OpsD) (s : State) : Host.Outcome State Fault Refusal :=
  .next (issue (.dqQuiet o) (fun s i => finishOp (takeOne s i 0 (.x o.d) .whole (.chan 0 .quiet) none) i (.dqQuiet o)) s)

/-! ### Indexes -/

/-- `ix.upd` (R265, R266). -/
def execIxUpd (o : OpsDA) (s : State) : Host.Outcome State Fault Refusal :=
  .next (issue (.ixUpd o) (fun s i =>
    let (r, s) := takeV s i o.a
    finishOp (indexOp s i ((s.fir i).readX o.d) (.x o.d) (.upd (r.setWidth 512))) i (.ixUpd o)) s)

/-- `ix.look` (R265, R266). -/
def execIxLook (o : OpsDA) (s : State) : Host.Outcome State Fault Refusal :=
  .next (issue (.ixLook o) (fun s i =>
    let (r, s) := takeV s i o.a
    finishOp (indexOp s i ((s.fir i).readX o.d) (.x o.d) (.look (r.setWidth 512))) i (.ixLook o)) s)

/-- `ix.next` (R267): the cursor names the index, the bucket and the entry. -/
def execIxNext (o : OpsDA) (s : State) : Host.Outcome State Fault Refusal :=
  .next (issue (.ixNext o) (fun s i =>
    let (v, s) := takeX s i o.a
    finishOp (indexOp s i v (.v (vIdx o.d)) (.next (fld v 31 8) (fld v 34 32))) i (.ixNext o)) s)

/-- `ix.clear` (R267). -/
def execIxClear (o : OpsDA) (s : State) : Host.Outcome State Fault Refusal :=
  .next (issue (.ixClear o) (fun s i =>
    let (v, s) := takeX s i o.a
    finishOp (indexOp s i v (.x o.d) (.clear 0)) i (.ixClear o)) s)

end Sys2Proof.Machine
end

