-- ==== Sys2Proof/Machine/Vector.lean ====
section
/-!
DEFINITION. Vector arithmetic, conversions, reductions, lane moves and masks (R180 to R198, R203).
-/
namespace Sys2Proof.Machine

/-! ### Shared forms -/

/-- The flags of the lanes from `n - 1` down to 0 that are active. -/
def laneFlags (act : Nat → Bool) (f : Nat → Flags) (n : Nat) : Flags :=
  (List.range n).foldl (fun fl j => if act j then fl ||| f j else fl) 0

/-- Writes a vector result of w-bit lanes, each lane with its flags (R182, R185). -/
def vecOut (s : State) (i : CtxId) (d : VReg) (w : Nat) (m : MReg) (mz : Bool) (f : Nat → Nat × Flags) : State :=
  let act := laneActive (s.fir i) m w
  addFlags (writeVecDest s i d (mergeLanes w act mz (oldVec s i d) fun j => (f j).1)) i (laneFlags act (fun j => (f j).2) (laneCount w))

/-- Writes a mask result over w-bit lanes, each lane with its flags (R183). -/
def maskOut (s : State) (i : CtxId) (d : MReg) (w : Nat) (m : MReg) (mz : Bool) (f : Nat → Bool × Flags) : State :=
  let act := laneActive (s.fir i) m w
  addFlags (writeMask s i d (maskResult w act mz ((s.fir i).readM d) fun j => (f j).1)) i (laneFlags act (fun j => (f j).2) (laneCount w))

/-- A lane operation on v[a]. -/
def lanes1 (ins : Instr) (d a : VReg) (w : Nat) (m : MReg) (mz : Bool) (op : BitVec 13 → Nat → Nat × Flags) (s : State) : State :=
  issue ins (fun s i =>
    let (x, s) := takeV s i a
    let c := fpctlOf s i
    finishOp (vecOut s i d w m mz fun j => op c (laneN w x j)) i ins) s

/-- A lane operation on v[a] and v[b]. -/
def lanes2 (ins : Instr) (d a b : VReg) (w : Nat) (m : MReg) (mz : Bool) (op : BitVec 13 → Nat → Nat → Nat × Flags) (s : State) : State :=
  issue ins (fun s i =>
    let (x, s) := takeV s i a
    let (y, s) := takeV s i b
    let c := fpctlOf s i
    finishOp (vecOut s i d w m mz fun j => op c (laneN w x j) (laneN w y j)) i ins) s

/-- A lane fused multiply-add (R188). -/
def lanes3 (ins : Instr) (o : OpsVF3) (np nz : Bool) (s : State) : State :=
  issue ins (fun s i =>
    let (x, s) := takeV s i o.a
    let (y, s) := takeV s i o.b
    let (z, s) := takeV s i o.c
    let env := envOf (fpctlOf s i) (fpOf o.fmt) o.rm
    let w := fLane o.fmt
    finishOp (vecOut s i o.d w o.m o.mz fun j => fpFma (fpOf o.fmt) env np nz (laneN w x j) (laneN w y j) (laneN w z j)) i ins) s

/-- A lane comparison into a mask. -/
def laneTest (ins : Instr) (d : MReg) (a b : VReg) (w : Nat) (e : Option MExt) (op : BitVec 13 → Nat → Nat → Bool × Flags) (s : State) : State :=
  issue ins (fun s i =>
    let (x, s) := takeV s i a
    let (y, s) := takeV s i b
    let c := fpctlOf s i
    finishOp (maskOut s i d w (mextMask e) (mextZero e) fun j => op c (laneN w x j) (laneN w y j)) i ins) s

/-- An arithmetic lane operation that rounds (R187). -/
def roundLanes (ins : Instr) (o : OpsVR) (op : FpFmt → FpEnv → Nat → Nat → Nat × Flags) (s : State) : State :=
  lanes2 ins o.d o.a o.b (fLane o.fmt) (rextMask o.ext) (rextZero o.ext)
    (fun c => op (fpOf o.fmt) (envOf c (fpOf o.fmt) (rextRm o.ext))) s

/-- A floating lane operation of one operand (R187). -/
def floatLanes (ins : Instr) (o : OpsVF1) (op : FpFmt → FpEnv → Nat → Nat × Flags) (s : State) : State :=
  lanes1 ins o.d o.a (fLane o.fmt) (mextMask o.ext) (mextZero o.ext) (fun c => op (fpOf o.fmt) (envOf c (fpOf o.fmt) .rne)) s

/-- An integer lane operation, on lanes as numbers of w bits (R189). -/
def intLanes (ins : Instr) (o : OpsVI) (op : Nat → Nat → Nat → Nat) (s : State) : State :=
  lanes2 ins o.d o.a o.b (iLane o.fmt) (mextMask o.ext) (mextZero o.ext) (fun _ x y => (op (iLane o.fmt) x y % 2 ^ iLane o.fmt, 0)) s

/-- An integer lane comparison (R189). -/
def intTest (ins : Instr) (o : OpsVIC) (op : Nat → Nat → Nat → Bool) (s : State) : State :=
  laneTest ins o.d o.a o.b (iLane o.fmt) o.ext (fun _ x y => (op (iLane o.fmt) x y, 0)) s

/-- A signed number as w bits. -/
def toLane (w : Nat) (v : Int) : Nat := (v % 2 ^ w).toNat
/-- The low log2(w) bits of a lane shift amount. -/
def laneShift (w y : Nat) : Nat := y % w
def laneMin (w x y : Nat) : Nat := if signedOf w x < signedOf w y then x else y
def laneMax (w x y : Nat) : Nat := if signedOf w x < signedOf w y then y else x
def laneSra (w x y : Nat) : Nat := toLane w (signedOf w x / 2 ^ laneShift w y)

/-! ### Conversions (R190 to R193) -/

def cfmtWidth : CFmt → Nat
  | .f32 | .i32 => 32
  | .bf16 | .i16 | .f16 => 16
  | .i8 | .ts8 | .s8 => 8
  | .i4 | .e2m1 => 4
/-- The floating format of a code, none for integers and weights. -/
def cfmtFp : CFmt → Option FpFmt
  | .f32 => some fp32
  | .bf16 => some fpBf16
  | .f16 => some fp16
  | _ => none
/-- Elements of a conversion (R191). -/
def convCount (sf df : CFmt) : Nat := 1024 / Nat.max (cfmtWidth sf) (cfmtWidth df)

/-- A source element as a value, after the operand flush of its format. -/
def convVal (c : BitVec 13) (sf : CFmt) (x : Nat) : FVal :=
  match cfmtFp sf with
  | some f => operand f (dazOf c f) x
  | none => intVal (signedOf (cfmtWidth sf) x) 0

/-- Saturation to w bits. -/
def saturate (w : Nat) (v : Int) : Nat :=
  let hi : Int := 2 ^ (w - 1) - 1
  let lo : Int := -(2 ^ (w - 1))
  toLane w (if v > hi then hi else if v < lo then lo else v)

/-- One element of `vcvt` (R190). -/
def convElem (c : BitVec 13) (sf df : CFmt) (rm : RM) (x : Nat) : Nat × Flags :=
  match cfmtFp sf, cfmtFp df with
  | some f, some g => let env := convEnv c f g rm; fpConvert f g env.daz env x
  | some _, none => let r := fpToInt (cfmtWidth df) (modeOf c rm) (convVal c sf x); (toLane (cfmtWidth df) r.1, r.2)
  | none, some g => intToFp g (envOf c g rm) (signedOf (cfmtWidth sf) x)
  | none, none => (saturate (cfmtWidth df) (signedOf (cfmtWidth sf) x), 0)

/-- The scale byte of element j (R192). -/
def scaleByte (sc : Vec) (j : Nat) : Nat := laneN 8 sc (j / 32)

/-- Writes the elements of a conversion (R191): elements merge under R182 by mask bit j, the bits above them are zero. -/
def convOut (s : State) (i : CtxId) (d : VReg) (sf df : CFmt) (m : MReg) (mz : Bool) (f : Nat → Nat × Flags) : State :=
  let n := convCount sf df
  let w := cfmtWidth df
  let act := fun j => bitAt (maskBits (s.fir i) m) j
  let r := packLanes w ((List.range n).map fun j => if act j then (f j).1 else if mz then 0 else laneN w (oldVec s i d) j)
  addFlags (writeVecDest s i d r) i (laneFlags act (fun j => (f j).2) n)

/-- The peak update of a conversion that carries pk (R146). -/
def convPeak (s : State) (i : CtxId) (c : BitVec 13) (sf df : CFmt) (m : MReg) (pk : Bool) (x : Vec) : State :=
  if pk then addPeak s i (((List.range (convCount sf df)).filter fun j => bitAt (maskBits (s.fir i) m) j).map fun j =>
    convVal c sf (laneN (cfmtWidth sf) x j)) else s

/-! ### Reductions (R144, R194, R195) -/

/-- The floating format of a lane format. -/
def vFp : VFmt → Option FpFmt
  | .f32 => some fp32
  | .bf16 => some fpBf16
  | _ => none

/-- One level of the pairwise tree. -/
def pairUp (op : Nat → Nat → Nat × Flags) : List Nat → List Nat × Flags
  | a :: b :: l =>
    let r := op a b
    let q := pairUp op l
    (r.1 :: q.1, r.2 ||| q.2)
  | l => (l, 0)

/-- The tree over 2^k lanes. -/
def treeReduce (op : Nat → Nat → Nat × Flags) : Nat → List Nat → Nat × Flags
  | 0, l => (l.headD 0, 0)
  | k + 1, l =>
    let r := pairUp op l
    let q := treeReduce op k r.1
    (q.1, r.2 ||| q.2)

/-- The additions of a reduction or scan: floating additions round RNE under the format's flush bits. -/
def redAdd (c : BitVec 13) (f : VFmt) (x y : Nat) : Nat × Flags :=
  match vFp f with
  | some g => fpAdd g (envOf c g .rne) x y
  | none => ((x + y) % 2 ^ vLane f, 0)
/-- What an inactive lane enters a sum as: −0, or 0. -/
def sumIdentity (f : VFmt) : Nat :=
  match vFp f with
  | some g => g.signBit
  | none => 0
/-- The combination of `vredmax` and `vredmin`, and what an inactive lane enters it as. -/
def redExtreme (c : BitVec 13) (f : VFmt) (mx : Bool) (x y : Nat) : Nat × Flags :=
  match vFp f with
  | some g => fpMinMax g (dazOf c g) mx x y
  | none => (if mx then laneMax (vLane f) x y else laneMin (vLane f) x y, 0)
def extremeIdentity (f : VFmt) (mx : Bool) : Nat :=
  match vFp f with
  | some g => if mx then g.signBit + g.infBits else g.infBits
  | none => if mx then 2 ^ (vLane f - 1) else 2 ^ (vLane f - 1) - 1

/-- A reduction: its result in lane 0, zero in every other lane. -/
def reduce (ins : Instr) (o : OpsVRed) (op : BitVec 13 → Nat → Nat → Nat × Flags) (ident : Nat) (s : State) : State :=
  issue ins (fun s i =>
    let (x, s) := takeV s i o.a
    let w := vLane o.fmt
    let act := laneActive (s.fir i) (o.ext.getD 0) w
    let r := treeReduce (op (fpctlOf s i)) (bitLen (laneCount w) - 1) ((List.range (laneCount w)).map fun j => if act j then laneN w x j else ident)
    finishOp (addFlags (writeVecDest s i o.d (BitVec.ofNat 1024 r.1)) i r.2) i ins) s

/-- The prefix sums of some lanes with the flags of every addition. -/
def prefixSums (add : Nat → Nat → Nat × Flags) : Nat → List Nat → List Nat × Flags
  | _, [] => ([], 0)
  | run, x :: l =>
    let r := add run x
    let q := prefixSums add r.1 l
    (r.1 :: q.1, r.2 ||| q.2)

/-! ### Lane moves (R196, R197) -/

/-- A lane move whose lane j is given by a function of the sources: inactive lanes under R182, no flag. -/
def moveOut (s : State) (i : CtxId) (d : VReg) (w : Nat) (e : Option MExt) (f : Nat → Nat) : State :=
  vecOut s i d w (mextMask e) (mextZero e) fun j => (f j, 0)

/-- A lane as a scalar: an integer one sign-extended, a floating one in the low bits (R197). -/
def laneScalar (f : VFmt) (x : Nat) : Word :=
  match vFp f with
  | some _ => BitVec.ofNat 64 x
  | none => BitVec.ofInt 64 (signedOf (vLane f) x)

/-- An immediate mask result of two masks. -/
def mask2 (ins : Instr) (d a b : MReg) (f : Word → Word → Word) (s : State) : State :=
  issue ins (fun s i => finishOp (writeMask s i d (f ((s.fir i).readM a) ((s.fir i).readM b))) i ins) s
/-- An immediate scalar result of a mask. -/
def maskToX (ins : Instr) (o : OpsXM) (f : Word → Word) (s : State) : State :=
  issue ins (fun s i => finishOp (writeDest s i o.d (f ((s.fir i).readM o.a))) i ins) s

/-- The walk of `vanc` from node j over at most `fuel` steps: the nodes on the path, and whether a parent is not below its node (R203). -/
def ancestors (v : Vec) : Nat → Nat → Nat → Nat × Bool
  | 0, _, set => (set, false)
  | fuel + 1, j, set =>
    let set := if bitOf set j then set else set + 2 ^ j
    let p := signedOf 8 (laneN 8 v j)
    if p < 0 then (set, false)
    else if (j : Int) ≤ p then (set, true)
    else ancestors v fuel p.toNat set

/-! ### Meanings -/

/-- `vadd` (R187). -/
def execVadd (o : OpsVR) (s : State) : Host.Outcome State Fault Refusal := .next (roundLanes (.vadd o) o fpAdd s)

/-- `vsub` (R187). -/
def execVsub (o : OpsVR) (s : State) : Host.Outcome State Fault Refusal := .next (roundLanes (.vsub o) o fpSub s)

/-- `vmul` (R187). -/
def execVmul (o : OpsVR) (s : State) : Host.Outcome State Fault Refusal := .next (roundLanes (.vmul o) o fpMul s)

/-- `vmin` (R187). -/
def execVmin (o : OpsVF2) (s : State) : Host.Outcome State Fault Refusal := 
  .next (lanes2 (.vmin o) o.d o.a o.b (fLane o.fmt) (mextMask o.ext) (mextZero o.ext)
    (fun c => fpMinMax (fpOf o.fmt) (dazOf c (fpOf o.fmt)) false) s)

/-- `vmax` (R187). -/
def execVmax (o : OpsVF2) (s : State) : Host.Outcome State Fault Refusal := 
  .next (lanes2 (.vmax o) o.d o.a o.b (fLane o.fmt) (mextMask o.ext) (mextZero o.ext)
    (fun c => fpMinMax (fpOf o.fmt) (dazOf c (fpOf o.fmt)) true) s)

/-- `vabs` (R187). -/
def execVabs (o : OpsVF1) (s : State) : Host.Outcome State Fault Refusal := .next (floatLanes (.vabs o) o (fun f env => fpAbsNeg f env.daz false) s)

/-- `vneg` (R187). -/
def execVneg (o : OpsVF1) (s : State) : Host.Outcome State Fault Refusal := .next (floatLanes (.vneg o) o (fun f env => fpAbsNeg f env.daz true) s)

/-- `vrsqe` (R187). -/
def execVrsqe (o : OpsVF1) (s : State) : Host.Outcome State Fault Refusal := .next (floatLanes (.vrsqe o) o fpRsqe s)

/-- `vrcpe` (R187). -/
def execVrcpe (o : OpsVF1) (s : State) : Host.Outcome State Fault Refusal := .next (floatLanes (.vrcpe o) o fpRcpe s)

/-- `vexp2` (R187). -/
def execVexp2 (o : OpsVF1) (s : State) : Host.Outcome State Fault Refusal := .next (floatLanes (.vexp2 o) o fpExp2 s)

/-- `vfeq` (R187). -/
def execVfeq (o : OpsVFC) (s : State) : Host.Outcome State Fault Refusal := 
  .next (laneTest (.vfeq o) o.d o.a o.b (fLane o.fmt) o.ext (fun c => fpCmp (fpOf o.fmt) (dazOf c (fpOf o.fmt)) 0) s)

/-- `vflt` (R187). -/
def execVflt (o : OpsVFC) (s : State) : Host.Outcome State Fault Refusal := 
  .next (laneTest (.vflt o) o.d o.a o.b (fLane o.fmt) o.ext (fun c => fpCmp (fpOf o.fmt) (dazOf c (fpOf o.fmt)) 1) s)

/-- `vfle` (R187). -/
def execVfle (o : OpsVFC) (s : State) : Host.Outcome State Fault Refusal := 
  .next (laneTest (.vfle o) o.d o.a o.b (fLane o.fmt) o.ext (fun c => fpCmp (fpOf o.fmt) (dazOf c (fpOf o.fmt)) 2) s)

/-- `vfmadd` (R188). -/
def execVfmadd (o : OpsVF3) (s : State) : Host.Outcome State Fault Refusal := .next (lanes3 (.vfmadd o) o false false s)

/-- `vfmsub` (R188). -/
def execVfmsub (o : OpsVF3) (s : State) : Host.Outcome State Fault Refusal := .next (lanes3 (.vfmsub o) o false true s)

/-- `vfnmadd` (R188). -/
def execVfnmadd (o : OpsVF3) (s : State) : Host.Outcome State Fault Refusal := .next (lanes3 (.vfnmadd o) o true true s)

/-- `vfnmsub` (R188). -/
def execVfnmsub (o : OpsVF3) (s : State) : Host.Outcome State Fault Refusal := .next (lanes3 (.vfnmsub o) o true false s)

/-- `vadd.i` (R189). -/
def execVaddI (o : OpsVI) (s : State) : Host.Outcome State Fault Refusal := .next (intLanes (.vaddI o) o (fun _ x y => x + y) s)

/-- `vsub.i` (R189). -/
def execVsubI (o : OpsVI) (s : State) : Host.Outcome State Fault Refusal := .next (intLanes (.vsubI o) o (fun w x y => x + 2 ^ w - y) s)

/-- `vmul.i` (R189). -/
def execVmulI (o : OpsVI) (s : State) : Host.Outcome State Fault Refusal := .next (intLanes (.vmulI o) o (fun _ x y => x * y) s)

/-- `vand` (R189). -/
def execVand (o : OpsVI) (s : State) : Host.Outcome State Fault Refusal := .next (intLanes (.vand o) o (fun _ x y => x &&& y) s)

/-- `vor` (R189). -/
def execVor (o : OpsVI) (s : State) : Host.Outcome State Fault Refusal := .next (intLanes (.vor o) o (fun _ x y => x ||| y) s)

/-- `vxor` (R189). -/
def execVxor (o : OpsVI) (s : State) : Host.Outcome State Fault Refusal := .next (intLanes (.vxor o) o (fun _ x y => x ^^^ y) s)

/-- `vsll` (R189). -/
def execVsll (o : OpsVI) (s : State) : Host.Outcome State Fault Refusal := .next (intLanes (.vsll o) o (fun w x y => x * 2 ^ laneShift w y) s)

/-- `vsrl` (R189). -/
def execVsrl (o : OpsVI) (s : State) : Host.Outcome State Fault Refusal := .next (intLanes (.vsrl o) o (fun w x y => x / 2 ^ laneShift w y) s)

/-- `vsra` (R189). -/
def execVsra (o : OpsVI) (s : State) : Host.Outcome State Fault Refusal := .next (intLanes (.vsra o) o laneSra s)

/-- `vmin.i` (R189). -/
def execVminI (o : OpsVI) (s : State) : Host.Outcome State Fault Refusal := .next (intLanes (.vminI o) o laneMin s)

/-- `vmax.i` (R189). -/
def execVmaxI (o : OpsVI) (s : State) : Host.Outcome State Fault Refusal := .next (intLanes (.vmaxI o) o laneMax s)

/-- `vminu` (R189). -/
def execVminu (o : OpsVI) (s : State) : Host.Outcome State Fault Refusal := .next (intLanes (.vminu o) o (fun _ x y => Nat.min x y) s)

/-- `vmaxu` (R189). -/
def execVmaxu (o : OpsVI) (s : State) : Host.Outcome State Fault Refusal := .next (intLanes (.vmaxu o) o (fun _ x y => Nat.max x y) s)

/-- `vieq` (R189). -/
def execVieq (o : OpsVIC) (s : State) : Host.Outcome State Fault Refusal := .next (intTest (.vieq o) o (fun _ x y => x == y) s)

/-- `vilt` (R189). -/
def execVilt (o : OpsVIC) (s : State) : Host.Outcome State Fault Refusal := .next (intTest (.vilt o) o (fun w x y => decide (signedOf w x < signedOf w y)) s)

/-- `viltu` (R189). -/
def execViltu (o : OpsVIC) (s : State) : Host.Outcome State Fault Refusal := .next (intTest (.viltu o) o (fun _ x y => decide (x < y)) s)

/-- `vcvt` (R190, R191). -/
def execVcvt (o : OpsVcvt) (s : State) : Host.Outcome State Fault Refusal :=
  .next (issue (.vcvt o) (fun s i =>
    let (x, s) := takeV s i o.a
    let c := fpctlOf s i
    let s1 := convPeak s i c o.sfmt o.dfmt o.m o.pk x
    finishOp (convOut s1 i o.d o.sfmt o.dfmt o.m o.mz fun j => convElem c o.sfmt o.dfmt o.rm (laneN (cfmtWidth o.sfmt) x j)) i (.vcvt o)) s)

/-- `vquant` (R192, R138). -/
def execVquant (o : OpsVquant) (s : State) : Host.Outcome State Fault Refusal :=
  .next (issue (.vquant o) (fun s i =>
    let (x, s) := takeV s i o.a
    let (sc, s) := takeV s i o.c
    let c := fpctlOf s i
    let s1 := convPeak s i c o.sfmt o.dfmt o.m o.pk x
    finishOp (convOut s1 i o.d o.sfmt o.dfmt o.m o.mz fun j =>
      quant o.dfmt (scaleByte sc j) (modeOf c o.rm) (convVal c o.sfmt (laneN (cfmtWidth o.sfmt) x j))) i (.vquant o)) s)

/-- `vdequant` (R193, R137): exact, no flag, no flush. -/
def execVdequant (o : OpsVdequant) (s : State) : Host.Outcome State Fault Refusal :=
  .next (issue (.vdequant o) (fun s i =>
    let (x, s) := takeV s i o.a
    let (sc, s) := takeV s i o.c
    let g := (cfmtFp o.dfmt).getD fp32
    finishOp (convOut s i o.d o.sfmt o.dfmt o.m o.mz fun j =>
      ((roundVal g envPlain (dequant o.sfmt (laneN (cfmtWidth o.sfmt) x j) (scaleByte sc j))).1, 0)) i (.vdequant o)) s)

/-- `vredsum` (R194, R144). -/
def execVredsum (o : OpsVRed) (s : State) : Host.Outcome State Fault Refusal := .next (reduce (.vredsum o) o (fun c => redAdd c o.fmt) (sumIdentity o.fmt) s)

/-- `vredmax` (R194). -/
def execVredmax (o : OpsVRed) (s : State) : Host.Outcome State Fault Refusal := .next (reduce (.vredmax o) o (fun c => redExtreme c o.fmt true) (extremeIdentity o.fmt true) s)

/-- `vredmin` (R194). -/
def execVredmin (o : OpsVRed) (s : State) : Host.Outcome State Fault Refusal := .next (reduce (.vredmin o) o (fun c => redExtreme c o.fmt false) (extremeIdentity o.fmt false) s)

/-- `vscan` (R195): inactive lanes enter as −0 or 0 and are formed under R182. -/
def execVscan (o : OpsV1) (s : State) : Host.Outcome State Fault Refusal :=
  .next (issue (.vscan o) (fun s i =>
    let (x, s) := takeV s i o.a
    let w := vLane o.fmt
    let act := laneActive (s.fir i) (mextMask o.ext) w
    let ident := sumIdentity o.fmt
    let r := prefixSums (redAdd (fpctlOf s i) o.fmt) ident ((List.range (laneCount w)).map fun j => if act j then laneN w x j else ident)
    finishOp (addFlags (moveOut s i o.d w o.ext fun j => r.1.getD j 0) i r.2) i (.vscan o)) s)

/-- `vbcast` (R196). -/
def execVbcast (o : OpsV1) (s : State) : Host.Outcome State Fault Refusal :=
  .next (issue (.vbcast o) (fun s i =>
    let (x, s) := takeX s i o.a
    finishOp (moveOut s i o.d (vLane o.fmt) o.ext fun _ => x.toNat % 2 ^ vLane o.fmt) i (.vbcast o)) s)

/-- `vperm` (R196). -/
def execVperm (o : OpsV2) (s : State) : Host.Outcome State Fault Refusal :=
  .next (issue (.vperm o) (fun s i =>
    let (x, s) := takeV s i o.a
    let (y, s) := takeV s i o.b
    let w := vLane o.fmt
    finishOp (moveOut s i o.d w o.ext fun j => laneN w x (laneN w y j % laneCount w)) i (.vperm o)) s)

/-- `vslup` (R196). -/
def execVslup (o : OpsV2) (s : State) : Host.Outcome State Fault Refusal :=
  .next (issue (.vslup o) (fun s i =>
    let (x, s) := takeV s i o.a
    let (y, s) := takeX s i o.b
    let w := vLane o.fmt
    finishOp (moveOut s i o.d w o.ext fun j => if y.toNat ≤ j then laneN w x (j - y.toNat) else 0) i (.vslup o)) s)

/-- `vsldn` (R196). -/
def execVsldn (o : OpsV2) (s : State) : Host.Outcome State Fault Refusal :=
  .next (issue (.vsldn o) (fun s i =>
    let (x, s) := takeV s i o.a
    let (y, s) := takeX s i o.b
    let w := vLane o.fmt
    finishOp (moveOut s i o.d w o.ext fun j => if j + y.toNat < laneCount w then laneN w x (j + y.toNat) else 0) i (.vsldn o)) s)

/-- `vcompress` (R197): it does not merge by lane, so every lane of the result is given. -/
def execVcompress (o : OpsV1) (s : State) : Host.Outcome State Fault Refusal :=
  .next (issue (.vcompress o) (fun s i =>
    let (x, s) := takeV s i o.a
    let w := vLane o.fmt
    let old := oldVec s i o.d
    let on := (List.range (laneCount w)).filter (laneActive (s.fir i) (mextMask o.ext) w)
    let lane (j : Nat) : Nat := match on[j]? with
      | some k => laneN w x k
      | none => if mextZero o.ext then 0 else laneN w old j
    finishOp (writeVecDest s i o.d (packLanes w ((List.range (laneCount w)).map lane))) i (.vcompress o)) s)

/-- `vins` (R197): one lane changes. -/
def execVins (o : OpsV2) (s : State) : Host.Outcome State Fault Refusal :=
  .next (issue (.vins o) (fun s i =>
    let (x, s) := takeX s i o.a
    let (y, s) := takeX s i o.b
    let w := vLane o.fmt
    let old := oldVec s i o.d
    let act := laneActive (s.fir i) (mextMask o.ext) w
    let lane (j : Nat) : Nat :=
      if j != y.toNat then laneN w old j
      else if act j then x.toNat % 2 ^ w
      else if mextZero o.ext then 0 else laneN w old j
    finishOp (writeVecDest s i o.d (packLanes w ((List.range (laneCount w)).map lane))) i (.vins o)) s)

/-- `vext` (R197): a register that would keep its value is not written; a port always gets one flit. -/
def execVext (o : OpsV2) (s : State) : Host.Outcome State Fault Refusal :=
  .next (issue (.vext o) (fun s i =>
    let (x, s) := takeV s i o.a
    let (y, s) := takeX s i o.b
    let w := vLane o.fmt
    let act := laneActive (s.fir i) (mextMask o.ext) w
    let value : Option Word :=
      if laneCount w ≤ y.toNat then some 0
      else if act y.toNat then some (laneScalar o.fmt (laneN w x y.toNat))
      else if mextZero o.ext then some 0
      else if (portDir o.d).isSome then some 0 else none
    let s1 := match value with
      | some v => writeDest s i o.d v
      | none => s
    finishOp s1 i (.vext o)) s)

/-- `viota` (R196): the number of active lanes below each lane. -/
def execViota (o : OpsV0) (s : State) : Host.Outcome State Fault Refusal :=
  .next (issue (.viota o) (fun s i =>
    let w := vLane o.fmt
    let act := laneActive (s.fir i) (mextMask o.ext) w
    let lane (j : Nat) : Nat :=
      let n := ((List.range j).filter act).length
      match vFp o.fmt with
      | some g => (intToFp g envPlain n).1
      | none => n % 2 ^ w
    finishOp (moveOut s i o.d w o.ext lane) i (.viota o)) s)

/-- `vmov` (R196). -/
def execVmov (o : OpsV1) (s : State) : Host.Outcome State Fault Refusal :=
  .next (issue (.vmov o) (fun s i =>
    let (x, s) := takeV s i o.a
    finishOp (moveOut s i o.d (vLane o.fmt) o.ext fun j => laneN (vLane o.fmt) x j) i (.vmov o)) s)

/-- `vsel` (R198). -/
def execVsel (o : OpsVsel) (s : State) : Host.Outcome State Fault Refusal :=
  .next (issue (.vsel o) (fun s i =>
    let (x, s) := takeV s i o.a
    let (y, s) := takeV s i o.b
    let w := vLane o.fmt
    let act := laneActive (s.fir i) (o.ext.getD 0) w
    let r := packLanes w ((List.range (laneCount w)).map fun j => if act j then laneN w x j else laneN w y j)
    finishOp (writeVecDest s i o.d r) i (.vsel o)) s)

/-- `mand` (R198). -/
def execMand (o : OpsMM) (s : State) : Host.Outcome State Fault Refusal := .next (mask2 (.mand o) o.d o.a o.b (fun x y => x &&& y) s)

/-- `mor` (R198). -/
def execMor (o : OpsMM) (s : State) : Host.Outcome State Fault Refusal := .next (mask2 (.mor o) o.d o.a o.b (fun x y => x ||| y) s)

/-- `mxor` (R198). -/
def execMxor (o : OpsMM) (s : State) : Host.Outcome State Fault Refusal := .next (mask2 (.mxor o) o.d o.a o.b (fun x y => x ^^^ y) s)

/-- `mnot` (R198). -/
def execMnot (o : OpsMM1) (s : State) : Host.Outcome State Fault Refusal := .next (mask2 (.mnot o) o.d o.a o.a (fun x _ => ~~~x) s)

/-- `mpopc` (R198). -/
def execMpopc (o : OpsXM) (s : State) : Host.Outcome State Fault Refusal := .next (maskToX (.mpopc o) o popcOf s)

/-- `mfirst` (R198): 64 when no bit is set. -/
def execMfirst (o : OpsXM) (s : State) : Host.Outcome State Fault Refusal := .next (maskToX (.mfirst o) o ctzOf s)

/-- `mset` (R198). -/
def execMset (o : OpsMX) (s : State) : Host.Outcome State Fault Refusal :=
  .next (issue (.mset o) (fun s i =>
    let (x, s) := takeX s i o.a
    finishOp (writeMask s i o.d x) i (.mset o)) s)

/-- `mget` (R198). -/
def execMget (o : OpsXM) (s : State) : Host.Outcome State Fault Refusal := .next (maskToX (.mget o) o (fun x => x) s)

end Sys2Proof.Machine
end

