-- ==== Sys2Proof/Machine/VectorMemory.lean ====
section
/-!
DEFINITION. Vector memory instructions (R199 to R202) and `vanc` (R203).
-/
namespace Sys2Proof.Machine

/-! ### Shared forms -/

/-- What an outstanding vector load starts from: the inactive elements of its destination (R182, R200). -/
def loadBase (s : State) (i : CtxId) (d : VReg) (m : MReg) (mz : Bool) : Nat :=
  let f := s.fir i
  (packLanes 32 ((List.range 32).map fun j => if bitAt (maskBits f m) j || mz then 0 else laneN 32 (f.readV d) j)).toNat

/-- The home of a store whose checks have passed at issue (R202). -/
def checkedHome (s : State) (i : CtxId) (va : Word) : Option Nat :=
  match homeOf s (requester s i) va.toNat .write with
  | .ok pa => some pa
  | .error _ => none

/-- A posted store of `n` bytes whose checks have passed. -/
def blockStore (s : State) (i : CtxId) (va : Word) (n : Nat) (mask : BitVec 32) (data : Vec) (poison : Bool) (pos : Nat) : Access :=
  { newAccess s i (nextNum s i) va (.block n mask data poison) pos none with pa := checkedHome s i va }

/-! ### Meanings -/

/-- `vld` (R200, R201): the active elements of a 128-byte block as one access; outstanding. -/
def execVld (o : OpsVL) (s : State) : Host.Outcome State Fault Refusal :=
  .next (issue (.vld o) (fun s i =>
    let (x, s) := takeX s i o.a
    let ea := x + voffVal o.off
    let m := mextMask o.ext
    let mask := elemMask (s.fir i) m
    let e := newEntry s i ea (.v (vIdx o.d)) .whole (loadBase s i o.d m (mextZero o.ext))
    let l := if mask = 0 then [] else [newAccess s i (nextNum s i) ea (.vload mask false) 0 none]
    finishOp (takeEntry s i e l) i (.vld o)) s)

/-- `vst` (R200, R202): posted; the active elements of a 128-byte block are written at one instant. -/
def execVst (o : OpsVS) (s : State) : Host.Outcome State Fault Refusal :=
  .next (issue (.vst o) (fun s i =>
    let (x, s) := takeX s i o.a
    let (v, s) := takeV s i o.d
    let mask := elemMask (s.fir i) (o.ext.getD 0)
    let l := if mask = 0 then [] else [blockStore s i (x + voffVal o.off) 128 mask v false 0]
    finishOp (postAccesses s i l) i (.vst o)) s)

/-- `vgather` (R200, R201): one 4-byte load for each active lane, in lane order; one entry. -/
def execVgather (o : OpsVL) (s : State) : Host.Outcome State Fault Refusal :=
  .next (issue (.vgather o) (fun s i =>
    let (x, s) := takeX s i o.a
    let ea := x + voffVal o.off
    let m := mextMask o.ext
    let f := s.fir i
    let l := (elemsAt f m (laneAdr f ea)).map fun q => newAccess s i (nextNum s i) q.2 (.load 4) (4 * q.1) none
    finishOp (takeEntry s i (newEntry s i ea (.v (vIdx o.d)) .whole (loadBase s i o.d m (mextZero o.ext))) l) i (.vgather o)) s)

/-- `vscatter` (R200, R202): one word store for each active lane, in lane order. -/
def execVscatter (o : OpsVS) (s : State) : Host.Outcome State Fault Refusal :=
  .next (issue (.vscatter o) (fun s i =>
    let (x, s) := takeX s i o.a
    let (v, s) := takeV s i o.d
    let f := s.fir i
    let l := (elemsAt f (o.ext.getD 0) (laneAdr f (x + voffVal o.off))).map fun q =>
      blockStore s i q.2 4 (BitVec.allOnes 32) (BitVec.ofNat 1024 (laneN 32 v q.1)) false (4 * q.1)
    finishOp (postAccesses s i l) i (.vscatter o)) s)

/-- `vldbc` (R199): one word, copied into every active lane; outstanding. -/
def execVldbc (o : OpsVL) (s : State) : Host.Outcome State Fault Refusal :=
  .next (issue (.vldbc o) (fun s i =>
    let (x, s) := takeX s i o.a
    let ea := x + voffVal o.off
    let m := mextMask o.ext
    let mask := elemMask (s.fir i) m
    let e := newEntry s i ea (.v (vIdx o.d)) .whole (loadBase s i o.d m (mextZero o.ext))
    let l := if mask = 0 then [] else [newAccess s i (nextNum s i) ea (.vload mask true) 0 none]
    finishOp (takeEntry s i e l) i (.vldbc o)) s)

/-- `vanc` (R203): the ancestors of node x[b] as a mask; its nv is ORed into fpctl. -/
def execVanc (o : OpsVanc) (s : State) : Host.Outcome State Fault Refusal :=
  .next (issue (.vanc o) (fun s i =>
    let (v, s) := takeV s i o.a
    let (y, s) := takeX s i o.b
    let r := if 64 ≤ y.toNat then (0, true) else ancestors v 64 y.toNat 0
    finishOp (addFlags (writeMask s i o.d (BitVec.ofNat 64 r.1)) i (if r.2 then flagNv else 0)) i (.vanc o)) s)

end Sys2Proof.Machine
end

