-- ==== Sys2Proof/Machine/Gangs.lean ====
section
/-!
DEFINITION. Gangs, the accumulator and the hamper as instructions (R271 to R289).
-/
namespace Sys2Proof.Machine

/-! ### Shared forms -/

/-- `n` bytes of the own hamper or scratchpad from `va`, in pieces of `size` bytes. -/
def pieceReads (s : State) (i : CtxId) (num : Nat) (va : Word) (n size : Nat) : List Access :=
  (List.range (n / size)).map fun j =>
    newAccess s i num (va + BitVec.ofNat 64 (size * j)) (.load size) (size * j) none

/-- The firing claims the accumulator (R286, R288). -/
def claimOwner (s : State) (i : CtxId) : State := writeOwner s i.core (s.fir i).tag

/-! ### Meanings -/

/-- `gang` (R271): its checks have passed; it claims the accumulator, then joins its barrier, or completes with status 5 while the other
context waits at one. -/
def execGang (o : OpsDA) (s : State) : Host.Outcome State Fault Refusal :=
  .next (issue (.gang o) (fun s i =>
    let d := peekX s i o.a
    let s1 := claimOwner s i
    if (s.ctx ⟨i.core, otherCtx i.x⟩).barrier.isSome then
      finishGang (s1.modCtx i fun k => { k with barrier := some ⟨absDesc i.core d, s.now, o.d, o.a⟩ }) i (gangStatus 5 0)
    else joinBarrier s1 i d o.d o.a) s)

/-- `gstat` (R282). -/
def execGstat (o : OpsD) (s : State) : Host.Outcome State Fault Refusal :=
  .next (issue (.gstat o) (fun s i => finishOp (writeDest s i o.d (s.coreAt i.core).gstat) i (.gstat o)) s)

/-- `acc.rd` (R287): the slot is read at issue; a poisoned one faults the entry, and it is read again when the entry is performed again. -/
def execAccRd (o : OpsAcc) (s : State) : Host.Outcome State Fault Refusal :=
  .next (issue (.accRd o) (fun s i =>
    let c := s.coreAt i.core
    let va := BitVec.ofNat 64 o.slot.val
    let bad := bitAt c.slotPoison o.slot.val
    let e := { newEntry s i va (.v (vIdx o.d)) .whole 0 with
      value := (c.slots[o.slot]).toNat, fault := if bad then some (0, 0x0F) else none
      req := [newAccess s i (nextNum s i) va (.slot o.slot) 0 none] }
    finishOp (takeDone s i e) i (.accRd o)) s)

/-- `acc.wr` (R287). -/
def execAccWr (o : OpsAcc) (s : State) : Host.Outcome State Fault Refusal :=
  .next (issue (.accWr o) (fun s i =>
    let (v, s) := takeV s i o.d
    let s1 := s.modCore i.core fun c => { c with
      slots := c.slots.set o.slot v, slotPoison := withField c.slotPoison o.slot.val o.slot.val 0 }
    finishOp s1 i (.accWr o)) s)

/-- `acc.zero` (R287). -/
def execAccZero (o : OpsW) (s : State) : Host.Outcome State Fault Refusal :=
  .next (issue (.accZero o) (fun s i => finishOp (zeroSlots s i.core) i (.accZero o)) s)

/-- `acc.spill` (R287): 64 posted blocks in slot order; a poisoned slot's words become poisoned. -/
def execAccSpill (o : OpsA) (s : State) : Host.Outcome State Fault Refusal :=
  .next (issue (.accSpill o) (fun s i =>
    let (x, s) := takeX s i o.a
    let c := s.coreAt i.core
    let l := (List.range 64).map fun n => blockStore s i (x + BitVec.ofNat 64 (128 * n)) 128 (BitVec.allOnes 32)
      (c.slots[Fin.ofNat 64 n]) (bitAt c.slotPoison n) (128 * n)
    finishOp (postAccesses s i l) i (.accSpill o)) s)

/-- `acc.fill` (R287): one entry; the slots are written when it lands. -/
def execAccFill (o : OpsA) (s : State) : Host.Outcome State Fault Refusal :=
  .next (issue (.accFill o) (fun s i =>
    let (x, s) := takeX s i o.a
    finishOp (takeEntry s i (newEntry s i x .slots .whole 0) (pieceReads s i (nextNum s i) x 8192 128)) i (.accFill o)) s)

/-- `acc.tag` (R288): claims or releases; the answer says whether the firing owned the accumulator. -/
def execAccTag (o : OpsDA) (s : State) : Host.Outcome State Fault Refusal :=
  .next (issue (.accTag o) (fun s i =>
    let (x, s) := takeX s i o.a
    let own := (s.coreAt i.core).accowner == (s.fir i).tag
    let s1 := if bitAt x 0 then writeOwner s i.core 0 else claimOwner s i
    finishOp (writeDest s1 i o.d (boolWord own)) i (.accTag o)) s)

/-- `h.ld` (R289): two entries, for v[d] and v[d+1], read as whole 256-bit words. -/
def execHLd (o : OpsDA) (s : State) : Host.Outcome State Fault Refusal :=
  .next (issue (.hLd o) (fun s i =>
    let (x, s) := takeX s i o.a
    let half (s : State) (va : Word) (d : VReg) : State :=
      takeEntry s i (newEntry s i va (.v (vIdx d)) .whole 0) (pieceReads s i (nextNum s i) va 128 32)
    finishOp (half (half s x o.d) (x + 128) (regPlus o.d 1)) i (.hLd o)) s)

/-- `h.st` (R289): 256 bytes posted as whole 256-bit words. -/
def execHSt (o : OpsDA) (s : State) : Host.Outcome State Fault Refusal :=
  .next (issue (.hSt o) (fun s i =>
    let (x, s) := takeX s i o.a
    let f := s.fir i
    let word (j : Nat) : Vec := BitVec.ofNat 1024 (laneN 256 (f.readV (if j < 4 then o.d else regPlus o.d 1)) (j % 4))
    let l := (List.range 8).map fun j => blockStore s i (x + BitVec.ofNat 64 (32 * j)) 32 (BitVec.allOnes 32) (word j) false (32 * j)
    finishOp (postAccesses s i l) i (.hSt o)) s)

/-- `h.fill` (R289): 32 lines are read, then the block is written; outstanding. -/
def execHFill (o : OpsDAB) (s : State) : Host.Outcome State Fault Refusal :=
  .next (issue (.hFill o) (fun s i =>
    let (x, s) := takeX s i o.a
    let (y, s) := takeX s i o.b
    let last := newAccess s i (nextNum s i) (BitVec.ofNat 64 (0x100000 + 4096 * x.toNat)) (.hfillDo x.toNat none) 0 none
    finishOp (takeEntry s i (newEntry s i y (.x o.d) .whole 0) (pieceReads s i (nextNum s i) y 4096 128 ++ [last])) i (.hFill o)) s)

end Sys2Proof.Machine
end

