-- ==== Sys2Proof/Machine/Events.lean ====
section
/-!
DEFINITION. The steps of the part's agents (spec/95_what_each_step_holds.md): one definition per row of the opcode table that is an
event. A step that is not enabled in a state changes nothing.
-/
namespace Sys2Proof.Machine

/-- A record in flight reaches its unit: a context's posted one, or one that the churn sent (R242, R259). -/
def recordStep (s : State) (src : RecSrc) (k : Nat) : State :=
  match src with
  | .ctx c x => recordArrival s ⟨c, x⟩ k
  | .churn p ch => churnArrival s p ch k

/-- A pcra word that starts a read or a write (R346). -/
def pcraOf (v : Word) (wr : Bool) : Word := withField v 23 22 (2 + boolNat wr)

/-- ISSUE_CYCLE (R88). Each cycle the core chooses the U or N context to issue from. -/
def execIssueCycle (c : Nat) (s : State) : Host.Outcome State Fault Refusal := .next (issueCycle s c)

/-- ACCESS_RETURN (R97). An outstanding access or arithmetic result returns into its return-buffer entry. -/
def execAccessReturn (c : Nat) (x : Ctx) (k : Nat) (s : State) : Host.Outcome State Fault Refusal := .next (returnEntry s ⟨c, x⟩ k)

/-- ACCESS_PERFORM (R291). A home performs a load, store or atomic that has reached it. -/
def execAccessPerform (c : Nat) (x : Ctx) (k : Nat) (s : State) : Host.Outcome State Fault Refusal := .next (performAccess s ⟨c, x⟩ k)

/-- STORE_CHECK_COMPLETE (R208). A posted store's translation, permission and grant checks complete. -/
def execStoreCheckComplete (c : Nat) (x : Ctx) (k : Nat) (s : State) : Host.Outcome State Fault Refusal := .next (checkStore s ⟨c, x⟩ k)

/-- STORE_FAULT_TRAP (R324). The store-fault trap is taken at the twelfth instruction, drain, done or gang. -/
def execStoreFaultTrap (c : Nat) (x : Ctx) (s : State) : Host.Outcome State Fault Refusal := .next (storeFaultTrap s ⟨c, x⟩)

/-- MESSAGE_ARRIVAL (R84). A message reaches its core and enters the run queue or hold slot, or is discarded or refused. -/
def execMessageArrival (src : MsgSrc) (k : Nat) (s : State) : Host.Outcome State Fault Refusal := .next (messageArrival s src k)

/-- MESSAGE_RESEND (R84). After 64 cycles the sender's interface resends a refused message. -/
def execMessageResend (src : MsgSrc) (k : Nat) (s : State) : Host.Outcome State Fault Refusal := .next (messageResend s src k)

/-- SEND_FAILURE (R219). A transmission fails by CRC or acknowledgement time-out, and after eight the message is abandoned. -/
def execSendFailure (c : Nat) (x : Ctx) (k : Nat) (s : State) : Host.Outcome State Fault Refusal := .next (sendFailure s ⟨c, x⟩ k)

/-- FIRING_START (R86). A context with no firing starts one from its run queue or deque and sets its initial state. -/
def execFiringStart (c : Nat) (x : Ctx) (s : State) : Host.Outcome State Fault Refusal := .next (firingStart s ⟨c, x⟩)

/-- ACTOR_READY (R87). An actor entry becomes ready, reserves its counts and is appended to the run queue. -/
def execActorReady (c : Nat) (cls : Nat) (s : State) : Host.Outcome State Fault Refusal := .next (actorReady s c cls)

/-- RANGE_REMAINDER_PUSH (R91). A kept remainder is pushed back when the deque has room. -/
def execRangeRemainderPush (c : Nat) (x : Ctx) (s : State) : Host.Outcome State Fault Refusal := .next (rangeRemainderPush s ⟨c, x⟩)

/-- STEAL_REQUEST (R94). An idle core sends a steal request to the next core of its cluster. -/
def execStealRequest (c : Nat) (s : State) : Host.Outcome State Fault Refusal := .next (stealRequest s c)

/-- STEAL_SERVE (R93). A victim serves a steal request by split, whole entry or refusal. -/
def execStealServe (thief : Nat) (s : State) : Host.Outcome State Fault Refusal := .next (stealServe s thief)

/-- STEAL_REPLY (R93). A thief receives a grant or refusal and pushes its part or tries the next victim. -/
def execStealReply (c : Nat) (s : State) : Host.Outcome State Fault Refusal := .next (stealReply s c)

/-- STEAL_ROUND_RETRY (R94). After 1,024 cycles a refused thief begins a new round. -/
def execStealRoundRetry (c : Nat) (s : State) : Host.Outcome State Fault Refusal := .next (stealRoundRetry s c)

/-- DONATION_REQUEST (R95). A fully idle cluster's service hart asks the most loaded cluster for a group. -/
def execDonationRequest (cl : Nat) (s : State) : Host.Outcome State Fault Refusal := .next (donationRequest s cl)

/-- DONATION_SERVE (R95). The victim ships its oldest unstarted eligible group or refuses. -/
def execDonationServe (cl : Nat) (s : State) : Host.Outcome State Fault Refusal := .next (donationServe s cl)

/-- PARK_WAKE (R174). An event ends a park and writes the event set. -/
def execParkWake (c : Nat) (x : Ctx) (s : State) : Host.Outcome State Fault Refusal := .next (parkWake s ⟨c, x⟩)

/-- PARK_TIMEOUT (R174). A park ends after 65,536 cycles with no event. -/
def execParkTimeout (c : Nat) (x : Ctx) (s : State) : Host.Outcome State Fault Refusal := .next (parkTimeout s ⟨c, x⟩)

/-- HOST_DOORBELL (R348). The host writes a queue doorbell with its total of written records. -/
def execHostDoorbell (p q : Nat) (total : BitVec 64) (s : State) : Host.Outcome State Fault Refusal := .next (hostDoorbell s p q total)

/-- HOST_QUEUE_RECORD (R61). A scheduler reads a host-queue record and enqueues or refuses it. -/
def execHostQueueRecord (p q : Nat) (s : State) : Host.Outcome State Fault Refusal := .next (settlePart s p (hostQueueRecord s p q))

/-- GROUP_PLACE (R63). A die scheduler places the next group of a launch on a cluster or forwards it. -/
def execGroupPlace (die p : Nat) (s : State) : Host.Outcome State Fault Refusal := .next (groupPlace s die p)

/-- GROUP_FORWARD (R65). A group bound for another die joins that die's scheduler queue. -/
def execGroupForward (die k : Nat) (s : State) : Host.Outcome State Fault Refusal := .next (groupForward s die k)

/-- GROUP_RETIRE (R72). A group retires when all its group-start firings have ended. -/
def execGroupRetire (die : Nat) (gid : Nat) (s : State) : Host.Outcome State Fault Refusal := .next (groupRetire s die gid)

/-- LAUNCH_RETIRE (R72). A retired launch writes its completion object, releases successors and frees its pool slot. -/
def execLaunchRetire (p handle : Nat) (s : State) : Host.Outcome State Fault Refusal := .next (settlePart s p (launchRetire s p handle))

/-- REPLAY_REQUEST (R76). A graph's home scheduler accepts, queues or refuses a replay. -/
def execReplayRequest (p k : Nat) (s : State) : Host.Outcome State Fault Refusal := .next (settlePart s p (replayRequest s p k))

/-- GRAPH_NODE_RETIRE (R75). A retiring node counts down its successors and completes the replay after the last. -/
def execGraphNodeRetire (p handle : Nat) (s : State) : Host.Outcome State Fault Refusal := .next (settlePart s p (graphNodeRetire s p handle))

/-- IMAGE_LOAD (R21). The loader verifies, places and binds an image at its origins. -/
def execImageLoad (r : LoadReq) (s : State) : Host.Outcome State Fault Refusal :=
  .next (if r.sys then settleHyp s r.part (imageLoad s r) else settlePart s r.part (imageLoad s r))

/-- IMAGE_UNLOAD (R365). The loader removes one load as a whole or refuses with status 3. -/
def execImageUnload (p load : Nat) (s : State) : Host.Outcome State Fault Refusal := .next (imageUnload s p load)

/-- COPY_KICK (R121). A kick entering the service-hart queue has its descriptor read and lines claimed. -/
def execCopyKick (c : Nat) (x : Ctx) (k : Nat) (s : State) : Host.Outcome State Fault Refusal := .next (copyKick s ⟨c, x⟩ k)

/-- SERVICE_HART_CHUNK (R119). The service hart translates, reads and writes one 4 KiB chunk of a request. -/
def execServiceHartChunk (cl slot : Nat) (s : State) : Host.Outcome State Fault Refusal :=
  .next (settlePart s (clusterPart s cl) (hartChunk s cl slot))

/-- SH_REPLAY (R126). The supervisor resumes a faulted request at its cursor. -/
def execShReplay (cl slot : Nat) (s : State) : Host.Outcome State Fault Refusal := .next (settlePart s (clusterPart s cl) (hartReplay s cl slot))

/-- SH_CANCEL (R126). The supervisor cancels a faulted request and releases its lines. -/
def execShCancel (cl slot : Nat) (s : State) : Host.Outcome State Fault Refusal := .next (settlePart s (clusterPart s cl) (hartCancel s cl slot))

/-- COPY_FAULT_POP (R125). A write to offset 0x2808 pops the head copy-fault record. -/
def execCopyFaultPop (p : Nat) (s : State) : Host.Outcome State Fault Refusal := .next (popCopyFault s p)

/-- TRANSLATION_WALK (R110). The cluster walker completes a page-table walk. -/
def execTranslationWalk (cl p : Nat) (va : BitVec 64) (s : State) : Host.Outcome State Fault Refusal := .next (translationWalk s cl p va)

/-- ERROR_DETECTED (R128). An ECC, parity or CRC error is corrected, poisons the word or is reported. -/
def execErrorDetected (e : ErrorReport) (s : State) : Host.Outcome State Fault Refusal := .next (errorDetected s e)

/-- ERROR_LOG_FREE (R129). Writing all ones to count frees an error-log entry. -/
def execErrorLogFree (a : ErrArray) (i : Nat) (s : State) : Host.Outcome State Fault Refusal := .next (freeLogEntry s a i)

/-- ERROR_OVERFLOW_CLEAR (R129). Any write clears an array's overflow counter. -/
def execErrorOverflowClear (a : ErrArray) (s : State) : Host.Outcome State Fault Refusal := .next (clearOverflow s a)

/-- ERROR_INJECT_ARM (R130). Arms one error to apply to the next write or flit of its target. -/
def execErrorInjectArm (a : ErrArray) (v : BitVec 64) (s : State) : Host.Outcome State Fault Refusal := .next (armInjection s a v)

/-- CHANNEL_DESCRIPTOR_WRITE (R237). A descriptor write is accepted or ignored and enters endpoint tables. -/
def execChannelDescriptorWrite (p ch dw : Nat) (v : BitVec 64) (hyp : Bool) (s : State) : Host.Outcome State Fault Refusal :=
  .next (channelDescriptorWrite s p ch dw v hyp)

/-- CHANNEL_RECORD_ARRIVAL (R242). The reader's unit writes an arriving record to the ring or forwards it to spill. -/
def execChannelRecordArrival (src : RecSrc) (k : Nat) (s : State) : Host.Outcome State Fault Refusal := .next (recordStep s src k)

/-- SPILL_REFILL (R242). The spill engine moves its oldest record into a free ring slot. -/
def execSpillRefill (p ch : Nat) (s : State) : Host.Outcome State Fault Refusal := .next (spillRefill s p ch)

/-- SPILL_RESUME (R242). A write of a channel number to 0x8_8018 resumes its spill. -/
def execSpillResume (p : Nat) (v : BitVec 64) (s : State) : Host.Outcome State Fault Refusal := .next (spillResume s p v)

/-- CREDIT_ARRIVAL (R243). A credit lowers a writer's known occupancy and may unpark it. -/
def execCreditArrival (p ch writer : Nat) (s : State) : Host.Outcome State Fault Refusal := .next (creditArrival s p ch writer)

/-- RESERVATION_GRANT (R248). A shared ring grants a reservation once room allows. -/
def execReservationGrant (c : Nat) (x : Ctx) (k : Nat) (s : State) : Host.Outcome State Fault Refusal := .next (resArrival s ⟨c, x⟩ k)

/-- SHARED_RING_HANG (R249). A head slot unpublished for tmo units raises a kind 4 event. -/
def execSharedRingHang (p ch : Nat) (s : State) : Host.Outcome State Fault Refusal := .next (sharedRingHang s p ch)

/-- SLOT_VOID (R249). A write to 0x8_8010 voids a shared-ring slot. -/
def execSlotVoid (p : Nat) (v : BitVec 64) (s : State) : Host.Outcome State Fault Refusal := .next (slotVoid s p v)

/-- POOL_DESCRIPTOR_WRITE (R241). A spill-pool descriptor write is accepted or ignored. -/
def execPoolDescriptorWrite (p pool dw : Nat) (v : BitVec 64) (s : State) : Host.Outcome State Fault Refusal :=
  .next (poolDescriptorWrite s p pool dw v)

/-- CHANNEL_DEADLOCK (R246). After 2,048 parked cycles the monitor grows a bound or posts a deadlock event. -/
def execChannelDeadlock (p g : Nat) (s : State) : Host.Outcome State Fault Refusal := .next (channelDeadlock s p g)

/-- CHANNEL_EVENT_POP (R247). A write to 0x8_8008 pops the head channel event. -/
def execChannelEventPop (p : Nat) (s : State) : Host.Outcome State Fault Refusal := .next (popChanEvent s p)

/-- XP_REVOKE (R251). Clearing a proxy's v revokes a cross-partition channel at once. -/
def execXpRevoke (p ch : Nat) (s : State) : Host.Outcome State Fault Refusal := .next (xpRevoke s p ch)

/-- CHURN_RECORD (R259). The churn merges or enters an arriving delta record. -/
def execChurnRecord (c : Nat) (x : Ctx) (k : Nat) (s : State) : Host.Outcome State Fault Refusal := .next (emitArrival s ⟨c, x⟩ k)

/-- CHURN_CORK (R259). A completing cork forwards the interval's entries and one cork. -/
def execChurnCork (c : Nat) (x : Ctx) (k : Nat) (s : State) : Host.Outcome State Fault Refusal := .next (corkArrival s ⟨c, x⟩ k)

/-- INDEX_OP_PERFORM (R264). The index engine performs an index operation on a bucket. -/
def execIndexOpPerform (c : Nat) (x : Ctx) (k : Nat) (s : State) : Host.Outcome State Fault Refusal := .next (indexArrival s ⟨c, x⟩ k)

/-- RED_CONTRIBUTION (R224). A contribution is taken into its member's router or dropped. -/
def execRedContribution (c : Nat) (x : Ctx) (k : Nat) (s : State) : Host.Outcome State Fault Refusal := .next (redArrival s ⟨c, x⟩ k)

/-- RED_PACKET_ARRIVAL (R223). A child's packet reaches a router, which forwards once all inputs are present. -/
def execRedPacketArrival (p gid k : Nat) (s : State) : Host.Outcome State Fault Refusal := .next (packetArrival s p gid k)

/-- RED_TIMEOUT (R224). The arm time-out expires and the root sends a flush. -/
def execRedTimeout (p gid : Nat) (s : State) : Host.Outcome State Fault Refusal := .next (redTimeout s p gid)

/-- RED_FLUSH_ARRIVAL (R224). A router receiving a flush forwards what it holds and passes the flush on. -/
def execRedFlushArrival (p gid k : Nat) (s : State) : Host.Outcome State Fault Refusal := .next (flushArrival s p gid k)

/-- GROUP_DRAIN_COMPLETE (R221). A draining group becomes free when no packet remains. -/
def execGroupDrainComplete (p gid : Nat) (s : State) : Host.Outcome State Fault Refusal := .next (drainComplete s p gid)

/-- GANG_FREEZE (R274). A complete barrier freezes the members, loads weights and latches the cell. -/
def execGangFreeze (c : Nat) (x : Ctx) (s : State) : Host.Outcome State Fault Refusal := .next (freeze s ⟨c, x⟩)

/-- GANG_BARRIER_TIMEOUT (R272). A barrier not frozen in gangtmo units completes its joiners with status 4. -/
def execGangBarrierTimeout (c : Nat) (x : Ctx) (s : State) : Host.Outcome State Fault Refusal := .next (barrierTimeout s ⟨c, x⟩)

/-- GANG_PULSE (R278). A cell with its inputs and output room performs one indivisible pulse. -/
def execGangPulse (c : Nat) (s : State) : Host.Outcome State Fault Refusal := .next (pulse s c)

/-- GANG_THAW (R280). A gang thaws on completion, pre-emption, fault or kill and delivers status words. -/
def execGangThaw (c : Nat) (s : State) : Host.Outcome State Fault Refusal := .next (thawDone s c)

/-- PREQ (R328). A write to preq halts the targeted contexts. -/
def execPreq (p : Nat) (v : BitVec 64) (s : State) : Host.Outcome State Fault Refusal := .next (preq s p v)

/-- CONTEXT_SAVE (R330). The service hart saves a halted context to its save record. -/
def execContextSave (c : Nat) (x : Ctx) (s : State) : Host.Outcome State Fault Refusal := .next (contextSave s ⟨c, x⟩)

/-- PRESUME (R331). A write to presume restores saved contexts. -/
def execPresume (p : Nat) (v : BitVec 64) (s : State) : Host.Outcome State Fault Refusal := .next (presume s p v)

/-- PDISCARD (R332). A write to pdiscard ends saved firings with cause 0x10. -/
def execPdiscard (p : Nat) (v : BitVec 64) (s : State) : Host.Outcome State Fault Refusal := .next (pdiscard s p v)

/-- GKILL (R333). A write to gkill ends every firing and message of a group. -/
def execGkill (p : Nat) (v : BitVec 64) (s : State) : Host.Outcome State Fault Refusal := .next (gkill s p v)

/-- CRESET (R334). The hypervisor resets a cluster. -/
def execCreset (p : Nat) (v : BitVec 64) (s : State) : Host.Outcome State Fault Refusal := .next (creset s p v)

/-- RESET_TAIL_TIMEOUT (R334). The crossbar discards a tail-less packet after 256 cycles with a kind 8 event. -/
def execResetTailTimeout (c : Nat) (x : Ctx) (k : Nat) (s : State) : Host.Outcome State Fault Refusal := .next (resetTailTimeout s ⟨c, x⟩ k)

/-- FAULT_EVENT_POP (R320). A write to 0x9_0148 pops the head fault event. -/
def execFaultEventPop (p : Nat) (s : State) : Host.Outcome State Fault Refusal := .next (popFaultEvent s p)

/-- WATCHDOG_EXPIRY (R336). The sink watchdog reaches its interval, writes a snapshot and a kind 3 event. -/
def execWatchdogExpiry (p : Nat) (s : State) : Host.Outcome State Fault Refusal := .next (settlePart s p (watchdogExpiry s p))

/-- TBINFO_WRITE (R323). A write to tbinfo drops or completes a set-aside entry. -/
def execTbinfoWrite (c : Nat) (x : Ctx) (v : BitVec 64) (s : State) : Host.Outcome State Fault Refusal :=
  .next (s.modCtx ⟨c, x⟩ fun k => tbinfoWrite k v)

/-- SFPOP_WRITE (R325). A write to sfpop drops the head store-fault record. -/
def execSfpopWrite (c : Nat) (x : Ctx) (s : State) : Host.Outcome State Fault Refusal := .next (s.modCtx ⟨c, x⟩ sfPop)

/-- ACCOWNER_WRITE (R286). A write of 0 to accowner zeroes the slots. -/
def execAccownerWrite (c : Nat) (v : BitVec 64) (s : State) : Host.Outcome State Fault Refusal := .next (writeOwner s c (v.setWidth 32))

/-- LOOP_LEVEL_WRITE (R162). A write to loopst or loopout moves an active outer level inward. -/
def execLoopLevelWrite (c : Nat) (x : Ctx) (outer : Bool) (v : BitVec 64) (s : State) : Host.Outcome State Fault Refusal :=
  .next (s.modCtx ⟨c, x⟩ fun k => ctxCregWrite k (if outer then 0x1B else 0x11) v)

/-- DEQUE_BOUNDS_WRITE (R90). A write to rqbase or rqlim empties the deque. -/
def execDequeBoundsWrite (c : Nat) (lim : Bool) (v : BitVec 64) (s : State) : Host.Outcome State Fault Refusal :=
  .next (writeDequeBound s c lim v)

/-- PEVPEND_CLEAR (R345). Writing 1 to pevpend bits clears pending event sources. -/
def execPevpendClear (p : Nat) (v : BitVec 64) (s : State) : Host.Outcome State Fault Refusal := .next (clearPevpend s p v)

/-- PCRA_READ (R346). Starts a read of a context register into pcdata. -/
def execPcraRead (p : Nat) (v : BitVec 64) (s : State) : Host.Outcome State Fault Refusal := .next (pcraWrite s p (pcraOf v false))

/-- PCRA_WRITE (R346). Starts a write of pcdata to a context register. -/
def execPcraWrite (p : Nat) (v : BitVec 64) (s : State) : Host.Outcome State Fault Refusal := .next (pcraWrite s p (pcraOf v true))

/-- PCRA_COMPLETE (R346). The context-register operation completes or is refused. -/
def execPcraComplete (p : Nat) (s : State) : Host.Outcome State Fault Refusal := .next (pcraComplete s p)

/-- DEVCTL_COLD_START (R357). Starts the device from cold through the boot stages. -/
def execDevctlColdStart (v : BitVec 64) (s : State) : Host.Outcome State Fault Refusal := .next (devctlStart s false v)

/-- DEVCTL_WARM_START (R358). Warm start keeping colrep and optionally memory. -/
def execDevctlWarmStart (v : BitVec 64) (s : State) : Host.Outcome State Fault Refusal := .next (devctlStart s true v)

/-- BOOT_STAGE (R357). The boot advances devstat.stage or stops with an error. -/
def execBootStage (err : BitVec 8) (detail : BitVec 16) (s : State) : Host.Outcome State Fault Refusal := .next (bootStage s err detail)

/-- RECOVERY_CHUNK (R359). A write to rchunk stages a recovery chunk. -/
def execRecoveryChunk (v : BitVec 64) (s : State) : Host.Outcome State Fault Refusal := .next (recoveryChunk s v)

/-- RECOVERY_GO (R359). A write to rgo restarts the boot at stage 0x03. -/
def execRecoveryGo (s : State) : Host.Outcome State Fault Refusal := .next (recoveryGo s)

/-- HMBOX_SIGNAL (R347). A write to 0x00_2FF8 signals the hypervisor. -/
def execHmboxSignal (v : BitVec 64) (s : State) : Host.Outcome State Fault Refusal := .next (hmboxWrite s 0xFF8 8 v.toNat)

/-- MSIX_UNMASK (R347). Unmasking a vector sends its pending message. -/
def execMsixUnmask (vec : Nat) (s : State) : Host.Outcome State Fault Refusal := .next (unmaskMsix s vec)

/-- HOST_ACCESS (R308). A host read or write through BAR0 or BAR2 is performed at its home. -/
def execHostAccess (a : HostAcc) (s : State) : Host.Outcome State Fault Refusal := .next (hostAccess s a)

/-- BAR2BASE_WRITE (R349). The hypervisor sets bar2base, ignored when misaligned or past HBM. -/
def execBar2baseWrite (v : BitVec 64) (s : State) : Host.Outcome State Fault Refusal := .next (writeBar2base s v)

/-- LINK_REPLAY (R350). A CRC error asks the sender to replay from a sequence number. -/
def execLinkReplay (l : Nat) (s : State) : Host.Outcome State Fault Refusal := .next (linkReplay s l)

/-- LINK_DOWN (R352). A link goes down, abandoning and losing its traffic with kind 10 events. -/
def execLinkDown (l : Nat) (s : State) : Host.Outcome State Fault Refusal := .next (linkDown s l)

/-- LINK_RETRAIN (R352). The hypervisor retrains a link. -/
def execLinkRetrain (l : Nat) (trained : Bool) (s : State) : Host.Outcome State Fault Refusal := .next (linkRetrain s l trained)

/-- PEER_ACCESS (R353). A peer access matches an export entry or is refused. -/
def execPeerAccess (a : PeerAcc) (s : State) : Host.Outcome State Fault Refusal := .next (peerAccess s a)

/-- REFUSAL_COUNTER_CLEAR (R353). Any write clears the export refusal counter. -/
def execRefusalCounterClear (s : State) : Host.Outcome State Fault Refusal := .next (clearRefusals s)

/-- PARTITION_DEFINE (R355). Writing state 01 defines a free partition. -/
def execPartitionDefine (p : Nat) (s : State) : Host.Outcome State Fault Refusal := .next (partitionDefine s p)

/-- PARTITION_START (R355). Writing state 10 resets the window and loads the system image. -/
def execPartitionStart (p : Nat) (s : State) : Host.Outcome State Fault Refusal := .next (settleHyp s p (partitionStart s p))

/-- PARTITION_STOP (R355). Writing state 11 resets every cluster and releases resources. -/
def execPartitionStop (p : Nat) (s : State) : Host.Outcome State Fault Refusal := .next (partitionStop s p)

/-- HEVENT_CLEAR (R356). Writing 1 to hevent bits clears hypervisor events. -/
def execHeventClear (d : Nat) (v : BitVec 64) (s : State) : Host.Outcome State Fault Refusal := .next (clearHevent s d v)

/-- MONITOR_CLEAR (R360). Writing cfg clear resets a monitor's statistics. -/
def execMonitorClear (d i : Nat) (s : State) : Host.Outcome State Fault Refusal := .next (monitorClear s d i)

/-- MONITOR_SAMPLE (R360). A monitor takes a latency sample or a level sample every 1,024 cycles. -/
def execMonitorSample (d i : Nat) (v : BitVec 64) (s : State) : Host.Outcome State Fault Refusal := .next (monitorSample s d i v)

/-- THROTTLE_ENTER (R361). Temperature or current crosses its limit and issue is gated 1 in 2. -/
def execThrottleEnter (d : Nat) (cause : GateCause) (s : State) : Host.Outcome State Fault Refusal := .next (throttleEnter s d cause)

/-- THROTTLE_STEP (R361). After a further 1 ms gating deepens to 1 in 4. -/
def execThrottleStep (d : Nat) (s : State) : Host.Outcome State Fault Refusal := .next (throttleStep s d)

/-- THROTTLE_RELEASE (R361). A gating step is released when its release conditions hold. -/
def execThrottleRelease (d : Nat) (cause : GateCause) (s : State) : Host.Outcome State Fault Refusal := .next (throttleRelease s d cause)

/-- THERMAL_SHUTDOWN (R361). At 110 °C every die stops and devstat error 8 is set. -/
def execThermalShutdown (s : State) : Host.Outcome State Fault Refusal := .next (thermalShutdown s)

/-- REGISTER_WRITE (R105). A write to a window register with no behaviour of its own. -/
def execRegisterWrite (pa : Nat) (v : BitVec 64) (s : State) : Host.Outcome State Fault Refusal := .next (settleHyp s 0 (s, [(pa, v)]))

/-- PORT_FLIT_ARRIVAL (R96). A flit written to a port reaches the neighbour's FIFO for its context, two cycles after issue. -/
def execPortFlitArrival (c : Nat) (x : Ctx) (dir : Dir) (s : State) : Host.Outcome State Fault Refusal := .next (flitArrival s ⟨c, x⟩ dir)

/-- REMOTE_REQUEST_RESEND (R114). A remote memory request refused by a full bank is resent by the sender's interface after 64 cycles. -/
def execRemoteRequestResend (c : Nat) (x : Ctx) (k : Nat) (s : State) : Host.Outcome State Fault Refusal :=
  .next (remoteRequestResend s ⟨c, x⟩ k)

/-- CLUSTER_RESET_COMPLETE (R334). After the 4,096-cycle window the reset clears the cluster's state, ends the refusals and appends a kind 4 event within 8,192 cycles. -/
def execClusterResetComplete (cl : Nat) (s : State) : Host.Outcome State Fault Refusal :=
  .next (settlePart s (clusterPart s cl) (resetComplete s cl))

/-- TLADEIS_FLIT_FORWARD (R351). A flit arriving on a device link addressed to another device is forwarded on the link named by the route table. -/
def execTladeisFlitForward (f : LinkFlit) (s : State) : Host.Outcome State Fault Refusal := .next (forwardFlit s f)

end Sys2Proof.Machine
end

