-- ==== Sys2Proof/Machine/Dispatch.lean ====
section
/-!
DEFINITION. The dispatch: one arm per constructor of `Instr`.
-/
namespace Sys2Proof.Machine

def exec (i : Instr) (s : State) : Host.Outcome State Fault Refusal :=
  match i with
  | .nop o => Sys2Proof.Machine.execNop o s
  | .trap o => Sys2Proof.Machine.execTrap o s
  | .eret o => Sys2Proof.Machine.execEret o s
  | .getc o => Sys2Proof.Machine.execGetc o s
  | .setc o => Sys2Proof.Machine.execSetc o s
  | .park o => Sys2Proof.Machine.execPark o s
  | .bkpt o => Sys2Proof.Machine.execBkpt o s
  | .xinv o => Sys2Proof.Machine.execXinv o s
  | .add o => Sys2Proof.Machine.execAdd o s
  | .sub o => Sys2Proof.Machine.execSub o s
  | .and o => Sys2Proof.Machine.execAnd o s
  | .or o => Sys2Proof.Machine.execOr o s
  | .xor o => Sys2Proof.Machine.execXor o s
  | .andn o => Sys2Proof.Machine.execAndn o s
  | .sll o => Sys2Proof.Machine.execSll o s
  | .srl o => Sys2Proof.Machine.execSrl o s
  | .sra o => Sys2Proof.Machine.execSra o s
  | .slt o => Sys2Proof.Machine.execSlt o s
  | .sltu o => Sys2Proof.Machine.execSltu o s
  | .min o => Sys2Proof.Machine.execMin o s
  | .max o => Sys2Proof.Machine.execMax o s
  | .minu o => Sys2Proof.Machine.execMinu o s
  | .maxu o => Sys2Proof.Machine.execMaxu o s
  | .clz o => Sys2Proof.Machine.execClz o s
  | .ctz o => Sys2Proof.Machine.execCtz o s
  | .popc o => Sys2Proof.Machine.execPopc o s
  | .sextW o => Sys2Proof.Machine.execSextW o s
  | .zextW o => Sys2Proof.Machine.execZextW o s
  | .bext o => Sys2Proof.Machine.execBext o s
  | .addi o => Sys2Proof.Machine.execAddi o s
  | .andi o => Sys2Proof.Machine.execAndi o s
  | .ori o => Sys2Proof.Machine.execOri o s
  | .xori o => Sys2Proof.Machine.execXori o s
  | .slti o => Sys2Proof.Machine.execSlti o s
  | .sltiu o => Sys2Proof.Machine.execSltiu o s
  | .slli o => Sys2Proof.Machine.execSlli o s
  | .srli o => Sys2Proof.Machine.execSrli o s
  | .srai o => Sys2Proof.Machine.execSrai o s
  | .lih o => Sys2Proof.Machine.execLih o s
  | .mul o => Sys2Proof.Machine.execMul o s
  | .mulh o => Sys2Proof.Machine.execMulh o s
  | .mulhu o => Sys2Proof.Machine.execMulhu o s
  | .mulhsu o => Sys2Proof.Machine.execMulhsu o s
  | .div o => Sys2Proof.Machine.execDiv o s
  | .divu o => Sys2Proof.Machine.execDivu o s
  | .rem o => Sys2Proof.Machine.execRem o s
  | .remu o => Sys2Proof.Machine.execRemu o s
  | .beq o => Sys2Proof.Machine.execBeq o s
  | .bne o => Sys2Proof.Machine.execBne o s
  | .blt o => Sys2Proof.Machine.execBlt o s
  | .bge o => Sys2Proof.Machine.execBge o s
  | .bltu o => Sys2Proof.Machine.execBltu o s
  | .bgeu o => Sys2Proof.Machine.execBgeu o s
  | .bbs o => Sys2Proof.Machine.execBbs o s
  | .bbc o => Sys2Proof.Machine.execBbc o s
  | .jal o => Sys2Proof.Machine.execJal o s
  | .jalr o => Sys2Proof.Machine.execJalr o s
  | .loop o => Sys2Proof.Machine.execLoop o s
  | .loopi o => Sys2Proof.Machine.execLoopi o s
  | .fadd o => Sys2Proof.Machine.execFadd o s
  | .fsub o => Sys2Proof.Machine.execFsub o s
  | .fmul o => Sys2Proof.Machine.execFmul o s
  | .fdiv o => Sys2Proof.Machine.execFdiv o s
  | .fsqrt o => Sys2Proof.Machine.execFsqrt o s
  | .fmin o => Sys2Proof.Machine.execFmin o s
  | .fmax o => Sys2Proof.Machine.execFmax o s
  | .feq o => Sys2Proof.Machine.execFeq o s
  | .flt o => Sys2Proof.Machine.execFlt o s
  | .fle o => Sys2Proof.Machine.execFle o s
  | .fclass o => Sys2Proof.Machine.execFclass o s
  | .fsgnj o => Sys2Proof.Machine.execFsgnj o s
  | .fsgnjn o => Sys2Proof.Machine.execFsgnjn o s
  | .fcvtF32I64 o => Sys2Proof.Machine.execFcvtF32I64 o s
  | .fcvtI64F32 o => Sys2Proof.Machine.execFcvtI64F32 o s
  | .fcvtF32Bf16 o => Sys2Proof.Machine.execFcvtF32Bf16 o s
  | .fcvtBf16F32 o => Sys2Proof.Machine.execFcvtBf16F32 o s
  | .fcvtF32F16 o => Sys2Proof.Machine.execFcvtF32F16 o s
  | .fcvtF16F32 o => Sys2Proof.Machine.execFcvtF16F32 o s
  | .frsqe o => Sys2Proof.Machine.execFrsqe o s
  | .frcpe o => Sys2Proof.Machine.execFrcpe o s
  | .fmadd o => Sys2Proof.Machine.execFmadd o s
  | .fmsub o => Sys2Proof.Machine.execFmsub o s
  | .fnmadd o => Sys2Proof.Machine.execFnmadd o s
  | .fnmsub o => Sys2Proof.Machine.execFnmsub o s
  | .ldB o => Sys2Proof.Machine.execLdB o s
  | .ldBu o => Sys2Proof.Machine.execLdBu o s
  | .ldH o => Sys2Proof.Machine.execLdH o s
  | .ldHu o => Sys2Proof.Machine.execLdHu o s
  | .ldW o => Sys2Proof.Machine.execLdW o s
  | .ldWu o => Sys2Proof.Machine.execLdWu o s
  | .ldD o => Sys2Proof.Machine.execLdD o s
  | .ldAcq o => Sys2Proof.Machine.execLdAcq o s
  | .stB o => Sys2Proof.Machine.execStB o s
  | .stH o => Sys2Proof.Machine.execStH o s
  | .stW o => Sys2Proof.Machine.execStW o s
  | .stD o => Sys2Proof.Machine.execStD o s
  | .stRel o => Sys2Proof.Machine.execStRel o s
  | .stf o => Sys2Proof.Machine.execStf o s
  | .amoAdd o => Sys2Proof.Machine.execAmoAdd o s
  | .amoAnd o => Sys2Proof.Machine.execAmoAnd o s
  | .amoOr o => Sys2Proof.Machine.execAmoOr o s
  | .amoXor o => Sys2Proof.Machine.execAmoXor o s
  | .amoMin o => Sys2Proof.Machine.execAmoMin o s
  | .amoMax o => Sys2Proof.Machine.execAmoMax o s
  | .amoMinu o => Sys2Proof.Machine.execAmoMinu o s
  | .amoMaxu o => Sys2Proof.Machine.execAmoMaxu o s
  | .amoSwap o => Sys2Proof.Machine.execAmoSwap o s
  | .amoCas o => Sys2Proof.Machine.execAmoCas o s
  | .amoFaddF32 o => Sys2Proof.Machine.execAmoFaddF32 o s
  | .amoFaddBf16x2 o => Sys2Proof.Machine.execAmoFaddBf16x2 o s
  | .fence o => Sys2Proof.Machine.execFence o s
  | .drain o => Sys2Proof.Machine.execDrain o s
  | .feClr o => Sys2Proof.Machine.execFeClr o s
  | .feSet o => Sys2Proof.Machine.execFeSet o s
  | .feTest o => Sys2Proof.Machine.execFeTest o s
  | .fePeek o => Sys2Proof.Machine.execFePeek o s
  | .winSet o => Sys2Proof.Machine.execWinSet o s
  | .winDrop o => Sys2Proof.Machine.execWinDrop o s
  | .winTouch o => Sys2Proof.Machine.execWinTouch o s
  | .winState o => Sys2Proof.Machine.execWinState o s
  | .copy o => Sys2Proof.Machine.execCopy o s
  | .copySt o => Sys2Proof.Machine.execCopySt o s
  | .send o => Sys2Proof.Machine.execSend o s
  | .sendv o => Sys2Proof.Machine.execSendv o s
  | .mcast o => Sys2Proof.Machine.execMcast o s
  | .grpArm o => Sys2Proof.Machine.execGrpArm o s
  | .redF32 o => Sys2Proof.Machine.execRedF32 o s
  | .redI64 o => Sys2Proof.Machine.execRedI64 o s
  | .grpWait o => Sys2Proof.Machine.execGrpWait o s
  | .grpFree o => Sys2Proof.Machine.execGrpFree o s
  | .done o => Sys2Proof.Machine.execDone o s
  | .yield o => Sys2Proof.Machine.execYield o s
  | .rngPush o => Sys2Proof.Machine.execRngPush o s
  | .rngTake o => Sys2Proof.Machine.execRngTake o s
  | .launch o => Sys2Proof.Machine.execLaunch o s
  | .join o => Sys2Proof.Machine.execJoin o s
  | .replay o => Sys2Proof.Machine.execReplay o s
  | .lnstat o => Sys2Proof.Machine.execLnstat o s
  | .chOpen o => Sys2Proof.Machine.execChOpen o s
  | .chW o => Sys2Proof.Machine.execChW o s
  | .chWv o => Sys2Proof.Machine.execChWv o s
  | .chR o => Sys2Proof.Machine.execChR o s
  | .chRv o => Sys2Proof.Machine.execChRv o s
  | .chAvail o => Sys2Proof.Machine.execChAvail o s
  | .chSpace o => Sys2Proof.Machine.execChSpace o s
  | .chRes o => Sys2Proof.Machine.execChRes o s
  | .chPub o => Sys2Proof.Machine.execChPub o s
  | .chClose o => Sys2Proof.Machine.execChClose o s
  | .dqEmit o => Sys2Proof.Machine.execDqEmit o s
  | .dqRead o => Sys2Proof.Machine.execDqRead o s
  | .dqCork o => Sys2Proof.Machine.execDqCork o s
  | .dqCons o => Sys2Proof.Machine.execDqCons o s
  | .dqQuiet o => Sys2Proof.Machine.execDqQuiet o s
  | .ixUpd o => Sys2Proof.Machine.execIxUpd o s
  | .ixLook o => Sys2Proof.Machine.execIxLook o s
  | .ixNext o => Sys2Proof.Machine.execIxNext o s
  | .ixClear o => Sys2Proof.Machine.execIxClear o s
  | .vadd o => Sys2Proof.Machine.execVadd o s
  | .vsub o => Sys2Proof.Machine.execVsub o s
  | .vmul o => Sys2Proof.Machine.execVmul o s
  | .vmin o => Sys2Proof.Machine.execVmin o s
  | .vmax o => Sys2Proof.Machine.execVmax o s
  | .vabs o => Sys2Proof.Machine.execVabs o s
  | .vneg o => Sys2Proof.Machine.execVneg o s
  | .vrsqe o => Sys2Proof.Machine.execVrsqe o s
  | .vrcpe o => Sys2Proof.Machine.execVrcpe o s
  | .vexp2 o => Sys2Proof.Machine.execVexp2 o s
  | .vfeq o => Sys2Proof.Machine.execVfeq o s
  | .vflt o => Sys2Proof.Machine.execVflt o s
  | .vfle o => Sys2Proof.Machine.execVfle o s
  | .vfmadd o => Sys2Proof.Machine.execVfmadd o s
  | .vfmsub o => Sys2Proof.Machine.execVfmsub o s
  | .vfnmadd o => Sys2Proof.Machine.execVfnmadd o s
  | .vfnmsub o => Sys2Proof.Machine.execVfnmsub o s
  | .vaddI o => Sys2Proof.Machine.execVaddI o s
  | .vsubI o => Sys2Proof.Machine.execVsubI o s
  | .vmulI o => Sys2Proof.Machine.execVmulI o s
  | .vand o => Sys2Proof.Machine.execVand o s
  | .vor o => Sys2Proof.Machine.execVor o s
  | .vxor o => Sys2Proof.Machine.execVxor o s
  | .vsll o => Sys2Proof.Machine.execVsll o s
  | .vsrl o => Sys2Proof.Machine.execVsrl o s
  | .vsra o => Sys2Proof.Machine.execVsra o s
  | .vminI o => Sys2Proof.Machine.execVminI o s
  | .vmaxI o => Sys2Proof.Machine.execVmaxI o s
  | .vminu o => Sys2Proof.Machine.execVminu o s
  | .vmaxu o => Sys2Proof.Machine.execVmaxu o s
  | .vieq o => Sys2Proof.Machine.execVieq o s
  | .vilt o => Sys2Proof.Machine.execVilt o s
  | .viltu o => Sys2Proof.Machine.execViltu o s
  | .vcvt o => Sys2Proof.Machine.execVcvt o s
  | .vquant o => Sys2Proof.Machine.execVquant o s
  | .vdequant o => Sys2Proof.Machine.execVdequant o s
  | .vredsum o => Sys2Proof.Machine.execVredsum o s
  | .vredmax o => Sys2Proof.Machine.execVredmax o s
  | .vredmin o => Sys2Proof.Machine.execVredmin o s
  | .vscan o => Sys2Proof.Machine.execVscan o s
  | .vbcast o => Sys2Proof.Machine.execVbcast o s
  | .vperm o => Sys2Proof.Machine.execVperm o s
  | .vslup o => Sys2Proof.Machine.execVslup o s
  | .vsldn o => Sys2Proof.Machine.execVsldn o s
  | .vcompress o => Sys2Proof.Machine.execVcompress o s
  | .vins o => Sys2Proof.Machine.execVins o s
  | .vext o => Sys2Proof.Machine.execVext o s
  | .viota o => Sys2Proof.Machine.execViota o s
  | .vmov o => Sys2Proof.Machine.execVmov o s
  | .vsel o => Sys2Proof.Machine.execVsel o s
  | .mand o => Sys2Proof.Machine.execMand o s
  | .mor o => Sys2Proof.Machine.execMor o s
  | .mxor o => Sys2Proof.Machine.execMxor o s
  | .mnot o => Sys2Proof.Machine.execMnot o s
  | .mpopc o => Sys2Proof.Machine.execMpopc o s
  | .mfirst o => Sys2Proof.Machine.execMfirst o s
  | .mset o => Sys2Proof.Machine.execMset o s
  | .mget o => Sys2Proof.Machine.execMget o s
  | .vld o => Sys2Proof.Machine.execVld o s
  | .vst o => Sys2Proof.Machine.execVst o s
  | .vgather o => Sys2Proof.Machine.execVgather o s
  | .vscatter o => Sys2Proof.Machine.execVscatter o s
  | .vldbc o => Sys2Proof.Machine.execVldbc o s
  | .vanc o => Sys2Proof.Machine.execVanc o s
  | .gang o => Sys2Proof.Machine.execGang o s
  | .gstat o => Sys2Proof.Machine.execGstat o s
  | .accRd o => Sys2Proof.Machine.execAccRd o s
  | .accWr o => Sys2Proof.Machine.execAccWr o s
  | .accZero o => Sys2Proof.Machine.execAccZero o s
  | .accSpill o => Sys2Proof.Machine.execAccSpill o s
  | .accFill o => Sys2Proof.Machine.execAccFill o s
  | .accTag o => Sys2Proof.Machine.execAccTag o s
  | .hLd o => Sys2Proof.Machine.execHLd o s
  | .hSt o => Sys2Proof.Machine.execHSt o s
  | .hFill o => Sys2Proof.Machine.execHFill o s
  | .issueCycle c => Sys2Proof.Machine.execIssueCycle c s
  | .accessReturn c x k => Sys2Proof.Machine.execAccessReturn c x k s
  | .accessPerform c x k => Sys2Proof.Machine.execAccessPerform c x k s
  | .storeCheckComplete c x k => Sys2Proof.Machine.execStoreCheckComplete c x k s
  | .storeFaultTrap c x => Sys2Proof.Machine.execStoreFaultTrap c x s
  | .messageArrival src k => Sys2Proof.Machine.execMessageArrival src k s
  | .messageResend src k => Sys2Proof.Machine.execMessageResend src k s
  | .sendFailure c x k => Sys2Proof.Machine.execSendFailure c x k s
  | .firingStart c x => Sys2Proof.Machine.execFiringStart c x s
  | .actorReady c cls => Sys2Proof.Machine.execActorReady c cls s
  | .rangeRemainderPush c x => Sys2Proof.Machine.execRangeRemainderPush c x s
  | .stealRequest c => Sys2Proof.Machine.execStealRequest c s
  | .stealServe thief => Sys2Proof.Machine.execStealServe thief s
  | .stealReply c => Sys2Proof.Machine.execStealReply c s
  | .stealRoundRetry c => Sys2Proof.Machine.execStealRoundRetry c s
  | .donationRequest cl => Sys2Proof.Machine.execDonationRequest cl s
  | .donationServe cl => Sys2Proof.Machine.execDonationServe cl s
  | .parkWake c x => Sys2Proof.Machine.execParkWake c x s
  | .parkTimeout c x => Sys2Proof.Machine.execParkTimeout c x s
  | .hostDoorbell p q total => Sys2Proof.Machine.execHostDoorbell p q total s
  | .hostQueueRecord p q => Sys2Proof.Machine.execHostQueueRecord p q s
  | .groupPlace die p => Sys2Proof.Machine.execGroupPlace die p s
  | .groupForward die k => Sys2Proof.Machine.execGroupForward die k s
  | .groupRetire die gid => Sys2Proof.Machine.execGroupRetire die gid s
  | .launchRetire p handle => Sys2Proof.Machine.execLaunchRetire p handle s
  | .replayRequest p k => Sys2Proof.Machine.execReplayRequest p k s
  | .graphNodeRetire p handle => Sys2Proof.Machine.execGraphNodeRetire p handle s
  | .imageLoad r => Sys2Proof.Machine.execImageLoad r s
  | .imageUnload p load => Sys2Proof.Machine.execImageUnload p load s
  | .copyKick c x k => Sys2Proof.Machine.execCopyKick c x k s
  | .serviceHartChunk cl slot => Sys2Proof.Machine.execServiceHartChunk cl slot s
  | .shReplay cl slot => Sys2Proof.Machine.execShReplay cl slot s
  | .shCancel cl slot => Sys2Proof.Machine.execShCancel cl slot s
  | .copyFaultPop p => Sys2Proof.Machine.execCopyFaultPop p s
  | .translationWalk cl p va => Sys2Proof.Machine.execTranslationWalk cl p va s
  | .errorDetected e => Sys2Proof.Machine.execErrorDetected e s
  | .errorLogFree a n => Sys2Proof.Machine.execErrorLogFree a n s
  | .errorOverflowClear a => Sys2Proof.Machine.execErrorOverflowClear a s
  | .errorInjectArm a v => Sys2Proof.Machine.execErrorInjectArm a v s
  | .channelDescriptorWrite p ch dw v hyp => Sys2Proof.Machine.execChannelDescriptorWrite p ch dw v hyp s
  | .channelRecordArrival src k => Sys2Proof.Machine.execChannelRecordArrival src k s
  | .spillRefill p ch => Sys2Proof.Machine.execSpillRefill p ch s
  | .spillResume p v => Sys2Proof.Machine.execSpillResume p v s
  | .creditArrival p ch writer => Sys2Proof.Machine.execCreditArrival p ch writer s
  | .reservationGrant c x k => Sys2Proof.Machine.execReservationGrant c x k s
  | .sharedRingHang p ch => Sys2Proof.Machine.execSharedRingHang p ch s
  | .slotVoid p v => Sys2Proof.Machine.execSlotVoid p v s
  | .poolDescriptorWrite p pool dw v => Sys2Proof.Machine.execPoolDescriptorWrite p pool dw v s
  | .channelDeadlock p g => Sys2Proof.Machine.execChannelDeadlock p g s
  | .channelEventPop p => Sys2Proof.Machine.execChannelEventPop p s
  | .xpRevoke p ch => Sys2Proof.Machine.execXpRevoke p ch s
  | .churnRecord c x k => Sys2Proof.Machine.execChurnRecord c x k s
  | .churnCork c x k => Sys2Proof.Machine.execChurnCork c x k s
  | .indexOpPerform c x k => Sys2Proof.Machine.execIndexOpPerform c x k s
  | .redContribution c x k => Sys2Proof.Machine.execRedContribution c x k s
  | .redPacketArrival p gid k => Sys2Proof.Machine.execRedPacketArrival p gid k s
  | .redTimeout p gid => Sys2Proof.Machine.execRedTimeout p gid s
  | .redFlushArrival p gid k => Sys2Proof.Machine.execRedFlushArrival p gid k s
  | .groupDrainComplete p gid => Sys2Proof.Machine.execGroupDrainComplete p gid s
  | .gangFreeze c x => Sys2Proof.Machine.execGangFreeze c x s
  | .gangBarrierTimeout c x => Sys2Proof.Machine.execGangBarrierTimeout c x s
  | .gangPulse c => Sys2Proof.Machine.execGangPulse c s
  | .gangThaw c => Sys2Proof.Machine.execGangThaw c s
  | .preq p v => Sys2Proof.Machine.execPreq p v s
  | .contextSave c x => Sys2Proof.Machine.execContextSave c x s
  | .presume p v => Sys2Proof.Machine.execPresume p v s
  | .pdiscard p v => Sys2Proof.Machine.execPdiscard p v s
  | .gkill p v => Sys2Proof.Machine.execGkill p v s
  | .creset p v => Sys2Proof.Machine.execCreset p v s
  | .resetTailTimeout c x k => Sys2Proof.Machine.execResetTailTimeout c x k s
  | .faultEventPop p => Sys2Proof.Machine.execFaultEventPop p s
  | .watchdogExpiry p => Sys2Proof.Machine.execWatchdogExpiry p s
  | .tbinfoWrite c x v => Sys2Proof.Machine.execTbinfoWrite c x v s
  | .sfpopWrite c x => Sys2Proof.Machine.execSfpopWrite c x s
  | .accownerWrite c v => Sys2Proof.Machine.execAccownerWrite c v s
  | .loopLevelWrite c x outer v => Sys2Proof.Machine.execLoopLevelWrite c x outer v s
  | .dequeBoundsWrite c lim v => Sys2Proof.Machine.execDequeBoundsWrite c lim v s
  | .pevpendClear p v => Sys2Proof.Machine.execPevpendClear p v s
  | .pcraRead p v => Sys2Proof.Machine.execPcraRead p v s
  | .pcraWrite p v => Sys2Proof.Machine.execPcraWrite p v s
  | .pcraComplete p => Sys2Proof.Machine.execPcraComplete p s
  | .devctlColdStart v => Sys2Proof.Machine.execDevctlColdStart v s
  | .devctlWarmStart v => Sys2Proof.Machine.execDevctlWarmStart v s
  | .bootStage err detail => Sys2Proof.Machine.execBootStage err detail s
  | .recoveryChunk v => Sys2Proof.Machine.execRecoveryChunk v s
  | .recoveryGo => Sys2Proof.Machine.execRecoveryGo s
  | .hmboxSignal v => Sys2Proof.Machine.execHmboxSignal v s
  | .msixUnmask vec => Sys2Proof.Machine.execMsixUnmask vec s
  | .hostAccess a => Sys2Proof.Machine.execHostAccess a s
  | .bar2baseWrite v => Sys2Proof.Machine.execBar2baseWrite v s
  | .linkReplay l => Sys2Proof.Machine.execLinkReplay l s
  | .linkDown l => Sys2Proof.Machine.execLinkDown l s
  | .linkRetrain l trained => Sys2Proof.Machine.execLinkRetrain l trained s
  | .peerAccess a => Sys2Proof.Machine.execPeerAccess a s
  | .refusalCounterClear => Sys2Proof.Machine.execRefusalCounterClear s
  | .partitionDefine p => Sys2Proof.Machine.execPartitionDefine p s
  | .partitionStart p => Sys2Proof.Machine.execPartitionStart p s
  | .partitionStop p => Sys2Proof.Machine.execPartitionStop p s
  | .heventClear d v => Sys2Proof.Machine.execHeventClear d v s
  | .monitorClear d n => Sys2Proof.Machine.execMonitorClear d n s
  | .monitorSample d n v => Sys2Proof.Machine.execMonitorSample d n v s
  | .throttleEnter d cause => Sys2Proof.Machine.execThrottleEnter d cause s
  | .throttleStep d => Sys2Proof.Machine.execThrottleStep d s
  | .throttleRelease d cause => Sys2Proof.Machine.execThrottleRelease d cause s
  | .thermalShutdown => Sys2Proof.Machine.execThermalShutdown s
  | .registerWrite pa v => Sys2Proof.Machine.execRegisterWrite pa v s
  | .portFlitArrival c x dir => Sys2Proof.Machine.execPortFlitArrival c x dir s
  | .remoteRequestResend c x k => Sys2Proof.Machine.execRemoteRequestResend c x k s
  | .clusterResetComplete cl => Sys2Proof.Machine.execClusterResetComplete cl s
  | .tladeisFlitForward f => Sys2Proof.Machine.execTladeisFlitForward f s

end Sys2Proof.Machine
end

