-- ==== Sys2Proof/Machine/Step.lean ====
section
/-!
DEFINITION. One step of the machine: the instruction of the context that holds the issue slot, or the next turn of the schedule
(notes/assumptions/1.md); and how the host places an instruction to be fetched.
-/
namespace Sys2Proof.Machine

/-- The instruction at the pc of the context that holds the issue slot (R88): fetched, decoded and executed. -/
def fetchStep (s : State) : Host.Outcome State Fault Refusal :=
  match fetchNext s s.slot with
  | .ins i => exec i s
  | .fault c v => .next ((badGate s s.slot c v).settle s.slot s)
  | .illegal w => .next ((badGate s s.slot 0x01 w).settle s.slot s)

/-- One step. -/
def step (s : State) : Host.Outcome State Fault Refusal :=
  if s.granted then fetchStep { s with granted := false }
  else
    match s.sched with
    | [] => if deviceStopped s then .fault .deviceStopped else .next { s with sched := roundOf s }
    | .ev i :: l => if mayStep s i then exec i { s with sched := l } else .next { s with sched := l }
    | t :: l => .next (if deviceStopped s then { s with sched := l } else ownTurn { s with sched := l } t)

/-- The state with an instruction where the next step fetches it: words of 32 bits, those above `nbits` zero. -/
def State.withFetchWord (s : State) (nbits w : Nat) : State := placeProgram s (wordsOf 5 (w % 2 ^ nbits))

end Sys2Proof.Machine
end

