-- ==== Sys2Proof/Safety.lean ====
section
/-!
DEFINITION. The terms that claims use: safe steps and runs, the canonical form of memory, when an instruction can issue, what one context
is after an instruction, and what an instruction leaves alone.
-/
namespace Sys2Proof.Machine

/-! ### Safety -/

/-- The step answers a next state. -/
def SafeStep (s : State) : Prop := ∃ t, step s = .next t

/-- `n` steps, each answering a next state. -/
def SafeRun : Nat → State → Prop
  | 0, _ => True
  | n + 1, s => ∃ t, step s = .next t ∧ SafeRun n t

/-- Memory is in its canonical form. -/
def State.memWf (s : State) : Prop := Mem.wf s.mem = true

/-! ### When an instruction can issue -/

/-- Nothing keeps a context from its boundary, and nothing is due there before the instruction (R79, R85, R103, R207, R324, R335). -/
structure Free (s : State) (i : CtxId) : Prop where
  running : (s.ctx i).running = true
  going : (s.ctx i).halted = false
  entered : (s.ctx i).trapping = none
  awake : (s.ctx i).parked = none
  loose : (s.ctx i).barrier = none
  begun : (s.ctx i).readyAt ≤ s.now
  kept : coreStopped s i.core = false
  sound : (s.ctx i).parity = false
  clean : (s.ctx i).skid = none
  near : skidWait (s.ctx i) = false
  acquired : ∀ e ∈ (s.ctx i).rb ++ (s.ctx i).fir.aside, e.acq = none

/-- The context with the issue slot can issue `ins`, which reads and writes these fields and takes `n` return-buffer entries (R48, R98):
it is free, what it would have to land has landed, and its ports have flits and room. -/
structure Ready (s : State) (ins : Instr) (reads writes : List (Fin 32)) (n : Nat) : Prop where
  free : Free s s.slot
  buffer : (s.ctx s.slot).rb = [] ∨ (marked ins = false ∧ (s.ctx s.slot).rb.length + n ≤ 8)
  edge : edgePort s s.slot (reads ++ writes) = none
  flits : flitsThere s s.slot reads = true
  room : roomThere s s.slot writes = true

/-- The context with the issue slot is free, and `ins`, which takes `n` entries, is at a marker: it lands the buffer before it issues, by its
bit w or for want of room (R98). -/
structure AtMarker (s : State) (ins : Instr) (n : Nat) : Prop where
  free : Free s s.slot
  marker : marked ins = true ∨ 8 < (s.ctx s.slot).rb.length + n

/-- At a marker with every result back, so that the buffer lands; and the ports named have flits and room (R48, R99). -/
structure Lands (s : State) (ins : Instr) (reads writes : List (Fin 32)) (n : Nat) : Prop extends AtMarker s ins n where
  returned : ∀ e ∈ (s.ctx s.slot).rb, e.state = .returned ∧ e.dest ≠ .slots
  edge : edgePort s s.slot (reads ++ writes) = none
  flits : flitsThere s s.slot reads = true
  room : roomThere s s.slot writes = true

/-! ### One context after an instruction -/

/-- A scalar source: a register, or the low 64 bits of the flit at the head of a port (R46, R48). -/
def Context.srcX (k : Context) (r : Reg) : Word :=
  match portDir r with
  | some d => ((portHead k d).map fun f => f.bits.setWidth 64).getD 0
  | none => k.fir.readX r

/-- A vector source (R47, R48). -/
def Context.srcV (k : Context) (r : VReg) : Vec :=
  match portDir r with
  | some d => ((portHead k d).map (·.bits)).getD 0
  | none => k.fir.readV r

/-- The flit that a source field consumes is gone. -/
def Context.pop (k : Context) (r : Fin 32) : Context :=
  match portDir r with
  | some d => setPort k d { portAt k d with q := (portAt k d).q.drop 1 }
  | none => k

/-- A scalar result: x0 discards it, a port has sent it, and earlier outstanding results for the register will not land (R46, R98). -/
def Context.putX (k : Context) (d : Reg) (v : Word) : Context :=
  if (portDir d).isSome then k else supersede (.x d) { k with fir := k.fir.writeX d v }

/-- A vector result goes to lat as well (R182, R184). -/
def Context.putV (k : Context) (d : VReg) (v : Vec) : Context :=
  let k1 := supersedeLat (supersede (.v 0) { k with fir := k.fir.setLat v })
  if (portDir d).isSome then k1 else supersede (.v (vIdx d)) { k1 with fir := k1.fir.writeV (vIdx d) v }

/-- A mask result. -/
def Context.putM (k : Context) (d : MReg) (v : Word) : Context := supersede (.m d) { k with fir := k.fir.writeM d v }

/-- Sticky floating flags (R139). -/
def Context.flag (k : Context) (fl : Flags) : Context := { k with fpctl := orFlags k.fpctl fl }

/-- What an x entry lands of its bytes (R206, R211). -/
def landing (x : Ext) (v : Nat) : Word :=
  match x with
  | .sign n => (BitVec.ofNat (8 * n) v).signExtend 64
  | .zero n => BitVec.ofNat 64 (v % 2 ^ (8 * n))
  | .whole => BitVec.ofNat 64 v

/-- One entry lands: its flags, its register unless a later write of it has come before in program order, and lat for a vector (R98, R152, R184). -/
def Context.land (k : Context) (e : Entry) : Context :=
  let f := k.fir
  let g := match e.dest with
    | .x r => if e.super then f else f.writeX r (landing e.ext e.value)
    | .m r => if e.super then f else f.writeM r (landing e.ext e.value)
    | .v r =>
      let v : Vec := BitVec.ofNat 1024 e.value
      let h := if e.super then f else f.writeV r v
      if e.superLat then h else h.setLat v
    | .slots => f
  { k.flag e.flags with fir := g }

/-- The buffer has landed whole, in program order (R98). -/
def Context.landed (k : Context) : Context := { k.rb.foldl Context.land k with rb := [] }

/-- An entry that is performed once more at the next marker: of state 4, or faulted and not performed since the last `eret` (R99). -/
def Entry.Again (e : Entry) : Prop := e.state = .reissue ∨ (e.state = .faulted ∧ e.again = false)

/-- Those entries are performed once more, their accesses at their places in program order (R99). -/
def Context.again (k : Context) : Context :=
  let redo (e : Entry) : Bool := e.state == .reissue || (e.state == .faulted && !e.again)
  { k with
    rb := k.rb.map fun e => if redo e then { e with state := .pending, value := e.base, fault := none, again := true } else e
    acc := ((k.rb.filter redo).flatMap (·.req)).foldl (fun l a => putAccess a l) k.acc }

/-- `k` is what the context with the issue slot is when `ins` issues: as it stands, or with its buffer landed (R98). -/
def Begins (s : State) (ins : Instr) (reads writes : List (Fin 32)) (n : Nat) (k : Context) : Prop :=
  (Ready s ins reads writes n ∧ k = s.ctx s.slot) ∨ (Lands s ins reads writes n ∧ k = (s.ctx s.slot).landed)

/-- The instruction waits with a reason of R89. -/
def Context.waits (k : Context) (reason : Nat) : Context := { k with reason := reason, chanWait := none }

/-- The instruction has issued, and counts toward the skid of R324. -/
def Context.counted (k : Context) : Context := { k with issued := k.issued + 1, skid := k.skid.map (· + 1) }

/-- The instruction completes (R163, R176). -/
def Context.goes (k : Context) (t : Xfer) : Context := { k with fir := loopRule 2 k.fir.pc t k.fir, retired := k.retired + 1, reason := 0 }

/-- The instruction of `n` bytes completes and execution goes on behind it. -/
def Context.goesOn (k : Context) (n : Nat) : Context := k.goes (.next (k.fir.pc + BitVec.ofNat 64 n))

/-- Accesses that the instruction posts. -/
def Context.post (k : Context) (l : List Access) : Context := { k with acc := k.acc ++ l, num := k.num + 1 }

/-- A return-buffer entry that the instruction takes, with the accesses that give it its value (R97, R98). -/
def Context.take (k : Context) (e : Entry) (l : List Access) : Context :=
  let k1 := supersede e.dest k
  { k1 with rb := k1.rb ++ [{ e with req := l }], acc := k1.acc ++ l, num := k1.num + 1 }

/-- An entry of the instruction at the pc before anything has returned (R97). -/
def Context.entry (k : Context) (va : Word) (dest : Dest) (ext : Ext) : Entry :=
  { num := k.num, pc := k.fir.pc, va := va, dest := dest, ext := ext, super := false, superLat := false, state := .pending
    value := 0, base := 0, fault := none, flags := 0, acq := none, req := [], again := true }

/-- An access of the instruction at the pc. -/
def Context.access (k : Context) (who : Requester) (va : Word) (kind : AccKind) (rel : Option Scope)
    (side : Nat × Nat := (0, 0)) : Access :=
  { num := k.num, va := va, kind := kind, who := who, pc := k.fir.pc, pos := 0, rel := rel, pa := none
    side := side, refused := none, order := k.issued }

/-- What trap entry makes of a context outside a handler (R99, R164, R171, R319). -/
def Context.enter (k : Context) (t : TrapInfo) : Context :=
  { k with
    trapping := none, reason := 0, epc := t.epc, cause := t.cause, tval := t.tval, fpc := t.fpc.getD k.fpc, rb := [], skid := none
    sfq := k.sfq.map fun r => { r with held := true }
    fir := { k.fir with
      spm := k.fir.sup, sup := true, intrap := true, aside := k.rb, asideInner := k.fir.inner, asideOuter := k.fir.outer
      inner := ⟨false, 0, 0, 0⟩, outer := ⟨false, 0, 0, 0⟩, pc := k.tvec } }

/-! ### What an instruction leaves alone -/

/-- Everything outside the contexts is the same: memory and its poison, the rest of every core, clusters, dies, partitions, the package,
the clock and the model's own fields. -/
structure SameRest (s t : State) : Prop where
  mem : t.mem = s.mem
  poison : t.poison = s.poison
  shell : ∀ n, { t.coreAt n with n := Context.reset, u := Context.reset } = { s.coreAt n with n := Context.reset, u := Context.reset }
  clusters : t.clusters = s.clusters
  dies : t.dies = s.dies
  parts : t.parts = s.parts
  pkg : t.pkg = s.pkg
  shadows : t.shadows = s.shadows
  cycle : t.cycle = s.cycle
  sched : t.sched = s.sched
  slot : t.slot = s.slot
  granted : t.granted = s.granted
  fresh : t.fresh = s.fresh

/-- Only context i changes: it becomes `k`. -/
def Only (s t : State) (i : CtxId) (k : Context) : Prop := t.ctx i = k ∧ (∀ j, j ≠ i → t.ctx j = s.ctx j) ∧ SameRest s t

/-- Context j with a flit on its way that context i has written to port field `d` (R96). -/
def State.sent (s : State) (i : CtxId) (d : Fin 32) (f : Flit) (j : CtxId) : Context :=
  match portDir d with
  | none => s.ctx j
  | some p => match neighbour i.core p with
    | none => s.ctx j
    | some n =>
      if j = ⟨n, i.x⟩ then
        let q := portAt (s.ctx j) (dirBack p)
        setPort (s.ctx j) (dirBack p) { q with fly := q.fly ++ [f] }
      else s.ctx j

/-- Only context i changes, and the neighbour to which it sends the flit when field `d` names a port. -/
def Sends (s t : State) (i : CtxId) (k : Context) (d : Fin 32) (f : Flit) : Prop :=
  t.ctx i = k ∧ (∀ j, j ≠ i → t.ctx j = s.sent i d f j) ∧ SameRest s t

end Sys2Proof.Machine
end

