-- ==== Sys2Proof/Certificates/Slice0/Obligations.lean ====
section
/-!
DEFINITION. The statements for the provers, one `def Obligations.<Name> : Prop` each, and under `Spec` the tables, written from the rules of
spec/, that they compare the meanings with.
-/
namespace Sys2Proof.Spec
open Sys2Proof.Machine

/-! ## Immediate results -/

/-- What an instruction with one immediate scalar result reads and computes: destination field, source fields in order, value from the
context, bytes of the instruction. -/
structure Imm where
  d : Reg
  srcs : List (Fin 32)
  val : Context → Word
  bytes : Nat

/-- The port flits of some source fields are consumed in their order (R48). -/
def popAll (k : Context) (l : List (Fin 32)) : Context := l.foldl Context.pop k

def two (o : OpsDAB) (f : Word → Word → Word) : Option Imm :=
  some ⟨o.d, [o.a, o.b], fun k => f (k.srcX o.a) ((k.pop o.a).srcX o.b), 4⟩
def one (d a : Reg) (f : Word → Word) (n : Nat) : Option Imm := some ⟨d, [a], fun k => f (k.srcX a), n⟩

/-- sext(imm13), or the literal (R155). -/
def immOf : Sys2Proof.Imm → Word
  | .short v => BitVec.ofInt 64 v.toInt
  | .lit v => v
/-- One word, or three with a literal (R45). -/
def immBytes : Sys2Proof.Imm → Nat
  | .short _ => 4
  | .lit _ => 12
def withImm (o : OpsI) (f : Word → Word → Word) : Option Imm := one o.d o.a (fun x => f x (immOf o.imm)) (immBytes o.imm)

def below (b : Bool) : Word := if b then 1 else 0
/-- Zeros above the highest set bit. -/
def leading (x : Word) : Word := BitVec.ofNat 64 (((List.range 64).find? fun n => x.getLsbD (63 - n)).getD 64)
/-- Zeros below the lowest set bit. -/
def trailing (x : Word) : Word := BitVec.ofNat 64 (((List.range 64).find? fun n => x.getLsbD n).getD 64)
def ones (x : Word) : Word := BitVec.ofNat 64 ((List.range 64).map fun n => (x.getLsbD n).toNat).sum
/-- Bits [127:64] of a product of 128-bit numbers. -/
def upper (x y : BitVec 128) : Word := (x * y).extractLsb' 64 64

/-- Integer arithmetic with an immediate result (R154 to R158). -/
def scalar : Instr → Option Imm
  | .add o => two o fun x y => x + y
  | .sub o => two o fun x y => x - y
  | .and o => two o fun x y => x &&& y
  | .or o => two o fun x y => x ||| y
  | .xor o => two o fun x y => x ^^^ y
  | .andn o => two o fun x y => x &&& ~~~y
  | .sll o => two o fun x y => x <<< (y.toNat % 64)
  | .srl o => two o fun x y => x >>> (y.toNat % 64)
  | .sra o => two o fun x y => x.sshiftRight (y.toNat % 64)
  | .slt o => two o fun x y => below (decide (x.toInt < y.toInt))
  | .sltu o => two o fun x y => below (decide (x.toNat < y.toNat))
  | .min o => two o fun x y => BitVec.ofInt 64 (if x.toInt ≤ y.toInt then x.toInt else y.toInt)
  | .max o => two o fun x y => BitVec.ofInt 64 (if x.toInt ≤ y.toInt then y.toInt else x.toInt)
  | .minu o => two o fun x y => BitVec.ofNat 64 (Nat.min x.toNat y.toNat)
  | .maxu o => two o fun x y => BitVec.ofNat 64 (Nat.max x.toNat y.toNat)
  | .clz o => one o.d o.a leading 4
  | .ctz o => one o.d o.a trailing 4
  | .popc o => one o.d o.a ones 4
  | .sextW o => one o.d o.a (fun x => (x.setWidth 32).signExtend 64) 4
  | .zextW o => one o.d o.a (fun x => x &&& 0xFFFFFFFF) 4
  | .bext o => two o fun x y => (x >>> (y.toNat % 64)) &&& 1
  | .addi o => withImm o fun x y => x + y
  | .andi o => withImm o fun x y => x &&& y
  | .ori o => withImm o fun x y => x ||| y
  | .xori o => withImm o fun x y => x ^^^ y
  | .slti o => withImm o fun x y => below (decide (x.toInt < y.toInt))
  | .sltiu o => withImm o fun x y => below (decide (x.toNat < y.toNat))
  | .slli o => one o.d o.a (fun x => x <<< o.sh.toNat) 4
  | .srli o => one o.d o.a (fun x => x >>> o.sh.toNat) 4
  | .srai o => one o.d o.a (fun x => x.sshiftRight o.sh.toNat) 4
  | .lih o => some ⟨o.d, [], fun _ => BitVec.ofInt 64 (o.imm.toInt * 2 ^ 14), 4⟩
  | .mul o => two o fun x y => x * y
  | .mulh o => two o fun x y => upper (x.signExtend 128) (y.signExtend 128)
  | .mulhu o => two o fun x y => upper (x.setWidth 128) (y.setWidth 128)
  | .mulhsu o => two o fun x y => upper (x.signExtend 128) (y.setWidth 128)
  | _ => none

/-! ## Traps -/

/-- The instruction at the pc of the context with the issue slot, outside a handler and with no store check outstanding, has no effect of its
own but the trap with a cause and a tval (R103, R171). -/
def Traps (s : State) (ins : Instr) (cause tval : Word) : Prop :=
  (s.fir s.slot).intrap = false → uncheckedStores (s.ctx s.slot) = false →
  ∃ t, exec ins s = .next t ∧ Only s t s.slot ((s.ctx s.slot).enter ⟨(s.fir s.slot).pc, cause, tval, none⟩)

/-- The store-fault records that an ending firing leaves are reported in one event of kind 2 (R321, R322). -/
def leaves (s : State) (i : CtxId) (k : Context) (cause : BitVec 8) : State :=
  if k.sfq.length + k.lost = 0 then s
  else faultEvent s (s.coreAt i.core).partition
    (faultRecord 2 cause.toNat (k.sfq.length + 256 * k.lost) 0 k.fir.tag.toNat k.fir.group.toNat 0 i.core i.x)

/-! ## Division, control flow -/

/-- Truncation toward zero, the magnitudes divided. -/
def trunc (x y : Int) : Int := if (x < 0) = (y < 0) then (x.natAbs / y.natAbs : Nat) else -((x.natAbs / y.natAbs : Nat) : Int)
/-- An exact quotient or remainder as a word that saturates at the ends of the signed range. -/
def clampS (v : Int) : Word :=
  if v > 2 ^ 63 - 1 then 0x7FFFFFFFFFFFFFFF else if v < -(2 ^ 63) then 0x8000000000000000 else BitVec.ofInt 64 v

/-- The outstanding integer results (R158) with the corners of its table. -/
def division : Instr → Option (OpsDAB × (Word → Word → Word))
  | .div o => some (o, fun x y =>
      if y = 0 then (if 0 ≤ x.toInt then 0x7FFFFFFFFFFFFFFF else 0x8000000000000000) else clampS (trunc x.toInt y.toInt))
  | .divu o => some (o, fun x y => if y = 0 then 0xFFFFFFFFFFFFFFFF else BitVec.ofNat 64 (x.toNat / y.toNat))
  | .rem o => some (o, fun x y => if y = 0 then 0 else BitVec.ofInt 64 (x.toInt - trunc x.toInt y.toInt * y.toInt))
  | .remu o => some (o, fun x y => if y = 0 then 0 else BitVec.ofNat 64 (x.toNat % y.toNat))
  | _ => none

/-- The branches of major 0x0B and when they are taken (R159). -/
def branches : Instr → Option (OpsB × (Word → Word → Prop))
  | .beq o => some (o, fun x y => x = y)
  | .bne o => some (o, fun x y => x ≠ y)
  | .blt o => some (o, fun x y => x.toInt < y.toInt)
  | .bge o => some (o, fun x y => y.toInt ≤ x.toInt)
  | .bltu o => some (o, fun x y => x.toNat < y.toNat)
  | .bgeu o => some (o, fun x y => y.toNat ≤ x.toNat)
  | .bbs o => some (o, fun x y => x.getLsbD (y.toNat % 64) = true)
  | .bbc o => some (o, fun x y => x.getLsbD (y.toNat % 64) = false)
  | _ => none

/-- pc plus a signed number of words. -/
def wordsOn (pc : Word) (n : Int) : Word := pc + BitVec.ofInt 64 (4 * n)

/-- A loop level in word addresses (R162). -/
def level (start stop : Word) (lc : Nat) : Loop :=
  ⟨true, BitVec.ofNat 15 (start.toNat / 4), BitVec.ofNat 15 (stop.toNat / 4), BitVec.ofNat 32 lc⟩

/-- The two loop instructions: sources, count, distance. -/
def loops : Instr → Option (List (Fin 32) × (Context → Nat) × BitVec 13)
  | .loop o => some ([o.a], fun k => (k.srcX o.a).toNat % 2 ^ 32, o.dist)
  | .loopi o => some ([], fun _ => o.cnt.toNat, o.dist)
  | _ => none

/-- The pc lies at the end of an active level (R161). -/
def atEnd (f : Firing) : Prop :=
  (f.inner.act = true ∧ f.inner.stop.toNat = f.pc.toNat / 4) ∨ (f.outer.act = true ∧ f.outer.stop.toNat = f.pc.toNat / 4)

/-- The control registers that user mode reads and writes, and those that supervisor mode does, below the hypervisor's (R176, R323). -/
def userReads : List Nat := List.range 0x18 ++ [0x19, 0x1A, 0x1B, 0x1C]
def userWrites : List Nat := [0x0B, 0x0C, 0x11, 0x1B]
def supReads : List Nat := List.range 0x1D ++ [0x20, 0x21, 0x22, 0x23, 0x24, 0x25]
def supWrites : List Nat := [0, 1, 2, 3, 4, 5, 0x0B, 0x0C, 0x0D, 0x0E, 0x0F, 0x10, 0x11, 0x18, 0x1B, 0x1C, 0x22, 0x23, 0x25]
/-- The registers of hypervisor mode, on a management core, which is 4608 + d for die d, while hstatus[0] is set (R356). -/
def hyper (s : State) (n : Nat) : Option (Fin 4) :=
  (List.finRange 4).find? fun d => decide (s.slot.core = 4608 + d.val) && 0x80 ≤ n && n ≤ 0x85 && (s.pkg.mgmt[d]).hstatus.getLsbD 0

/-! ## Floating and vector results -/

/-- An instruction with one immediate result and flags: destination field, source fields in order, value and flags, the elements
that it takes into peak, bytes. -/
structure Fp (α : Type) where
  d : Fin 32
  srcs : List (Fin 32)
  val : Context → α × Flags
  peak : Context → List FVal
  bytes : Nat

/-- Values that enter peak (R146). -/
def peaks (k : Context) (l : List FVal) : Context := { k with peak := l.foldl peakOf k.peak }

/-- rm, or frm when rm is dynamic (R139). -/
def mode (c : BitVec 13) : RM → RM
  | .dyn => [RM.rne, .rtz, .rdn, .rup].getD (c.toNat % 4) .rne
  | rm => rm
/-- The bit of fpctl that flushes a format's operands; the next one flushes its results (R139). -/
def flushAt (f : FpFmt) : Nat := if f = fp32 then 2 else if f = fpBf16 then 4 else 6
/-- Mode and flushes of an operation of one format (R141). -/
def env (c : BitVec 13) (f : FpFmt) (rm : RM) : FpEnv := ⟨mode c rm, c.getLsbD (flushAt f), c.getLsbD (flushAt f + 1)⟩
/-- Of a conversion: the source's operand flush, the destination's result flush unless it has more fraction bits (R141, R142). -/
def cvtEnv (c : BitVec 13) (src dst : FpFmt) (rm : RM) : FpEnv :=
  ⟨mode c rm, c.getLsbD (flushAt src), decide (dst.mb ≤ src.mb) && c.getLsbD (flushAt dst + 1)⟩
def fmt : FFmt → FpFmt
  | .f32 => fp32
  | .bf16 => fpBf16
/-- A scalar operand: the low bits of the register (R131). -/
def low (f : FpFmt) (x : Word) : Nat := x.toNat % 2 ^ (f.mb + f.eb + 1)
/-- RNE in the one-word form (R43). -/
def orRne (e : Option RM) : RM := e.getD .rne
def extBytes {α : Type} (e : Option α) : Nat := if e.isSome then 12 else 4
def longBytes (b : Bool) : Nat := if b then 12 else 4
/-- A pattern in the low bits, the bits above it clear (R165). -/
def clean (r : Nat × Flags) : Word × Flags := (BitVec.ofNat 64 r.1, r.2)

def fp1 (d a : Reg) (f : FpFmt) (n : Nat) (op : BitVec 13 → Nat → Nat × Flags) : Option (Fp Word) :=
  some ⟨d, [a], fun k => clean (op k.fpctl (low f (k.srcX a))), fun _ => [], n⟩
def fp2 (d a b : Reg) (f : FpFmt) (n : Nat) (op : BitVec 13 → Nat → Nat → Nat × Flags) : Option (Fp Word) :=
  some ⟨d, [a, b], fun k => clean (op k.fpctl (low f (k.srcX a)) (low f ((k.pop a).srcX b))), fun _ => [], n⟩
def fp2r (o : OpsF2R) (op : FpFmt → FpEnv → Nat → Nat → Nat × Flags) : Option (Fp Word) :=
  fp2 o.d o.a o.b (fmt o.fmt) (extBytes o.ext) fun c => op (fmt o.fmt) (env c (fmt o.fmt) (orRne o.ext))
def fp2s (o : OpsF2) (op : FpFmt → Bool → Nat → Nat → Nat × Flags) : Option (Fp Word) :=
  fp2 o.d o.a o.b (fmt o.fmt) (longBytes o.long) fun c => op (fmt o.fmt) (c.getLsbD (flushAt (fmt o.fmt)))
def fp3 (o : OpsF3) (np nz : Bool) : Option (Fp Word) :=
  let f := fmt o.fmt
  some ⟨o.d, [o.a, o.b, o.c], fun k => clean (fpFma f (env k.fpctl f o.rm) np nz (low f (k.srcX o.a)) (low f ((k.pop o.a).srcX o.b))
    (low f (((k.pop o.a).pop o.b).srcX o.c))), fun _ => [], 12⟩
/-- A comparison gives 1 or 0. -/
def asWord (r : Bool × Flags) : Nat × Flags := (if r.1 then 1 else 0, r.2)
/-- A narrowing conversion from FP32; pk takes its operand into peak (R146, R168). -/
def fpNarrow (o : OpsCvtP) (dst : FpFmt) : Option (Fp Word) :=
  let e (k : Context) : FpEnv := cvtEnv k.fpctl fp32 dst (orRne (o.ext.map (·.1)))
  some ⟨o.d, [o.a], fun k => clean (fpConvert fp32 dst (e k).daz (e k) (low fp32 (k.srcX o.a))),
    fun k => if (o.ext.map (·.2)).getD false then [operand fp32 (e k).daz (low fp32 (k.srcX o.a))] else [], extBytes o.ext⟩

/-- Scalar floating instructions with an immediate result (R148, R149, R165 to R169). -/
def floating : Instr → Option (Fp Word)
  | .fadd o => fp2r o fpAdd
  | .fsub o => fp2r o fpSub
  | .fmul o => fp2r o fpMul
  | .fmin o => fp2s o fun f z => fpMinMax f z false
  | .fmax o => fp2s o fun f z => fpMinMax f z true
  | .feq o => fp2s o fun f z x y => asWord (fpCmp f z 0 x y)
  | .flt o => fp2s o fun f z x y => asWord (fpCmp f z 1 x y)
  | .fle o => fp2s o fun f z x y => asWord (fpCmp f z 2 x y)
  | .fclass o => fp1 o.d o.a (fmt o.fmt) (longBytes o.long) fun c x => (fpClass (fmt o.fmt) (c.getLsbD (flushAt (fmt o.fmt))) x, 0)
  | .fsgnj o => fp2s o fun f z => fpSgnj f z false
  | .fsgnjn o => fp2s o fun f z => fpSgnj f z true
  | .fcvtF32I64 o =>
    some ⟨o.d, [o.a], fun k => clean (intToFp fp32 (env k.fpctl fp32 (orRne o.ext)) (k.srcX o.a).toInt), fun _ => [], extBytes o.ext⟩
  | .fcvtI64F32 o =>
    some ⟨o.d, [o.a], fun k =>
      let r := fpToInt 64 (mode k.fpctl (orRne o.ext)) (operand fp32 (k.fpctl.getLsbD 2) (low fp32 (k.srcX o.a)))
      (BitVec.ofInt 64 r.1, r.2), fun _ => [], extBytes o.ext⟩
  | .fcvtF32Bf16 o => fp1 o.d o.a fpBf16 (longBytes o.long) fun c => fpConvert fpBf16 fp32 (c.getLsbD 4) (cvtEnv c fpBf16 fp32 .rne)
  | .fcvtBf16F32 o => fpNarrow o fpBf16
  | .fcvtF32F16 o => fp1 o.d o.a fp16 (longBytes o.long) fun c => fpConvert fp16 fp32 (c.getLsbD 6) (cvtEnv c fp16 fp32 .rne)
  | .fcvtF16F32 o => fpNarrow o fp16
  | .frsqe o => fp1 o.d o.a (fmt o.fmt) (longBytes o.long) fun c => fpRsqe (fmt o.fmt) (env c (fmt o.fmt) .rne)
  | .frcpe o => fp1 o.d o.a (fmt o.fmt) (longBytes o.long) fun c => fpRcpe (fmt o.fmt) (env c (fmt o.fmt) .rne)
  | .fmadd o => fp3 o false false
  | .fmsub o => fp3 o false true
  | .fnmadd o => fp3 o true true
  | .fnmsub o => fp3 o true false
  | _ => none

/-! ### Vector results -/

/-- Flags of some lanes: those of the active ones, ORed (R185). -/
def flagsOf (act : Nat → Bool) (f : Nat → Flags) (n : Nat) : Flags := ((List.range n).filter act).foldl (fun fl j => fl ||| f j) 0
/-- Lane by lane into a vector register (R181, R182, R185): w bits a lane, mask field m. -/
def byLane (d : VReg) (w : Nat) (m : MReg) (mz : Bool) (k : Context) (f : Nat → Nat × Flags) : Vec × Flags :=
  let act := laneActive k.fir m w
  (mergeLanes w act mz (if (portDir d).isSome then 0 else k.fir.readV d) fun j => (f j).1, flagsOf act (fun j => (f j).2) (1024 / w))

def v1 (d a : VReg) (w : Nat) (m : MReg) (mz : Bool) (n : Nat) (op : BitVec 13 → Nat → Nat × Flags) : Option (Fp Vec) :=
  some ⟨d, [a], fun k => byLane d w m mz k fun j => op k.fpctl (laneN w (k.srcV a) j), fun _ => [], n⟩
def v2 (d a b : VReg) (w : Nat) (m : MReg) (mz : Bool) (n : Nat) (op : BitVec 13 → Nat → Nat → Nat × Flags) : Option (Fp Vec) :=
  some ⟨d, [a, b], fun k => byLane d w m mz k fun j => op k.fpctl (laneN w (k.srcV a) j) (laneN w ((k.pop a).srcV b) j), fun _ => [], n⟩
def v3 (o : OpsVF3) (np nz : Bool) : Option (Fp Vec) :=
  let f := fmt o.fmt
  let w := fLane o.fmt
  some ⟨o.d, [o.a, o.b, o.c], fun k => byLane o.d w o.m o.mz k fun j =>
    fpFma f (env k.fpctl f o.rm) np nz (laneN w (k.srcV o.a) j) (laneN w ((k.pop o.a).srcV o.b) j)
      (laneN w (((k.pop o.a).pop o.b).srcV o.c) j), fun _ => [], 12⟩
def vr (o : OpsVR) (op : FpFmt → FpEnv → Nat → Nat → Nat × Flags) : Option (Fp Vec) :=
  v2 o.d o.a o.b (fLane o.fmt) (rextMask o.ext) (rextZero o.ext) (extBytes o.ext) fun c => op (fmt o.fmt) (env c (fmt o.fmt) (rextRm o.ext))
def vf1 (o : OpsVF1) (op : FpFmt → FpEnv → Nat → Nat × Flags) : Option (Fp Vec) :=
  v1 o.d o.a (fLane o.fmt) (mextMask o.ext) (mextZero o.ext) (extBytes o.ext) fun c => op (fmt o.fmt) (env c (fmt o.fmt) .rne)
def vi (o : OpsVI) (op : Nat → Nat → Nat → Nat) : Option (Fp Vec) :=
  v2 o.d o.a o.b (iLane o.fmt) (mextMask o.ext) (mextZero o.ext) (extBytes o.ext) fun _ x y => (op (iLane o.fmt) x y % 2 ^ iLane o.fmt, 0)
/-- A lane as a signed number. -/
def sg (w x : Nat) : Int := if x < 2 ^ (w - 1) then x else (x : Int) - 2 ^ w
/-- A signed number in a lane. -/
def lane (w : Nat) (v : Int) : Nat := (v % 2 ^ w).toNat
def vmove (d : VReg) (srcs : List (Fin 32)) (f : VFmt) (e : Option MExt) (val : Context → Nat → Nat) : Option (Fp Vec) :=
  some ⟨d, srcs, fun k => byLane d (vLane f) (mextMask e) (mextZero e) k fun j => (val k j, 0), fun _ => [], extBytes e⟩
/-- Elements of a conversion, merged under mask bit j, the bits above them clear (R191). -/
def convert (d : VReg) (srcs : List (Fin 32)) (sf df : CFmt) (m : MReg) (mz pk : Bool) (val : Context → Nat → Nat × Flags) : Option (Fp Vec) :=
  let n := 1024 / Nat.max (cfmtWidth sf) (cfmtWidth df)
  let act (k : Context) (j : Nat) : Bool := (maskBits k.fir m).getLsbD j
  some ⟨d, srcs, fun k =>
    let old := if (portDir d).isSome then 0 else k.fir.readV d
    (packLanes (cfmtWidth df) ((List.range n).map fun j => if act k j then (val k j).1 else if mz then 0 else laneN (cfmtWidth df) old j),
      flagsOf (act k) (fun j => (val k j).2) n),
    fun k => if pk then ((List.range n).filter (act k)).map fun j => convVal k.fpctl sf (laneN (cfmtWidth sf) (k.srcV (srcs.headD 0)) j)
      else [], 12⟩
/-- One addition of a sum, RNE under the format's flush bits, of integers modulo 2^w; what an inactive lane enters as (R144, R194). -/
def addLane (c : BitVec 13) (f : VFmt) (x y : Nat) : Nat × Flags :=
  match f with
  | .f32 => fpAdd fp32 (env c fp32 .rne) x y
  | .bf16 => fpAdd fpBf16 (env c fpBf16 .rne) x y
  | _ => ((x + y) % 2 ^ vLane f, 0)
def noAddend : VFmt → Nat
  | .f32 => 2 ^ 31
  | .bf16 => 2 ^ 15
  | _ => 0
/-- The greater or the lesser of two lanes, and what an inactive lane enters as (R194). -/
def extremeLane (mx : Bool) (c : BitVec 13) (f : VFmt) (x y : Nat) : Nat × Flags :=
  match f with
  | .f32 => fpMinMax fp32 (c.getLsbD (flushAt fp32)) mx x y
  | .bf16 => fpMinMax fpBf16 (c.getLsbD (flushAt fpBf16)) mx x y
  | _ => (if (sg (vLane f) x < sg (vLane f) y) = (mx = true) then y else x, 0)
def noExtreme (mx : Bool) : VFmt → Nat
  | .f32 => if mx then 0xFF800000 else 0x7F800000
  | .bf16 => if mx then 0xFF80 else 0x7F80
  | f => if mx then 2 ^ (vLane f - 1) else 2 ^ (vLane f - 1) - 1
/-- The pairwise tree over 2^n lanes from lane j on, with the flags of every step (R144). -/
def tree (op : Nat → Nat → Nat × Flags) (lanes : Nat → Nat) : Nat → Nat → Nat × Flags
  | 0, j => (lanes j, 0)
  | n + 1, j =>
    let l := tree op lanes n j
    let r := tree op lanes n (j + 2 ^ n)
    ((op l.1 r.1).1, l.2 ||| r.2 ||| (op l.1 r.1).2)
/-- The running sum up to lane j, with the flags of every addition (R144, R195). -/
def running (op : Nat → Nat → Nat × Flags) (first : Nat) (lanes : Nat → Nat) : Nat → Nat × Flags
  | 0 => op first (lanes 0)
  | j + 1 =>
    let r := running op first lanes j
    ((op r.1 (lanes (j + 1))).1, r.2 ||| (op r.1 (lanes (j + 1))).2)
def reduction (o : OpsVRed) (op : BitVec 13 → VFmt → Nat → Nat → Nat × Flags) (ident : VFmt → Nat) : Option (Fp Vec) :=
  let w := vLane o.fmt
  some ⟨o.d, [o.a], fun k =>
    let r := tree (op k.fpctl o.fmt) (fun j => if laneActive k.fir (o.ext.getD 0) w j then laneN w (k.srcV o.a) j else ident o.fmt)
      (match o.fmt with
        | .f32 | .i32 => 5
        | .bf16 | .i16 => 6
        | .i8 => 7) 0
    (BitVec.ofNat 1024 r.1, r.2), fun _ => [], extBytes o.ext⟩
/-- Active lanes in order. -/
def activeLanes (k : Context) (m : MReg) (w : Nat) : List Nat := (List.range (1024 / w)).filter (laneActive k.fir m w)

/-- Vector instructions with an immediate vector result (R187 to R198). -/
def vector : Instr → Option (Fp Vec)
  | .vadd o => vr o fpAdd
  | .vsub o => vr o fpSub
  | .vmul o => vr o fpMul
  | .vmin o => v2 o.d o.a o.b (fLane o.fmt) (mextMask o.ext) (mextZero o.ext) (extBytes o.ext) fun c =>
      fpMinMax (fmt o.fmt) (c.getLsbD (flushAt (fmt o.fmt))) false
  | .vmax o => v2 o.d o.a o.b (fLane o.fmt) (mextMask o.ext) (mextZero o.ext) (extBytes o.ext) fun c =>
      fpMinMax (fmt o.fmt) (c.getLsbD (flushAt (fmt o.fmt))) true
  | .vabs o => vf1 o fun f e => fpAbsNeg f e.daz false
  | .vneg o => vf1 o fun f e => fpAbsNeg f e.daz true
  | .vrsqe o => vf1 o fpRsqe
  | .vrcpe o => vf1 o fpRcpe
  | .vexp2 o => vf1 o fpExp2
  | .vfmadd o => v3 o false false
  | .vfmsub o => v3 o false true
  | .vfnmadd o => v3 o true true
  | .vfnmsub o => v3 o true false
  | .vaddI o => vi o fun _ x y => x + y
  | .vsubI o => vi o fun w x y => x + 2 ^ w - y
  | .vmulI o => vi o fun _ x y => x * y
  | .vand o => vi o fun _ x y => x &&& y
  | .vor o => vi o fun _ x y => x ||| y
  | .vxor o => vi o fun _ x y => x ^^^ y
  | .vsll o => vi o fun w x y => x * 2 ^ (y % w)
  | .vsrl o => vi o fun w x y => x / 2 ^ (y % w)
  | .vsra o => vi o fun w x y => lane w (sg w x / 2 ^ (y % w))
  | .vminI o => vi o fun w x y => if sg w x < sg w y then x else y
  | .vmaxI o => vi o fun w x y => if sg w x < sg w y then y else x
  | .vminu o => vi o fun _ x y => Nat.min x y
  | .vmaxu o => vi o fun _ x y => Nat.max x y
  | .vcvt o => convert o.d [o.a] o.sfmt o.dfmt o.m o.mz o.pk fun k j =>
      convElem k.fpctl o.sfmt o.dfmt o.rm (laneN (cfmtWidth o.sfmt) (k.srcV o.a) j)
  | .vquant o => convert o.d [o.a, o.c] o.sfmt o.dfmt o.m o.mz o.pk fun k j =>
      quant o.dfmt (laneN 8 ((k.pop o.a).srcV o.c) (j / 32)) (mode k.fpctl o.rm) (convVal k.fpctl o.sfmt (laneN (cfmtWidth o.sfmt) (k.srcV o.a) j))
  | .vdequant o => convert o.d [o.a, o.c] o.sfmt o.dfmt o.m o.mz false fun k j =>
      ((roundVal ((cfmtFp o.dfmt).getD fp32) ⟨.rne, false, false⟩
        (dequant o.sfmt (laneN (cfmtWidth o.sfmt) (k.srcV o.a) j) (laneN 8 ((k.pop o.a).srcV o.c) (j / 32)))).1, 0)
  | .vredsum o => reduction o addLane noAddend
  | .vredmax o => reduction o (extremeLane true) (noExtreme true)
  | .vredmin o => reduction o (extremeLane false) (noExtreme false)
  | .vscan o =>
    let w := vLane o.fmt
    let sum (k : Context) := running (addLane k.fpctl o.fmt) (noAddend o.fmt) fun j =>
      if laneActive k.fir (mextMask o.ext) w j then laneN w (k.srcV o.a) j else noAddend o.fmt
    some ⟨o.d, [o.a], fun k => ((byLane o.d w (mextMask o.ext) (mextZero o.ext) k fun j => ((sum k j).1, 0)).1, (sum k (1024 / w - 1)).2),
      fun _ => [], extBytes o.ext⟩
  | .vbcast o => vmove o.d [o.a] o.fmt o.ext fun k _ => (k.srcX o.a).toNat % 2 ^ vLane o.fmt
  | .vperm o => vmove o.d [o.a, o.b] o.fmt o.ext fun k j =>
      laneN (vLane o.fmt) (k.srcV o.a) (laneN (vLane o.fmt) ((k.pop o.a).srcV o.b) j % (1024 / vLane o.fmt))
  | .vslup o => vmove o.d [o.a, o.b] o.fmt o.ext fun k j =>
      let n := ((k.pop o.a).srcX o.b).toNat
      if n ≤ j then laneN (vLane o.fmt) (k.srcV o.a) (j - n) else 0
  | .vsldn o => vmove o.d [o.a, o.b] o.fmt o.ext fun k j =>
      let n := ((k.pop o.a).srcX o.b).toNat
      if j + n < 1024 / vLane o.fmt then laneN (vLane o.fmt) (k.srcV o.a) (j + n) else 0
  | .vcompress o =>
    let w := vLane o.fmt
    some ⟨o.d, [o.a], fun k =>
      let on := activeLanes k (mextMask o.ext) w
      let old := if (portDir o.d).isSome then 0 else k.fir.readV o.d
      (packLanes w ((List.range (1024 / w)).map fun j =>
        if j < on.length then laneN w (k.srcV o.a) (on.getD j 0) else if mextZero o.ext then 0 else laneN w old j), 0),
      fun _ => [], extBytes o.ext⟩
  | .vins o =>
    let w := vLane o.fmt
    some ⟨o.d, [o.a, o.b], fun k =>
      let y := ((k.pop o.a).srcX o.b).toNat
      let old := if (portDir o.d).isSome then 0 else k.fir.readV o.d
      (packLanes w ((List.range (1024 / w)).map fun j =>
        if j ≠ y then laneN w old j
        else if laneActive k.fir (mextMask o.ext) w j then (k.srcX o.a).toNat % 2 ^ w
        else if mextZero o.ext then 0 else laneN w old j), 0),
      fun _ => [], extBytes o.ext⟩
  | .viota o => vmove o.d [] o.fmt o.ext fun k j =>
      let n := ((List.range j).filter (laneActive k.fir (mextMask o.ext) (vLane o.fmt))).length
      match vFp o.fmt with
      | some g => (intToFp g ⟨.rne, false, false⟩ n).1
      | none => n % 2 ^ vLane o.fmt
  | .vmov o => vmove o.d [o.a] o.fmt o.ext fun k j => laneN (vLane o.fmt) (k.srcV o.a) j
  | .vsel o =>
    let w := vLane o.fmt
    some ⟨o.d, [o.a, o.b], fun k =>
      (packLanes w ((List.range (1024 / w)).map fun j =>
        if laneActive k.fir (o.ext.getD 0) w j then laneN w (k.srcV o.a) j else laneN w ((k.pop o.a).srcV o.b) j), 0),
      fun _ => [], extBytes o.ext⟩
  | _ => none

/-! ### Mask and scalar results of vector instructions -/

/-- A mask result over lanes of w bits (R183, R185). -/
def test (d : MReg) (a b : VReg) (w : Nat) (e : Option MExt) (op : BitVec 13 → Nat → Nat → Bool × Flags) : Option (MReg × Fp Word) :=
  some (d, ⟨0, [a, b], fun k =>
    let act := laneActive k.fir (mextMask e) w
    let f (j : Nat) := op k.fpctl (laneN w (k.srcV a) j) (laneN w ((k.pop a).srcV b) j)
    (maskResult w act (mextZero e) (k.fir.readM d) fun j => (f j).1, flagsOf act (fun j => (f j).2) (1024 / w)),
    fun _ => [], extBytes e⟩)
def testF (o : OpsVFC) (op : Nat) : Option (MReg × Fp Word) :=
  test o.d o.a o.b (fLane o.fmt) o.ext fun c => fpCmp (fmt o.fmt) (c.getLsbD (flushAt (fmt o.fmt))) op
def testI (o : OpsVIC) (op : Nat → Nat → Nat → Bool) : Option (MReg × Fp Word) :=
  test o.d o.a o.b (iLane o.fmt) o.ext fun _ x y => (op (iLane o.fmt) x y, 0)
def maskOp (d : MReg) (n : Nat) (f : Firing → Word) : Option (MReg × Fp Word) := some (d, ⟨0, [], fun k => (f k.fir, 0), fun _ => [], n⟩)

/-- Vector instructions with a mask result (R187, R189, R198). -/
def masks : Instr → Option (MReg × Fp Word)
  | .vfeq o => testF o 0
  | .vflt o => testF o 1
  | .vfle o => testF o 2
  | .vieq o => testI o fun _ x y => x == y
  | .vilt o => testI o fun w x y => decide (sg w x < sg w y)
  | .viltu o => testI o fun _ x y => decide (x < y)
  | .mand o => maskOp o.d (longBytes o.long) fun f => f.readM o.a &&& f.readM o.b
  | .mor o => maskOp o.d (longBytes o.long) fun f => f.readM o.a ||| f.readM o.b
  | .mxor o => maskOp o.d (longBytes o.long) fun f => f.readM o.a ^^^ f.readM o.b
  | .mnot o => maskOp o.d (longBytes o.long) fun f => ~~~f.readM o.a
  | .mset o => some (o.d, ⟨0, [o.a], fun k => (k.srcX o.a, 0), fun _ => [], longBytes o.long⟩)
  | _ => none

/-- The nodes that `vanc` visits from node y: y, and of every node the parent that lane j of a names, if it is a lower node (R203). -/
inductive OnPath (a : Vec) (y : Nat) : Nat → Prop where
  | start : OnPath a y y
  | parent (j : Nat) : OnPath a y j → 0 ≤ sg 8 (laneN 8 a j) → sg 8 (laneN 8 a j) < j → OnPath a y (sg 8 (laneN 8 a j)).toNat

/-- Scalar results of masks (R198). -/
def maskReads : Instr → Option Imm
  | .mpopc o => some ⟨o.d, [], fun k => ones (k.fir.readM o.a), longBytes o.long⟩
  | .mfirst o => some ⟨o.d, [], fun k => trailing (k.fir.readM o.a), longBytes o.long⟩
  | .mget o => some ⟨o.d, [], fun k => k.fir.readM o.a, longBytes o.long⟩
  | _ => none

/-! ## The numbers themselves (R131 to R149) -/

/-- What a bit pattern stands for: a NaN, an infinity, or a real number with the sign that it carries (R131, R132). -/
inductive Number where
  | nan (sig : Bool)
  | inf (neg : Bool)
  | fin (neg : Bool) (v : ℚ)
  deriving DecidableEq

/-- The magnitude of a pattern of zeros, subnormals and normals (R131). -/
def magnitude (f : FpFmt) (b : Nat) : ℚ :=
  let ex := b / 2 ^ f.mb % 2 ^ f.eb
  let fr : ℚ := ((b % 2 ^ f.mb : Nat) : ℚ) / 2 ^ f.mb
  if ex = 0 then fr * 2 ^ (1 - (f.bias : Int)) else (1 + fr) * 2 ^ ((ex : Int) - f.bias)
/-- A pattern's number; z flushes a subnormal one (R131, R132, R141). -/
def number (f : FpFmt) (z : Bool) (b : Nat) : Number :=
  let neg : Bool := decide (b / 2 ^ (f.mb + f.eb) % 2 = 1)
  let ex := b / 2 ^ f.mb % 2 ^ f.eb
  let fr := b % 2 ^ f.mb
  if ex = 2 ^ f.eb - 1 then (if fr = 0 then .inf neg else .nan (decide (fr < 2 ^ (f.mb - 1))))
  else if z && ex == 0 then .fin neg 0
  else .fin neg (if neg then -magnitude f b else magnitude f b)
/-- An integer's number. -/
def whole (i : Int) : Number := .fin (decide (i < 0)) i

def Number.neg : Number → Number
  | .nan s => .nan s
  | .inf n => .inf !n
  | .fin n v => .fin (!n) (-v)
def Number.isNan : Number → Bool
  | .nan _ => true
  | _ => false
/-- The exact product; 0 · inf is invalid and raises nv like a signalling NaN (R140, R166, R169). -/
def Number.times : Number → Number → Number
  | .nan s, .nan t => .nan (s || t)
  | .nan s, _ => .nan s
  | _, .nan s => .nan s
  | .inf n, .inf m => .inf (n != m)
  | .inf n, .fin m v => if v = 0 then .nan true else .inf (n != m)
  | .fin m v, .inf n => if v = 0 then .nan true else .inf (n != m)
  | .fin n v, .fin m w => .fin (n != m) (v * w)
/-- The exact quotient, and whether dz is raised (R166). -/
def Number.quotient : Number → Number → Number × Bool
  | .nan s, .nan t => (.nan (s || t), false)
  | .nan s, _ => (.nan s, false)
  | _, .nan s => (.nan s, false)
  | .inf _, .inf _ => (.nan true, false)
  | .inf n, .fin m w => (.inf (n != m), decide (w = 0))
  | .fin n _, .inf m => (.fin (n != m) 0, false)
  | .fin n v, .fin m w => if w = 0 then (if v = 0 then (.nan true, false) else (.inf (n != m), true)) else (.fin (n != m) (v / w), false)
def Number.val : Number → ℚ
  | .fin _ v => v
  | _ => 0
/-- The exact sum; infinities of both signs are invalid; the sign of a zero (R140, R143, R166, R169). -/
def total (rm : RM) (l : List Number) : Number :=
  if .nan true ∈ l then .nan true
  else if .nan false ∈ l then .nan false
  else if .inf true ∈ l then (if .inf false ∈ l then .nan true else .inf true)
  else if .inf false ∈ l then .inf false
  else
    let t := (l.map Number.val).sum
    .fin (if t ≠ 0 then decide (t < 0)
      else if l.all (· == .fin true 0) then true
      else if l.all (· == .fin false 0) then false
      else decide (rm = .rdn)) t
/-- x < y, neither a NaN (R167). -/
def Number.below : Number → Number → Bool
  | .inf n, .inf m => n && !m
  | .inf n, _ => n
  | _, .inf m => !m
  | .fin _ v, .fin _ w => decide (v < w)
  | _, _ => false
def Number.same : Number → Number → Bool
  | .inf n, .inf m => n == m
  | .fin _ v, .fin _ w => decide (v = w)
  | _, _ => false

/-- Numbers of p significant bits whose last bit is no smaller than 2^lo; none leaves the exponent unbounded (R140). -/
def OnGrid (p : Nat) (lo : Option Int) (x : ℚ) : Prop := ∃ n e : Int, (∀ l ∈ lo, l ≤ e) ∧ |n| < 2 ^ p ∧ x = (n : ℚ) * 2 ^ e
/-- x is v rounded to that grid: toward zero, down, up, or to the nearest, a tie to the one whose last bit is 0 (R140). -/
def Rounded (p : Nat) (lo : Option Int) (rm : RM) (v : ℝ) (x : ℚ) : Prop :=
  OnGrid p lo x ∧
  match rm with
  | .rtz => |(x : ℝ)| ≤ |v| ∧ 0 ≤ (x : ℝ) * v ∧ ∀ y : ℚ, OnGrid p lo y → |(y : ℝ)| ≤ |v| → |y| ≤ |x|
  | .rdn => (x : ℝ) ≤ v ∧ ∀ y : ℚ, OnGrid p lo y → (y : ℝ) ≤ v → y ≤ x
  | .rup => v ≤ (x : ℝ) ∧ ∀ y : ℚ, OnGrid p lo y → v ≤ (y : ℝ) → x ≤ y
  | _ => ∀ y : ℚ, OnGrid p lo y → |(x : ℝ) - v| ≤ |(y : ℝ) - v| ∧
      (y ≠ x → |(x : ℝ) - v| = |(y : ℝ) - v| → OnGrid (p - 1) (lo.map (· + 1)) x)

/-- The pattern of a magnitude's bits b under a sign. -/
def signed (f : FpFmt) (neg : Bool) (b : Nat) : Nat := b + if neg then 2 ^ (f.mb + f.eb) else 0
def infinity (f : FpFmt) : Nat := (2 ^ f.eb - 1) * 2 ^ f.mb
/-- The default NaN (R131). -/
def quietNan (f : FpFmt) : Nat := infinity f + 2 ^ (f.mb - 1)
/-- r is what a format delivers for the real v, neg being its sign: the rounded value or the overflow table's, and uf and nx (R140, R141). -/
def Delivered (f : FpFmt) (rm : RM) (ftz neg : Bool) (v : ℝ) (r : Nat × Flags) : Prop :=
  ∃ x w : ℚ, Rounded (f.mb + 1) (some (1 - (f.bias : Int) - f.mb)) rm v x ∧ Rounded (f.mb + 1) none rm v w ∧
    let tiny := v ≠ 0 ∧ |w| < 2 ^ (1 - (f.bias : Int))
    let big := magnitude f (infinity f - 1) < |x|
    let toLargest : Bool := decide (rm = .rtz) || decide (rm = if neg then .rup else .rdn)
    (tiny → ftz = true → r = (signed f neg 0, 0b00011)) ∧
    (big → r = (signed f neg (if toLargest then infinity f - 1 else infinity f), 0b00101)) ∧
    (¬ (tiny ∧ ftz = true) → ¬ big → ∃ b, b < infinity f ∧ magnitude f b = |x| ∧ r.1 = signed f neg b ∧ r.2 &&& 0b11100 = 0 ∧
      (r.2.getLsbD 0 = true ↔ (x : ℝ) ≠ v) ∧ (r.2.getLsbD 1 = true ↔ tiny ∧ (x : ℝ) ≠ v))
/-- r is an exact result in a format: the default NaN, nv when the NaN is signalling or an invalid operation's, an infinity, or a real
number delivered (R132, R140, R141). -/
def Delivers (f : FpFmt) (e : FpEnv) : Number → Nat × Flags → Prop
  | .nan sig, r => r = (quietNan f, if sig then 0b10000 else 0)
  | .inf n, r => r = (signed f n (infinity f), 0)
  | .fin n v, r => Delivered f e.rm e.ftz n (v : ℝ) r
/-- r is a number as a signed integer of w bits: rounded by the mode, saturated with nv, a NaN 0 with nv (R142). -/
def Integral (w : Nat) (rm : RM) : Number → Int × Flags → Prop
  | .nan _, r => r = (0, 0b10000)
  | .inf n, r => r = (if n then -2 ^ (w - 1) else 2 ^ (w - 1) - 1, 0b10000)
  | .fin _ v, r => ∃ i : Int, Rounded 256 (some 0) rm (v : ℝ) i ∧
      r = if 2 ^ (w - 1) ≤ i then (2 ^ (w - 1) - 1, 0b10000) else if i < -2 ^ (w - 1) then (-2 ^ (w - 1), 0b10000)
        else (i, if (i : ℚ) = v then 0 else 0b00001)

/-- The value of an E2M1 code (R134), of a TS8 byte (R135), of an INT4 nibble (R133), and of a block scale (R136). -/
def e2m1 (c : Nat) : ℚ :=
  let e := c / 2 % 4
  let m : ℚ := (c % 2 : Nat)
  (if c / 8 % 2 = 1 then -1 else 1) * (if e = 0 then m / 2 else 2 ^ (e - 1) * (1 + m / 2))
def ts8Part (s e : Nat) : ℚ := if e = 0 then 0 else (if s = 1 then -1 else 1) * 2 ^ ((e : Int) - 4)
def codeValue (f : CFmt) (c : Nat) : ℚ :=
  match f with
  | .i4 => sg 4 c
  | .e2m1 => e2m1 c
  | _ => ts8Part (c / 128 % 2) (c / 16 % 8) + ts8Part (c / 8 % 2) (c % 8)
def scaleValue (s : Nat) : ℚ := let f : ℚ := (s % 8 : Nat); if s / 8 = 0 then f / 8 * 2 ^ (-14 : Int) else 2 ^ ((s / 8 : Nat) - 15 : Int) * (1 + f / 8)
/-- The codes of a weight format, and the largest and the most negative number. -/
def codes (f : CFmt) : Nat := if f = .ts8 then 256 else 16
def greatest (f : CFmt) : ℚ := if f = .i4 then 7 else if f = .e2m1 then 6 else 16
def least (f : CFmt) : ℚ := if f = .i4 then -8 else if f = .e2m1 then -6 else -16
/-- Nonzero terms of a TS8 byte. -/
def terms (c : Nat) : Nat := (if c / 16 % 8 = 0 then 0 else 1) + (if c % 8 = 0 then 0 else 1)
/-- R36's preference among the TS8 bytes of one value: fewer terms, equal signs, the larger first, no sign on a zero term. -/
def rank (c : Nat) : Nat :=
  8 * terms c + (if terms c = 2 ∧ c / 128 % 2 ≠ c / 8 % 2 then 4 else 0) + (if c / 16 % 8 < c % 8 then 2 else 0) +
    (if (c / 16 % 8 = 0 ∧ c / 128 % 2 = 1) ∨ (c % 8 = 0 ∧ c / 8 % 2 = 1) then 1 else 0)
def Canonical (f : CFmt) (c : Nat) : Prop := f = .ts8 → ∀ d, d < 256 → codeValue f d = codeValue f c → rank c ≤ rank d
/-- A tie between c and d goes to c (R138). -/
def TieTo (f : CFmt) (c d : Nat) : Prop :=
  if f = .ts8 then terms c < terms d ∨ terms c = terms d ∧ |codeValue f c| < |codeValue f d| else c % 2 = 0
/-- c is the member of the code set that the mode chooses for y (R138). -/
def Quantised (f : CFmt) (rm : RM) (y : ℚ) (c : Nat) : Prop :=
  match rm with
  | .rtz => |codeValue f c| ≤ |y| ∧ 0 ≤ codeValue f c * y ∧
      ∀ d, d < codes f → |codeValue f d| ≤ |y| → 0 ≤ codeValue f d * y → |codeValue f d| ≤ |codeValue f c|
  | .rdn => codeValue f c ≤ y ∧ ∀ d, d < codes f → codeValue f d ≤ y → codeValue f d ≤ codeValue f c
  | .rup => y ≤ codeValue f c ∧ ∀ d, d < codes f → y ≤ codeValue f d → codeValue f c ≤ codeValue f d
  | _ => ∀ d, d < codes f → |codeValue f c - y| ≤ |codeValue f d - y| ∧
      (codeValue f d ≠ codeValue f c → Canonical f d → |codeValue f c - y| = |codeValue f d - y| → TieTo f c d)
/-- r is x quantised with scale byte s (R138). -/
def Quantises (f : CFmt) (s : Nat) (rm : RM) (x : Number) (r : Nat × Flags) : Prop :=
  if f ≠ .ts8 ∧ (s = 0 ∨ s = 255) then r = (0, if s = 255 ∨ x ≠ .fin false 0 then 0b10000 else 0)
  else
    r.1 < codes f ∧ Canonical f r.1 ∧
    match x with
    | .nan _ => r = (0, 0b10000)
    | .inf n => codeValue f r.1 = (if n then least f else greatest f) ∧ r.2 = 0
    | .fin n v =>
      let y : ℚ := if f = .ts8 then v else v / scaleValue s
      (f = .e2m1 → codeValue f r.1 = 0 → r.1 = if n then 8 else 0) ∧
      if greatest f < y then codeValue f r.1 = greatest f ∧ r.2 = 0b00101
      else if y < least f then codeValue f r.1 = least f ∧ r.2 = 0b00101
      else Quantised f rm y r.1 ∧ r.2 = if codeValue f r.1 = y then 0 else 0b00001
/-- A weight code with its block scale (R137). -/
def dequantised (f : CFmt) (c s : Nat) : Number :=
  let neg : Bool := if f = .e2m1 then decide (c / 8 % 2 = 1) else decide (codeValue f c < 0)
  if f = .ts8 then .fin neg (codeValue f c)
  else if s = 255 then .nan false
  else .fin neg (codeValue f c * scaleValue s)
/-- Weight wt[k][j] of a block (R279). -/
def weight (cfmt block k j : Nat) : Number :=
  let byte (b : Nat) : Nat := block / 256 ^ b % 256
  let nibble := byte (16 * k + j / 2) / (if j % 2 = 0 then 1 else 16) % 16
  let sc := byte (1024 + 32 * (k / 32) + j)
  match cfmt with
  | 0 => number fpBf16 false (block / 256 ^ (64 * k + 2 * j) % 65536)
  | 1 => dequantised .ts8 (byte (32 * k + j)) 0
  | 2 => dequantised .i4 nibble sc
  | _ => dequantised .e2m1 nibble sc

/-- r is what an approximation delivers of its FP32 stage x: as FP32, or rounded again as BF16; nx only with of or uf (R151). -/
def Approximates (f : FpFmt) (ftz : Bool) (x : Number) (dz : Bool) (r : Nat × Flags) : Prop :=
  ∃ p q : Nat × Flags, Delivers fp32 ⟨.rne, false, decide (f = fp32) && ftz⟩ x p ∧
    (if f = fp32 then q = p else Delivers f ⟨.rne, false, ftz⟩ (number fp32 false p.1) q) ∧
    r.1 = q.1 ∧
    let fl := q.2 ||| (p.2 &&& 0b10000)
    r.2 = (if fl &&& 0b00110 = 0 then fl &&& 0b11110 else fl) ||| (if dz then 0b01000 else 0)
/-- The seed of 1/√x (R148). -/
def RootSeed (f : FpFmt) (ftz : Bool) (x : Number) (r : Nat × Flags) : Prop :=
  match x with
  | .nan s => Approximates f ftz (.nan s) false r
  | .inf n => Approximates f ftz (if n then .nan true else .fin false 0) false r
  | .fin n v =>
    if v = 0 then Approximates f ftz (.inf n) true r
    else if v < 0 then Approximates f ftz (.nan true) false r
    else ∃ (ex : Int) (f7 : Nat) (t : ℚ), (1 + f7 / 128) * 2 ^ ex ≤ v ∧ v < (1 + (f7 + 1) / 128) * 2 ^ ex ∧ f7 < 128 ∧
      Rounded 12 none .rne (1 / Real.sqrt (2 ^ (ex % 2) * (1 + f7 / 128 + 1 / 256))) t ∧
      Approximates f ftz (.fin false (t * 2 ^ (-((ex - ex % 2) / 2)))) false r
/-- The seed of 1/x (R149). -/
def QuotientSeed (f : FpFmt) (ftz : Bool) (x : Number) (r : Nat × Flags) : Prop :=
  match x with
  | .nan s => Approximates f ftz (.nan s) false r
  | .inf n => Approximates f ftz (.fin n 0) false r
  | .fin n v =>
    if v = 0 then Approximates f ftz (.inf n) true r
    else ∃ (ex : Int) (f8 : Nat) (t : ℚ), (1 + f8 / 256) * 2 ^ ex ≤ |v| ∧ |v| < (1 + (f8 + 1) / 256) * 2 ^ ex ∧ f8 < 256 ∧
      Rounded 12 none .rne (((1 / (1 + f8 / 256 + 1 / 512) : ℚ)) : ℝ) t ∧
      Approximates f ftz (.fin n ((if n then -1 else 1) * t * 2 ^ (-ex))) false r
/-- fmin and fmax choose one operand, their bits after the flush; a NaN gives way (R167). -/
def chosen (f : FpFmt) (z mx : Bool) (a b : Nat) : Nat :=
  let bits (p : Nat) : Nat := match number f z p with
    | .fin n v => if v = 0 then signed f n 0 else p % 2 ^ (f.mb + f.eb + 1)
    | _ => p % 2 ^ (f.mb + f.eb + 1)
  let x := number f z a
  let y := number f z b
  if x.isNan then (if y.isNan then quietNan f else bits b)
  else if y.isNan then bits a
  else
    -- −0 is less than +0
    let less : Bool := x.below y || (x == .fin true 0 && y == .fin false 0)
    if less != mx then bits a else bits b
/-- nv of a signalling operand (R132). -/
def signalling (l : List Number) : Flags := if .nan true ∈ l then 0b10000 else 0
/-- A source element of a conversion (R142, R191). -/
def source (c : BitVec 13) (sf : CFmt) (x : Nat) : Number :=
  match cfmtFp sf with
  | some f => number f (c.getLsbD (flushAt f)) x
  | none => whole (sg (cfmtWidth sf) x)
/-- A pattern after the operand flush with another sign; a NaN becomes the default one (R132, R167, R187). -/
def resigned (f : FpFmt) (z : Bool) (a : Nat) (neg : Bool) : Nat × Flags :=
  match number f z a with
  | .nan sig => (quietNan f, if sig then 0b10000 else 0)
  | .inf _ => (signed f neg (infinity f), 0)
  | .fin _ v => (signed f neg (if v = 0 then 0 else a % 2 ^ (f.mb + f.eb)), 0)
def signBit (f : FpFmt) (a : Nat) : Bool := decide (a / 2 ^ (f.mb + f.eb) % 2 = 1)
/-- The class record (R167): the fields as stored, whether the flush replaced a subnormal, and the kind. -/
def classRecord (f : FpFmt) (z : Bool) (a : Nat) : Nat :=
  let small (v : ℚ) : Prop := v ≠ 0 ∧ |v| < 2 ^ (1 - (f.bias : Int))
  let kind := match number f z a with
    | .nan sig => if sig then 5 else 4
    | .inf _ => 3
    | .fin _ v => if v = 0 then 0 else if small v then 1 else 2
  let flushed : Prop := z = true ∧ small (number f false a).val
  a / 2 ^ f.mb % 2 ^ f.eb * 2 ^ 8 + (if signBit f a then 2 ^ 7 else 0) + (if flushed then 2 ^ 6 else 0) + kind
/-- One fused step of R150's polynomial: q is p · x + c rounded to FP32. -/
def Horner (x : ℚ) (p c q : Nat) : Prop :=
  ∃ fl, Delivers fp32 ⟨.rne, false, false⟩ (total .rne [(number fp32 false p).times (.fin (decide (x < 0)) x), number fp32 false c]) (q, fl)
/-- 2^x (R150). -/
def PowerOfTwo (f : FpFmt) (ftz : Bool) (x : Number) (r : Nat × Flags) : Prop :=
  match x with
  | .nan s => Approximates f ftz (.nan s) false r
  | .inf n => Approximates f ftz (if n then .fin false 0 else .inf false) false r
  | .fin _ v =>
    let xc : ℚ := if 256 < v then 256 else if v < -256 then -256 else v
    ∃ (n : Int) (p4 p3 p2 p1 p0 : Nat), Rounded 256 (some 0) .rne (xc : ℝ) n ∧
      Horner (xc - n) 0x3AAEC3FF 0x3C1D955B p4 ∧ Horner (xc - n) p4 0x3D635847 p3 ∧ Horner (xc - n) p3 0x3E75FDF0 p2 ∧
      Horner (xc - n) p2 0x3F317218 p1 ∧ Horner (xc - n) p1 0x3F800000 p0 ∧
      Approximates f ftz (.fin false ((number fp32 false p0).val * 2 ^ n)) false r
/-- What a `vcvt` of an accepted pair delivers of an element: rounded to a floating format, rounded and saturated to an integer with flags, or, of
an integer, saturated with none (R142, R190). -/
def Converts (c : BitVec 13) (sf df : CFmt) (rm : RM) (x : Nat) (r : Nat × Flags) : Prop :=
  match cfmtFp sf, cfmtFp df with
  | some f, some g => Delivers g (cvtEnv c f g rm) (source c sf x) r
  | some _, none => ∃ i : Int × Flags, Integral (cfmtWidth df) (mode c rm) (source c sf x) i ∧ r = (lane (cfmtWidth df) i.1, i.2)
  | none, some g => Delivers g (env c g rm) (source c sf x) r
  | none, none =>
    let w := cfmtWidth df
    let v := sg (cfmtWidth sf) x
    r = (lane w (if 2 ^ (w - 1) ≤ v then 2 ^ (w - 1) - 1 else if v < -(2 ^ (w - 1)) then -(2 ^ (w - 1)) else v), 0)

/-! ## Scalar memory -/

/-- sext(imm10), or the literal (R199, R205). -/
def offset : Off → Word
  | .short v => BitVec.ofInt 64 v.toInt
  | .lit v => v
/-- Bytes of a format M instruction: a literal adds two words, an extension two more (R45). -/
def memBytes (off : Off) (ext : Bool) : Nat := (match off with | .short _ => 4 | .lit _ => 12) + (if ext then 8 else 0)
/-- A naturally aligned access of `n` bytes that the stack check, which x2 as base field asks for, passes (R101, R206). -/
def Allowed (k : Context) (a : Reg) (va : Word) (n : Nat) : Prop :=
  va.toNat % n = 0 ∧ (a.val = 2 → k.stkbase.toNat ≤ va.toNat ∧ va.toNat + n ≤ k.stklim.toNat)

/-- A load: fields d and a, offset, size, extension, acquire scope, bytes. -/
structure Load where
  d : Reg
  a : Reg
  off : Word
  size : Nat
  ext : Ext
  acq : Option Scope
  bytes : Nat

def load (o : OpsM) (n : Nat) (e : Ext) : Option Load := some ⟨o.d, o.a, offset o.off, n, e, none, memBytes o.off o.long⟩
/-- R206, R207. -/
def loads : Instr → Option Load
  | .ldB o => load o 1 (.sign 1)
  | .ldBu o => load o 1 (.zero 1)
  | .ldH o => load o 2 (.sign 2)
  | .ldHu o => load o 2 (.zero 2)
  | .ldW o => load o 4 (.sign 4)
  | .ldWu o => load o 4 (.zero 4)
  | .ldD o => load o 8 .whole
  | .ldAcq o => some ⟨o.d, o.a, offset o.off, 8, .whole, some (o.scope.getD .package), memBytes o.off o.scope.isSome⟩
  | _ => none

/-- A store: fields d and a, offset, size, func3, release scope, bytes. -/
structure Store where
  d : Reg
  a : Reg
  off : Word
  size : Nat
  func : Nat
  rel : Option Scope
  bytes : Nat

def store (o : OpsM) (n func : Nat) (rel : Option Scope) : Option Store := some ⟨o.d, o.a, offset o.off, n, func, rel, memBytes o.off o.long⟩
/-- R208, R209. -/
def stores : Instr → Option Store
  | .stB o => store o 1 0 none
  | .stH o => store o 2 1 none
  | .stW o => store o 4 2 none
  | .stD o => store o 8 3 none
  | .stRel o => some ⟨o.d, o.a, offset o.off, 8, 4, some (o.scope.getD .package), memBytes o.off o.scope.isSome⟩
  | .stf o => store o 8 5 (some .package)
  | _ => none

/-- An atomic: fields d, a and b, operation, doubleword, extension of the old value. -/
structure Amo where
  d : Reg
  a : Reg
  b : Reg
  op : Nat
  dbl : Bool
  ext : Ext

def amo (o : OpsAmo) (op : Nat) : Option Amo := some ⟨o.d, o.a, o.b, op, o.dbl, if o.dbl then .whole else .sign 4⟩
/-- R211. -/
def atomics : Instr → Option Amo
  | .amoAdd o => amo o 0
  | .amoAnd o => amo o 1
  | .amoOr o => amo o 2
  | .amoXor o => amo o 3
  | .amoMin o => amo o 4
  | .amoMax o => amo o 5
  | .amoMinu o => amo o 6
  | .amoMaxu o => amo o 7
  | .amoSwap o => amo o 8
  | .amoCas o => amo o 9
  | .amoFaddF32 o => some ⟨o.d, o.a, o.b, 10, false, .zero 4⟩
  | .amoFaddBf16x2 o => some ⟨o.d, o.a, o.b, 11, false, .zero 4⟩
  | _ => none

/-- What every scalar memory instruction checks: its sources in their order, its address, its size, its return-buffer entries. -/
def accesses (k : Context) (ins : Instr) : Option (List (Fin 32) × Reg × Word × Nat × Nat) :=
  match loads ins, stores ins, atomics ins with
  | some q, _, _ => some ([q.a], q.a, k.srcX q.a + q.off, q.size, 1)
  | _, some q, _ => some ([q.a, q.d], q.a, k.srcX q.a + q.off, q.size, 0)
  | _, _, some q => some ([q.a, q.b, q.d], q.a, k.srcX q.a, if q.dbl then 8 else 4, 1)
  | _, _, _ => none

/-- The operand of an instruction that names lines, a hamper address, a descriptor or a record: sources, destinations, entries, and the cause
and tval of its address check (R174, R215, R217, R231, R289); none where the operand is well formed. -/
def operands (k : Context) : Instr → Option (List (Fin 32) × List (Fin 32) × Nat × Option (Word × Word))
  | .feClr o => lines [o.a] [] o.a (o.n1.toNat + 1)
  | .feSet o => lines [o.a] [] o.a (o.n1.toNat + 1)
  | .feTest o => lines [o.a] [o.d] o.a 1
  | .fePeek o =>
    let v := k.srcX o.a
    some ([o.a], [], 1, if v.toNat % 8 ≠ 0 then some (0x02, v) else if 0x18000 ≤ v.toNat then some (0x03, v) else none)
  | .park o =>
    let v := k.srcX o.a
    some ([o.a], [o.d], 0, if o.a.val ≠ 0 ∧ 0x18000 ≤ v.toNat then some (0x03, v) else none)
  | .copy o => block64 [o.a] 0 o.a
  | .copySt o => block64 [o.a] 1 o.a
  | .launch o => block64 [o.a] 1 o.a
  | .hLd o => hamper [o.a] 2 o.a
  | .hSt o => hamper [o.a] 0 o.a
  | .hFill o =>
    let x := k.srcX o.a
    let y := (k.pop o.a).srcX o.b
    some ([o.a, o.b], [], 1, if y.toNat % 128 ≠ 0 then some (0x02, y) else if 256 ≤ x.toNat then some (0x03, x)
      else if 0x18000 < y.toNat + 4096 then some (0x03, y) else none)
  | _ => none
where
  lines (srcs dests : List (Fin 32)) (a : Reg) (n : Nat) : Option (List (Fin 32) × List (Fin 32) × Nat × Option (Word × Word)) :=
    let v := k.srcX a
    some (srcs, dests, 0, if 0x18000 ≤ v.toNat ∨ 768 < v.toNat / 128 + n then some (0x03, v) else none)
  block64 (srcs : List (Fin 32)) (n : Nat) (a : Reg) : Option (List (Fin 32) × List (Fin 32) × Nat × Option (Word × Word)) :=
    let v := k.srcX a
    some (srcs, [], n, if v.toNat % 64 ≠ 0 then some (0x02, v) else none)
  hamper (srcs : List (Fin 32)) (n : Nat) (a : Reg) : Option (List (Fin 32) × List (Fin 32) × Nat × Option (Word × Word)) :=
    let v := k.srcX a
    some (srcs, [], n, if v.toNat % 256 ≠ 0 then some (0x02, v)
      else if v.toNat < 0x100000 ∨ 0x200000 ≤ v.toNat then some (0x03, v) else none)

/-- An own-scratchpad address from which `n` lines lie in the scratchpad (R215). -/
def Lines (v : Word) (n : Nat) : Prop := v.toNat < 0x18000 ∧ v.toNat / 128 + n ≤ 768

/-! ## Messages, ranges and the end of a firing -/

/-- Where a message goes (R218): with x0 as field b the core at the signed offset, otherwise the core and device in the operand; a core of
the partition, or a core of another device that the partition's grants reach. -/
def Destination (s : State) (core : Nat) (b : Reg) (xb : Word) (dx dy : BitVec 8) (dev n : Nat) : Prop :=
  let p := (s.coreAt core).partition
  if b.val = 0 then
    dev = deviceNum s ∧ coreIn s p n = true ∧ (n % 48 : Int) = core % 48 + dx.toInt ∧ (n / 48 : Int) = (core / 48 : Nat) + dy.toInt
  else
    n = xb.toNat % 2 ^ 13 ∧ dev = xb.toNat / 2 ^ 13 % 2 ^ 12 ∧
      (if dev = deviceNum s then coreIn s p n = true else n < 4608 ∧ granted s p (0x3000000000000 + dev * 0x1000000000) .write true = true)

/-- The header that a firing of core n sends (R83). -/
def headerOf (s : State) (f : Firing) (n bytes : Nat) (x : Ctx) (cls : Nat) : BitVec 128 :=
  header f.tag.toNat f.launch.toNat f.group.toNat f.depth.toNat f.stage.toNat bytes n (deviceNum s) x cls
/-- Bytes of consecutive scalar registers (R218). -/
def bytesOf (f : Firing) (a : Reg) (bytes : Nat) : Vec := BitVec.ofNat 1024 (regsNat f a ((bytes + 7) / 8) % 2 ^ (8 * bytes))
/-- A context with one more message in its injection slots (R219, R220): to another device it is a release of system scope. -/
def inject (k : Context) (s : State) (dev : Nat) (targets : List Nat) (gid : Option Nat) (addr : Word) (m : Msg) : Context :=
  { k with
    inj := k.inj ++ [⟨k.num, dev, targets, m, gid, addr, 0, none, if dev = deviceNum s then .package else .system⟩]
    num := k.num + 1 }

/-- A context whose firing has ended with nothing left of a range (R227): what a trap set aside is dropped with the accesses that fed it. -/
def ended (k : Context) (now : Nat) : Context :=
  { k with
    running := false, trapping := none, parked := none, barrier := none, sfq := [], lost := 0, skid := none, reason := 0
    readyAt := now + 4, rb := [], acc := k.acc.filterMap (orphan k)
    fir := { k.fir with range := none, actor := none, opened := [], aside := [], intrap := false, groupStart := false } }
/-- A group's member rectangle as x[a] gives it: columns and rows, and the signed offset of its top-left member (R221). -/
def armCols (x : Word) : Nat := x.toNat / 2 ^ 16 % 2 ^ 6 + 1
def armRows (x : Word) : Nat := x.toNat / 2 ^ 22 % 2 ^ 7 + 1
def armDx (x : Word) : Int := sg 8 (x.toNat % 2 ^ 8)
def armDy (x : Word) : Int := sg 8 (x.toNat / 2 ^ 8 % 2 ^ 8)
/-- A condition of code 2 holds (R221): a bit that must be 0, the operation, the size, a member outside, the root outside. -/
def ArmRefused (s : State) (core : Nat) (x y : Word) (rdx rdy : Int) : Prop :=
  let p := (s.coreAt core).partition
  x.toNat / 2 ^ 29 ≠ 0 ∨ y.toNat / 2 ^ 2 ≠ 0 ∨ y.toNat % 4 = 3 ∨ 1024 < armCols x * armRows x ∨
    (∃ i j : Nat, i < armCols x ∧ j < armRows x ∧ ∀ m, coreAtOffset core (armDx x + i) (armDy x + j) = some m → coreIn s p m = false) ∨
    ¬ (armDx x ≤ rdx ∧ rdx < armDx x + armCols x ∧ armDy x ≤ rdy ∧ rdy < armDy x + armRows x)

/-! ## Channels and indexes -/

/-- The channel that an operand of the issuing context names in [11:0] (R239, R252). -/
def chan (s : State) (v : Word) : Chan := s.chanAt (s.coreAt s.slot.core).partition (v.toNat % 2 ^ 12)
/-- The operand has nothing above [11:0], and the firing has the channel open (R252, R253). -/
def Opened (s : State) (v : Word) : Prop := v.toNat < 2 ^ 12 ∧ hasNat (s.fir s.slot).opened v.toNat = true
def Writes (s : State) (c : Chan) : Prop := isWriter c s.slot.core = true
def Reads (s : State) (c : Chan) : Prop := isReader c s.slot.core = true
/-- Scalar registers that hold a record of 2^k doublewords: any one, or several of x1 to x27 (R254). -/
def ScalarData (d : Reg) (k : Nat) : Prop := k = 0 ∨ (1 ≤ d.val ∧ d.val + 2 ^ k ≤ 28)
/-- Vector registers that hold one: two of v0 to v19 for 256 bytes. -/
def VectorData (d : VReg) (k : Nat) : Prop := k ≠ 5 ∨ (8 ≤ d.val ∧ d.val ≤ 26)
/-- Nothing makes a record's write wait (R243, R260): below the writer's bound or with a reservation left, and no cork unacknowledged. -/
def Room (s : State) (v : Word) : Prop := boundWait s s.slot (v.toNat % 2 ^ 12) = none
/-- The issuing context with one unit of an actor firing's reservation for the channel used, if it has one (R244). -/
def using_ (s : State) (v : Word) (out : Bool) : Context := ((useSlot s s.slot (v.toNat % 2 ^ 12) out).ctx s.slot).counted
/-- The channel with one more record known to be outstanding from the issuing core (R243). -/
def occupied (s : State) (v : Word) : State :=
  modChan s (s.coreAt s.slot.core).partition (v.toNat % 2 ^ 12) fun c => addOcc c s.slot.core
/-- The access of a channel instruction. -/
def chanAccess (s : State) (k : Context) (v : Word) (op : ChanOp) (rel : Option Scope) : Access :=
  k.access (requester s s.slot) v (.chan (v.toNat % 2 ^ 12) op) rel (readerSide s (s.coreAt s.slot.core).partition (v.toNat % 2 ^ 12))
/-- The data of a record (R254). -/
def scalarData (k : Context) (a : Reg) (d : Reg) (n : Nat) : Nat := if n = 0 then ((k.pop a).srcX d).toNat else regsNat k.fir d (2 ^ n)
def vectorData (k : Context) (a : Reg) (d : VReg) (n : Nat) : Nat :=
  if n = 5 then ((k.pop a).srcV d).toNat + 2 ^ 1024 * (k.fir.readV (regPlus d 1)).toNat else ((k.pop a).srcV d).toNat % 2 ^ (64 * 2 ^ n)
/-- Records that reads can be served from (R244, R256): those delivered, of a shared ring the slots in sequence that are published or void. -/
def available (c : Chan) : Nat :=
  if cClass c = 1 then (c.ring.takeWhile fun r => r.published || r.void).length else (c.wr - c.rd).toNat
/-- A slot of a shared ring that the issuing core has reserved and not sent yet (R248, R257). -/
def Reserved (s : State) (v : Word) : Prop :=
  let side := readerSide s (s.coreAt s.slot.core).partition (v.toNat % 2 ^ 12)
  ∃ r ∈ (s.chanAt side.1 side.2).ring ++ (s.chanAt side.1 side.2).voids, r.seq = v.toNat / 2 ^ 32 ∧ r.core = s.slot.core ∧ r.sent = false
/-- What a channel instruction asks of its operand (R252 to R263): operand field, sources, destinations, entries, and the condition. -/
def uses (s : State) (k : Context) : Instr → Option (Reg × List (Fin 32) × List (Fin 32) × Nat × Prop)
  | .chOpen o => some (o.a, [o.a], [o.d], 0, (k.srcX o.a).toNat < 2 ^ 12 ∧ (Writes s (chan s (k.srcX o.a)) ∨ Reads s (chan s (k.srcX o.a))))
  | .chClose o => some (o.a, [o.a], [], 0, (k.srcX o.a).toNat < 2 ^ 12 ∧ (Writes s (chan s (k.srcX o.a)) ∨ Reads s (chan s (k.srcX o.a))))
  | .chAvail o => some (o.a, [o.a], [o.d], 0, reads o.a fun _ => True)
  | .chSpace o => some (o.a, [o.a], [o.d], 0, writes o.a fun c => cClass c = 0 ∨ cClass c = 2)
  | .dqCons o => some (o.a, [o.a], [o.d], 0, reads o.a fun c => cClass c = 2)
  | .chW o => some (o.a, [o.a, o.d], [], 0, writes o.a fun c => cClass c = 0 ∧ cK c ≤ 3 ∧ ScalarData o.d (cK c))
  | .chWv o => some (o.a, [o.a, o.d], [], 0, writes o.a fun c => cClass c = 0 ∧ cK c ≤ 5 ∧ VectorData o.d (cK c))
  | .chR o => some (o.a, [o.a], [], 1, reads o.a fun c => cClass c ≤ 1 ∧ cK c = 0)
  | .chRv o => some (o.a, [o.a], [], if cK (chan s (k.srcX o.a)) = 5 then 2 else 1, reads o.a fun c => cClass c ≤ 1 ∧ cK c ≤ 5 ∧ VectorData o.d (cK c))
  | .chRes o => some (o.a, [o.a], [], 1, writes o.a fun c => cClass c = 1 ∧ cK c ≤ 4 ∧ o.n1.toNat + 1 ≤ cCap c)
  | .chPub o =>
    let v := k.srcX o.a
    let c := chan s v
    some (o.a, [o.a, o.d], [], 0, v.toNat / 2 ^ 12 % 2 ^ 20 = 0 ∧ hasNat k.fir.opened (v.toNat % 2 ^ 12) = true ∧ Writes s c ∧ cClass c = 1 ∧
      (if o.vec then VectorData o.d (cK c) else ScalarData o.d (cK c)) ∧ Reserved s v)
  | .dqEmit o => some (o.a, [o.a, o.d], [], 0, writes o.a fun c => cClass c = 2 ∧
      fld ((k.pop o.a).srcV o.d) 111 96 ≤ 48 ∧ fld ((k.pop o.a).srcV o.d) 95 64 ≠ 0x80000000)
  | .dqRead o => some (o.a, [o.a], [], 1, reads o.a fun c => cClass c = 2)
  | .dqCork o => some (o.a, [o.a], [], 0, writes o.a fun c => cClass c = 2)
  | _ => none
where
  reads (a : Reg) (p : Chan → Prop) : Prop := Opened s (k.srcX a) ∧ Reads s (chan s (k.srcX a)) ∧ p (chan s (k.srcX a))
  writes (a : Reg) (p : Chan → Prop) : Prop := Opened s (k.srcX a) ∧ Writes s (chan s (k.srcX a)) ∧ p (chan s (k.srcX a))

/-! ## Vector memory -/

/-- imm10 counts 128-byte lines, a literal bytes (R199). -/
def vectorOffset : Off → Word
  | .short v => BitVec.ofInt 64 (128 * v.toInt)
  | .lit v => v
/-- The active 4-byte elements, by number (R200). -/
def elements (f : Firing) (m : MReg) : List Nat := (List.range 32).filter fun j => m.val = 0 || (f.readM m).getLsbD j
/-- A trap at the lowest of some addresses (R200, R202). -/
def Lowest (l : List Word) (bad : Word → Prop) (va : Word) : Prop := va ∈ l ∧ bad va ∧ ∀ w ∈ l, bad w → va.toNat ≤ w.toNat
/-- Every element is aligned and, for base field x2, within the stack bounds (R101, R200). -/
def ElementsAllowed (k : Context) (a : Reg) (l : List Word) : Prop := ∀ va ∈ l, Allowed k a va 4

/-! ## The accumulator -/

/-- The firing may use the accumulator: nobody or it owns it (R286); the supervisor may where `sup` says so. -/
def MayUse (s : State) (sup : Bool) : Prop :=
  (sup = true ∧ (s.fir s.slot).sup = true) ∨ (s.coreAt s.slot.core).accowner = 0 ∨
    (s.coreAt s.slot.core).accowner = (s.fir s.slot).tag
/-- A block store whose checks have passed (R287, R289). -/
def blockAccess (s : State) (k : Context) (va : Word) (n : Nat) (data : Vec) (poison : Bool) (home : Word → Nat) (pos : Nat) : Access :=
  { k.access (requester s s.slot) va (.block n (BitVec.allOnes 32) data poison) none with pa := some (home va), pos := pos }
/-- Reads of n bytes in pieces of `size` bytes. -/
def pieces (s : State) (k : Context) (va : Word) (n size : Nat) : List Access :=
  (List.range (n / size)).map fun j =>
    { k.access (requester s s.slot) (va + BitVec.ofNat 64 (size * j)) (.load size) none with pos := size * j }

/-! ## Control registers -/

def bit (b : Bool) : Nat := b.toNat
def w64 (n : Nat) : Word := BitVec.ofNat 64 n
/-- A loop level as a word, and a word as a loop level (R162). -/
def levelWord (l : Loop) : Word := w64 (bit l.act + l.start.toNat * 2 ^ 2 + l.stop.toNat * 2 ^ 17 + l.lc.toNat * 2 ^ 32)
def wordLevel (v : Word) : Loop := ⟨v.getLsbD 0, v.extractLsb' 2 15, v.extractLsb' 17 15, v.extractLsb' 32 32⟩
/-- The entry that tbsel selects, inside a handler (R323). -/
def selected (k : Context) : Option Entry :=
  if k.fir.intrap then (k.fir.aside[k.tbsel.toNat]?).filter fun e => e.state ≠ .dropped else none
/-- The value of a field of the head record, 0 with no record (R325). -/
def head (k : Context) (f : SfRec → Word) : Word := match k.sfq with
  | [] => 0
  | r :: _ => f r
/-- Bits [63:0] of a return-buffer entry (R97). -/
def entryInfo (e : Entry) : Word :=
  let dest := match e.dest with
    | .x r => r.val
    | .v r => 32 + r.val
    | .m r => 64 + r.val
    | .slots => 96
  let state := match e.state with
    | .pending => 1
    | .faulted => 2
    | .returned => 3
    | .reissue => 4
    | .dropped => 0
  let cause := match e.fault with
    | some f => if e.state = .faulted then f.2.toNat else 0
    | none => 0
  w64 (state + bit e.super * 2 ^ 3 + cause * 2 ^ 32 + dest * 2 ^ 40 + e.pc.toNat % 2 ^ 17 * 2 ^ 47)

/-- What a register reads as (R176 to R179, R323, R325). -/
def register (s : State) (k : Context) (n : Nat) : Option Word :=
  let core := s.slot.core
  let c := s.coreAt core
  match n with
  | 0x00 => some (w64 (bit k.fir.sup + (match s.slot.x with
      | .n => 0
      | .u => 2) + bit k.fir.spm * 4 + bit k.fir.intrap * 8))
  | 0x01 => some k.cause
  | 0x02 => some k.epc
  | 0x03 => some k.tval
  | 0x04 => some k.tvec
  | 0x05 => some k.fpc
  | 0x06 => some (w64 (coreCol core + coreRow core * 2 ^ 6 + core * 2 ^ 13 + dieOf core % 4 * 2 ^ 26 + c.partition * 2 ^ 28
      + deviceNum s * 2 ^ 32))
  | 0x07 => some (k.fir.tag.setWidth 64)
  | 0x08 => some (k.fir.group.setWidth 64)
  | 0x09 => some (k.fir.stage.setWidth 64)
  | 0x0A => some (w64 (k.fir.launch.toNat + k.fir.depth.toNat * 2 ^ 32))
  | 0x0B => some (k.fpctl.setWidth 64)
  | 0x0C => some k.peak
  | 0x0D => some k.stkbase
  | 0x0E => some k.stklim
  | 0x0F => some c.rqbase
  | 0x10 => some c.rqlim
  | 0x11 => some (levelWord k.fir.inner)
  | 0x12 => some c.gangpos
  | 0x13 => some (w64 (k.sfq.length + k.lost * 2 ^ 8))
  | 0x14 => some (head k fun r => r.pc)
  | 0x15 => some (head k fun r => r.va)
  | 0x16 => some (head k fun r => r.data)
  | 0x17 => some (head k fun r => w64 (r.op.toNat + r.inner.toNat * 2 ^ 8))
  | 0x18 => some 0
  | 0x19 => some s.cycle
  | 0x1A => some k.retired
  | 0x1B => some (levelWord k.fir.outer)
  | 0x1C => some (c.accowner.setWidth 64)
  | 0x20 => some (w64 c.rqtop)
  | 0x21 => some (w64 c.rqbot)
  | 0x22 => some (if k.fir.intrap then k.tbsel.setWidth 64 else 0)
  | 0x24 => some (((selected k).map fun e => e.va).getD 0)
  | 0x25 => some (((selected k).map entryInfo).getD 0)
  | _ => none

/-- A loop register's write moves the outer level inward when the inner one is inactive (R162). -/
def inward (k : Context) : Context :=
  if k.fir.inner.act = false ∧ k.fir.outer.act = true then
    { k with fir := { k.fir with inner := k.fir.outer, outer := { k.fir.outer with act := false } } }
  else k

/-- What a write of a register that a context holds leaves (R176, R177, R162, R323, R325). -/
def written (k : Context) (n : Nat) (v : Word) : Option Context :=
  match n with
  | 0x00 => some { k with fir := { k.fir with spm := v.getLsbD 2 } }
  | 0x01 => some { k with cause := v &&& 0x1FFFF }
  | 0x02 => some { k with epc := v }
  | 0x03 => some { k with tval := v }
  | 0x04 => some { k with tvec := v &&& 0x1FFFC }
  | 0x05 => some { k with fpc := v }
  | 0x0B => some { k with fpctl := v.setWidth 13 }
  | 0x0C => some { k with peak := v &&& 0x800000007FFFFFFF }
  | 0x0D => some { k with stkbase := v &&& 0x1FFF0 }
  | 0x0E => some { k with stklim := v &&& 0x1FFF0 }
  | 0x11 => some (inward { k with fir := { k.fir with inner := wordLevel v } })
  | 0x18 => some { k with
      sfq := k.sfq.drop 1
      lost := if k.sfq.drop 1 = [] then 0 else k.lost
      skid := match (k.sfq.drop 1).filter (fun r => !r.held), k.skid with
        | r :: _, some _ => some (k.issued - r.order)
        | _, _ => none }
  | 0x1B => some (inward { k with fir := { k.fir with outer := wordLevel v } })
  | 0x22 => some (if k.fir.intrap then { k with tbsel := v.setWidth 3 } else k)
  | _ => none

/-- The registers of hypervisor mode, and what a write of each leaves (R356): hcause to htvec take the word, hstatus its bit 0; devnum takes
it once, and a hevent bit written as 1 is cleared. -/
def hyperRead (m : Mgmt) (n : Nat) : Word :=
  match n with
  | 0x80 => m.hstatus
  | 0x81 => m.hcause
  | 0x82 => m.hepc
  | 0x83 => m.htvec
  | 0x84 => m.devnum.setWidth 64
  | _ => m.hevent.setWidth 64
def hyperWritten (m : Mgmt) (n : Nat) (v : Word) : Mgmt :=
  match n with
  | 0x80 => { m with hstatus := v &&& 1 }
  | 0x81 => { m with hcause := v }
  | 0x82 => { m with hepc := v }
  | 0x83 => { m with htvec := v }
  | 0x84 => if m.devnumSet = true then m else { m with devnum := v.setWidth 12, devnumSet := true }
  | _ => { m with hevent := m.hevent &&& ~~~(v.setWidth 4) }

/-- What a write of tbval or tbinfo leaves (R323): the selected entry, which a firing in a handler has set aside, with a new value, dropped, or
returned; its accesses that have not been performed are withdrawn with its state. -/
def editAside (k : Context) (e : Entry) : Context :=
  { k with fir := { k.fir with aside := k.fir.aside.set k.tbsel.toNat e } }

/-! ## Steps of the other agents -/

/-- Only core n changes: it becomes c. -/
def OnlyCore (s t : State) (n : Nat) (c : Core) : Prop := t.coreAt n = c ∧ (∀ m, m ≠ n → t.coreAt m = s.coreAt m) ∧ t = { s with cores := t.cores }
/-- Only partition p's units change: they become q. -/
def OnlyPart (s t : State) (p : Nat) (q : Partition) : Prop := t.partAt p = q ∧ (∀ r, r ≠ p → t.partAt r = s.partAt r) ∧ t = { s with parts := t.parts }

/-- A number with n bytes from byte pos on replaced. -/
def bytesSet (v pos n w : Nat) : Nat := v - v / 2 ^ (8 * pos) % 2 ^ (8 * n) * 2 ^ (8 * pos) + w % 2 ^ (8 * n) * 2 ^ (8 * pos)
/-- The entries of an access numbered `num`, in the buffer and set aside, changed, and the accesses that are left. -/
def given (k : Context) (num : Nat) (l : List Access) (f : Entry → Entry) : Context :=
  let one (e : Entry) : Entry := if e.num = num then f e else e
  { k with rb := k.rb.map one, fir := { k.fir with aside := k.fir.aside.map one }, acc := l }
/-- An access has given n bytes to its entry. -/
def filled (k : Context) (a : Access) (l : List Access) (n w : Nat) : Context :=
  given k a.num l fun e => { e with value := bytesSet e.value a.pos n w, acq := none }
/-- An access has given its entry the whole value. -/
def answered (k : Context) (a : Access) (l : List Access) (v : Nat) : Context := given k a.num l fun e => { e with value := v, acq := none }
/-- The first access of a context with no `fence.rel` outstanding, no release that still holds: nothing of the context comes before it. -/
def First (s : State) (i : CtxId) (a : Access) (l : List Access) : Prop :=
  (s.ctx i).acc = a :: l ∧ (∀ sc, a.rel = some sc → releasedBefore s i a.num sc allMsgs = true) ∧ ∀ b ∈ a :: l, b.kind ≠ .fence
/-- The first access of a context with no `fence.rel` outstanding, that no bank has refused and no message holds (R294). -/
structure Goes (s : State) (i : CtxId) (a : Access) (l : List Access) : Prop where
  first : First s i a l
  kept : a.refused = none
  quiet : (s.ctx i).inj = []
/-- Nothing at the home keeps an access waiting: no empty line a load, no fill-pending one a store, no earlier one at the core's banks, no link
that is down; and it touches no absent window (R113, R114, R117, R352). -/
def Lets (s : State) (i : CtxId) (pa : Nat) (load : Bool) : Prop :=
  firstTouch s i pa = none ∧ match lineOf pa with
    | some (n, l) => (if load then lineEmpty s n l else lineFilling s n l) = false ∧ (s.coreAt n).waits = []
    | none => linkWaits s pa = false
/-- The entry of an access with a fault at its place, unless a lower one has been found (R99, R200), and the accesses that are left. -/
def faulted (k : Context) (a : Access) (l : List Access) (cause : Nat) (tval : Word) : Context :=
  given k a.num l fun e =>
    if e.fault.any fun f => f.1 ≤ a.pos then { e with acq := none }
    else { e with fault := some (a.pos, BitVec.ofNat 8 cause), va := tval, acq := none }
/-- What performing a load of a kind gives: n bytes for a scalar one or a whole block of one element size; the active words for a vector. -/
def loadedWords (s : State) (pa : Nat) (m : BitVec 32) (one : Bool) (v : Nat) : Nat :=
  ((List.range 32).filter fun j => m.getLsbD j).foldl (fun v j => bytesSet v (4 * j) 4 (readMem s (pa + if one then 0 else 4 * j) 4)) v
/-- The new word of an atomic on w bits: the integer operations, by number (R211). -/
def amoWord {w : Nat} (op : Nat) (old x cmp : BitVec w) : BitVec w :=
  match op with
  | 0 => old + x
  | 1 => old &&& x
  | 2 => old ||| x
  | 3 => old ^^^ x
  | 4 => if x.toInt < old.toInt then x else old
  | 5 => if old.toInt < x.toInt then x else old
  | 6 => if x.toNat < old.toNat then x else old
  | 7 => if old.toNat < x.toNat then x else old
  | 8 => x
  | _ => if old = cmp then x else old
/-- r is a sum rounded RNE with no flush, whatever fpctl holds; no flag is recorded (R127). -/
def BankSum (f : FpFmt) (a b r : Nat) : Prop :=
  ∃ fl, Delivers f ⟨.rne, false, false⟩ (total .rne [number f false a, number f false b]) (r, fl)

/-- The state of a message firing at its start (R86). -/
def startOf (s : State) (i : CtxId) (m : Msg) : Firing :=
  let c := s.coreAt i.core
  let k := c.ctx i.x
  let h := handlerOf c (m.hdr.toNat % 32)
  { Firing.reset with
    x := Vector.ofFn fun (r : Fin 32) =>
      if r.val = 2 then k.stklim - 16
      else if r.val = 8 then m.hdr.setWidth 64
      else if r.val = 9 then m.hdr.extractLsb' 64 64
      else if 10 ≤ r.val ∧ r.val ≤ 17 then m.payload.extractLsb' (64 * (r.val - 10)) 64
      else 0
    v := Vector.ofFn fun (r : Fin 28) => if r.val = 27 then m.payload else 0
    pc := BitVec.ofNat 64 (hEntry h), sup := h.getLsbD 5, spm := k.fir.spm, groupStart := isGroupStart m.hdr, cls := m.hdr.toNat % 32
    tag := tagOf i (nextSeq s i)
    group := m.hdr.extractLsb' 48 16, stage := m.hdr.extractLsb' 40 4, launch := m.hdr.extractLsb' 64 32, depth := m.hdr.extractLsb' 44 4
    cap := capOf s c.partition (m.hdr.extractLsb' 64 32 : BitVec 32).toNat }
/-- A context that is at a boundary but for its store-fault records. -/
def AtBoundary (s : State) (i : CtxId) : Prop :=
  let k := s.ctx i
  k.running = true ∧ k.halted = false ∧ k.trapping = none ∧ k.parked = none ∧ k.barrier = none ∧ k.readyAt ≤ s.now ∧
    coreStopped s i.core = false ∧ k.parity = false
/-- A context that can start a firing (R85). -/
def Idle (s : State) (i : CtxId) : Prop :=
  let k := s.ctx i
  k.running = false ∧ k.halted = false ∧ coreStopped s i.core = false ∧ k.fir.range = none
/-- A thief's idle time ends; what a request that is out brings back counts for no later attempt (R94). -/
def stealEnds (s : State) (n : Nat) : State :=
  s.modCore n fun c => { c with steal := { c.steal with
    idleSince := none, tried := 0, roundEnd := none, stale := c.steal.waiting.isSome || c.steal.reply.isSome } }
/-- A context that a choice of the issue slot finds with a park reason, and for reason 0x4 the channel (R89, R245). -/
def parkedFor (s : State) (i : CtxId) (r : Nat) (ch : Option Nat) : State := s.modCtx i fun k => { k with reason := r, chanWait := ch }

/-- A message of this context that goes to one core of this device, has not been refused, and may be delivered (R84, R220, R294). -/
def Deliverable (s : State) (i : CtxId) (j : Inj) (l : List Inj) (dest : Nat) : Prop :=
  (s.ctx i).inj = j :: l ∧ j.device = deviceNum s ∧ j.targets = [dest] ∧ injReady s i 0 j = true
/-- A core that takes messages: its cluster is in no reset, and the message's context is not halted. -/
def Takes (s : State) (n : Nat) (m : Msg) : Prop :=
  (s.clusterAt (clusterOf n)).resetAt = none ∧ (s.ctx ⟨n, hdrCtx m.hdr⟩).halted = false ∧ boundMsg (s.coreAt n) m.hdr = true
/-- The group starts of a group that a context holds, or a core (R95). -/
def startsOf (gid : Nat) (k : Context) : List Msg :=
  (k.runq.filterMap fun e => match e with
    | .msg m => if isGroupStart m.hdr && hdrGroup m.hdr == gid then some m else none
    | _ => none) ++ k.hold.toList.filter fun m => isGroupStart m.hdr && hdrGroup m.hdr == gid
def startsAt (s : State) (gid n : Nat) : List Msg := startsOf gid (s.ctx ⟨n, .n⟩) ++ startsOf gid (s.ctx ⟨n, .u⟩)
/-- A group of cluster w that may go over to cluster cl: no start of it has started, all have arrived, and cl is a cluster of a stage column of
its launch in its partition (R95, R58). -/
def Ships (s : State) (w cl : Nat) (g : Group) : Prop :=
  g.cluster = w ∧ g.started = 0 ∧ g.ended = 0 ∧ ((clusterCores w).map fun m => (startsAt s g.gid m).length).sum = g.size ∧
    ∃ l, s.launchAt g.part g.handle.toNat = some l ∧ clusterIn s g.part cl = true ∧
      stageColumn s g.part (fld l.record 23 20) (cl % 12) = true
/-- A cluster that a donation request of cluster cl could go to (R95): of its partition and die, another one, of a load above 1. -/
def Candidate (s : State) (cl v : Nat) : Prop :=
  v ∈ partClusters s (clusterPart s cl) ∧ dieOfCluster v = dieOfCluster cl ∧ v ≠ cl ∧ 1 < clusterLoad s v
/-- A context hears of a message (R174, R85). -/
def hears (s : State) (k : Context) (first : Prop) [Decidable first] : Context :=
  { k with
    fir := { k.fir with evMsg := true }, yieldSlot := k.yieldSlot.map fun f => { f with evMsg := true }
    readyAt := if k.running = false ∧ first then Nat.max k.readyAt (s.now + 4) else k.readyAt }

/-- A channel of this partition alone: neither a proxy nor the reader's half of a cross-partition one, with a core at each end and no spill. -/
def Plain (c : Chan) : Prop :=
  cV c = true ∧ cProxy c = false ∧ cXp c = false ∧ cRtype c = 0 ∧ c.sp = 0 ∧ c.segs = 0
/-- Multiplicity and ovf bit of a record (R258); a sum kept to ±(2^31 − 1), and whether it saturated (R259, R266). -/
def mult (r : BitVec 512) : Int := (r.extractLsb' 64 32).toInt
def ovf (r : BitVec 512) : Bool := r.getLsbD 113
def clamp31 (v : Int) : Int := if v > 2 ^ 31 - 1 then 2 ^ 31 - 1 else if v < -(2 ^ 31 - 1) then -(2 ^ 31 - 1) else v
def saturates (v : Int) : Bool := decide (v > 2 ^ 31 - 1 ∨ v < -(2 ^ 31 - 1))
/-- A record with another multiplicity and ovf bit. -/
def withMult (r : BitVec 512) (m : Int) (o : Bool) : BitVec 512 := withField (withField r 95 64 (m % 2 ^ 32).toNat) 113 113 (bit o)
/-- Key, length and the first length payload bytes are equal (R258). -/
def matches_ (a b : BitVec 512) : Bool :=
  let n := (a.extractLsb' 96 16).toNat
  a.extractLsb' 0 64 == b.extractLsb' 0 64 && a.extractLsb' 96 16 == b.extractLsb' 96 16 &&
    (List.range n).all fun j => a.toNat / 2 ^ (128 + 8 * j) % 256 == b.toNat / 2 ^ (128 + 8 * j) % 256
/-- An entry of a churn that a record of a queue matches. -/
def Absorbs (e : ChurnEntry) (p ch : Nat) (r : BitVec 512) : Prop := e.part = p ∧ e.ch = ch ∧ matches_ e.record r = true
/-- An entry that a cork drops, and the record that it forwards for any other (R259). -/
def dead (e : ChurnEntry) : Bool := e.sum == 0 && !e.ovf
def forwarded (e : ChurnEntry) : BitVec 512 × Nat := (withMult e.record e.sum e.ovf, e.writer)
/-- A record's key, length and payload with no multiplicity. -/
def fresh (r : BitVec 512) : BitVec 512 :=
  let n := (r.extractLsb' 96 16).toNat
  BitVec.ofNat 512 ((r.extractLsb' 0 64).toNat + n * 2 ^ 96 + r.toNat / 2 ^ 128 % 2 ^ (8 * Nat.min n 48) * 2 ^ 128)
/-- What `ix.look` answers: multiplicity and ovf bit of the matching entry, or 0 (R266). -/
def lookWord (es : List (BitVec 512)) (r : BitVec 512) : Nat :=
  match es.find? fun e => (mult e != 0 || ovf e) && matches_ e r with
  | some e => (mult e % 2 ^ 32).toNat + bit (ovf e) * 2 ^ 33
  | none => 0
/-- The entry of a bucket that an update changes, and whether it was absent (R266): the matching one, or a free one with the record's key, length
and payload. -/
def updated (es : List (BitVec 512)) (r : BitVec 512) : Option (Nat × BitVec 512 × Bool) :=
  let used (e : BitVec 512) : Bool := mult e != 0 || ovf e
  match (List.range 8).find? fun j => (es[j]?).any fun e => used e && matches_ e r with
  | some j => (es[j]?).map fun e => (j, e, false)
  | none => if mult r = 0 then none
    else ((List.range 8).find? fun j => (es[j]?).any fun e => !used e).map fun j => (j, fresh r, true)
/-- The result word of an update (R266). -/
def updateWord (old new : Int) (o absent : Bool) : Nat :=
  (new % 2 ^ 32).toNat + bit (decide ((old = 0) ≠ (new = 0))) * 2 ^ 32 + bit o * 2 ^ 33 + bit absent * 2 ^ 34
/-- The number of live entries that an index descriptor shows (R264). -/
def liveOf (d : BitVec 512) : BitVec 32 := d.extractLsb' 32 32
/-- A record in the form in which the churn keeps it (R259). -/
def entered (p ch : Nat) (r : BitVec 512) (core : Nat) : ChurnEntry := ⟨p, ch, r, (r.extractLsb' 64 32).toInt, false, core⟩
/-- The spill engine reaches n bytes at an address, for reading without an uncorrectable error (R242, R335). -/
def Reaches (s : State) (p va n : Nat) (need : Need) (pa : Nat) : Prop :=
  engineHome s p true va need = .ok pa ∧ (need = .read → poisonedIn s pa n = none)

end Sys2Proof.Spec

open Sys2Proof Sys2Proof.Machine

/-- R154 to R158: every ready integer instruction with an immediate result completes; it writes that result to its destination and changes
nothing else. With its bit w set, and every outstanding result back, it does so once the buffer has landed in program order: x, v and m
registers, lat and flags, but for the results that a later write has superseded (R98, R184).
R99: at that marker, an entry restored by `eret` in state 2 or 4 is performed once more and the context waits with reason 0x1, as it does
while an entry is pending; with neither, the earliest faulted entry traps, with epc the marked instruction's address and fpc the entry's.
R48, R96, R103: an instruction that names a port facing beyond the mesh or the partition traps with cause 0x0E and tval the field; one whose
source port holds no flit, or whose destination's FIFO has no room, waits with reason 0x2. Of several such fields the first one is named
(the model's choice, notes/assumptions/12.md). -/
def Obligations.IntegerResults : Prop :=
  ∀ (s : State) (ins : Instr) (q : Spec.Imm), Spec.scalar ins = some q →
    let c := s.ctx s.slot
    (∀ k0, Begins s ins q.srcs [q.d] 0 k0 →
      let k := k0.counted
      ∃ t, exec ins s = .next t ∧
        Sends s t s.slot (((Spec.popAll k q.srcs).putX q.d (q.val k)).goesOn q.bytes) q.d ⟨false, (q.val k).setWidth 1024⟩) ∧
    (AtMarker s ins 0 →
      ((∃ e ∈ c.rb, e.Again) → ∃ t, exec ins s = .next t ∧ Only s t s.slot (c.again.waits 1)) ∧
      ((∀ e ∈ c.rb, ¬ e.Again) →
        ((∃ e ∈ c.rb, e.state = .pending) → ∃ t, exec ins s = .next t ∧ Only s t s.slot (c.waits 1)) ∧
        ((∀ e ∈ c.rb, e.state ≠ .pending) → c.fir.intrap = false → uncheckedStores c = false →
          ∀ e f, c.rb.find? (fun e => e.state == .faulted) = some e → e.fault = some f →
            ∃ t, exec ins s = .next t ∧ Only s t s.slot (c.enter ⟨c.fir.pc, f.2.setWidth 64, e.va, some e.pc⟩)))) ∧
    (Free s s.slot → c.rb = [] →
      (∀ r, edgePort s s.slot (q.srcs ++ [q.d]) = some r → c.fir.intrap = false → uncheckedStores c = false →
        ∃ t, exec ins s = .next t ∧ Only s t s.slot (c.enter ⟨c.fir.pc, 0x0E, BitVec.ofNat 64 r.val, none⟩)) ∧
      (edgePort s s.slot (q.srcs ++ [q.d]) = none → flitsThere s s.slot q.srcs = false ∨ roomThere s s.slot [q.d] = false →
        ∃ t, exec ins s = .next t ∧ Only s t s.slot (c.waits 2)))

/-- R152, R158: a ready division takes one return-buffer entry that holds its result, with the corners of R158's table; it is outstanding,
and nothing else changes.
R152, R166: a ready `fdiv` or `fsqrt` takes one return-buffer entry that holds its result and its flags, rounded by the mode in force at
issue; it is outstanding, and nothing else changes. -/
def Obligations.QuotientsAreOutstanding : Prop :=
  (∀ (s : State) (ins : Instr) (o : OpsDAB) (f : Word → Word → Word), Spec.division ins = some (o, f) → Ready s ins [o.a, o.b] [] 1 →
     let k := (s.ctx s.slot).counted
     let v := f (k.srcX o.a) ((k.pop o.a).srcX o.b)
     let k2 := (k.pop o.a).pop o.b
     ∃ t, exec ins s = .next t ∧
       Only s t s.slot ((k2.take { k2.entry (k.srcX o.a) (.x o.d) .whole with value := v.toNat, base := v.toNat } []).goesOn 4)) ∧
  ((∀ (s : State) (o : OpsF2R), Ready s (.fdiv o) [o.a, o.b] [] 1 →
     let k := (s.ctx s.slot).counted
     let f := Spec.fmt o.fmt
     let r := fpDiv f (Spec.env k.fpctl f (Spec.orRne o.ext)) (Spec.low f (k.srcX o.a)) (Spec.low f ((k.pop o.a).srcX o.b))
     let k2 := (k.pop o.a).pop o.b
     ∃ t, exec (.fdiv o) s = .next t ∧
       Only s t s.slot ((k2.take { k2.entry (k.srcX o.a) (.x o.d) .whole with value := r.1, base := r.1, flags := r.2 } []).goesOn
         (Spec.extBytes o.ext))) ∧
   (∀ (s : State) (o : OpsF1R), Ready s (.fsqrt o) [o.a] [] 1 →
     let k := (s.ctx s.slot).counted
     let f := Spec.fmt o.fmt
     let r := fpSqrt f (Spec.env k.fpctl f (Spec.orRne o.ext)) (Spec.low f (k.srcX o.a))
     let k2 := k.pop o.a
     ∃ t, exec (.fsqrt o) s = .next t ∧
       Only s t s.slot ((k2.take { k2.entry (k.srcX o.a) (.x o.d) .whole with value := r.1, base := r.1, flags := r.2 } []).goesOn
         (Spec.extBytes o.ext))))

/-- R159: a ready branch completes at its target, four bytes a word from its own address, when its test holds, and behind itself when it does
not.
R160: `jal` links and jumps relative to its own address; `jalr` reads x[a] before it links, and jumps to a target that is a multiple of
4; any other target traps with cause 0x02 and tval the target, and x[d] is not written.
R161: a loop instruction that is at no active end and finds a free level pushes the current one and starts the body; with a zero count it
goes on behind the last instruction of the body and touches no level, or takes the fetch fault of that instruction's word. At an active end,
or with a count and both levels active, it traps with cause 0x0D and tval 0. -/
def Obligations.BranchesJumpsAndLoops : Prop :=
  ((∀ (s : State) (ins : Instr) (o : OpsB) (test : Word → Word → Prop), Spec.branches ins = some (o, test) → Ready s ins [o.a, o.b] [] 0 →
      let k := (s.ctx s.slot).counted
      let k2 := (k.pop o.a).pop o.b
      ∃ t, exec ins s = .next t ∧
        (test (k.srcX o.a) ((k.pop o.a).srcX o.b) → Only s t s.slot (k2.goes (.branch (Spec.wordsOn k.fir.pc o.off.toInt)))) ∧
        (¬ test (k.srcX o.a) ((k.pop o.a).srcX o.b) → Only s t s.slot (k2.goesOn 4))) ∧
   ((∀ (s : State) (o : OpsJ), Ready s (.jal o) [] [o.d] 0 →
      let k := (s.ctx s.slot).counted
      let link := k.fir.pc + 4
      ∃ t, exec (.jal o) s = .next t ∧
        Sends s t s.slot ((k.putX o.d link).goes (.jump (Spec.wordsOn k.fir.pc o.off.toInt))) o.d ⟨false, link.setWidth 1024⟩) ∧
    (∀ (s : State) (o : OpsI), Ready s (.jalr o) [o.a] [o.d] 0 →
      let k := (s.ctx s.slot).counted
      let target := k.srcX o.a + Spec.immOf o.imm
      let link := k.fir.pc + BitVec.ofNat 64 (Spec.immBytes o.imm)
      (target.toNat % 4 = 0 → ∃ t, exec (.jalr o) s = .next t ∧
        Sends s t s.slot (((k.pop o.a).putX o.d link).goes (.jump target)) o.d ⟨false, link.setWidth 1024⟩) ∧
      (target.toNat % 4 ≠ 0 → Spec.Traps s (.jalr o) 0x02 target)))) ∧
  (∀ (s : State) (ins : Instr) (srcs : List (Fin 32)) (count : Context → Nat) (dist : BitVec 13),
     Spec.loops ins = some (srcs, count, dist) → Ready s ins srcs [] 0 →
     let k := (s.ctx s.slot).counted
     let k2 := Spec.popAll k srcs
     let stop := Spec.wordsOn k.fir.pc dist.toNat
     (Spec.atEnd k.fir → Spec.Traps s ins 0x0D 0) ∧
     (¬ Spec.atEnd k.fir → count k ≠ 0 → k.fir.inner.act = true → k.fir.outer.act = true → Spec.Traps s ins 0x0D 0) ∧
     (¬ Spec.atEnd k.fir → count k = 0 → 0x18000 ≤ stop.toNat → Spec.Traps s ins 0x03 stop) ∧
     (¬ Spec.atEnd k.fir → count k = 0 → stop.toNat < 0x18000 → poisonedIn s (scratchPa s.slot.core stop.toNat) 4 ≠ none →
       Spec.Traps s ins 0x0F stop) ∧
     (¬ Spec.atEnd k.fir → count k ≠ 0 → ¬ (k.fir.inner.act = true ∧ k.fir.outer.act = true) →
       ∃ t, exec ins s = .next t ∧
         Only s t s.slot ({ k2 with fir := { k2.fir with
           inner := Spec.level (k.fir.pc + 4) stop (count k - 1)
           outer := if k.fir.inner.act then k.fir.inner else k.fir.outer } }.goesOn 4)) ∧
     (¬ Spec.atEnd k.fir → count k = 0 → stop.toNat < 0x18000 → poisonedIn s (scratchPa s.slot.core stop.toNat) 4 = none →
       ∃ t, exec ins s = .next t ∧
         Only s t s.slot (k2.goes (.next (stop + BitVec.ofNat 64 (4 * wordCount (readMem s (scratchPa s.slot.core stop.toNat) 4)))))))

/-- R171, R321: `trap` completes and then takes its trap, with cause 0x07, epc where execution goes on and tval its code; `bkpt` takes its own
without completing, with cause 0x08, epc its own address and tval 0. Outside a handler the trap enters the handler. Inside one it is a double
fault: it ends the firing faulted with the cause, and posts an event of kind 1 with cause, tval, epc and tag, and one of kind 2 for the
store-fault records that it leaves.
R319, R320: with a store check outstanding, and as long as the fault event queue has no room for the events of a double fault, the trap waits
with reason 0x8 (that a double fault waits under this reason is the model's choice: DESIGN CHOICE, notes/assumptions/39.md). -/
def Obligations.TrapAndBkptEnterTheHandler : Prop :=
  ∀ (s : State) (ins : Instr) (k : Context) (cause tval : Word),
    ((∃ o : OpsTrap, ins = .trap o ∧ k = (s.ctx s.slot).counted.goesOn 4 ∧ cause = 0x07 ∧ tval = o.code.setWidth 64) ∨
      (∃ o : OpsW, ins = .bkpt o ∧ k = (s.ctx s.slot).counted ∧ cause = 0x08 ∧ tval = 0)) →
    Ready s ins [] [] 0 →
    let f := k.fir
    let p := (s.coreAt s.slot.core).partition
    let checked := uncheckedStores (s.ctx s.slot) = false
    let room := (s.partAt p).faultEvents.length + (if k.sfq.length + k.lost = 0 then 1 else 2) ≤ 64
    (checked → f.intrap = false → ∃ t, exec ins s = .next t ∧ Only s t s.slot (k.enter ⟨f.pc, cause, tval, none⟩)) ∧
    (¬ checked ∨ (f.intrap = true ∧ ¬ room) →
      ∃ t, exec ins s = .next t ∧ Only s t s.slot { k with trapping := some ⟨f.pc, cause, tval, none⟩, reason := 0x8 }) ∧
    (checked → f.intrap = true → room → (∀ r, f.range = some r → r.hi.toNat ≤ r.lo.toNat) →
      let s1 := faultEvent (countEnd s p f.launch.toNat f.group.toNat f.groupStart (.faulted (cause.setWidth 8))) p
        (faultRecord 1 cause.toNat tval.toNat f.pc.toNat f.tag.toNat f.group.toNat 0 s.slot.core s.slot.x)
      ∃ t, exec ins s = .next t ∧ Only (Spec.leaves s1 s.slot k (cause.setWidth 8)) t s.slot (Spec.ended k s.now))

/-- R172: `eret` in supervisor mode restores pc, mode, buffer and loop levels; the restored buffer holds the entries set aside but for those
that tbinfo has dropped (R323). R319: for the store-fault records that the handler leaves queued a trap is due at once. -/
def Obligations.EretRestores : Prop :=
  ∀ (s : State) (o : OpsW), Ready s (.eret o) [] [] 0 → (s.fir s.slot).sup = true →
    let k := s.ctx s.slot
    ∃ t, exec (.eret o) s = .next t ∧
      Only s t s.slot { k with
        issued := k.issued + 1, retired := k.retired + 1, reason := 0
        rb := (k.fir.aside.filter fun e => e.state != .dropped).map fun e => { e with again := false }
        sfq := k.sfq.map fun r => { r with held := false }
        skid := if k.sfq = [] then none else some 11
        fir := { k.fir with
          pc := k.epc, sup := k.fir.spm, intrap := false, inner := k.fir.asideInner, outer := k.fir.asideOuter
          aside := [], asideInner := ⟨false, 0, 0, 0⟩, asideOuter := ⟨false, 0, 0, 0⟩ } }

/-- R56, R170, R173, R356: `eret` and `xinv` in user mode, and in either mode `getc` or `setc` of a register that the mode may not access or
of a number that is not assigned, do not have their effect: they trap with cause 0x01 and tval the word. Registers 0x80 to 0x85 exist on
a management core that runs the hypervisor. -/
def Obligations.PrivilegeIsChecked : Prop :=
  ∀ (s : State) (ins : Instr), Free s s.slot → (s.fir s.slot).intrap = false → uncheckedStores (s.ctx s.slot) = false →
    (((s.fir s.slot).sup = false ∧ ((∃ o, ins = .eret o) ∨ (∃ o, ins = .xinv o))) ∨
      (∃ o : OpsGetc, ins = .getc o ∧ Spec.hyper s o.creg.toNat = none ∧
        o.creg.toNat ∉ (if (s.fir s.slot).sup then Spec.supReads else Spec.userReads)) ∨
      (∃ o : OpsSetc, ins = .setc o ∧ Spec.hyper s o.creg.toNat = none ∧
        o.creg.toNat ∉ (if (s.fir s.slot).sup then Spec.supWrites else Spec.userWrites))) →
    ∃ t, exec ins s = .next t ∧
      Only s t s.slot ((s.ctx s.slot).enter ⟨(s.fir s.slot).pc, 0x01, BitVec.ofNat 64 ((encode ins).headD 0), none⟩)

/-- R357, R272, R336, R113: after reset the device is at stage 0x01 of a cold start with no error, every line is full, no context runs, no partition
is in use, and the time-outs of gang barriers and of the watchdog have their reset values. That every byte of memory reads 0 and is sound
already at stage 0x01, before stage 0x06 clears it, is the model's choice (notes/assumptions/6.md). -/
def Obligations.ResetState : Prop :=
  let s := State.reset
  s.pkg.stage = 1 ∧ s.pkg.error = 0 ∧ s.pkg.starting = true ∧ s.cycle = 0 ∧ s.memWf ∧ s.poison = [] ∧ (∀ a, Mem.read a s.mem = 0) ∧
  (∀ i, (s.ctx i).running = false ∧ (s.ctx i).acc = [] ∧ (s.ctx i).rb = [] ∧ (s.ctx i).runq = [] ∧ (s.ctx i).fpctl = 0 ∧ (s.ctx i).retired = 0) ∧
  (∀ n, (s.coreAt n).empty = [] ∧ (s.coreAt n).filling = [] ∧ (s.coreAt n).accowner = 0 ∧ (s.coreAt n).cell = none) ∧
  (∀ p, partState s p = 0 ∧ (s.partAt p).gangtmo = 16384 ∧ (s.partAt p).wdog = 16384 ∧ (s.partAt p).faultEvents = []) ∧
  ∀ p g, (s.rgroupAt p g).state = .free

/-- R40, R41, R88: a step with the issue slot granted runs the instruction that the sound words at the context's pc decode to, in its core's own
scratchpad. That the step after a grant runs it and only uses up the grant is the model's schedule (notes/assumptions/1.md), and a pc that
is no multiple of 4 is fetched from like any other (notes/assumptions/8.md).
R40, R335: the first word of the instruction that lies at or above 0x1_8000, or is poisoned, is a fetch fault of cause 0x03, or 0x0F, with
tval its address. R55, R56: sound words that decode to no instruction trap with cause 0x01 and tval word 0. -/
def Obligations.StepRunsDecoded : Prop :=
  ∀ (s : State) (i : Instr),
    let n := s.slot.core
    let pc := (s.fir s.slot).pc.toNat
    let word (k : Nat) := readMem s (scratchPa n (pc + 4 * k)) 4
    let len := if word 0 % 4 = 0 then 1 else if word 0 % 4 = 3 then 5 else 3
    let there (k : Nat) := pc + 4 * k < 0x18000 ∧ poisonedIn s (scratchPa n (pc + 4 * k)) 4 = none
    let traps (cause : Word) (tval : Nat) := Free s s.slot → (s.fir s.slot).intrap = false → uncheckedStores (s.ctx s.slot) = false →
      ∃ t, step s = .next t ∧
        Only { s with granted := false } t s.slot ((s.ctx s.slot).enter ⟨(s.fir s.slot).pc, cause, BitVec.ofNat 64 tval, none⟩)
    s.granted = true →
    ((∀ k < len, there k) → decode ((List.range len).map word) = .ok i → step s = exec i { s with granted := false }) ∧
    ((∀ k < len, there k) → (∀ j, decode ((List.range len).map word) ≠ .ok j) → traps 0x01 (word 0)) ∧
    (∀ k < len, ¬ there k → (∀ j < k, there j) → traps (if 0x18000 ≤ pc + 4 * k then 0x03 else 0x0F) (pc + 4 * k))

/-- R41: the nine lines that the spec shows assembled, one for each format of word 0, decode to what they say. -/
def Obligations.WordsDecode : Prop :=
  decode [0x01398A08] = .ok (.sub ⟨false, 5, 6, 7⟩) ∧
  decode [0xFFF90628] = .ok (.xori ⟨false, 3, 4, .short 0x1FFF⟩) ∧
  decode [0xFE189290] = .ok (.stD ⟨false, 9, 2, .short 0x3F8, false⟩) ∧
  decode [0xFF405258] = .ok (.bne ⟨false, 5, 0, 0x3FD⟩) ∧
  decode [0x00100260] = .ok (.jal ⟨false, 1, 64⟩) ∧
  decode [0xFFFF8E48] = .ok (.lih ⟨false, 7, 0x3FFFE⟩) ∧
  decode [0x002C3070] = .ok (.loopi ⟨false, 24, 5⟩) ∧
  decode [0x19180800] = .ok (.getc ⟨false, 4, 0x19⟩) ∧
  decode [0x11E89100] = .ok (.vmul ⟨false, .bf16, 8, 2, 29, none⟩)

/-- R37 to R45, R55, R203 and the encoding tables of every family: the words that the encoder writes for a well-formed instruction decode to that
instruction, with every operand. The steps of the other agents have no encoding. -/
def Obligations.EncodeDecode : Prop := ∀ i : Instr, i.wf = true → i.isStep = false → decode (encode i) = .ok i

/-- R291, R105 and the model's canonical form of memory (notes/assumptions/6.md): every step that answers a next state leaves memory with its
addresses strictly rising and no cell that reads as an unlisted one. -/
def Obligations.MemoryStaysCanonical : Prop := ∀ s t : State, s.memWf → step s = .next t → t.memWf

/-- R157. `lih` is the word of major 0x09 with d and imm18; it sets x[d] to imm18, sign-extended, times 16,384, and so reaches every multiple of
16,384 from −2^31 to 2^31 − 16,384; with an `addi` behind it it reaches the values h·16,384 + l with l from −4,096 to 4,095 and no other. -/
def Obligations.LihSetsItsRegister : Prop :=
  (∀ (w : Bool) (d : Reg) (imm : BitVec 18),
    decode [(if w then 4 else 0) + 8 * 0x09 + 512 * d.val + 16384 * imm.toNat] = .ok (.lih ⟨w, d, imm⟩)) ∧
  (∀ (s : State) (o : OpsU), Ready s (.lih o) [] [o.d] 0 →
    let v : Word := o.imm.signExtend 64 <<< 14
    ∃ t, exec (.lih o) s = .next t ∧ Sends s t s.slot (((s.ctx s.slot).counted.putX o.d v).goesOn 4) o.d ⟨false, v.setWidth 1024⟩) ∧
  (∀ m : Int, -(2 ^ 31) ≤ m → m ≤ 2 ^ 31 - 16384 → m % 16384 = 0 → ∃ imm : BitVec 18, (imm.signExtend 64 <<< 14 : Word) = BitVec.ofInt 64 m) ∧
  (∀ v : Word, (∃ (imm : BitVec 18) (l : BitVec 13), imm.signExtend 64 <<< 14 + l.signExtend 64 = v) ↔
    ∃ h l : Int, -(2 ^ 17) ≤ h ∧ h < 2 ^ 17 ∧ -4096 ≤ l ∧ l ≤ 4095 ∧ v = BitVec.ofInt 64 (h * 16384 + l))

/-- R179. Reading position gives the device number, the partition, the die, the core's number, its row and its column, each in its bits, and 0
above them; core (17,53) of partition 2 on device 9 reads 0x0000_0009_2940_2D51; a `setc` of it leaves it as it was. -/
def Obligations.PositionNamesTheCore : Prop :=
  (∀ (s : State) (o : OpsGetc), o.creg = 0x06 → Ready s (.getc o) [] [o.d] 0 →
    let n := s.slot.core
    n < 4608 → (s.coreAt n).partition < 16 →
    ∃ t w, exec (.getc o) s = .next t ∧ Sends s t s.slot (((s.ctx s.slot).counted.putX o.d w).goesOn 4) o.d ⟨false, w.setWidth 1024⟩ ∧
      w.extractLsb' 44 20 = 0 ∧ w.extractLsb' 32 12 = s.pkg.mgmt[0].devnum ∧ (w.extractLsb' 28 4).toNat = (s.coreAt n).partition ∧
      (w.extractLsb' 26 2).toNat = n / 48 / 24 ∧ (w.extractLsb' 13 13).toNat = n ∧ (w.extractLsb' 6 7).toNat = n / 48 ∧
      (w.extractLsb' 0 6).toNat = n % 48 ∧
      (n = 53 * 48 + 17 → (s.coreAt n).partition = 2 → s.pkg.mgmt[0].devnum = 9 → w = 0x0000000929402D51)) ∧
  (∀ (s : State) (o : OpsSetc), o.creg = 0x06 → Free s s.slot → (s.fir s.slot).intrap = false → uncheckedStores (s.ctx s.slot) = false →
    ∃ t, exec (.setc o) s = .next t ∧ t.slot = s.slot ∧ Spec.register t (t.ctx t.slot) 0x06 = Spec.register s (s.ctx s.slot) 0x06)

/-- R139, R165 to R169: every ready scalar floating instruction with an immediate result completes; it writes that result to its
destination with the bits above the format clear, ORs its flags into fpctl, takes its operand into peak where pk is set, and changes
nothing else. R140 to R142: of any two patterns of FP32, BF16 or FP16 the sum, difference, product, quotient, root, fused forms and
conversions that it and the vector instructions use are the exact real value rounded once by the mode, with the overflow table, nx when
inexact, uf and the result flush when tiny, nv and the default NaN for signalling and invalid operands, dz for a division by zero, and
saturation to an integer (saturation is judged on the rounded value). R167: minima, maxima, comparisons, class records and sign replacements. R148, R149: the seeds are the
table entries that the rules define, rounded. R146: peak takes the largest magnitude as FP32 bits, or the NaN bit. -/
def Obligations.FloatingResults : Prop :=
  (∀ (s : State) (ins : Instr) (q : Spec.Fp Word), Spec.floating ins = some q → Ready s ins q.srcs [q.d] 0 →
    let k := (s.ctx s.slot).counted
    let r := q.val k
    let k2 := Spec.peaks (Spec.popAll k q.srcs) (q.peak k)
    ∃ t, exec ins s = .next t ∧ Sends s t s.slot (((k2.putX q.d r.1).flag r.2).goesOn q.bytes) q.d ⟨false, r.1.setWidth 1024⟩) ∧
  (∀ (f : FpFmt) (e : FpEnv) (a b c : Nat) (np nz : Bool), f ∈ [fp32, fpBf16, fp16] →
    let x := Spec.number f e.daz a
    let y := Spec.number f e.daz b
    let z := Spec.number f e.daz c
    let p := x.times y
    Spec.Delivers f e (Spec.total e.rm [x, y]) (fpAdd f e a b) ∧
    Spec.Delivers f e (Spec.total e.rm [x, y.neg]) (fpSub f e a b) ∧
    Spec.Delivers f e p (fpMul f e a b) ∧
    Spec.Delivers f e (Spec.total e.rm [if np then p.neg else p, if nz then z.neg else z]) (fpFma f e np nz a b c) ∧
    (∃ fl, Spec.Delivers f e (x.quotient y).1 ((fpDiv f e a b).1, fl) ∧ (fpDiv f e a b).2 = fl ||| if (x.quotient y).2 then 0b01000 else 0) ∧
    (match x with
     | .fin n v => if v < 0 then fpSqrt f e a = (Spec.quietNan f, 0b10000) else Spec.Delivered f e.rm e.ftz (n && v == 0) (Real.sqrt v) (fpSqrt f e a)
     | .inf n => fpSqrt f e a = if n then (Spec.quietNan f, 0b10000) else (Spec.infinity f, 0)
     | .nan sig => fpSqrt f e a = (Spec.quietNan f, if sig then 0b10000 else 0)) ∧
    Spec.RootSeed f e.ftz x (fpRsqe f e a) ∧ Spec.QuotientSeed f e.ftz x (fpRcpe f e a)) ∧
  (∀ (f g : FpFmt) (e : FpEnv) (a b : Nat) (z mx : Bool) (w : Nat), f ∈ [fp32, fpBf16, fp16] → g ∈ [fp32, fpBf16, fp16] → w ∈ [8, 16, 32, 64] →
    let x := Spec.number f z a
    let y := Spec.number f z b
    let nan := x.isNan || y.isNan
    fpClass f z (a % 2 ^ (f.mb + f.eb + 1)) = Spec.classRecord f z (a % 2 ^ (f.mb + f.eb + 1)) ∧
    fpSgnj f z mx a b = Spec.resigned f z a (Spec.signBit f b != mx) ∧
    Spec.Delivers g e x (fpConvert f g z e a) ∧ Spec.Integral w e.rm x (fpToInt w e.rm (operand f z a)) ∧
    fpMinMax f z mx a b = (Spec.chosen f z mx a b, Spec.signalling [x, y]) ∧
    fpCmp f z 0 a b = (!nan && x.same y, Spec.signalling [x, y]) ∧
    fpCmp f z 1 a b = (!nan && x.below y, if nan then 0b10000 else 0) ∧
    fpCmp f z 2 a b = (!nan && (x.below y || x.same y), if nan then 0b10000 else 0)) ∧
  (∀ (f : FpFmt) (e : FpEnv) (i : Int), f ∈ [fp32, fpBf16, fp16] → i.natAbs < 2 ^ 64 → Spec.Delivers f e (Spec.whole i) (intToFp f e i)) ∧
  (∀ (peak : Word) (c : BitVec 13) (sf : CFmt) (a : Nat), sf ∈ [.f32, .bf16, .f16, .i8, .i16, .i32] →
    let r := peakOf peak (convVal c sf a)
    let kept := peak.extractLsb' 31 33
    match Spec.source c sf a with
    | .nan _ => r = peak ||| 0x8000000000000000
    | .inf _ => r.extractLsb' 31 33 = kept ∧ (r.extractLsb' 0 31).toNat = Nat.max (peak.extractLsb' 0 31).toNat 0x7F800000
    | .fin _ v => ∃ m, Spec.Delivers fp32 ⟨.rne, false, false⟩ (.fin false |v|) m ∧ r.extractLsb' 31 33 = kept ∧
        (r.extractLsb' 0 31).toNat = Nat.max (peak.extractLsb' 0 31).toNat m.1)

/-- R180 to R185, R195: every ready vector instruction with an immediate vector result completes; it writes that result to its destination and
to lat, ORs flags into fpctl (those of the active lanes; of a reduction or vscan those of all its additions), takes its elements into peak
where pk is set, and changes nothing else. That vscan applies its additions on inactive lanes too is the model's reading (DEDUCED, notes/assumptions/32.md).
R144, R150, R187, R190, R194: sums are the tree's or in lane order, and extremes and powers of two, absolute values, negations and conversions
are as the rules say. R138: an element quantises to the code that the mode chooses among the codes nearest to its quotient by the block scale, ties, saturation
and flags as the rule says; of −16 the code in TS8 is the canonical one (DEDUCED, notes/assumptions/37.md). R137: a dequantised element is exact
and raises no flag. R143: a column of a weight-stationary pulse is the exact sum of its partial sum and its products, rounded once. -/
def Obligations.VectorResults : Prop :=
  (∀ (s : State) (ins : Instr) (q : Spec.Fp Vec), Spec.vector ins = some q → Ready s ins q.srcs [q.d] 0 →
    let k := (s.ctx s.slot).counted
    let r := q.val k
    let k2 := Spec.peaks (Spec.popAll k q.srcs) (q.peak k)
    ∃ t, exec ins s = .next t ∧ Sends s t s.slot (((k2.putV q.d r.1).flag r.2).goesOn q.bytes) q.d ⟨true, r.1⟩) ∧
  (∀ (c : BitVec 13) (sf df : CFmt) (rm : RM) (sc a : Nat), sf ∈ [.f32, .bf16] → df ∈ [.i4, .e2m1, .ts8] → sc < 256 →
    Spec.Quantises df sc rm (Spec.source c sf a) (quant df sc rm (convVal c sf a))) ∧
  (∀ (f : FpFmt) (e : FpEnv) (a : Nat), f ∈ [fp32, fpBf16] →
    Spec.PowerOfTwo f e.ftz (Spec.number f e.daz a) (fpExp2 f e a) ∧
    fpAbsNeg f e.daz false a = Spec.resigned f e.daz a false ∧ fpAbsNeg f e.daz true a = Spec.resigned f e.daz a (!Spec.signBit f a)) ∧
  (∀ (c : BitVec 13) (sf df : CFmt) (rm : RM) (a : Nat), vcvtPair sf df = true → a < 2 ^ cfmtWidth sf →
    Spec.Converts c sf df rm a (convElem c sf df rm a)) ∧
  (∀ (g : FpFmt) (sf : CFmt) (c sc : Nat), g ∈ [fp32, fpBf16] → sf ∈ [.i4, .e2m1, .ts8] → c < Spec.codes sf → sc < 256 →
    let r := roundVal g ⟨.rne, false, false⟩ (dequant sf c sc)
    Spec.Delivers g ⟨.rne, false, false⟩ (Spec.dequantised sf c sc) r ∧ r.2 = 0) ∧
  (∀ (cfmt block j : Nat) (act : List Nat) (pin : Vec), cfmt < 4 → j < 32 →
    ∃ fl, Spec.Delivers fp32 ⟨.rne, false, false⟩
      (Spec.total .rne (Spec.number fp32 false (laneN 32 pin j) ::
        act.zipIdx.map fun q => (Spec.number fpBf16 false q.1).times (Spec.weight cfmt block q.2 j)))
      (laneN 32 (wsPulse cfmt block act pin) j, fl))

/-- R183, R187, R189, R198, R203: every ready instruction with a mask result completes; it writes the mask, ORs its flags into fpctl, and
changes nothing else; `vanc` sets the bits of the nodes from x[b] up, and raises nv for a node without a lower parent that is no root,
as for a node number above 63, which leaves no bit.
R198: `mpopc`, `mfirst` and `mget` give the number of set bits, the lowest set bit or 64, and the mask.
R197: `vext` gives lane x[b] of its source, an integer one sign-extended; 0 beyond the last lane; of an inactive lane 0 with mz set or
to a port, and otherwise the register keeps its value. -/
def Obligations.MasksAndLanesAreRead : Prop :=
  ((∀ (s : State) (ins : Instr) (m : MReg) (q : Spec.Fp Word), Spec.masks ins = some (m, q) → Ready s ins q.srcs [] 0 →
      let k := (s.ctx s.slot).counted
      ∃ t, exec ins s = .next t ∧ Only s t s.slot ((((Spec.popAll k q.srcs).putM m (q.val k).1).flag (q.val k).2).goesOn q.bytes)) ∧
   (∀ (s : State) (o : OpsVanc), Ready s (.vanc o) [o.a, o.b] [] 0 →
      let k := (s.ctx s.slot).counted
      let k2 := (k.pop o.a).pop o.b
      let y := ((k.pop o.a).srcX o.b).toNat
      let on := Spec.OnPath (k.srcV o.a) y
      let bad (j : Nat) : Prop := (j : Int) ≤ Spec.sg 8 (laneN 8 (k.srcV o.a) j)
      ∃ t m fl, exec (.vanc o) s = .next t ∧ Only s t s.slot (((k2.putM o.d m).flag fl).goesOn 4) ∧ (fl = 0 ∨ fl = 0b10000) ∧
        (64 ≤ y → m = 0 ∧ fl = 0b10000) ∧
        (y < 64 → (∀ j < 64, m.getLsbD j = true ↔ on j) ∧ (fl = 0b10000 ↔ ∃ j, on j ∧ bad j))) ∧
   (∀ (s : State) (ins : Instr) (q : Spec.Imm), Spec.maskReads ins = some q → Ready s ins [] [q.d] 0 →
      let k := (s.ctx s.slot).counted
      ∃ t, exec ins s = .next t ∧ Sends s t s.slot ((k.putX q.d (q.val k)).goesOn q.bytes) q.d ⟨false, (q.val k).setWidth 1024⟩)) ∧
  (∀ (s : State) (o : OpsV2), Ready s (.vext o) [o.a, o.b] [o.d] 0 →
     let k := (s.ctx s.slot).counted
     let k2 := (k.pop o.a).pop o.b
     let w := vLane o.fmt
     let y := ((k.pop o.a).srcX o.b).toNat
     let x := laneN w (k.srcV o.a) y
     let v : Word := if 1024 / w ≤ y then 0
       else if laneActive k.fir (mextMask o.ext) w y then
         (if o.fmt = .f32 ∨ o.fmt = .bf16 then BitVec.ofNat 64 x else BitVec.ofInt 64 (Spec.sg w x))
       else 0
     let keeps := y < 1024 / w ∧ laneActive k.fir (mextMask o.ext) w y = false ∧ mextZero o.ext = false ∧ portDir o.d = none
     ∃ t, exec (.vext o) s = .next t ∧
       (keeps → Only s t s.slot (k2.goesOn (Spec.extBytes o.ext))) ∧
       (¬ keeps → Sends s t s.slot ((k2.putX o.d v).goesOn (Spec.extBytes o.ext)) o.d ⟨false, v.setWidth 1024⟩))

/-- R97, R206, R207: a ready, aligned load within its stack bounds takes one return-buffer entry with one read of its bytes; `ld.acq` marks
it as an acquire at its scope. Nothing else changes. At a marker, or with no entry left free, it does so once the buffer has landed (R98);
until every result is back it waits with reason 0x1, and entries that `eret` has restored in state 2 or 4 are performed once more; a faulted
entry traps instead (R99). -/
def Obligations.LoadsAreOutstanding : Prop :=
  ∀ (s : State) (ins : Instr) (q : Spec.Load), Spec.loads ins = some q →
    let c := s.ctx s.slot
    (∀ k0, Begins s ins [q.a] [] 1 k0 →
      let k := k0.counted
      let va := k.srcX q.a + q.off
      let k2 := k.pop q.a
      Spec.Allowed k q.a va q.size →
      ∃ t, exec ins s = .next t ∧
        Only s t s.slot ((k2.take { k2.entry va (.x q.d) q.ext with acq := q.acq }
          [k2.access (requester s s.slot) va (.load q.size) none]).goesOn q.bytes)) ∧
    (AtMarker s ins 1 →
      ((∃ e ∈ c.rb, e.Again) → ∃ t, exec ins s = .next t ∧ Only s t s.slot (c.again.waits 1)) ∧
      ((∀ e ∈ c.rb, ¬ e.Again) → (∃ e ∈ c.rb, e.state = .pending) → ∃ t, exec ins s = .next t ∧ Only s t s.slot (c.waits 1)) ∧
      ((∀ e ∈ c.rb, ¬ e.Again ∧ e.state ≠ .pending) → c.fir.intrap = false → uncheckedStores c = false →
        ∀ e f, c.rb.find? (fun e => e.state == .faulted) = some e → e.fault = some f →
          ∃ t, exec ins s = .next t ∧ Only s t s.slot (c.enter ⟨c.fir.pc, f.2.setWidth 64, e.va, some e.pc⟩)))

/-- R208, R209: a ready, aligned store within its stack bounds posts one write of the data it has read, a release at its scope where it is
one, and completes; no byte of memory has changed yet and nothing else has. -/
def Obligations.StoresArePosted : Prop :=
  ∀ (s : State) (ins : Instr) (q : Spec.Store), Spec.stores ins = some q → Ready s ins [q.a, q.d] [] 0 →
    let k := (s.ctx s.slot).counted
    let va := k.srcX q.a + q.off
    let k2 := (k.pop q.a).pop q.d
    Spec.Allowed k q.a va q.size →
    ∃ t, exec ins s = .next t ∧
      Only s t s.slot ((k2.post [k2.access (requester s s.slot) va (.store q.func ((k.pop q.a).srcX q.d)) q.rel]).goesOn q.bytes)

/-- R210 to R212: a ready, aligned atomic within its stack bounds takes one entry with one atomic access of the operand x[b] and the
expected value x[d]. -/
def Obligations.AtomicsAreOutstanding : Prop :=
  ∀ (s : State) (ins : Instr) (q : Spec.Amo), Spec.atomics ins = some q → Ready s ins [q.a, q.b, q.d] [] 1 →
    let k := (s.ctx s.slot).counted
    let va := k.srcX q.a
    let k2 := ((k.pop q.a).pop q.b).pop q.d
    Spec.Allowed k q.a va (if q.dbl then 8 else 4) →
    ∃ t, exec ins s = .next t ∧
      Only s t s.slot ((k2.take (k2.entry va (.x q.d) q.ext) [k2.access (requester s s.slot) va
        (.atomic q.op q.dbl ((k.pop q.a).srcX q.b) (((k.pop q.a).pop q.b).srcX q.d)) none]).goesOn 4)

/-- R101, R206, R208, R212: a ready scalar memory instruction outside a handler, with no store check outstanding, traps with cause 0x02 when
its address is not a multiple of its size, and with cause 0x06 when only the stack check fails; tval is the address, and no effect of its
own happens.
R174, R215, R217, R231, R289: so do, with tval the operand, `fe.clr`, `fe.set`, `fe.test`, `fe.peek` and `park` of an address outside the own
scratchpad (cause 0x03), `copy`, `copy.st` and `launch` of an address that is no multiple of 64 (0x02), `fe.peek` of one that is no multiple
of 8 (0x02), and the hamper instructions of one that is misaligned (0x02) or outside the hamper or the scratchpad (0x03). -/
def Obligations.MemoryAccessesTrap : Prop :=
  (∀ (s : State) (ins : Instr) (srcs : List (Fin 32)) (a : Reg) (va : Word) (size n : Nat),
    Spec.accesses (s.ctx s.slot) ins = some (srcs, a, va, size, n) → Ready s ins srcs [] n → ¬ Spec.Allowed (s.ctx s.slot) a va size →
    Spec.Traps s ins (if va.toNat % size = 0 then 0x06 else 0x02) va) ∧
  (∀ (s : State) (ins : Instr) (srcs dests : List (Fin 32)) (n : Nat) (cause tval : Word),
    Spec.operands (s.ctx s.slot) ins = some (srcs, dests, n, some (cause, tval)) → Ready s ins srcs dests n → Spec.Traps s ins cause tval)

/-- R170, R213, R214: `nop` and, with every store checked, `drain` only complete. A fence behind which nothing is pending only completes; a
release fence with something pending takes a place in program order that holds what follows it.
`fence.acq` completes with stores, kicks and requests outstanding: it waits for no other access than loads and atomics.
R213, R214: with an access of its own outstanding whose home is unknown or within the scope, `fence.acq` waits for a load or an atomic, and
`fence.full` for any access of memory, for a record and for a message; `drain` waits for a store check. A waiting instruction changes only
the park reason. -/
def Obligations.FencesAndDrainsOrder : Prop :=
  (∀ (s : State),
     let k := (s.ctx s.slot).counted
     (∀ o, Ready s (.nop o) [] [] 0 → ∃ t, exec (.nop o) s = .next t ∧ Only s t s.slot (k.goesOn 4)) ∧
     (∀ o, Ready s (.drain o) [] [] 0 → uncheckedStores (s.ctx s.slot) = false →
       ∃ t, exec (.drain o) s = .next t ∧ Only s t s.slot (k.goesOn 4)) ∧
     (∀ o, Ready s (.fence o) [] [] 0 → k.acc = [] → k.inj = [] →
       ∃ t, exec (.fence o) s = .next t ∧ Only s t s.slot (k.goesOn 4)) ∧
     (∀ o : OpsFence, o.kind = .acq → Ready s (.fence o) [] [] 0 → (∀ a ∈ k.acc, a.kind.isRead = false) →
       ∃ t, exec (.fence o) s = .next t ∧ Only s t s.slot (k.goesOn 4)) ∧
     (∀ o : OpsFence, o.kind = .rel → Ready s (.fence o) [] [] 0 → ¬ (k.acc = [] ∧ k.inj = []) →
       ∃ t, exec (.fence o) s = .next t ∧
         Only s t s.slot ((k.post [k.access (requester s s.slot) 0 .fence (some o.scope)]).goesOn 4))) ∧
  (∀ (s : State) (a : Access),
     let k := s.ctx s.slot
     (∀ o : OpsFence, Ready s (.fence o) [] [] 0 →
       ((a ∈ k.acc ∧ a.kind.isMemory = true ∧ (accHome s a = none ∨ accInScope s o.scope s.slot a = true) ∧
           (o.kind = .full ∨ (o.kind = .acq ∧ a.kind.isRead = true))) ∨
         (o.kind = .full ∧ ((a ∈ k.acc ∧ a.kind.isRecord = true ∧ recordInScope s o.scope s.slot a = true) ∨
           ∃ m ∈ k.inj, messageInScope s o.scope s.slot m = true))) →
       ∃ t r, exec (.fence o) s = .next t ∧ (r = 0x1 ∨ r = 0x3) ∧ Only s t s.slot (k.waits r)) ∧
     (∀ o, Ready s (.drain o) [] [] 0 → uncheckedStores k = true →
       ∃ t, exec (.drain o) s = .next t ∧ Only s t s.slot (k.waits 0x3)))

/-- R215: `fe.clr` and `fe.set` of n lines of the core's own scratchpad empty or fill exactly those lines; a context of the core that is
parked on one of them hears of it (R174), loads that waited for a filled one may go (R113), and nothing else changes.
R215: `fe.test` gives the full bit in bit 0 and the fill-pending bit in bit 1; `fe.peek` of an aligned own-scratchpad address is an
outstanding read that waits for no full bit. -/
def Obligations.LineBitsAreUsed : Prop :=
  (∀ (s : State) (o : OpsFe),
     let k := (s.ctx s.slot).counted
     let v := k.srcX o.a
     let n := o.n1.toNat + 1
     let c := s.slot.core
     let own (l : Nat) : Prop := v.toNat / 128 ≤ l ∧ l < v.toNat / 128 + n
     Spec.Lines v n →
     (Ready s (.feClr o) [o.a] [] 0 → ∃ t, exec (.feClr o) s = .next t ∧
       Only (eachLine setEmpty s c v n) t s.slot ((k.pop o.a).goesOn 4) ∧
       (∀ m l, lineEmpty t m l = true ↔ (m = c ∧ own l) ∨ lineEmpty s m l = true) ∧ (∀ m l, lineFilling t m l = lineFilling s m l)) ∧
     (Ready s (.feSet o) [o.a] [] 0 → ∃ t, exec (.feSet o) s = .next t ∧
       Only (eachLine setFull s c v n) t s.slot ((k.pop o.a).goesOn 4) ∧
       (∀ m l, lineEmpty t m l = true ↔ ¬ (m = c ∧ own l) ∧ lineEmpty s m l = true) ∧ (∀ m l, lineFilling t m l = lineFilling s m l))) ∧
  (∀ (s : State) (o : OpsDA),
     let k := (s.ctx s.slot).counted
     let va := k.srcX o.a
     let k2 := k.pop o.a
     let v : Word := BitVec.ofNat 64 ((if lineEmpty s s.slot.core (va.toNat / 128) then 0 else 1)
       + if lineFilling s s.slot.core (va.toNat / 128) then 2 else 0)
     (Ready s (.feTest o) [o.a] [o.d] 0 → Spec.Lines va 1 →
       ∃ t, exec (.feTest o) s = .next t ∧ Sends s t s.slot ((k2.putX o.d v).goesOn 4) o.d ⟨false, v.setWidth 1024⟩) ∧
     (Ready s (.fePeek o) [o.a] [] 1 → va.toNat % 8 = 0 → va.toNat < 0x18000 →
       ∃ t, exec (.fePeek o) s = .next t ∧
         Only s t s.slot ((k2.take (k2.entry va (.x o.d) .whole) [k2.access (requester s s.slot) va .peek none]).goesOn 4)))

/-- R216: `win.set` writes the entry, valid and absent, with code 0; an image that breaks a condition gives code 1, and an entry that is
filling or faulted code 2, and neither changes the entry. `win.drop` frees an entry at once unless a fill is to end first; `win.touch` of a
valid absent entry starts its fill and of any other does nothing; `win.state` gives the valid bit and the state. That code 1 comes before
code 2 whatever the entry's state is the model's reading (DEDUCED, notes/assumptions/20.md). -/
def Obligations.WindowsAreManaged : Prop :=
  ∀ (s : State),
    let k := (s.ctx s.slot).counted
    let core := s.slot.core
    let win (e : Fin 8) := winAt (s.coreAt core) e.val
    let busy (e : Fin 8) : Prop := wState (win e) = 1 ∨ wState (win e) = 3
    (∀ o : OpsWinSet, Ready s (.winSet o) [] [o.d] 0 →
      let img : Window := ⟨windowImage (regsNat k.fir o.a 4), false, none⟩
      let ok := winOk (s.coreAt core) o.e.val img = true
      (ok → ¬ busy o.e → ∃ t, exec (.winSet o) s = .next t ∧
        Sends (setWin s core o.e.val img) t s.slot ((k.putX o.d 0).goesOn 4) o.d ⟨false, 0⟩) ∧
      (¬ ok → ∃ t, exec (.winSet o) s = .next t ∧ Sends s t s.slot ((k.putX o.d 1).goesOn 4) o.d ⟨false, 1⟩) ∧
      (ok → busy o.e → ∃ t, exec (.winSet o) s = .next t ∧ Sends s t s.slot ((k.putX o.d 2).goesOn 4) o.d ⟨false, 2⟩)) ∧
    (∀ o : OpsWin, Ready s (.winDrop o) [] [] 0 →
      (busy o.e → ∃ t, exec (.winDrop o) s = .next t ∧ Only (setWin s core o.e.val { win o.e with drop := true }) t s.slot (k.goesOn 4)) ∧
      (¬ busy o.e → ∃ t, exec (.winDrop o) s = .next t ∧ Only (setWinState s core o.e.val 0) t s.slot (k.goesOn 4))) ∧
    (∀ o : OpsWin, Ready s (.winTouch o) [] [] 0 →
      (wV (win o.e) = true → wState (win o.e) = 0 → ∃ t, exec (.winTouch o) s = .next t ∧
        Only (touchWindow s core o.e.val (requester s s.slot) k.num) t s.slot (k.goesOn 4)) ∧
      (¬ (wV (win o.e) = true ∧ wState (win o.e) = 0) → ∃ t, exec (.winTouch o) s = .next t ∧ Only s t s.slot (k.goesOn 4))) ∧
    (∀ o : OpsWinState, Ready s (.winState o) [] [o.d] 0 →
      let v : Word := BitVec.ofNat 64 (wState (win o.e) + if wV (win o.e) then 4 else 0)
      ∃ t, exec (.winState o) s = .next t ∧ Sends s t s.slot ((k.putX o.d v).goesOn 4) o.d ⟨false, v.setWidth 1024⟩)

/-- R217, R231 to R234: `copy` posts a kick, a release at package scope; `copy.st` takes an entry with the same kick; `launch` takes an entry
that reads the eight doublewords of its record and then acts, a release at package scope; `join` and `lnstat` take an entry with their
request.
R233, R366: `replay` takes an entry with its request: the graph address in x[a] and the patch, n doublewords at the address in the register
after it, which the scheduler reads; a release at package scope. That the patch is read by bytes, whatever the address, is the model's
reading (DEDUCED, notes/assumptions/27.md). -/
def Obligations.WorkRequestsAreIssued : Prop :=
  (∀ (s : State),
     let k := (s.ctx s.slot).counted
     let who := requester s s.slot
     (∀ o : OpsA, Ready s (.copy o) [o.a] [] 0 → (k.srcX o.a).toNat % 64 = 0 →
       ∃ t, exec (.copy o) s = .next t ∧
         Only s t s.slot (((k.pop o.a).post [(k.pop o.a).access who (k.srcX o.a) .kick (some .package)]).goesOn 4)) ∧
     (∀ o : OpsDA, Ready s (.copySt o) [o.a] [] 1 → (k.srcX o.a).toNat % 64 = 0 →
       let k2 := k.pop o.a
       ∃ t, exec (.copySt o) s = .next t ∧
         Only s t s.slot ((k2.take (k2.entry (k.srcX o.a) (.x o.d) .whole)
           [{ k2.access who (k.srcX o.a) .kick (some .package) with pos := 1 }]).goesOn 4)) ∧
     (∀ o : OpsLaunch, Ready s (.launch o) [o.a] [] 1 → (k.srcX o.a).toNat % 64 = 0 →
       let k2 := k.pop o.a
       let va := k.srcX o.a
       ∃ t, exec (.launch o) s = .next t ∧
         Only s t s.slot ((k2.take (k2.entry va (.x o.d) .whole)
           ((List.range 8).map (fun j => { k2.access who (va + BitVec.ofNat 64 (8 * j)) (.load 8) none with pos := 8 * j })
             ++ [k2.access who va (.launchDo o.notify none) (some .package)])).goesOn 4)) ∧
     (∀ o : OpsD, Ready s (.join o) [] [] 1 →
       ∃ t, exec (.join o) s = .next t ∧ Only s t s.slot ((k.take (k.entry 0 (.x o.d) .whole) [k.access who 0 .join none]).goesOn 4)) ∧
     (∀ o : OpsLnstat, Ready s (.lnstat o) [o.a] [] 1 →
       let k2 := k.pop o.a
       ∃ t, exec (.lnstat o) s = .next t ∧
         Only s t s.slot ((k2.take (k2.entry (k.srcX o.a) (.x o.d) .whole)
           [k2.access who (k.srcX o.a) (.lnstat o.sel1 (k.srcX o.a)) none]).goesOn 4))) ∧
  (∀ (s : State) (o : OpsReplay), Ready s (.replay o) [] [] 1 →
     let k := (s.ctx s.slot).counted
     let who := requester s s.slot
     let g := k.fir.readX o.a
     let at_ := k.fir.readX (regPlus o.a 1)
     let n := o.n.toNat
     ∃ t, exec (.replay o) s = .next t ∧
       Only s t s.slot ((k.take (k.entry g (.x o.d) .whole) [k.access who g (.replayDo (8 * n) at_ g) (some .package)]).goesOn 4))

/-- R83, R218, R219: with a free injection slot and a destination that the firing may reach, a ready `send` or `sendv` posts its message
there: header from the firing, payload from the registers; to another device it is a release of system scope. Nothing else changes. That
a core of another device is reached when the sender's own partition grants it is read from R353 and R219 (DEDUCED, notes/assumptions/11.md).
R8, R218: a destination outside the mesh or the partition, or on a device that the partition does not reach, traps with cause 0x0E and tval
the offset, or the operand.
R219: with all eight injection slots taken, a ready `send`, `sendv` or `mcast` whose own check passes waits with reason 0x2. -/
def Obligations.MessagesAreInjected : Prop :=
  (∀ (s : State) (dev n : Nat),
     let k := (s.ctx s.slot).counted
     k.inj.length < 8 → s.slot.core < 4608 →
     (∀ o : OpsSend, Ready s (.send o) [o.b] [] 0 → Spec.Destination s s.slot.core o.b (k.srcX o.b) o.dx o.dy dev n →
       let m : Msg := ⟨Spec.headerOf s k.fir s.slot.core o.bytes.toNat o.ctx o.cls.val, Spec.bytesOf k.fir o.a o.bytes.toNat⟩
       ∃ t, exec (.send o) s = .next t ∧
         Only s t s.slot ((Spec.inject (k.pop o.b) s dev [n] none (BitVec.ofNat 64 (dev * 2 ^ 13 + n)) m).goesOn 12)) ∧
     (∀ o : OpsSendv, Ready s (.sendv o) [o.a, o.b] [] 0 → Spec.Destination s s.slot.core o.b ((k.pop o.a).srcX o.b) o.dx o.dy dev n →
       let m : Msg := ⟨Spec.headerOf s k.fir s.slot.core 128 o.ctx o.cls.val, k.srcV o.a⟩
       ∃ t, exec (.sendv o) s = .next t ∧
         Only s t s.slot ((Spec.inject ((k.pop o.a).pop o.b) s dev [n] none (BitVec.ofNat 64 (dev * 2 ^ 13 + n)) m).goesOn 12))) ∧
  (∀ (s : State),
     let k := s.ctx s.slot
     s.slot.core < 4608 →
     (∀ o : OpsSend, Ready s (.send o) [o.b] [] 0 →
       (∀ dev n, ¬ Spec.Destination s s.slot.core o.b (k.srcX o.b) o.dx o.dy dev n) →
       Spec.Traps s (.send o) 0x0E (if o.b.val = 0 then (o.dy ++ o.dx).signExtend 64 else k.srcX o.b)) ∧
     (∀ o : OpsSendv, Ready s (.sendv o) [o.a, o.b] [] 0 →
       (∀ dev n, ¬ Spec.Destination s s.slot.core o.b ((k.pop o.a).srcX o.b) o.dx o.dy dev n) →
       Spec.Traps s (.sendv o) 0x0E (if o.b.val = 0 then (o.dy ++ o.dx).signExtend 64 else (k.pop o.a).srcX o.b))) ∧
  (∀ (s : State) (ins : Instr) (srcs : List (Fin 32)),
     let k := s.ctx s.slot
     8 ≤ k.inj.length → s.slot.core < 4608 →
     ((∃ o dev n, ins = .send o ∧ srcs = [o.b] ∧ Spec.Destination s s.slot.core o.b (k.srcX o.b) o.dx o.dy dev n) ∨
       (∃ o dev n, ins = .sendv o ∧ srcs = [o.a, o.b] ∧ Spec.Destination s s.slot.core o.b ((k.pop o.a).srcX o.b) o.dx o.dy dev n) ∨
       (∃ o, ins = .mcast o ∧ srcs = [])) →
     Ready s ins srcs [] 0 →
     ∃ t, exec ins s = .next t ∧ Only s t s.slot (k.waits 0x2))

/-- R220, R221, R224, R225: `mcast` to an armed group takes a slot with every member as a target, and to any other it is dropped with a
partition event; `red.f32` and `red.i64` post a contribution, a release at package scope; `grp.wait` and `grp.free` take an entry with
their request; `grp.arm` of a root in the partition acts at issue, and its code is outstanding: 2 when refused, else 1 when the group is not free,
else 0 with the group armed; of any other root it traps with cause 0x0E
and tval the offset (R8). That an `mcast` is checked when it
issues is the model's reading (DEDUCED, notes/assumptions/25.md). -/
def Obligations.GroupRequestsAreIssued : Prop :=
  ∀ (s : State),
    let k := (s.ctx s.slot).counted
    let who := requester s s.slot
    let p := (s.coreAt s.slot.core).partition
    (∀ o : OpsMcast, Ready s (.mcast o) [] [] 0 → k.inj.length < 8 →
      let g := s.rgroupAt p o.gid.val
      let m : Msg := ⟨Spec.headerOf s k.fir s.slot.core o.bytes.toNat o.ctx o.cls.val, Spec.bytesOf k.fir o.a o.bytes.toNat⟩
      (g.state = .armed → ∃ t, exec (.mcast o) s = .next t ∧
        Only s t s.slot ((Spec.inject k s (deviceNum s) (rMembers g) (some o.gid.val) 0 m).goesOn 12)) ∧
      (g.state ≠ .armed → ∃ t, exec (.mcast o) s = .next t ∧ Only (partEvent s p 5) t s.slot (k.goesOn 12))) ∧
    (∀ (o : OpsArm) (root : Nat), Ready s (.grpArm o) [o.a, o.b] [] 1 →
      coreAtOffset s.slot.core o.dx.toInt o.dy.toInt = some root → coreIn s p root = true →
      let k2 := (k.pop o.a).pop o.b
      let x := k.srcX o.a
      let y := (k.pop o.a).srcX o.b
      let refused := Spec.ArmRefused s s.slot.core x y o.dx.toInt o.dy.toInt
      let free := (s.rgroupAt p o.gid.val).state = .free
      let corner : Int × Int := (coreCol s.slot.core + Spec.armDx x, coreRow s.slot.core + Spec.armDy x)
      let armed : RGroup := { RGroup.reset with
        state := .armed, col := corner.1.toNat, row := corner.2.toNat, w := Spec.armCols x, h := Spec.armRows x
        rootC := root % 48, rootR := root / 48, yfirst := o.yfirst, i64 := o.i64, op := y.toNat % 4, timeout := o.timeout.toNat, armedAt := s.now }
      let answers (base : State) (code : Nat) : Prop := ∃ t, exec (.grpArm o) s = .next t ∧
        Only base t s.slot ((k2.take { k2.entry x (.x o.d) .whole with value := code, base := code } []).goesOn 12)
      (refused → answers s 2) ∧ (¬ refused → ¬ free → answers s 1) ∧ (¬ refused → free → answers (s.setRgroup p o.gid.val armed) 0)) ∧
    (∀ o : OpsArm, Ready s (.grpArm o) [o.a, o.b] [] 1 →
      (∀ root, coreAtOffset s.slot.core o.dx.toInt o.dy.toInt = some root → coreIn s p root = false) →
      Spec.Traps s (.grpArm o) 0x0E ((o.dy ++ o.dx).signExtend 64)) ∧
    (∀ o : OpsRed, Ready s (.redF32 o) [o.a] [] 0 → ∃ t, exec (.redF32 o) s = .next t ∧
      Only s t s.slot (((k.pop o.a).post [(k.pop o.a).access who 0 (.contribute o.gid.val false (k.srcV o.a)) (some .package)]).goesOn 12)) ∧
    (∀ o : OpsRed, Ready s (.redI64 o) [o.a] [] 0 → ∃ t, exec (.redI64 o) s = .next t ∧
      Only s t s.slot (((k.pop o.a).post [(k.pop o.a).access who 0 (.contribute o.gid.val true (k.srcV o.a)) (some .package)]).goesOn 12)) ∧
    (∀ o : OpsGrp, Ready s (.grpWait o) [] [] 1 → ∃ t, exec (.grpWait o) s = .next t ∧
      Only s t s.slot ((k.take (k.entry (BitVec.ofNat 64 o.gid.val) (.v (vIdx o.d)) .whole)
        [k.access who (BitVec.ofNat 64 o.gid.val) (.grpWait o.gid.val) none]).goesOn 12)) ∧
    (∀ o : OpsGrp, Ready s (.grpFree o) [] [] 1 → ∃ t, exec (.grpFree o) s = .next t ∧
      Only s t s.slot ((k.take (k.entry (BitVec.ofNat 64 o.gid.val) (.v (vIdx o.d)) .whole)
        [k.access who (BitVec.ofNat 64 o.gid.val) (.grpFree o.gid.val) none]).goesOn 12))

/-- R227, R72: a `done` outside a handler, with its buffer landed, its stores checked and nothing left of a range, ends its firing; a
group-start firing counts toward its group's retirement. R322, R339: inside a handler it ends the firing faulted with cause[7:0], an event of
kind 2 reports the store-fault records that it leaves, and the first abnormal end of a group and of a launch gives it its cause, also after
the group's retirement. R320: while that event finds no room, the `done` waits (with reason 0x3: DESIGN CHOICE, notes/assumptions/39.md).
R228: a `yield` with its buffer landed completes; with an empty or a full run queue or an occupied yield slot the firing goes on, and
otherwise it moves whole to the yield slot and its continuation to the tail of the run queue. What R91 and R228 leave of the remainder and
of the cycle of the next issue is the model's reading (DEDUCED, notes/assumptions/24.md). -/
def Obligations.FiringsEndAndYield : Prop :=
  (∀ (s : State) (o : OpsW), Ready s (.done o) [] [] 0 → (s.ctx s.slot).rb = [] → uncheckedStores (s.ctx s.slot) = false →
     let k := (s.ctx s.slot).counted
     let f := k.fir
     let p := (s.coreAt s.slot.core).partition
     let gid := f.group.toNat
     let h := f.launch.toNat
     let own (g : Group) : Prop := findGroup s gid = some g ∧ g.part = p ∧ g.handle = f.launch
     let ended (g : Group) : Group := { g with ended := g.ended + if f.groupStart then 1 else 0 }
     let code : BitVec 8 := k.cause.setWidth 8
     let records := k.sfq.length + k.lost ≠ 0
     (∀ r, f.range = some r → r.hi.toNat ≤ r.lo.toNat) →
     (f.intrap = false →
       ∃ t, exec (.done o) s = .next t ∧
         Only (countEnd s p h gid f.groupStart .normal) t s.slot (Spec.ended { k with retired := k.retired + 1 } s.now) ∧
         t.launchAt p h = s.launchAt p h ∧ ∀ g, own g → findGroup t gid = some (ended g)) ∧
     (f.intrap = true → (records → (s.partAt p).faultEvents.length < 64) →
       ∃ t, exec (.done o) s = .next t ∧
         Only (Spec.leaves (countEnd s p h gid f.groupStart (.faulted code)) s.slot k code) t s.slot
           (Spec.ended { k with retired := k.retired + 1 } s.now) ∧
         (∀ g, own g → findGroup t gid = some { ended g with bad := true, cause := if g.bad then g.cause else code }) ∧
         (∀ l, s.launchAt p h = some l →
           let first := { l with cause := l.cause.or (some code) }
           (∀ g, own g → t.launchAt p h = some first) ∧
           ((∀ g, ¬ own g) → t.launchAt p h = some (if gid ∈ l.badGroups then first
             else { first with bad := l.bad + 1, badGroups := insNat gid l.badGroups })))) ∧
     (f.intrap = true → records → 64 ≤ (s.partAt p).faultEvents.length →
       ∃ t, exec (.done o) s = .next t ∧ Only s t s.slot ((s.ctx s.slot).waits 0x3))) ∧
  (∀ (s : State) (o : OpsW), Ready s (.yield o) [] [] 0 → (s.ctx s.slot).rb = [] →
     let k := (s.ctx s.slot).counted.goesOn 4
     let stays := k.runq = [] ∨ (match s.slot.x with | .u => 8 | .n => 32) ≤ k.runq.length ∨ k.yieldSlot.isSome = true
     ∃ t, exec (.yield o) s = .next t ∧ (stays → Only s t s.slot k) ∧
       (¬ stays → Only s t s.slot { k with
         running := false, yieldSlot := some k.fir, runq := k.runq ++ [.cont]
         fir := { k.fir with range := none, actor := none, opened := [] } }))

/-- R229, R230: `rng.push` of an empty range gives 2, and on a full deque 1, with no push; otherwise it pushes the entry at the owner end
with code 0 and ends a steal attempt of its core (R94); code 2 comes before code 1 (DEDUCED, notes/assumptions/20.md). `rng.take` claims up to x[a] items of the current range, and gives 0 and 0 where there is none.
R90: what `dequePush` puts at the owner end is read back from there, is all of memory that changes, and moves only the owner end. -/
def Obligations.RangesArePushedAndTaken : Prop :=
  (∀ (s : State),
     let k := (s.ctx s.slot).counted
     let core := s.slot.core
     (∀ o : OpsPush, Ready s (.rngPush o) [] [o.d] 0 →
       let r := ownRange k.fir o.a o.cls.toNat
       (r.hi.toNat ≤ r.lo.toNat → ∃ t, exec (.rngPush o) s = .next t ∧ Sends s t s.slot ((k.putX o.d 2).goesOn 4) o.d ⟨false, 2⟩) ∧
       (r.lo.toNat < r.hi.toNat → dequeFull (s.coreAt core) = true →
         ∃ t, exec (.rngPush o) s = .next t ∧ Sends s t s.slot ((k.putX o.d 1).goesOn 4) o.d ⟨false, 1⟩) ∧
       (r.lo.toNat < r.hi.toNat → dequeFull (s.coreAt core) = false →
         ∃ t, exec (.rngPush o) s = .next t ∧ Sends (endSteal (dequePush s core r) core) t s.slot ((k.putX o.d 0).goesOn 4) o.d ⟨false, 0⟩)) ∧
     (∀ o : OpsDA, Instr.wf (.rngTake o) = true → Ready s (.rngTake o) [o.a] [o.d] 0 →
       let k2 := k.pop o.a
       let put (c : Context) (lo hi : Word) := ((c.putX o.d lo).putX (regPlus o.d 1) hi).goesOn 4
       (k.fir.range = none → ∃ t, exec (.rngTake o) s = .next t ∧ Only s t s.slot (put k2 0 0)) ∧
       (∀ r, k.fir.range = some r →
         let e := BitVec.ofNat 64 (Nat.min (r.lo.toNat + (k.srcX o.a).toNat) r.hi.toNat)
         ∃ t, exec (.rngTake o) s = .next t ∧
           Only s t s.slot (put { k2 with fir := { k2.fir with range := some { r with lo := e } } } r.lo e)))) ∧
  (∀ (s : State) (n : Nat) (r : Range), s.memWf →
     let c := s.coreAt n
     let t := dequePush s n r
     let at_ := scratchPa n (c.rqbase.toNat + 32 * c.rqbot)
     dequeRead t n c.rqbot = r ∧
     (∀ a, a < at_ ∨ at_ + 32 ≤ a → Mem.read a t.mem = Mem.read a s.mem) ∧
     (t.coreAt n).rqbot = (c.rqbot + 1) % dequeCap c ∧ (t.coreAt n).rqtop = c.rqtop ∧ (∀ i, t.ctx i = s.ctx i))

/-- R253, R256, R263: the queries of a channel that the core may ask about. `ch.open` opens the channel with code 0 unless the firing has it
open (1), the core's other context has it, running or saved (2) or eight are open (3), and gives the channel's shape; `ch.close` closes it; `ch.avail`,
`ch.space` and `dq.cons` give what can be read, what can be written, and the records ahead of the first cork with the corks.
R252 to R263: a channel or delta-queue instruction whose operand names no channel of its core, its role, class or record size, one that the
firing does not have open, registers that cannot hold the record, or a slot that it has not reserved or has sent, traps with cause 0x0B and
tval the operand; so do `ix.upd`, `ix.look` and `ix.next` of an operand with bits above its fields (R265, R267). -/
def Obligations.ChannelQueriesAnswer : Prop :=
  (∀ (s : State) (ins : Instr) (a : Reg) (srcs dests : List (Fin 32)) (n : Nat) (ok : Prop),
    Spec.uses s (s.ctx s.slot) ins = some (a, srcs, dests, n, ok) → Ready s ins srcs dests n → ¬ ok →
    Spec.Traps s ins 0x0B ((s.ctx s.slot).srcX a)) ∧
  (∀ (s : State) (o : OpsDA),
    let k := s.ctx s.slot
    (o.d.val < 28 → 2 ^ 8 ≤ (k.fir.readX o.d).toNat →
      (Ready s (.ixUpd o) [o.a, o.d] [] 1 → Spec.Traps s (.ixUpd o) 0x0B (k.fir.readX o.d)) ∧
      (Ready s (.ixLook o) [o.a, o.d] [] 1 → Spec.Traps s (.ixLook o) 0x0B (k.fir.readX o.d))) ∧
    (Ready s (.ixNext o) [o.a] [] 1 → ixV (indexAt s (s.coreAt s.slot.core).partition ((k.srcX o.a).toNat % 2 ^ 8)) = true →
      2 ^ 35 ≤ (k.srcX o.a).toNat → Spec.Traps s (.ixNext o) 0x0B (k.srcX o.a))) ∧
  ∀ (s : State),
    let k := (s.ctx s.slot).counted
    let core := s.slot.core
    (∀ o : OpsDA, Ready s (.chOpen o) [o.a] [o.d] 0 →
      let v := k.srcX o.a
      let c := Spec.chan s v
      let code := if hasNat k.fir.opened v.toNat then 1 else if openIn s ⟨core, otherCtx s.slot.x⟩ v.toNat then 2
        else if 8 ≤ k.fir.opened.length then 3 else 0
      let w : Word := BitVec.ofNat 64 (openWord c core code)
      let k2 := { k.pop o.a with fir := { k.fir with opened := if code = 0 then k.fir.opened ++ [v.toNat] else k.fir.opened } }
      v.toNat < 2 ^ 12 → (Spec.Writes s c ∨ Spec.Reads s c) →
      ∃ t, exec (.chOpen o) s = .next t ∧ Sends s t s.slot ((k2.putX o.d w).goesOn 4) o.d ⟨false, w.setWidth 1024⟩) ∧
    (∀ o : OpsA, Ready s (.chClose o) [o.a] [] 0 →
      let v := k.srcX o.a
      v.toNat < 2 ^ 12 → (Spec.Writes s (Spec.chan s v) ∨ Spec.Reads s (Spec.chan s v)) →
      ∃ t, exec (.chClose o) s = .next t ∧
        Only s t s.slot ({ k.pop o.a with fir := { k.fir with opened := k.fir.opened.filter (· ≠ v.toNat) } }.goesOn 4)) ∧
    (∀ (o : OpsDA) (ins : Instr) (w : Word),
      let v := k.srcX o.a
      let c := Spec.chan s v
      ((ins = .chAvail o ∧ Spec.Reads s c ∧ w = BitVec.ofNat 64 (Spec.available c)) ∨
        (ins = .chSpace o ∧ Spec.Writes s c ∧ (cClass c = 0 ∨ cClass c = 2) ∧ w = BitVec.ofNat 64 (cLimit c - cOcc c core)) ∨
        (ins = .dqCons o ∧ Spec.Reads s c ∧ cClass c = 2 ∧ w = BitVec.ofNat 64 (consOf s (s.coreAt core).partition v.toNat))) →
      Ready s ins [o.a] [o.d] 0 → Spec.Opened s v →
      ∃ t, exec ins s = .next t ∧ Sends s t s.slot (((k.pop o.a).putX o.d w).goesOn 4) o.d ⟨false, w.setWidth 1024⟩)

/-- R243, R254, R262: with room, a ready write of a plain channel's or a delta queue's record posts it, a release at package scope; the
writer's known occupancy rises by one, and an actor firing uses its reservation.
R260, R262: with room, `dq.cork` posts a cork in the same way, and on a channel of many writers the writer then waits for its
acknowledgement. -/
def Obligations.RecordsAndCorksArePosted : Prop :=
  (∀ (s : State) (ins : Instr) (a : Reg) (srcs : List (Fin 32)) (op : ChanOp),
     let k0 := s.ctx s.slot
     let v := k0.srcX a
     let c := Spec.chan s v
     let k := Spec.using_ s v true
     let k2 := Spec.popAll k srcs
     ((∃ o, ins = .chW o ∧ a = o.a ∧ srcs = [o.a, o.d] ∧ cClass c = 0 ∧ cK c ≤ 3 ∧ Spec.ScalarData o.d (cK c) ∧
         op = .write (BitVec.ofNat 2048 (Spec.scalarData k0 o.a o.d (cK c)))) ∨
       (∃ o, ins = .chWv o ∧ a = o.a ∧ srcs = [o.a, o.d] ∧ cClass c = 0 ∧ cK c ≤ 5 ∧ Spec.VectorData o.d (cK c) ∧
         op = .write (BitVec.ofNat 2048 (Spec.vectorData k0 o.a o.d (cK c)))) ∨
       (∃ o, ins = .dqEmit o ∧ a = o.a ∧ srcs = [o.a, o.d] ∧ cClass c = 2 ∧ fld ((k0.pop o.a).srcV o.d) 111 96 ≤ 48 ∧
         fld ((k0.pop o.a).srcV o.d) 95 64 ≠ 0x80000000 ∧ op = .emit (emitRecord ((k0.pop o.a).srcV o.d)))) →
     Ready s ins srcs [] 0 → Spec.Opened s v → Spec.Writes s c → Spec.Room s v →
     ∃ t, exec ins s = .next t ∧
       Only (Spec.occupied s v) t s.slot ((k2.post [Spec.chanAccess s k2 v op (some .package)]).goesOn 4)) ∧
  (∀ (s : State) (o : OpsA),
     let v := (s.ctx s.slot).srcX o.a
     let c := Spec.chan s v
     let k2 := (Spec.using_ s v true).pop o.a
     let waits (c : Chan) : Chan := if cMulti c then { c with unacked := insNat s.slot.core c.unacked } else c
     Ready s (.dqCork o) [o.a] [] 0 → Spec.Opened s v → Spec.Writes s c → cClass c = 2 → Spec.Room s v →
     ∃ t, exec (.dqCork o) s = .next t ∧
       Only (modChan (Spec.occupied s v) (s.coreAt s.slot.core).partition v.toNat waits) t s.slot
         ((k2.post [Spec.chanAccess s k2 v .cork (some .package)]).goesOn 4))

/-- R243, R260: at its bound with no reservation left, a ready `ch.w`, `ch.wv`, `dq.emit` or `dq.cork` whose checks pass waits with reason
0x4 for the channel. -/
def Obligations.WritesWaitAtTheBound : Prop :=
  ∀ (s : State) (ins : Instr) (a : Reg) (srcs : List (Fin 32)),
    let k := s.ctx s.slot
    let v := k.srcX a
    let c := Spec.chan s v
    ((∃ o, ins = .chW o ∧ a = o.a ∧ srcs = [o.a, o.d] ∧ cClass c = 0 ∧ cK c ≤ 3 ∧ Spec.ScalarData o.d (cK c)) ∨
      (∃ o, ins = .chWv o ∧ a = o.a ∧ srcs = [o.a, o.d] ∧ cClass c = 0 ∧ cK c ≤ 5 ∧ Spec.VectorData o.d (cK c)) ∨
      (∃ o, ins = .dqEmit o ∧ a = o.a ∧ srcs = [o.a, o.d] ∧ cClass c = 2 ∧ fld ((k.pop o.a).srcV o.d) 111 96 ≤ 48 ∧
        fld ((k.pop o.a).srcV o.d) 95 64 ≠ 0x80000000) ∨
      (∃ o, ins = .dqCork o ∧ a = o.a ∧ srcs = [o.a] ∧ cClass c = 2)) →
    Ready s ins srcs [] 0 → Spec.Opened s v → Spec.Writes s c →
    actorSlot s s.slot v.toNat true = none → cLimit c ≤ cOcc c s.slot.core →
    ∃ t, exec ins s = .next t ∧ Only s t s.slot { k with reason := 0x4, chanWait := some v.toNat }

/-- R255, R262, R263, R248, R257: reads of a channel, of a 256-byte record into two registers, of a delta queue, a reservation of a shared
ring and `dq.quiet` are outstanding; `ch.pub` posts the data of a slot that the core has reserved, which no other publish then may name.
R264, R265, R267: an index operation takes one entry with one access, homed at the bucket that its key or its cursor names. -/
def Obligations.RequestsToUnitsAreIssued : Prop :=
  (∀ (s : State),
     let k0 := (s.ctx s.slot).counted
     (∀ (ins : Instr) (o : OpsDA) (d : Dest),
       let v := k0.srcX o.a
       let c := Spec.chan s v
       let k2 := (Spec.using_ s v false).pop o.a
       ((ins = .chR o ∧ d = .x o.d ∧ cClass c ≤ 1 ∧ cK c = 0) ∨ (ins = .chRv o ∧ d = .v (vIdx o.d) ∧ cClass c ≤ 1 ∧ cK c ≤ 4) ∨
         (ins = .dqRead o ∧ d = .v (vIdx o.d) ∧ cClass c = 2)) →
       Ready s ins [o.a] [] 1 → Spec.Opened s v → Spec.Reads s c →
       ∃ t, exec ins s = .next t ∧
         Only s t s.slot ((k2.take (k2.entry v d .whole) [Spec.chanAccess s k2 v (.read false) none]).goesOn 4)) ∧
     (∀ o : OpsDA,
       let v := k0.srcX o.a
       let c := Spec.chan s v
       let k2 := (Spec.using_ s v false).pop o.a
       let k3 := k2.take (k2.entry v (.v (vIdx o.d)) .whole) [Spec.chanAccess s k2 v (.read true) none]
       cClass c ≤ 1 → cK c = 5 → Spec.VectorData o.d 5 → Ready s (.chRv o) [o.a] [] 2 → Spec.Opened s v → Spec.Reads s c →
       ∃ t, exec (.chRv o) s = .next t ∧
         Only s t s.slot ((k3.take (k3.entry v (.v (vIdx (regPlus o.d 1))) .whole) []).goesOn 4)) ∧
     (∀ o : OpsRes,
       let v := k0.srcX o.a
       let c := Spec.chan s v
       let k2 := k0.pop o.a
       cClass c = 1 → cK c ≤ 4 → o.n1.toNat + 1 ≤ cCap c → Ready s (.chRes o) [o.a] [] 1 → Spec.Opened s v → Spec.Writes s c →
       ∃ t, exec (.chRes o) s = .next t ∧
         Only s t s.slot ((k2.take (k2.entry v (.x o.d) .whole) [Spec.chanAccess s k2 v (.res (o.n1.toNat + 1)) none]).goesOn 4)) ∧
     (∀ o : OpsPub,
       let v := k0.srcX o.a
       let c := Spec.chan s v
       let side := readerSide s (s.coreAt s.slot.core).partition (v.toNat % 2 ^ 12)
       let k2 := (k0.pop o.a).pop o.d
       let data := if o.vec then Spec.vectorData k0 o.a o.d (cK c) else Spec.scalarData k0 o.a o.d (cK c)
       cClass c = 1 → (if o.vec then Spec.VectorData o.d (cK c) else Spec.ScalarData o.d (cK c)) →
       v.toNat / 2 ^ 12 % 2 ^ 20 = 0 → hasNat k0.fir.opened (v.toNat % 2 ^ 12) = true → Spec.Writes s c →
       Spec.Reserved s v →
       Ready s (.chPub o) [o.a, o.d] [] 0 →
       ∃ t, exec (.chPub o) s = .next t ∧
         Only (markSent s side.1 side.2 (v.toNat / 2 ^ 32)) t s.slot
           ((k2.post [Spec.chanAccess s k2 v (.pub (v.toNat / 2 ^ 32) (BitVec.ofNat 2048 data)) (some .package)]).goesOn 4)) ∧
     (∀ o : OpsD, Ready s (.dqQuiet o) [] [] 1 → ∃ t, exec (.dqQuiet o) s = .next t ∧
       Only s t s.slot ((k0.take (k0.entry 0 (.x o.d) .whole) [Spec.chanAccess s k0 0 .quiet none]).goesOn 4))) ∧
  (∀ (s : State) (ins : Instr) (srcs : List (Fin 32)) (v : Word) (d : Dest) (op : IndexOp) (bucket : Nat),
     let k := (s.ctx s.slot).counted
     let q := indexAt s (s.coreAt s.slot.core).partition (v.toNat % 2 ^ 8)
     let k2 := Spec.popAll k srcs
     let hash (r : Vec) : Nat := r.toNat % 2 ^ 64 * 0x9E3779B97F4A7C15 % 2 ^ 64 / 2 ^ (64 - q.toNat / 2 ^ 8 % 2 ^ 5)
     ((∃ o, ins = .ixUpd o ∧ srcs = [o.a, o.d] ∧ o.d.val < 28 ∧ v = k.fir.readX o.d ∧ v.toNat < 2 ^ 8 ∧ d = .x o.d ∧
         op = .upd ((k.srcV o.a).setWidth 512) ∧ bucket = hash (k.srcV o.a)) ∨
       (∃ o, ins = .ixLook o ∧ srcs = [o.a, o.d] ∧ o.d.val < 28 ∧ v = k.fir.readX o.d ∧ v.toNat < 2 ^ 8 ∧ d = .x o.d ∧
         op = .look ((k.srcV o.a).setWidth 512) ∧ bucket = hash (k.srcV o.a)) ∨
       (∃ o, ins = .ixNext o ∧ srcs = [o.a] ∧ v = k.srcX o.a ∧ (ixV q = true → v.toNat < 2 ^ 35) ∧ d = .v (vIdx o.d) ∧
         op = .next (v.toNat / 2 ^ 8 % 2 ^ 24) (v.toNat / 2 ^ 32 % 2 ^ 3) ∧ bucket = v.toNat / 2 ^ 8 % 2 ^ 24) ∨
       (∃ o, ins = .ixClear o ∧ srcs = [o.a] ∧ v = k.srcX o.a ∧ d = .x o.d ∧ op = .clear 0 ∧ bucket = 0)) →
     Ready s ins srcs [] 1 →
     ∃ t, exec ins s = .next t ∧
       Only s t s.slot ((k2.take (k2.entry v d .whole)
         [k2.access (requester s s.slot) (BitVec.ofNat 64 (ixBase q + 512 * bucket)) (.index (v.toNat % 2 ^ 8) op) none]).goesOn 4))

/-- R199 to R201: a ready vector load whose active elements are aligned and, for base field x2, within the stack bounds takes one entry that
starts from the inactive elements of its destination: `vld` with one access of the active elements of its 128-byte block, `vldbc` with one
word for all of them, `vgather` with one word for each in lane order.
R199, R200, R202: a ready vector store whose active elements are aligned, within the stack bounds for base field x2, and pass their own
checks posts its accesses: `vst` one of the active elements of its 128-byte block, `vscatter` one word for each in lane order.
R101, R200: a misaligned block or word traps with cause 0x02 and tval its address, a misaligned element with the lowest one's; aligned active
elements outside the stack bounds trap with cause 0x06 and tval the effective address. R202: a store of which an active element fails its own
check traps with cause 0x05, vs set, the lowest one's inner cause and tval its address, and posts nothing. -/
def Obligations.VectorMemoryIsIssued : Prop :=
  (∀ (s : State) (ins : Instr) (a : Reg) (off : Off) (m : MReg) (srcs : List (Fin 32)) (n unit : Nat) (adr : Word → Nat → Word),
     let k := s.ctx s.slot
     let ea := k.srcX a + Spec.vectorOffset off
     let els := (Spec.elements k.fir m).map (adr ea)
     let line (e : Word) (j : Nat) := e + BitVec.ofNat 64 (4 * j)
     let word (e : Word) (_ : Nat) := e
     let lane (e : Word) (j : Nat) := e + (laneN 32 k.fir.lat j |> BitVec.ofNat 32).signExtend 64
     ((∃ o : OpsVL, a = o.a ∧ off = o.off ∧ m = mextMask o.ext ∧ srcs = [o.a] ∧ n = 1 ∧
         ((ins = .vld o ∧ unit = 128 ∧ adr = line) ∨ (ins = .vldbc o ∧ unit = 4 ∧ adr = word) ∨ (ins = .vgather o ∧ unit = 1 ∧ adr = lane))) ∨
       (∃ o : OpsVS, a = o.a ∧ off = o.off ∧ m = o.ext.getD 0 ∧ srcs = [o.a, o.d] ∧ n = 0 ∧
         ((ins = .vst o ∧ unit = 128 ∧ adr = line) ∨ (ins = .vscatter o ∧ unit = 1 ∧ adr = lane)))) →
     Ready s ins srcs [] n →
     (ea.toNat % unit ≠ 0 → Spec.Traps s ins 0x02 ea) ∧
     (ea.toNat % unit = 0 → ∀ va, Spec.Lowest els (fun w => w.toNat % 4 ≠ 0) va → Spec.Traps s ins 0x02 va) ∧
     (ea.toNat % unit = 0 → (∀ w ∈ els, w.toNat % 4 = 0) → ¬ Spec.ElementsAllowed k a els → Spec.Traps s ins 0x06 ea) ∧
     (n = 0 → ea.toNat % unit = 0 → Spec.ElementsAllowed k a els → ∀ va c,
       Spec.Lowest els (fun w => ∃ e, homeOf s (requester s s.slot) w.toNat .write = .error e) va →
       homeOf s (requester s s.slot) va.toNat .write = .error c →
       Spec.Traps s ins (BitVec.ofNat 64 (2 ^ 16 + 2 ^ 8 * c + 0x05)) va)) ∧
  (∀ (s : State) (ins : Instr) (o : OpsVL) (adr : Nat → Word),
     let k := (s.ctx s.slot).counted
     let who := requester s s.slot
     let ea := k.srcX o.a + Spec.vectorOffset o.off
     let m := mextMask o.ext
     let k2 := k.pop o.a
     let e := { k2.entry ea (.v (vIdx o.d)) .whole with
       value := loadBase s s.slot o.d m (mextZero o.ext), base := loadBase s s.slot o.d m (mextZero o.ext) }
     let act := Spec.elements k.fir m
     let block (b : Bool) : List Access := if act = [] then [] else [k2.access who ea (.vload (elemMask k.fir m) b) none]
     ((ins = .vld o ∧ ea.toNat % 128 = 0 ∧ adr = fun j => ea + BitVec.ofNat 64 (4 * j)) ∨
       (ins = .vldbc o ∧ ea.toNat % 4 = 0 ∧ adr = fun _ => ea) ∨
       (ins = .vgather o ∧ adr = fun j => ea + (laneN 32 k.fir.lat j |> BitVec.ofNat 32).signExtend 64)) →
     Ready s ins [o.a] [] 1 → Spec.ElementsAllowed k o.a (act.map adr) →
     ∃ t, exec ins s = .next t ∧ Only s t s.slot ((k2.take e
       (match ins with
         | .vld _ => block false
         | .vldbc _ => block true
         | _ => act.map fun j => { k2.access who (adr j) (.load 4) none with pos := 4 * j })).goesOn (Spec.memBytes o.off o.ext.isSome))) ∧
  (∀ (s : State) (ins : Instr) (o : OpsVS) (adr : Nat → Word) (home : Word → Nat),
     let k := (s.ctx s.slot).counted
     let who := requester s s.slot
     let ea := k.srcX o.a + Spec.vectorOffset o.off
     let m := o.ext.getD 0
     let k2 := (k.pop o.a).pop o.d
     let v := (k.pop o.a).srcV o.d
     let act := Spec.elements k.fir m
     let post (va : Word) (n : Nat) (mask : BitVec 32) (data : Vec) (pos : Nat) : Access :=
       { k2.access who va (.block n mask data false) none with pa := some (home va), pos := pos }
     ((ins = .vst o ∧ ea.toNat % 128 = 0 ∧ adr = fun j => ea + BitVec.ofNat 64 (4 * j)) ∨
       (ins = .vscatter o ∧ adr = fun j => ea + (laneN 32 k.fir.lat j |> BitVec.ofNat 32).signExtend 64)) →
     Ready s ins [o.a, o.d] [] 0 → Spec.ElementsAllowed k o.a (act.map adr) →
     (∀ va, (va = ea ∨ va ∈ act.map adr) → act ≠ [] → homeOf s who va.toNat .write = .ok (home va)) →
     ∃ t, exec ins s = .next t ∧ Only s t s.slot ((k2.post
       (match ins with
         | .vst _ => if act = [] then [] else [post ea 128 (elemMask k.fir m) v 0]
         | _ => act.map fun j => post (adr j) 4 (BitVec.allOnes 32) (BitVec.ofNat 1024 (laneN 32 v j)) (4 * j))).goesOn
           (Spec.memBytes o.off o.ext.isSome)))

/-- R271: a `gang` that passes its checks, with its buffer landed and its stores checked, claims the accumulator. While the core's other
context waits at a barrier it completes with status 5; otherwise it joins the barrier of its absolute descriptor with reason 0x9, and
stays there when no join that it overlaps differs from it (R272). -/
def Obligations.GangsJoinTheirBarrier : Prop :=
  ∀ (s : State) (o : OpsDA), Ready s (.gang o) [o.a] [o.d] 0 → (s.ctx s.slot).rb = [] → uncheckedStores (s.ctx s.slot) = false →
    let k := (s.ctx s.slot).counted
    let core := s.slot.core
    let d := k.srcX o.a
    let b : Barrier := ⟨absDesc core d, s.now, o.d, o.a⟩
    let base := writeOwner s core k.fir.tag
    gangOk s core d = true → Spec.MayUse s false →
    ((s.ctx ⟨core, otherCtx s.slot.x⟩).barrier.isSome = true →
      ∃ t, exec (.gang o) s = .next t ∧
        Sends base t s.slot (((k.pop o.a).putX o.d 5).goesOn 4) o.d ⟨false, 5⟩) ∧
    ((s.ctx ⟨core, otherCtx s.slot.x⟩).barrier = none →
      (∀ q ∈ joinedCtxs s, ¬ ((gHas b.desc q.1.core = true ∨ gHas q.2.desc core = true) ∧ (q.2.desc ≠ b.desc ∨ q.1.x ≠ s.slot.x))) →
      ∃ t, exec (.gang o) s = .next t ∧ Only base t s.slot { k with barrier := some b, reason := 0x9 })

/-- R271, R286: a `gang` or an `acc.tag` of a firing that does not own an owned accumulator, and any other accumulator instruction of such a
firing in user mode, traps with cause 0x09 and tval the owner's tag; a `gang` whose descriptor is refused traps with cause 0x0A and tval the
descriptor. That the owner check comes before the address's is the model's reading (DEDUCED, notes/assumptions/13.md).
R287: `acc.spill` and `acc.fill` of an address that is no multiple of 128 trap with cause 0x02 and tval the address; an `acc.spill` of which a
block fails its own check traps with cause 0x05, vs set, the lowest one's inner cause and tval its address, and posts nothing. -/
def Obligations.OwnershipIsChecked : Prop :=
  ∀ (s : State) (ins : Instr) (srcs dests : List (Fin 32)) (n : Nat),
    let k := s.ctx s.slot
    let owner := (s.coreAt s.slot.core).accowner
    Ready s ins srcs dests n → k.rb = [] → k.fir.intrap = false → uncheckedStores k = false →
    (((((∃ o, ins = .gang o ∧ srcs = [o.a] ∧ dests = [o.d] ∧ n = 0 ∧ gangOk s s.slot.core (k.srcX o.a) = true) ∨
        (∃ o, ins = .accTag o ∧ srcs = [o.a] ∧ dests = [o.d] ∧ n = 0)) ∧ ¬ Spec.MayUse s false) ∨
      ((((∃ o, ins = .accRd o ∧ srcs = [] ∧ n = 1) ∨ (∃ o, ins = .accWr o ∧ srcs = [o.d] ∧ n = 0) ∨ (∃ o, ins = .accZero o ∧ srcs = [] ∧ n = 0) ∨
        (∃ o, ins = .accSpill o ∧ srcs = [o.a] ∧ n = 0) ∨ (∃ o, ins = .accFill o ∧ srcs = [o.a] ∧ n = 1)) ∧ dests = []) ∧
          ¬ Spec.MayUse s true)) →
      ∃ t, exec ins s = .next t ∧ Only s t s.slot (k.enter ⟨k.fir.pc, 0x09, owner.setWidth 64, none⟩)) ∧
    (∀ o, ins = .gang o → srcs = [o.a] → dests = [o.d] → n = 0 → gangOk s s.slot.core (k.srcX o.a) = false →
      ∃ t, exec ins s = .next t ∧ Only s t s.slot (k.enter ⟨k.fir.pc, 0x0A, k.srcX o.a, none⟩)) ∧
    (∀ o : OpsA, srcs = [o.a] → dests = [] → Spec.MayUse s true →
      let v := k.srcX o.a
      let els := (List.range 64).map fun j => v + BitVec.ofNat 64 (128 * j)
      (v.toNat % 128 ≠ 0 → ((ins = .accSpill o ∧ n = 0) ∨ (ins = .accFill o ∧ n = 1)) → Spec.Traps s ins 0x02 v) ∧
      (v.toNat % 128 = 0 → ins = .accSpill o → n = 0 → ∀ va c,
        Spec.Lowest els (fun w => ∃ e, homeOf s (requester s s.slot) w.toNat .write = .error e) va →
        homeOf s (requester s s.slot) va.toNat .write = .error c →
        Spec.Traps s ins (BitVec.ofNat 64 (2 ^ 16 + 2 ^ 8 * c + 0x05)) va))

/-- R282, R286 to R288: `gstat` gives the thaw record. `acc.rd` takes an entry with its slot's value, faulted with cause 0x0F when the slot is
poisoned (the value is read when it issues: DEDUCED, notes/assumptions/13.md); `acc.wr` writes its slot and `acc.zero` every one, and each clears the poison of what it writes. `acc.tag` answers whether the
firing owns the accumulator, and releases it when bit 0 of x[a] is set or claims it; a release zeroes the slots.
R287, R289: `acc.spill` of a 128-byte aligned address whose checks pass posts the 64 slots as blocks in slot order, a poisoned slot's as
poison; `acc.fill` takes one entry that reads 8,192 bytes for the slots, which a marker then writes (R98). `h.ld` takes an entry for each half of 256 aligned hamper bytes,
`h.st` posts them as eight words of the hamper, and `h.fill` takes an entry that reads 4,096 scratchpad bytes and then writes the block. -/
def Obligations.AccumulatorIsUsed : Prop :=
  (∀ (s : State),
     let k := (s.ctx s.slot).counted
     let core := s.slot.core
     let c := s.coreAt core
     let who := requester s s.slot
     (∀ o : OpsD, Ready s (.gstat o) [] [o.d] 0 →
       ∃ t, exec (.gstat o) s = .next t ∧ Sends s t s.slot ((k.putX o.d c.gstat).goesOn 4) o.d ⟨false, c.gstat.setWidth 1024⟩) ∧
     (∀ o : OpsAcc, Ready s (.accRd o) [] [] 1 → Spec.MayUse s true →
       let va : Word := BitVec.ofNat 64 o.slot.val
       let e := { k.entry va (.v (vIdx o.d)) .whole with
         value := (c.slots[o.slot]).toNat, fault := if c.slotPoison.getLsbD o.slot.val then some (0, 0x0F) else none
         req := [k.access who va (.slot o.slot) none] }
       ∃ t, exec (.accRd o) s = .next t ∧
         Only s t s.slot ({ supersede e.dest k with rb := (supersede e.dest k).rb ++ [e], num := k.num + 1 }.goesOn 4)) ∧
     (∀ o : OpsAcc, Ready s (.accWr o) [o.d] [] 0 → Spec.MayUse s true →
       ∃ t, exec (.accWr o) s = .next t ∧
         Only (s.modCore core fun c => { c with
             slots := c.slots.set o.slot (k.srcV o.d), slotPoison := c.slotPoison &&& ~~~(1#64 <<< o.slot.val) })
           t s.slot ((k.pop o.d).goesOn 4)) ∧
     (∀ o : OpsW, Ready s (.accZero o) [] [] 0 → Spec.MayUse s true →
       ∃ t, exec (.accZero o) s = .next t ∧
         Only (s.modCore core fun c => { c with slots := Vector.replicate 64 0, slotPoison := 0 }) t s.slot (k.goesOn 4)) ∧
     (∀ o : OpsDA, Ready s (.accTag o) [o.a] [o.d] 0 → Spec.MayUse s false →
       let own : Word := if c.accowner = k.fir.tag then 1 else 0
       ∃ t, exec (.accTag o) s = .next t ∧
         Sends (writeOwner s core (if (k.srcX o.a).getLsbD 0 then 0 else k.fir.tag)) t s.slot (((k.pop o.a).putX o.d own).goesOn 4) o.d
           ⟨false, own.setWidth 1024⟩)) ∧
  (∀ (s : State) (o : OpsW) (e : Entry),
     let k := s.ctx s.slot
     AtMarker s (.nop o) 0 → k.rb = [e] → e.state = .returned → e.dest = .slots →
     ∃ t, exec (.nop o) s = .next t ∧
       Only (s.modCore s.slot.core fun c => { c with
           slots := Vector.ofFn fun (j : Fin 64) => BitVec.ofNat 1024 (e.value / 2 ^ (1024 * j.val)), slotPoison := 0 })
         t s.slot (({ k.flag e.flags with rb := [] } : Context).counted.goesOn 4)) ∧
  (∀ (s : State) (home : Word → Nat),
     let k := (s.ctx s.slot).counted
     let c := s.coreAt s.slot.core
     let who := requester s s.slot
     let hamper (v : Word) : Prop := v.toNat % 256 = 0 ∧ 0x100000 ≤ v.toNat ∧ v.toNat < 0x200000
     (∀ o : OpsA, Ready s (.accSpill o) [o.a] [] 0 → Spec.MayUse s true → (k.srcX o.a).toNat % 128 = 0 →
       let at_ (j : Nat) : Word := k.srcX o.a + BitVec.ofNat 64 (128 * j)
       (∀ j < 64, homeOf s who (at_ j).toNat .write = .ok (home (at_ j))) →
       ∃ t, exec (.accSpill o) s = .next t ∧
         Only s t s.slot (((k.pop o.a).post ((List.range 64).map fun j =>
           Spec.blockAccess s (k.pop o.a) (at_ j) 128 (c.slots[Fin.ofNat 64 j]) (c.slotPoison.getLsbD j) home (128 * j))).goesOn 4)) ∧
     (∀ o : OpsA, Ready s (.accFill o) [o.a] [] 1 → Spec.MayUse s true → (k.srcX o.a).toNat % 128 = 0 →
       let k2 := k.pop o.a
       ∃ t, exec (.accFill o) s = .next t ∧
         Only s t s.slot ((k2.take (k2.entry (k.srcX o.a) .slots .whole) (Spec.pieces s k2 (k.srcX o.a) 8192 128)).goesOn 4)) ∧
     (∀ o : OpsDA, Ready s (.hLd o) [o.a] [] 2 → hamper (k.srcX o.a) →
       let k2 := k.pop o.a
       let va := k.srcX o.a
       let k3 := k2.take (k2.entry va (.v (vIdx o.d)) .whole) (Spec.pieces s k2 va 128 32)
       ∃ t, exec (.hLd o) s = .next t ∧
         Only s t s.slot ((k3.take (k3.entry (va + 128) (.v (vIdx (regPlus o.d 1))) .whole) (Spec.pieces s k3 (va + 128) 128 32)).goesOn 4)) ∧
     (∀ o : OpsDA, Ready s (.hSt o) [o.a] [] 0 → hamper (k.srcX o.a) →
       let at_ (j : Nat) : Word := k.srcX o.a + BitVec.ofNat 64 (32 * j)
       let word (j : Nat) : Vec := BitVec.ofNat 1024 (laneN 256 (k.fir.readV (if j < 4 then o.d else regPlus o.d 1)) (j % 4))
       (∀ j < 8, homeOf s who (at_ j).toNat .write = .ok (home (at_ j))) →
       ∃ t, exec (.hSt o) s = .next t ∧
         Only s t s.slot (((k.pop o.a).post ((List.range 8).map fun j =>
           Spec.blockAccess s (k.pop o.a) (at_ j) 32 (word j) false home (32 * j))).goesOn 4)) ∧
     (∀ o : OpsDAB, Ready s (.hFill o) [o.a, o.b] [] 1 →
       let k2 := (k.pop o.a).pop o.b
       let x := k.srcX o.a
       let y := (k.pop o.a).srcX o.b
       x.toNat < 256 → y.toNat % 128 = 0 → y.toNat + 4096 ≤ 0x18000 →
       ∃ t, exec (.hFill o) s = .next t ∧
         Only s t s.slot ((k2.take (k2.entry y (.x o.d) .whole)
           (Spec.pieces s k2 y 4096 128 ++ [k2.access who (BitVec.ofNat 64 (0x100000 + 4096 * x.toNat)) (.hfillDo x.toNat none) none])).goesOn 4)))

/-- R174: a `park` of x0 or of an own-scratchpad address waits with reason 0x5 for an event, on that line where there is one.
That its operand's flit is consumed only as it completes is the model's reading (DEDUCED, notes/assumptions/33.md).
R175: an `xinv` in supervisor mode takes an entry with its request, a release at its scope. -/
def Obligations.ParkWaitsAndXinvIsOutstanding : Prop :=
  (∀ (s : State) (o : OpsDA), Ready s (.park o) [o.a] [o.d] 0 →
     let k := (s.ctx s.slot).counted
     let v := k.srcX o.a
     (o.a.val = 0 ∨ v.toNat < 0x18000) →
     ∃ t, exec (.park o) s = .next t ∧
       Only s t s.slot { k with
         parked := some ⟨s.now, if o.a.val = 0 then none else some (v.toNat / 128), o.d, o.a⟩, evLine := false, reason := 0x5 }) ∧
  (∀ (s : State) (o : OpsXinv), Ready s (.xinv o) [o.a] [] 1 → (s.fir s.slot).sup = true →
     let k := (s.ctx s.slot).counted
     let k2 := k.pop o.a
     let x := k.srcX o.a
     ∃ t, exec (.xinv o) s = .next t ∧
       Only s t s.slot ((k2.take (k2.entry x (.x o.d) .whole) [k2.access (requester s s.slot) x (.xinv o.kind.val o.scope x) (some o.scope)]).goesOn 4))

/-- R173, R176, R178, R179, R323: a `getc` of a register that its mode may read gives the register's value, as the table of R176 says what
holds it.
R356: one of 0x80 to 0x85 on a management core that runs the hypervisor gives that register of the core.
That tbsel e selects the e-th oldest entry at trap entry, one that was dropped counted, is the model's reading (DEDUCED,
notes/assumptions/30.md). -/
def Obligations.GetcReads : Prop :=
  ∀ (s : State) (o : OpsGetc) (v : Word),
    let k := (s.ctx s.slot).counted
    Ready s (.getc o) [] [o.d] 0 →
    ((o.creg.toNat ∈ (if k.fir.sup then Spec.supReads else Spec.userReads) ∧ Spec.register s k o.creg.toNat = some v) ∨
      (∃ d, Spec.hyper s o.creg.toNat = some d ∧ Spec.hyperRead (s.pkg.mgmt[d]) o.creg.toNat = v)) →
    ∃ t, exec (.getc o) s = .next t ∧ Sends s t s.slot ((k.putX o.d v).goesOn 4) o.d ⟨false, v.setWidth 1024⟩

/-- R173, R176, R177: a `setc` of a register that a context holds, by a mode that may write it, writes that register and nothing else,
before the next instruction; bits that the register does not have are dropped.
R90, R176, R286: a `setc` of rqbase or rqlim sets that bound and both indices to 0; one of accowner makes the owner bits [31:0] of its
source.
R356: one of 0x80 to 0x85 on a management core that runs the hypervisor writes that register. -/
def Obligations.SetcWrites : Prop :=
  (∀ (s : State) (o : OpsSetc) (k3 : Context),
     let k := (s.ctx s.slot).counted
     Ready s (.setc o) [o.a] [] 0 → o.creg.toNat ∈ (if k.fir.sup then Spec.supWrites else Spec.userWrites) →
     Spec.written (k.pop o.a) o.creg.toNat (k.srcX o.a) = some k3 →
     ∃ t, exec (.setc o) s = .next t ∧ Only s t s.slot (k3.goesOn 4)) ∧
  (∀ (s : State) (o : OpsSetc), Ready s (.setc o) [o.a] [] 0 → (s.fir s.slot).sup = true →
     let k := (s.ctx s.slot).counted
     let core := s.slot.core
     let v := k.srcX o.a
     (o.creg = 0x0F →
       ∃ t, exec (.setc o) s = .next t ∧
         Only (s.modCore core fun c => { c with rqbase := v, rqtop := 0, rqbot := 0 }) t s.slot ((k.pop o.a).goesOn 4)) ∧
     (o.creg = 0x10 →
       ∃ t, exec (.setc o) s = .next t ∧
         Only (s.modCore core fun c => { c with rqlim := v, rqtop := 0, rqbot := 0 }) t s.slot ((k.pop o.a).goesOn 4)) ∧
     (o.creg = 0x1C →
       ∃ t, exec (.setc o) s = .next t ∧ Only (writeOwner s core (v.setWidth 32)) t s.slot ((k.pop o.a).goesOn 4))) ∧
  (∀ (s : State) (o : OpsSetc) (d : Fin 4), Ready s (.setc o) [o.a] [] 0 → Spec.hyper s o.creg.toNat = some d →
     let k := (s.ctx s.slot).counted
     ∃ t, exec (.setc o) s = .next t ∧
       Only { s with pkg := { s.pkg with mgmt := s.pkg.mgmt.set d (Spec.hyperWritten (s.pkg.mgmt[d]) o.creg.toNat (k.srcX o.a)) } } t s.slot
         ((k.pop o.a).goesOn 4))

/-- R323: inside a handler, with an entry of the x file selected, tbval reads as the value that the entry would land; a write of it replaces
that value; a write of tbinfo with state 0 drops the entry, one with state 3 makes it returned, and neither leaves an access of it. That entry e is the e-th
oldest at trap entry, and a dropped one keeps its place, is the model's reading (DEDUCED, notes/assumptions/30.md). -/
def Obligations.SetAsideEntriesAreReached : Prop :=
  ∀ (s : State) (e : Entry),
    let k := (s.ctx s.slot).counted
    (s.fir s.slot).sup = true → Spec.selected k = some e → e.isX = true →
    (∀ o : OpsGetc, o.creg = 0x23 → Ready s (.getc o) [] [o.d] 0 →
      ∃ t, exec (.getc o) s = .next t ∧ Sends s t s.slot ((k.putX o.d e.word).goesOn 4) o.d ⟨false, e.word.setWidth 1024⟩) ∧
    (∀ o : OpsSetc, Ready s (.setc o) [o.a] [] 0 →
      let v := k.srcX o.a
      let k2 := k.pop o.a
      let k3 := { k2 with acc := k2.acc.filter fun a => a.num != e.num }
      (o.creg = 0x23 →
        ∃ t, exec (.setc o) s = .next t ∧
          Only s t s.slot ((Spec.editAside k2 { e with value := v.toNat, ext := .whole }).goesOn 4)) ∧
      (o.creg = 0x25 → v.toNat % 8 = 0 →
        ∃ t, exec (.setc o) s = .next t ∧
          Only s t s.slot ((Spec.editAside k3 { e with state := .dropped, fault := none, acq := none }).goesOn 4)) ∧
      (o.creg = 0x25 → v.toNat % 8 = 3 →
        ∃ t, exec (.setc o) s = .next t ∧
          Only s t s.slot ((Spec.editAside k3
            { e with state := .returned, fault := none, value := e.word.toNat, ext := .whole, acq := none }).goesOn 4)))

/-- R97, R104, R113, R114, R200, R202, R208, R209, R211, R291, R353: the first access of a context, at the home that its address translates to
(of an own fixed window the own scratchpad or hamper). A load that nothing keeps waiting gives the bytes there to its entry, a vector load
its active words, an atomic the old word, which it replaces by the one that its operation gives (R211; a floating sum RNE with no flush: R127); a load of an empty line waits there, and behind an earlier one that may go; a
read of poison (cause 0x0F), one that a peer refuses (0x03) or one whose address does not translate faults its entry. A request goes when it
arrives or, refused by a bank with 16 remote requests, when it is sent again after 64 cycles.
R325: the checks of a store name its home; a failing one leaves a record in program order (DEDUCED,
notes/assumptions/31.md), or with eight records one more lost store. A store
then writes its bytes, a `stf` with its line full, a vector store its active words, and no other byte of memory. R97: an entry whose accesses
have all been performed returns, or is faulted. That an access arrives at its bank when its turn comes is the model's schedule (DESIGN CHOICE,
notes/assumptions/16.md). -/
def Obligations.AccessesArePerformed : Prop :=
  (∀ (w old : Nat) (x y : Word), w = 32 ∨ w = 64 → old < 2 ^ w →
    (∀ op < 10, amoNew op w old x.toNat y.toNat =
      (Spec.amoWord op (BitVec.ofNat w old) (BitVec.ofNat w x.toNat) (BitVec.ofNat w y.toNat)).toNat) ∧
    (w = 32 → Spec.BankSum fp32 old (x.toNat % 2 ^ 32) (amoNew 10 32 old x.toNat y.toNat) ∧
      ∃ lo hi, amoNew 11 32 old x.toNat y.toNat = lo + 2 ^ 16 * hi ∧ lo < 2 ^ 16 ∧
        Spec.BankSum fpBf16 (old % 2 ^ 16) (x.toNat % 2 ^ 16) lo ∧ Spec.BankSum fpBf16 (old / 2 ^ 16) (x.toNat / 2 ^ 16 % 2 ^ 16) hi)) ∧
  ∀ (s : State) (c : Nat) (x : Ctx) (a : Access) (l : List Access),
    let i : CtxId := ⟨c, x⟩
    let k := s.ctx i
    let s1 : State := { s with fresh := s.fresh + 1 }
    let part := a.who.part
    let tag := a.who.tag.toNat
    -- the own fixed windows
    (∀ need, a.who.core = c →
      (a.va.toNat < 0x18000 → resolve s1 a.who a.va.toNat need = (.ok (scratchPa c a.va.toNat), s1)) ∧
      (0x100000 ≤ a.va.toNat → a.va.toNat < 0x200000 → resolve s1 a.who a.va.toNat need = (.ok (hamperPa c (a.va.toNat - 0x100000)), s1))) ∧
    -- loads and atomics
    (∀ pa s2, a.pa = none → Spec.Goes s i a l → resolve s1 a.who a.va.toNat .read = (.ok pa, s2) → Spec.Lets s2 i pa true →
      let base := travel s2 i a pa
      (∀ n, a.kind = .load n → 0 < n →
        (poisonedIn base pa n = none → ∃ t, exec (.accessPerform c x 0) s = .next t ∧
          Only base t i (if peerRefuses base pa then Spec.faulted k a l 0x03 a.va else Spec.filled k a l n (readHome base pa n)) ∧
          (isPlain pa = true → peerRefuses base pa = false ∧ readHome base pa n = readMem s pa n)) ∧
        (∀ w, poisonedIn base pa n = some w → ∃ t, exec (.accessPerform c x 0) s = .next t ∧
          Only base t i (if peerRefuses base pa then Spec.faulted k a l 0x03 a.va
            else Spec.faulted k a l 0x0F (a.va + BitVec.ofNat 64 w - BitVec.ofNat 64 pa)))) ∧
      (∀ m one, a.kind = .vload m one → isPlain pa = true → (if one then pa % 4 = 0 else pa % 128 = 0) →
        (∀ j < 32, m.getLsbD j = true → poisonedIn base (pa + if one then 0 else 4 * j) 4 = none) →
        ∃ t, exec (.accessPerform c x 0) s = .next t ∧
          Only base t i (Spec.given k a.num l fun e => { e with value := Spec.loadedWords s pa m one e.value }))) ∧
    (∀ pa s2 n ln m, a.kind = .load m → a.pa = none → Spec.Goes s i a l → resolve s1 a.who a.va.toNat .read = (.ok pa, s2) →
      lineOf pa = some (n, ln) → firstTouch s2 i pa = none → lineEmpty s2 n ln = true → (s2.coreAt n).waits = [] →
      ∃ t, exec (.accessPerform c x 0) s = .next t ∧
        Only (s2.modCore n fun c => { c with waits := [⟨ln, i, a.num, a.pos, true, false⟩] }) t i { k with acc := { a with pa := some pa } :: l }) ∧
    (∀ pa n ln m, a.kind = .load m → a.pa = some pa → Spec.Goes s i a l → lineOf pa = some (n, ln) → firstTouch s i pa = none →
      lineEmpty s n ln = false → firstAt s n ln i a = false →
      ∃ t, exec (.accessPerform c x 0) s = .next t ∧ Only s1 t i k) ∧
    (∀ m cause s2, a.kind = .load m → a.pa = none → Spec.Goes s i a l → resolve s1 a.who a.va.toNat .read = (.error cause, s2) →
      ∃ t, exec (.accessPerform c x 0) s = .next t ∧ Only s2 t i (Spec.faulted k a l cause a.va)) ∧
    (∀ t0 n, a.kind = .load n → a.refused = some t0 → t0 + 64 ≤ s.now → k.acc = a :: l →
      exec (.remoteRequestResend c x 0) s = exec (.accessPerform c x 0) s ∧ ∃ t, exec (.remoteRequestResend c x 0) s = .next t) ∧
    (∀ op dbl opnd cmp pa n ln s2, a.kind = .atomic op dbl opnd cmp → a.pa = none → Spec.Goes s i a l →
      resolve s1 a.who a.va.toNat .both = (.ok pa, s2) → lineOf pa = some (n, ln) → Spec.Lets s2 i pa true →
      let size := if dbl then 8 else 4
      let base := travel s2 i a pa
      poisonedIn base pa size = none →
      let written := storeBytesBy base part tag pa size (amoNew op (8 * size) (readMem s pa size) opnd.toNat cmp.toNat)
      ∃ t, exec (.accessPerform c x 0) s = .next t ∧ Only written t i (Spec.filled (written.ctx i) a l size (readMem s pa size))) ∧
    -- stores
    (∀ func data, a.kind = .store func data → a.pa = none → k.acc = a :: l → (∀ b ∈ l, b.kind ≠ .fence) →
      (∀ pa s2, resolve s1 a.who a.va.toNat .write = (.ok pa, s2) → ¬ (func = 5 ∧ lineOf pa = none) →
        ∃ t, exec (.storeCheckComplete c x 0) s = .next t ∧ Only s2 t i { k with acc := { a with pa := some pa } :: l }) ∧
      (∀ inner s2, (resolve s1 a.who a.va.toNat .write = (.error inner, s2) ∨
          (inner = 0x03 ∧ func = 5 ∧ ∃ pa, resolve s1 a.who a.va.toNat .write = (.ok pa, s2) ∧ lineOf pa = none)) →
        (∃ f ∈ firingsOf k, f.tag = a.who.tag) →
        let size := if func < 3 then 2 ^ func else 8
        let r : SfRec := ⟨a.num, a.pc, a.va, BitVec.ofNat 64 (data.toNat % 2 ^ (8 * size)), BitVec.ofNat 8 inner, BitVec.ofNat 3 func, a.order, false⟩
        ∃ t, exec (.storeCheckComplete c x 0) s = .next t ∧
          (k.sfq.length < 8 → Only s2 t i { k with
            acc := l, sfq := insertRecord r k.sfq, skid := some (Nat.max (k.skid.getD 0) (k.issued - a.order)) }) ∧
          (8 ≤ k.sfq.length → Only s2 t i { k with acc := l, lost := Nat.min (k.lost + 1) 255 }))) ∧
    (∀ func data pa, a.kind = .store func data → a.pa = some pa → Spec.Goes s i a l → Spec.Lets s i pa false → isPlain pa = true →
      let size := if func < 3 then 2 ^ func else 8
      let s2 := storeBytesBy (travel s i a pa) part tag pa size (data.toNat % 2 ^ (8 * size))
      let base := match lineOf pa with
        | some (n, ln) => if func = 5 then setFull s2 n ln else s2
        | none => s2
      ∃ t, exec (.accessPerform c x 0) s = .next t ∧ Only base t i { base.ctx i with acc := l } ∧
        (s.memWf → readMem t pa size = data.toNat % 2 ^ (8 * size) ∧ ∀ b, b < pa ∨ pa + size ≤ b → Mem.read b t.mem = Mem.read b s.mem)) ∧
    (∀ m data pa, a.kind = .block 128 m data false → a.pa = some pa → Spec.Goes s i a l → Spec.Lets s i pa false → isPlain pa = true →
      pa % 128 = 0 → s.memWf →
      ∃ t, exec (.accessPerform c x 0) s = .next t ∧ (t.ctx i).acc = l ∧
        (∀ j < 32, readMem t (pa + 4 * j) 4 = if m.getLsbD j then laneN 32 data j else readMem s (pa + 4 * j) 4) ∧
        (∀ b, b < pa ∨ pa + 128 ≤ b → Mem.read b t.mem = Mem.read b s.mem)) ∧
    -- entries
    (∀ j e, (k.rb ++ k.fir.aside)[j]? = some e → e.state = .pending → (∀ b ∈ k.acc, b.feeds e.num = false) →
      (∀ q ∈ (s.partAt (s.coreAt c).partition).replayReqs, q.who ≠ some (c, x, e.num)) →
      ∃ t, exec (.accessReturn c x j) s = .next t ∧
        Only s t i (Spec.given k e.num k.acc fun e => { e with state := if e.fault.isSome then .faulted else .returned }))

/-- R85 to R89, R91, R96, R174, R324: a context that is ready has park reason 0x0, granted or not. While both are, the issue slot goes to U,
and to N after 15 cycles of waiting; while U is not, it goes to N. The
store-fault trap is due at the twelfth instruction after a failed store and reports the head record. An event ends a `park` with the set of
events, and 65,536 cycles without one end it with 8. A flit that arrives enters its FIFO and is an event. A context with no firing starts
one from a bound message at the head of its run queue with the registers of R86, the held message enters, and a group counts its start; a
message that is no longer bound is discarded; after `cont` the yielded firing goes on. A context pushes a remainder back once the deque has
room. An actor entry that is ready enters the run queue; that it waits while the queue is full is the model's choice
(notes/assumptions/24.md), and that a `park` consumes its operand's flit only as it completes is its reading (DEDUCED,
notes/assumptions/33.md). -/
def Obligations.ContextEventsHappen : Prop :=
  ∀ (s : State) (c : Nat) (x : Ctx),
    let i : CtxId := ⟨c, x⟩
    let k := s.ctx i
    (let u : CtxId := ⟨c, .u⟩
     let n : CtxId := ⟨c, .n⟩
     let w := (s.coreAt c).nwait
     coreStopped s c = false → (s.dieAt (dieOf c)).gates = [] → (s.ctx u).trapping = none → (s.ctx n).trapping = none →
     (let s1 := Spec.parkedFor s u 0 none
      (∃ g, nextGate s u = .go g) → (∃ g, nextGate s1 n = .go g) →
      exec (.issueCycle c) s = .next { (Spec.parkedFor s1 n 0 none).modCore c fun q => { q with nwait := if w < 15 then w + 1 else 0 } with
        slot := if w < 15 then u else n, granted := true }) ∧
     (∀ r ch g, let s1 := Spec.parkedFor g u r ch
      nextGate s u = .park r ch g → (s1.ctx n).trapping = none → (∃ h, nextGate s1 n = .go h) →
      exec (.issueCycle c) s = .next { (Spec.parkedFor s1 n 0 none).modCore c fun q => { q with nwait := 0 } with
        slot := n, granted := true }) ∧
     (nextGate s u = .stay → (s.ctx u).readyAt ≤ s.now → (∃ h, nextGate s n = .go h) →
      exec (.issueCycle c) s = .next { (Spec.parkedFor s n 0 none).modCore c fun q => { q with nwait := 0 } with
        slot := n, granted := true })) ∧
    (∀ o r l, fetchNext s i = .ins (.nop o) → Spec.AtBoundary s i → k.skid = some 11 → k.sfq = r :: l → k.fir.intrap = false →
      uncheckedStores k = false →
      ∃ t, exec (.storeFaultTrap c x) s = .next t ∧ Only s t i (k.enter ⟨k.fir.pc, Spec.w64 (r.inner.toNat * 256 + 5), r.va, none⟩)) ∧
    (∀ q, k.parked = some q → coreStopped s c = false → k.halted = false →
      let set := Spec.w64 (Spec.bit k.fir.evMsg + Spec.bit k.fir.evFlit * 2 + Spec.bit k.evLine * 4)
      let k2 := { k with parked := none, evLine := false, fir := { k.fir with evMsg := false, evFlit := false } }
      (set ≠ 0 → ∃ t, exec (.parkWake c x) s = .next t ∧ Sends s t i (((k2.pop q.a).putX q.d set).goesOn 4) q.d ⟨false, set.setWidth 1024⟩) ∧
      (set = 0 → q.time + 65536 ≤ s.now →
        ∃ t, exec (.parkTimeout c x) s = .next t ∧ Sends s t i (((k2.pop q.a).putX q.d 8).goesOn 4) q.d ⟨false, 8⟩)) ∧
    (∀ d q f rest, portAt k d = ⟨q, f :: rest⟩ →
      ∃ t, exec (.portFlitArrival c x d) s = .next t ∧
        Only s t i { setPort k d ⟨q ++ [f], rest⟩ with
          fir := { k.fir with evFlit := true }, yieldSlot := k.yieldSlot.map fun y => { y with evFlit := true } }) ∧
    (∀ e l, Spec.Idle s i → k.runq = e :: l →
      let k1 := { k with runq := l ++ (k.hold.map QEntry.msg).toList, hold := none }
      (∀ m, e = .msg m → boundMsg (s.coreAt c) m.hdr = true →
        let s1 := if isGroupStart m.hdr then modGroup s (hdrGroup m.hdr) fun g => { g with started := g.started + 1 } else s
        ∃ t, exec (.firingStart c x) s = .next t ∧
          Only s1 t i { k1 with
            running := true, fir := Spec.startOf s i m, seq := nextSeq s i, rb := [], reason := 0, parked := none, skid := none }) ∧
      (∀ m, e = .msg m → boundMsg (s.coreAt c) m.hdr = false → isGroupStart m.hdr = false →
        ∃ t, exec (.firingStart c x) s = .next t ∧
          Only (partEvent (s.modCore c fun q => { q with evlog := q.evlog ++ [m.hdr] }) (s.coreAt c).partition 4) t i k1) ∧
      (∀ f, e = .cont → k.yieldSlot = some f →
        ∃ t, exec (.firingStart c x) s = .next t ∧
          Only s t i { k1 with running := true, fir := f, yieldSlot := none, rb := [], reason := 0 })) ∧
    (∀ r, k.running = false → k.fir.range = some r → dequeFull (s.coreAt c) = false →
      ∃ t, exec (.rangeRemainderPush c x) s = .next t ∧ Only (dequePush s c r) t i { k with fir := { k.fir with range := none } }) ∧
    (∀ cls, let h := handlerOf (s.coreAt c) cls
      hValid h = true → hKind h = 1 → hCtx h = x → 3 ≤ cls → actorBusy s c cls = false → actorShort s c cls = [] →
      (∀ ch ∈ hChans h, openIn s ⟨c, .n⟩ ch = false ∧ openIn s ⟨c, .u⟩ ch = false) →
      k.halted = false → (s.clusterAt (clusterOf c)).resetAt = none → s.pkg.error ≠ 8 → k.runq.length < runqCap x →
      ∃ t, exec (.actorReady c cls) s = .next t ∧
        Only (Spec.stealEnds s c) t i { k with
          runq := k.runq ++ [.actor ⟨cls, (hActor h).map (·.1), fld h 67 60, fld h 87 80, fld h 107 100, fld h 127 120⟩]
          readyAt := if k.running = false ∧ k.runq = [] then Nat.max k.readyAt (s.now + 4) else k.readyAt })

/-- R90, R162, R286, R323 to R325: a write of sfpop drops the head record, and a count toward the trap goes on from the next one; one of a loop register sets the level and moves the outer one inward;
one of a deque bound empties the deque; one of accowner sets the owner, and 0 zeroes the accumulator; one of tbinfo inside a handler with an
entry of the x file selected drops it (state 0) or makes it returned (state 3).
R125, R247, R320, R345, R346: a write of pevpend clears the bits it sets; one of pcra starts a read or a write when none is in progress,
which completes with pcdata read or the register written when the context is in the partition and has no firing, and is refused otherwise;
a pop drops the head record of its queue, when no record waits behind the 64th (DESIGN CHOICE, notes/assumptions/17.md); a service hart that a full copy-fault
queue stalled then appends its own and goes on.
R81, R129, R130, R349, R353, R356, R360, R347: a log entry, an overflow counter and the refusal counter are cleared by their writes; an
injection register takes its bits; a hevent write clears the bits it sets on one management core; a monitor's clear resets its statistics;
bar2base takes a base whose window lies in HBM and ignores any other; unmasking sends a vector that is pending; a write of a handler's
doubleword writes its fields.
On whose behalf these steps write is the model's choice (notes/assumptions/10.md), as is that a handler write drops the bits that must be 0
(notes/assumptions/29.md). -/
def Obligations.RegisterEventsWrite : Prop :=
  ((∀ (s : State) (c : Nat) (x : Ctx) (v : Word),
      let i : CtxId := ⟨c, x⟩
      let k := s.ctx i
      let q := s.coreAt c
      (∀ k2, Spec.written k 0x18 0 = some k2 → ∃ t, exec (.sfpopWrite c x) s = .next t ∧ Only s t i k2) ∧
      (∃ t, exec (.loopLevelWrite c x false v) s = .next t ∧
        Only s t i (Spec.inward { k with fir := { k.fir with inner := Spec.wordLevel v } })) ∧
      (∃ t, exec (.loopLevelWrite c x true v) s = .next t ∧
        Only s t i (Spec.inward { k with fir := { k.fir with outer := Spec.wordLevel v } })) ∧
      (∃ t, exec (.dequeBoundsWrite c false v) s = .next t ∧ Spec.OnlyCore s t c { q with rqbase := v, rqtop := 0, rqbot := 0 }) ∧
      (∃ t, exec (.dequeBoundsWrite c true v) s = .next t ∧ Spec.OnlyCore s t c { q with rqlim := v, rqtop := 0, rqbot := 0 }) ∧
      (∃ t, exec (.accownerWrite c v) s = .next t ∧
        (v.toNat % 2 ^ 32 ≠ 0 → Spec.OnlyCore s t c { q with accowner := v.setWidth 32 }) ∧
        (v.toNat % 2 ^ 32 = 0 → Spec.OnlyCore s t c { q with accowner := 0, slots := Vector.replicate 64 0, slotPoison := 0 })) ∧
      (∀ e, Spec.selected k = some e → e.isX = true →
        let k2 := { k with acc := k.acc.filter fun a => a.num != e.num }
        (v.toNat % 8 = 0 → ∃ t, exec (.tbinfoWrite c x v) s = .next t ∧
          Only s t i (Spec.editAside k2 { e with state := .dropped, fault := none, acq := none })) ∧
        (v.toNat % 8 = 3 → ∃ t, exec (.tbinfoWrite c x v) s = .next t ∧
          Only s t i (Spec.editAside k2 { e with state := .returned, fault := none, value := e.word.toNat, ext := .whole, acq := none })))) ∧
   (∀ (s : State) (p : Nat) (v : Word),
      let q := s.partAt p
      (∃ t, exec (.pevpendClear p v) s = .next t ∧ Spec.OnlyPart s t p { q with pevpend := q.pevpend &&& ~~~(v.setWidth 6) }) ∧
      (stalledOn s p = none → ∃ t, exec (.copyFaultPop p) s = .next t ∧ Spec.OnlyPart s t p { q with copyFaults := q.copyFaults.drop 1 }) ∧
      (∀ cl r, stalledOn s p = some (cl, r) → ∃ t, exec (.copyFaultPop p) s = .next t ∧
        (t.partAt p).copyFaults = q.copyFaults.drop 1 ++ [r] ∧ t.clusterAt cl = { s.clusterAt cl with stalled := none }) ∧
      (q.faultEvents.length ≤ 64 →
        ∃ t, exec (.faultEventPop p) s = .next t ∧ Spec.OnlyPart s t p { q with faultEvents := q.faultEvents.drop 1 }) ∧
      (q.chanEvents.length ≤ 64 →
        ∃ t, exec (.channelEventPop p) s = .next t ∧ Spec.OnlyPart s t p { q with chanEvents := q.chanEvents.drop 1 }) ∧
      (q.pcra.getLsbD 61 = false →
        (∃ t, exec (.pcraRead p v) s = .next t ∧ Spec.OnlyPart s t p { q with pcra := Spec.w64 (2 ^ 61 + v.toNat % 2 ^ 22) }) ∧
        (∃ t, exec (.pcraWrite p v) s = .next t ∧ Spec.OnlyPart s t p { q with pcra := Spec.w64 (2 ^ 61 + 2 ^ 22 + v.toNat % 2 ^ 22) })) ∧
      (q.pcra.getLsbD 61 = true →
        let i : CtxId := ⟨q.pcra.toNat % 2 ^ 13, if q.pcra.getLsbD 13 then .u else .n⟩
        let n := q.pcra.toNat / 2 ^ 14 % 2 ^ 8
        let wr := q.pcra.getLsbD 22
        let done (refused : Nat) : Word := Spec.w64 (2 ^ 63 + refused * 2 ^ 62 + q.pcra.toNat % 2 ^ 23)
        let ok := coreIn s p i.core = true ∧ (s.ctx i).running = false ∧ (s.ctx i).halted = false ∧ n ∈ (if wr then Spec.supWrites else Spec.supReads)
        (ok → wr = false → ∃ t, exec (.pcraComplete p) s = .next t ∧
          Spec.OnlyPart s t p { q with pcdata := cregRead s i n, pcra := done 0 }) ∧
        (ok → wr = true → ∃ t, exec (.pcraComplete p) s = .next t ∧
          Spec.OnlyPart (cregWrite s i n q.pcdata) t p { q with pcra := done 0 }) ∧
        (¬ ok → n < 0x80 → ∃ t, exec (.pcraComplete p) s = .next t ∧ Spec.OnlyPart s t p { q with pcra := done 1 })))) ∧
  (∀ (s : State) (v : Word),
     (∀ (a : ErrArray) (e : Fin 8), let g := getLog s a
       exec (.errorLogFree a e.val) s = .next (setLog s a { g with entries := g.entries.set e 0 }) ∧
       exec (.errorOverflowClear a) s = .next (setLog s a { g with overflow := 0 }) ∧
       exec (.errorInjectArm a v) s = .next (setLog s a { g with inject := v &&& ~~~0x3000 })) ∧
     exec .refusalCounterClear s = .next { s with pkg := { s.pkg with refusals := 0 } } ∧
     (∀ d : Fin 4, let m := s.pkg.mgmt[d]
       exec (.heventClear d.val v) s = .next { s with pkg := { s.pkg with
         mgmt := s.pkg.mgmt.set d { m with hevent := m.hevent &&& ~~~(v.setWidth 4) } } }) ∧
     (∀ d j, j < 32 → let m := monAt s d j
       exec (.monitorClear d j) s =
         .next (s.modDie d fun q => { q with
           monitors := putN j { m with min := 0xFFFFFFFF, max := 0, count := 0, bins := Vector.replicate 16 0 } q.monitors })) ∧
     (let fits : Prop := v.toNat % 2 ^ s.pkg.bar2log = 0 ∧ v.toNat + 2 ^ s.pkg.bar2log ≤ 0x8000000000;
       (fits → exec (.bar2baseWrite v) s = .next { s with pkg := { s.pkg with bar2base := v } }) ∧
       (¬ fits → exec (.bar2baseWrite v) s = .next s)) ∧
     (∀ n : Fin 64, s.pkg.msixPba.getLsbD n.val = true →
       ∃ t, exec (.msixUnmask n.val) s = .next t ∧
         t.pkg.toHost = .msix n.val :: s.pkg.toHost ∧ t.pkg.msixPba = s.pkg.msixPba &&& ~~~(1#64 <<< n.val) ∧
         (t.pkg.msixTable[n]).getLsbD 96 = false ∧ t = { s with pkg := t.pkg }) ∧
     (∀ (c : Nat) (cls : Fin 20) (j : Fin 2), c < 4608 →
       ∃ t, exec (.registerWrite (0x1200000000000 + c * 0x10000 + 0x100 + 16 * cls.val + 8 * j.val) v) s = .next t ∧
         Spec.OnlyCore s t c { s.coreAt c with
           handlers := (s.coreAt c).handlers.set cls (setDw (s.coreAt c).handlers[cls] j.val (if j.val = 0 then v &&& 0xFFFF01FFFC00003D else v)) }))

/-- R84, R219: a message that its core takes leaves its injection slot, and one that it refuses stays there with the cycle of the refusal, to
be sent again after 64 cycles; the same for an engine's. A transmission that fails stays, and the eighth abandons the message, whose sender
hears of it, and the error is logged against its die's crossbar (R128).
R84, R85: a core takes a bound message into its context's run queue while it has room, else into the hold slot, and refuses it while that
is held too; a context hears of it. -/
def Obligations.MessagesTravel : Prop :=
  ((∀ (s : State) (c : Nat) (x : Ctx) (j : Inj) (l : List Inj) (dest : Nat) (ev : Instr),
     let i : CtxId := ⟨c, x⟩
     Spec.Deliverable s i j l dest →
     ((ev = .messageArrival (.ctx c x) 0 ∧ j.refused = none) ∨ (ev = .messageResend (.ctx c x) 0 ∧ ∃ r, j.refused = some r ∧ r + 64 ≤ s.now)) →
     let r := acceptMsg (crossPaths s (dieOf c) (dieOf dest) (hdrTag j.msg.hdr) (s.coreAt c).partition) dest j.msg
     (r.1 = .taken → ∃ t, exec ev s = .next t ∧ Only r.2 t i { r.2.ctx i with inj := l }) ∧
     (r.1 = .refused → ∃ t, exec ev s = .next t ∧
       Only r.2 t i { r.2.ctx i with inj := { j with refused := some s.now } :: l })) ∧
   (∀ (s : State) (m : EngMsg) (l : List EngMsg) (ev : Instr), s.pkg.engine = m :: l →
     ((ev = .messageArrival .engine 0 ∧ m.refused = none) ∨ (ev = .messageResend .engine 0 ∧ ∃ r, m.refused = some r ∧ r + 64 ≤ s.now)) →
     let r := acceptMsg (crossPaths s m.src.die (dieOf m.dest) (hdrTag m.msg.hdr) (s.coreAt m.dest).partition) m.dest m.msg
     (r.1 = .taken → resetRefusing s (clusterOf m.dest) = false →
       ∃ t, exec ev s = .next t ∧ t = { r.2 with pkg := { r.2.pkg with engine := delAt 0 r.2.pkg.engine } }) ∧
     (r.1 = .refused →
       ∃ t, exec ev s = .next t ∧ t = { r.2 with pkg := { r.2.pkg with engine := setAt 0 { m with refused := some s.now } r.2.pkg.engine } })) ∧
   (∀ (s : State) (c : Nat) (x : Ctx) (j : Inj) (l : List Inj),
     let i : CtxId := ⟨c, x⟩
     (s.ctx i).inj = j :: l → injReady s i 0 j = true →
     (j.fails < 7 → ∃ t, exec (.sendFailure c x 0) s = .next t ∧
       Only s t i { s.ctx i with inj := { j with fails := j.fails + 1 } :: l }) ∧
     (∀ dest, 7 ≤ j.fails → j.targets = [dest] → j.gid = none → ∃ t, exec (.sendFailure c x 0) s = .next t ∧
       let base := logError s (.die (dieOf c) 0) 5 (scratchPa dest 0) (hdrTag j.msg.hdr) (s.coreAt c).partition
       ∃ m, Only { base with pkg := { base.pkg with engine := base.pkg.engine ++ [m] } } t i { s.ctx i with inj := l } ∧
         m.dest = c ∧ hdrClass m.msg.hdr = 1 ∧ m.msg.payload.extractLsb' 0 8 = 4#8 ∧
         m.msg.payload.extractLsb' 16 16 = 2#16 ∧ m.msg.payload.extractLsb' 64 64 = j.addr))) ∧
  (∀ (s : State) (n : Nat) (m : Msg), Spec.Takes s n m →
     let i : CtxId := ⟨n, hdrCtx m.hdr⟩
     let k := s.ctx i
     let r := acceptMsg s n m
     (k.runq.length < runqCap i.x → r.1 = .taken ∧
       Only (Spec.stealEnds s n) r.2 i (Spec.hears s { k with runq := k.runq ++ [.msg m] } (k.runq = []))) ∧
     (¬ k.runq.length < runqCap i.x → k.hold = none → r.1 = .taken ∧
       Only (Spec.stealEnds s n) r.2 i (Spec.hears s { k with hold := some m } (k.runq.length ≤ 1))) ∧
     (¬ k.runq.length < runqCap i.x → k.hold ≠ none → r = (.refused, s)))

/-- R92 to R95: an idle core with its class-2 entry valid asks the next core of its cluster 32 cycles after it became idle. The victim gives the
upper half of an eligible thief-end entry, or all of it when it is one index, or, its deque being empty, the upper half of a running range,
U's before N's; otherwise it refuses. The thief pushes what it gets, whether its attempt has ended or not; after a refusal it tries the next victim,
and ends its round after 15, to begin again 1,024 cycles later.
A cluster all of whose cores are idle asks the most loaded cluster of its partition and die, the lowest-numbered of several; with none it
asks again after 4,096 cycles. The one that is asked ships its oldest group that may go: its cores' starts of the group leave their queues for
the cores at the same places, and the group's load moves; with no such group it refuses. That the asker waits 4,096 cycles after an answer too is
the model's choice (DESIGN CHOICE, notes/assumptions/24.md). -/
def Obligations.WorkIsSharedOut : Prop :=
  (∀ (s : State) (n : Nat),
    let c := s.coreAt n
    let st := c.steal
    let keep (r : Range) : Range := { r with hi := r.hi - Spec.w64 ((r.hi.toNat - r.lo.toNat) / 2) }
    let give (r : Range) : Range := { r with lo := r.hi - Spec.w64 ((r.hi.toNat - r.lo.toNat) / 2) }
    let eligible (r : Range) : Prop := hValid (handlerOf c r.cls.toNat) = true ∧ hKind (handlerOf c r.cls.toNat) = 2
    let own := coreRow n % 4 * 4 + coreCol n % 4
    let next := (own + 1 + st.tried) % 16
    (∀ t0, hValid (handlerOf c 2) = true → coreIdle c = true → st.idleSince = some t0 → st.waiting = none → st.reply = none →
      st.roundEnd = none → t0 + 32 ≤ s.now → st.tried < 15 →
      ∃ t, exec (.stealRequest n) s = .next t ∧
        Spec.OnlyCore s t n { c with steal := { st with waiting := some (clusterCore (clusterOf n) (next % 4) (next / 4)), stale := false } }) ∧
    (∀ v, st.waiting = some v → v ≠ n →
      let vc := s.coreAt v
      let r := dequeRead s v vc.rqtop
      let replies (g : Option Range) : Core := { c with steal := { st with waiting := none, reply := some g } }
      (hValid (handlerOf vc 2) = false ∨ (dequeEmpty vc = false ∧ ¬ eligible r) ∨
          (dequeEmpty vc = true ∧ ∀ y, (vc.ctx y).running = false ∨ (vc.ctx y).fir.range = none) →
        ∃ t, exec (.stealServe n) s = .next t ∧ Spec.OnlyCore s t n (replies none)) ∧
      (hValid (handlerOf vc 2) = true → dequeEmpty vc = false → eligible r →
        (r.lo.toNat + 2 ≤ r.hi.toNat → ∃ t, exec (.stealServe n) s = .next t ∧
          Spec.OnlyCore (dequeWrite s v vc.rqtop (keep r)) t n (replies (some (give r)))) ∧
        (r.hi.toNat < r.lo.toNat + 2 → ∃ t, exec (.stealServe n) s = .next t ∧
          Spec.OnlyCore (s.setCore v { vc with rqtop := (vc.rqtop + 1) % dequeCap vc }) t n (replies (some r)))) ∧
      (∀ y q, hValid (handlerOf vc 2) = true → dequeEmpty vc = true → (vc.ctx y).running = true → (vc.ctx y).fir.range = some q →
        (y = .n → vc.u.running = false ∨ vc.u.fir.range = none) → eligible q → q.lo.toNat + 2 ≤ q.hi.toNat →
        ∃ t, exec (.stealServe n) s = .next t ∧
          Spec.OnlyCore (s.modFir ⟨v, y⟩ fun f => { f with range := some (keep q) }) t n (replies (some (give q))))) ∧
    (∀ r, st.reply = some (some r) → dequeFull c = false →
      ∃ t, exec (.stealReply n) s = .next t ∧
        let s1 := dequePush s n r
        Spec.OnlyCore s1 t n { s1.coreAt n with steal :=
          { st with reply := none, stale := false, tried := 0, roundEnd := none, idleSince := none } }) ∧
    (st.reply = some none →
      ∃ t, exec (.stealReply n) s = .next t ∧
        Spec.OnlyCore s t n { c with steal :=
          if st.stale = true ∨ st.idleSince = none then { st with reply := none, stale := false, tried := 0 }
          else if st.tried < 14 then { st with reply := none, tried := st.tried + 1 }
          else { st with reply := none, tried := 0, roundEnd := some s.now } }) ∧
    (∀ t0, st.roundEnd = some t0 → t0 + 1024 ≤ s.now →
      ∃ t, exec (.stealRoundRetry n) s = .next t ∧ Spec.OnlyCore s t n { c with steal := { st with roundEnd := none } })) ∧
  (∀ (s : State) (cl : Nat),
    let q := s.clusterAt cl
    let p := clusterPart s cl
    (q.asking = none → q.askAt ≤ s.now → q.resetAt = none → partRunning s p = true → clusterIn s p cl = true →
      (∀ m ∈ clusterCores cl, coreIdle (s.coreAt m) = true) →
      (∀ w, Spec.Candidate s cl w →
        (∀ v, Spec.Candidate s cl v → clusterLoad s v < clusterLoad s w ∨ (clusterLoad s v = clusterLoad s w ∧ w ≤ v)) →
        ∃ t, exec (.donationRequest cl) s = .next t ∧ t = s.setCluster cl { q with asking := some w }) ∧
      ((∀ v, ¬ Spec.Candidate s cl v) →
        ∃ t, exec (.donationRequest cl) s = .next t ∧ t = s.setCluster cl { q with askAt := s.now + 4096 })) ∧
    (∀ w, q.asking = some w →
      let d := dieOfCluster w
      let answered := s.setCluster cl { q with asking := none, askAt := s.now + 4096 }
      ((∀ g ∈ (s.dieAt d).groups, ¬ Spec.Ships s w cl g) → ∃ t, exec (.donationServe cl) s = .next t ∧ t = answered) ∧
      (∀ g l1 l2, (s.dieAt d).groups = l1 ++ g :: l2 → (∀ h ∈ l1, ¬ Spec.Ships s w cl h) → Spec.Ships s w cl g → g.gid / 16384 = d →
        (∀ h ∈ l1 ++ l2, h.gid ≠ g.gid) →
        ∃ t, exec (.donationServe cl) s = .next t ∧ t.clusterAt cl = answered.clusterAt cl ∧
          (t.dieAt d).groups = l1 ++ { g with cluster := cl } :: l2 ∧
          (∀ m ∈ clusterCores w, Spec.startsAt t g.gid m = []) ∧ (∀ m, m ∉ clusterCores w → t.coreAt m = s.coreAt m) ∧
          t.pkg.engine = s.pkg.engine ++ (clusterCores w).flatMap fun m => (Spec.startsAt s g.gid m).map fun h =>
            let dest := clusterCore cl (coreCol m % 4) (coreRow m % 4)
            ⟨.hart w, dest, { h with hdr := withField h.hdr 31 19 dest }, none⟩)))

/-- R242, R243, R248, R249: a record that reaches a ring with room is stored in the slot of its index and counted; with the ring full or records
spilled, and room in the segment in use, it goes behind the spilled ones. The spill engine's oldest record moves to the next ring slot; with
the last record of a segment the spill goes on in the one that its link names, and the segment joins the pool's list; an error of such an access
stops the spill, before anything has moved, with an event of kind 6. A published record is stored in its slot; that of a void slot is
discarded with an event of kind 5. A credit lowers its writer's occupancy; a reservation takes the next sequence numbers when they fit and no earlier
one waits, and else waits in the order of arrival; a head
slot that stays unpublished for its time-out raises one event; a slot is voided by its sequence
number. -/
def Obligations.RecordsMoveThroughRings : Prop :=
  ∀ (s : State) (p ch : Nat),
    let c := s.chanAt p ch
    (∀ core x a l m d, let i : CtxId := ⟨core, x⟩;
      Spec.Goes s i a l → a.kind = .chan m (.write d) → a.side = (p, ch) → cV c = true → cRtype c = 0 →
      let data := d.toNat % 2 ^ (8 * cBytes c)
      (c.sp = 0 → cDelivered c < cCap c →
        ∃ t, exec (.channelRecordArrival (.ctx core x) 0) s = .next t ∧ (t.ctx i).acc = l ∧
          t.mem = Mem.writeLE s.mem (slotPa c c.wr.toNat) (cBytes c) data ∧
          t.chanAt p ch = { c with wr := c.wr + 1, owners := c.owners ++ [core] }) ∧
      (∀ g pa, c.sp ≠ 0 ∨ cCap c ≤ cDelivered c → c.stopped = false → c.spill[(c.spillHead + c.sp) / segRecords c]? = some g →
        engineHome s p true (g.toNat + (c.spillHead + c.sp) % segRecords c * cBytes c) .write = .ok pa →
        ∃ t, exec (.channelRecordArrival (.ctx core x) 0) s = .next t ∧ (t.ctx i).acc = l ∧
          t.mem = Mem.writeLE s.mem pa (cBytes c) data ∧
          t.chanAt p ch = { c with sp := c.sp + 1, wr := c.wr + 1, owners := c.owners ++ [core] })) ∧
    (∀ core x a l m q d r, let i : CtxId := ⟨core, x⟩;
      Spec.Goes s i a l → a.kind = .chan m (.pub q d) → a.side = (p, ch) → cV c = true → cRtype c = 0 →
      (c.ring ++ c.voids).find? (fun r => r.seq == q) = some r →
      (r.void = false →
        ∃ t, exec (.channelRecordArrival (.ctx core x) 0) s = .next t ∧ (t.ctx i).acc = l ∧
          t.mem = Mem.writeLE s.mem (slotPa c q) (cBytes c) (d.toNat % 2 ^ (8 * cBytes c)) ∧
          t.chanAt p ch = { c with
            wr := c.wr + 1, ring := c.ring.map fun r => if r.seq = q then { r with published := true } else r }) ∧
      (r.void = true → (s.partAt p).chanEvents.length < 64 →
        ∃ t e, exec (.channelRecordArrival (.ctx core x) 0) s = .next t ∧ (t.ctx i).acc = l ∧ t.mem = s.mem ∧
          t.chanAt p ch = { c with voids := c.voids.filter fun r => r.seq != q } ∧
          (t.partAt p).chanEvents = (s.partAt p).chanEvents ++ [e] ∧ e.extractLsb' 56 6 = 5#6)) ∧
    (∀ g rest, c.stopped = false → cInRing c < cCap c → 2 ≤ c.sp → c.spill = g :: rest → c.spillHead < segRecords c →
      let last := c.spillHead + 1 = segRecords c
      let d := (s.partAt p).pools[Fin.ofNat 16 (cPool c)]
      let slot := slotPa c (c.rd + BitVec.ofNat 32 (cInRing c)).toNat
      let source := Spec.Reaches s p (g.toNat + c.spillHead * cBytes c) (cBytes c) .read
      let link := Spec.Reaches s p (g.toNat + 0xFF00) 8 .read
      let list := Spec.Reaches s p (fld d 255 192 + 8 * fld d 159 128) 8 .write
      (∀ pa, ¬ last → source pa →
        ∃ t, exec (.spillRefill p ch) s = .next t ∧
          t.mem = Mem.writeLE s.mem slot (cBytes c) (readMem s pa (cBytes c)) ∧
          t.chanAt p ch = { c with sp := c.sp - 1, spillHead := c.spillHead + 1 }) ∧
      (∀ pa lk wr, last → source pa → link lk → list wr →
        ∃ t, exec (.spillRefill p ch) s = .next t ∧
          t.mem = Mem.writeLE (Mem.writeLE s.mem wr 8 g.toNat) slot (cBytes c) (readMem s pa (cBytes c)) ∧
          (t.partAt p).pools[Fin.ofNat 16 (cPool c)] = withField d 159 128 (fld d 159 128 + 1) ∧
          t.chanAt p ch = { c with sp := c.sp - 1, spill := BitVec.ofNat 64 (readMem s lk 8) :: rest.drop 1, spillHead := 0 }) ∧
      ((∀ pa, ¬ source pa) ∨ (last ∧ ((∀ pa, ¬ link pa) ∨ ∀ pa, ¬ list pa)) → (s.partAt p).chanEvents.length < 64 →
        ∃ t e, exec (.spillRefill p ch) s = .next t ∧ t.mem = s.mem ∧ t.chanAt p ch = { c with stopped := true } ∧
          (t.partAt p).chanEvents = (s.partAt p).chanEvents ++ [e] ∧ e.extractLsb' 56 6 = 6#6)) ∧
    (∀ w, w ∈ c.credits → Spec.Plain c →
      ∃ t, exec (.creditArrival p ch w) s = .next t ∧
        t.chanAt p ch = { c with credits := c.credits.erase w, occ := putN w (cOcc c w - 1) c.occ }) ∧
    (∀ core x a l m n, let i : CtxId := ⟨core, x⟩;
      Spec.Goes s i a l → a.kind = .chan m (.res n) → a.side = (p, ch) → (∀ q, actorsOn s q none = []) →
      (c.asking = [] → (c.res - c.rd).toNat + n ≤ cCap c →
        ∃ t, exec (.reservationGrant core x 0) s = .next t ∧
          t.ctx i = Spec.answered (s.ctx i) a l (c.res.toNat * 2 ^ 32 + m) ∧
          t.chanAt p ch = { c with
            res := c.res + BitVec.ofNat 32 n
            ring := c.ring ++ (List.range n).map fun j => ⟨(c.res.toNat + j) % 2 ^ 32, core, x, false, false, false, false⟩
            headAt := if c.ring = [] then s.now else c.headAt }) ∧
      (c.asking = [] → cCap c < (c.res - c.rd).toNat + n →
        exec (.reservationGrant core x 0) s = .next (s.setChan p ch { c with asking := [(i, a.num)] })) ∧
      (∀ q, c.asking = [q] → q ≠ (i, a.num) → 0 < n → (∃ b ∈ (s.ctx q.1).acc, b.num = q.2 ∧ ∃ r j, b.kind = .chan r (.res j)) →
        exec (.reservationGrant core x 0) s = .next (s.setChan p ch { c with asking := [q, (i, a.num)] }))) ∧
    (∀ r l, c.ring = r :: l → cClass c = 1 → r.published = false → r.void = false → r.reported = false → cTmo c ≠ 0 →
      c.headAt + cTmo c * 1024 ≤ s.now → (s.partAt p).chanEvents.length < 64 →
      ∃ t e, exec (.sharedRingHang p ch) s = .next t ∧ (t.chanAt p ch).ring = { r with reported := true } :: l ∧
        (t.partAt p).chanEvents = (s.partAt p).chanEvents ++ [e] ∧ e.extractLsb' 56 6 = 4#6) ∧
    (∀ v : Word, v.toNat % 2 ^ 12 = ch → cV c = true → cClass c = 1 →
      (∃ r ∈ c.ring, r.seq = v.toNat / 2 ^ 32 ∧ r.published = false ∧ r.void = false) →
      exec (.slotVoid p v) s = .next (s.setChan p ch { c with
        err := c.err + 1, wr := c.wr + 1
        ring := c.ring.map fun r => if r.seq = v.toNat / 2 ^ 32 then { r with void := true } else r })) ∧
    exec (.spillResume p (BitVec.ofNat 64 (ch % 2 ^ 12))) s =
      .next (s.setChan p (ch % 2 ^ 12) { s.chanAt p (ch % 2 ^ 12) with stopped := false })

/-- R237, R241, R246, R251: the hypervisor's write of a descriptor that stays invalid is kept; one that makes a descriptor of R237's conditions
valid, with no need of the pool, starts its counts from 0; a pool that becomes valid has all its segments free. A group that is stuck for
2,048 cycles with no full channel posts a deadlock event of kind 2, and no other while the monitor keeps the members that it reported, until a
member has joined or the group is no longer stuck; with one channel full its bound doubles, of a proxy the reader's side's too, and an event of
kind 1 says so. A proxy whose v is cleared is closed everywhere in its partition. -/
def Obligations.ChannelsAreManaged : Prop :=
  ∀ (s : State) (p ch : Nat) (v : Word),
    let c := s.chanAt p ch
    (∀ dw, dw = 0 ∨ dw = 1 ∨ dw = 7 → cV c = false → (setDw512 c.cfg dw v).getLsbD 0 = false →
      exec (.channelDescriptorWrite p ch dw v true) s = .next (s.setChan p ch { c with cfg := setDw512 c.cfg dw v })) ∧
    (let d : Chan := { Chan.reset with cfg := setDw512 c.cfg 0 v }
     cV c = false → cV d = true → chanOk s p d = true → cBound d ≤ cCap d →
      exec (.channelDescriptorWrite p ch 0 v true) s = .next (s.setChan p ch d)) ∧
    (∀ n : Fin 16, let d := (s.partAt p).pools[n]
      d.getLsbD 0 = false → v.getLsbD 0 = true →
      ∃ t, exec (.poolDescriptorWrite p n.val 0 v) s = .next t ∧
        Spec.OnlyPart s t p { s.partAt p with pools := (s.partAt p).pools.set n (withField (withField d 0 0 1) 159 128 (pTotal d)) }) ∧
    (∀ g t0, getN g (s.partAt p).watch = some ⟨some t0, none⟩ → t0 + 2048 ≤ s.now → groupStuck s p g = true →
      (s.partAt p).chanEvents.length < 64 → memberActors s p g = [] →
      ((∀ i, fullAt s i p g = []) →
        ∃ t e, exec (.channelDeadlock p g) s = .next t ∧ (t.partAt p).chanEvents = (s.partAt p).chanEvents ++ [e] ∧ e.extractLsb' 56 6 = 2#6 ∧
          getN g (t.partAt p).watch = some ⟨some t0, some ⟨memberCtxs s p g, []⟩⟩) ∧
      (let nb := 2 * cBound c
       let (rp, rc) := readerSide s p ch
       let s1 := writeBound s rp rc nb
       (∃ i ∈ memberCtxs s p g, ch ∈ fullAt s i p g) → (∀ i, ∀ m ∈ fullAt s i p g, m = ch) → cClass c ≠ 1 → cWtype c ≠ 1 → nb < 2 ^ 24 →
        0 < cBound c → cBound (s1.chanAt rp rc) = nb → (cProxy c = true → cBound ((writeBound s1 p ch nb).chanAt p ch) = nb) →
        ∃ t e, exec (.channelDeadlock p g) s = .next t ∧ (t.partAt p).chanEvents = (s.partAt p).chanEvents ++ [e] ∧ e.extractLsb' 56 6 = 1#6 ∧
          cBound (t.chanAt p ch) = nb ∧ cBound (t.chanAt rp rc) = nb ∧ (t.chanAt rp rc).grow = (s.chanAt rp rc).grow + 1)) ∧
    (∀ g t0 old, getN g (s.partAt p).watch = some ⟨t0, some old⟩ →
      exec (.channelDeadlock p g) s = .next s ∧
      (g ∈ watchedGroups s p →
        let joined := (∃ i ∈ memberCtxs s p g, i ∉ old.ctxs) ∨ ∃ a ∈ memberActors s p g, a ∉ old.actors
        getN g ((watchTick s p).partAt p).watch = some (if groupStuck s p g = false then ⟨none, none⟩
          else if joined then ⟨some s.now, none⟩ else ⟨some (t0.getD s.now), some old⟩))) ∧
    (cV c = true → cProxy c = true →
      ∃ t, exec (.xpRevoke p ch) s = .next t ∧ (t.chanAt p ch).cfg = withField c.cfg 0 0 0 ∧
        (∀ q ∈ t.cores, q.2.partition = p → ch ∉ q.2.n.fir.opened ∧ ch ∉ q.2.u.fir.opened) ∧
        ∀ q ∈ t.shadows, (s.coreAt (q.1 / 2)).partition = p → ch ∉ q.2.fir.opened)

/-- R258 to R260: a delta record that matches an entry of the churn adds its multiplicity to it, which saturates at ±(2^31 − 1); any other
enters the table, from which, when it is full, the oldest entry goes first. The cork of an only writer forwards the queue's entries in
first-arrival order, but for those of sum 0, which count in gone and whose writers are credited, and one cork behind them.
R264 to R267: the index engine works on the bucket that the key or the cursor names. It looks a key up; it adds a multiplicity, with the
result word of R266, and keeps the live count; a full bucket and an update by 0 of an absent entry change nothing; it returns the next live
entry with the cursor behind it, or goes on with the next bucket, to the end of the array; it clears a bucket and goes on. An index that is not
valid gives code 2, and a bucket that does not translate faults the entry, with the bucket's address (DEDUCED,
notes/assumptions/23.md). -/
def Obligations.DeltasAndIndexesAreServed : Prop :=
  ∀ (s : State) (core : Nat) (x : Ctx) (a : Access) (l : List Access) (p ch : Nat),
    let i : CtxId := ⟨core, x⟩
    let c := s.chanAt p ch
    let tbl := churnOf s (cHdie c) (cUnit c)
    Spec.Goes s i a l →
    (∀ m, a.side = (p, ch) → cV c = true →
      (∀ r, a.kind = .chan m (.emit r) → (∀ e ∈ tbl, ¬ Spec.Absorbs e p ch r) →
        (tbl.length < 4096 →
          ∃ t, exec (.churnRecord core x 0) s = .next t ∧ (t.ctx i).acc = l ∧
            churnOf t (cHdie c) (cUnit c) = tbl ++ [Spec.entered p ch r core]) ∧
        (∀ e rest, tbl = e :: rest → 4096 ≤ tbl.length → Spec.dead e = false →
          ∃ t, exec (.churnRecord core x 0) s = .next t ∧ (t.ctx i).acc = l ∧
            churnOf t (cHdie c) (cUnit c) = rest ++ [Spec.entered p ch r core] ∧
            (t.chanAt e.part e.ch).fly = (s.chanAt e.part e.ch).fly ++ [Spec.forwarded e])) ∧
      (∀ r e l1 l2, a.kind = .chan m (.emit r) → tbl = l1 ++ e :: l2 → Spec.Absorbs e p ch r → (∀ o ∈ l1 ++ l2, ¬ Spec.Absorbs o p ch r) →
        let sum := e.sum + Spec.mult r
        ∃ t, exec (.churnRecord core x 0) s = .next t ∧ (t.ctx i).acc = l ∧
          churnOf t (cHdie c) (cUnit c) =
            l1 ++ (if e.ovf then e else { e with sum := Spec.clamp31 sum, ovf := Spec.saturates sum }) :: l2 ∧
          t.chanAt p ch = { c with credits := c.credits ++ [core], gone := c.gone + 1 }) ∧
      (a.kind = .chan m .cork → cProxy c = false → cXp c = false → cMulti c = false → c.corked = [] →
        let own := tbl.filter fun e => e.part == p && e.ch == ch
        let gone := own.filter Spec.dead
        ∃ t, exec (.churnCork core x 0) s = .next t ∧ (t.ctx i).acc = l ∧
          churnOf t (cHdie c) (cUnit c) = (tbl.filter fun e => !(e.part == p && e.ch == ch)) ∧
          t.chanAt p ch = { c with
            fly := c.fly ++ (own.filter fun e => !Spec.dead e).map Spec.forwarded ++ [(BitVec.ofNat 512 (2 ^ 112), core)]
            credits := c.credits ++ gone.map (·.writer), gone := c.gone + BitVec.ofNat 32 gone.length, unacked := [] })) ∧
    (∀ n op, a.kind = .index n op → a.who.part = p →
      let d := indexAt s p n
      let s1 : State := { s with fresh := s.fresh + 1 }
      let last := 2 ^ ixLb d
      (d.getLsbD 0 = false → ∃ t, exec (.indexOpPerform core x 0) s = .next t ∧
        Only s t i (Spec.answered (s.ctx i) a l (match op with
          | .next _ _ => 0
          | _ => 2 * 2 ^ 40))) ∧
      (∀ e, op = .next last e → d.getLsbD 0 = true → ∃ t, exec (.indexOpPerform core x 0) s = .next t ∧
        Only s t i (Spec.answered (s.ctx i) a l ((2 ^ 64 - 1) * 2 ^ 512))) ∧
      (d.getLsbD 0 = true → ixPlace d op < last →
        let home := engineHome s1 p a.who.sup (ixVa d (ixPlace d op)) (ixNeed op)
        let goesOn (o : IndexOp) : List Access := { a with kind := .index n o, va := BitVec.ofNat 64 (ixVa d (ixPlace d op + 1)) } :: l
        (∀ cause, home = .error cause → ∃ t, exec (.indexOpPerform core x 0) s = .next t ∧
          Only s t i (Spec.faulted (s.ctx i) a l cause (BitVec.ofNat 64 (ixVa d (ixPlace d op))))) ∧
        (∀ pa, home = .ok pa → isPlain pa = true → poisonedIn s pa 512 = none →
          let es := ixEntries (readMem s pa 512)
          (∀ r, op = .look r → ∃ t, exec (.indexOpPerform core x 0) s = .next t ∧
            Only s1 t i (Spec.answered (s.ctx i) a l (Spec.lookWord es r))) ∧
          (∀ r, op = .upd r →
            (∀ j e absent, Spec.updated es r = some (j, e, absent) →
              let sum := Spec.mult e + Spec.mult r
              let new := if Spec.ovf e then Spec.mult e else Spec.clamp31 sum
              let o := Spec.ovf e || Spec.saturates sum
              let live := Spec.bit (decide (new ≠ 0 ∨ o = true)) - (if absent then 0 else 1 : Int)
              let base := storeBytes s1 p (pa + 64 * j) 64 (Spec.withMult e new o).toNat
              ∃ t, exec (.indexOpPerform core x 0) s = .next t ∧ t.mem = base.mem ∧
                t.ctx i = Spec.answered (base.ctx i) a l (Spec.updateWord (Spec.mult e) new o absent) ∧
                Spec.liveOf (indexAt t p n) = Spec.liveOf d + BitVec.ofInt 32 live) ∧
            (Spec.updated es r = none → ∃ t, exec (.indexOpPerform core x 0) s = .next t ∧
              Only s1 t i (Spec.answered (s.ctx i) a l (if Spec.mult r = 0 then 0 else 2 ^ 40)))) ∧
          (∀ b e, op = .next b e →
            (∀ j, (List.range 8).find? (fun j => e ≤ j && (es[j]?).any ixUsed) = some j →
              let cursor := n + (if j = 7 then b + 1 else b) % 2 ^ 24 * 2 ^ 8 + (j + 1) % 8 * 2 ^ 32
              n < 256 → ∃ t, exec (.indexOpPerform core x 0) s = .next t ∧
                Only s1 t i (Spec.answered (s.ctx i) a l ((es[j]?.getD 0).toNat + cursor * 2 ^ 512))) ∧
            (((List.range 8).find? fun j => e ≤ j && (es[j]?).any ixUsed) = none →
              ∃ t, exec (.indexOpPerform core x 0) s = .next t ∧ Only s1 t i { s.ctx i with acc := goesOn (.next (b + 1) 0) })) ∧
          (∀ b, op = .clear b →
            let used := (es.filter ixUsed).length
            let base := storeBytes s1 p pa 512 0
            ∃ t, exec (.indexOpPerform core x 0) s = .next t ∧ t.mem = base.mem ∧
              t.ctx i = Spec.given (base.ctx i) a.num (goesOn (.clear (b + 1))) (fun e => { e with value := e.value + used }) ∧
              Spec.liveOf (indexAt t p n) = Spec.liveOf d - BitVec.ofNat 32 used))))

/-- R221 to R226: a contribution is kept by its member's router until the packets of all its children have come; the router then combines and
forwards them, or, at the root, completes the group. A packet is kept in the same way. The time-out of an armed group sends one flush to each
child that has not answered; a group of one member that nobody contributed to then completes with the identity and that member missing. A
flush makes a router forward what it holds and passes on, and is dropped at a router that has forwarded. A draining group with nothing on its
way is free; that an mcast in an injection slot is still on its way is a reading (DEDUCED, notes/assumptions/25.md). -/
def Obligations.ReductionsProceed : Prop :=
  ∀ (s : State) (p gid : Nat),
    let g := s.rgroupAt p gid
    let root := rRoot g
    (∀ core x a l v, let i : CtxId := ⟨core, x⟩; let r := rRouter g core
      Spec.Goes s i a l → a.kind = .contribute gid g.i64 v → a.who.part = p → g.state = .armed → rMember g core = true →
      r.own = none → r.forwarded = false →
      let g1 := setRouter g core { r with own := some v }
      ∃ t, exec (.redContribution core x 0) s = .next t ∧
        Only (s.setRgroup p gid (if rWaiting g core r = [] then rForward g1 core else g1)) t i { s.ctx i with acc := l }) ∧
    (∀ q rest, let r := rRouter g q.dest
      g.packets = q :: rest → g.state = .armed → r.forwarded = false →
      let r1 : Router := { r with kids := r.kids ++ [(q.side, q.value, q.missing)] }
      let g1 := setRouter { g with packets := rest } q.dest r1
      (rWaiting g q.dest r1 ≠ [] → exec (.redPacketArrival p gid 0) s = .next (s.setRgroup p gid g1)) ∧
      (rWaiting g q.dest r1 = [] → r.own.isSome = true → q.dest ≠ root → ∀ par side,
        rParent g q.dest = some par → (rChildren g par).find? (fun c => c.2 == q.dest) = some (side, q.dest) →
        ∃ t, exec (.redPacketArrival p gid 0) s = .next t ∧
          (t.rgroupAt p gid).packets = rest ++ [⟨par, side, rHeld g r1, rMissing g q.dest r1⟩] ∧ (t.rgroupAt p gid).state = .armed) ∧
      (rWaiting g q.dest r1 = [] → r.own.isSome = true → q.dest = root →
        ∃ t, exec (.redPacketArrival p gid 0) s = .next t ∧ (t.rgroupAt p gid).state = .complete ∧
          (t.rgroupAt p gid).result = rHeld g r1 ∧ (t.rgroupAt p gid).missing = rMissing g root r1)) ∧
    (let r := rRouter g root
     g.state = .armed → r.flushed = false → g.armedAt + g.timeout * 64 ≤ s.now →
      (rWaiting g root r ≠ [] →
        exec (.redTimeout p gid) s = .next (s.setRgroup p gid
          (setRouter { g with flushes := g.flushes ++ (rWaiting g root r).map (·.2) } root { r with flushed := true }))) ∧
      (g.w = 1 → g.h = 1 → g.routers = [] → rMember g root = true →
        ∃ t, exec (.redTimeout p gid) s = .next t ∧ (t.rgroupAt p gid).state = .complete ∧
          (t.rgroupAt p gid).result = some (rIdentity g) ∧ (t.rgroupAt p gid).missing = 1)) ∧
    (∀ n rest, let r := rRouter g n
      g.flushes = n :: rest → g.state = .armed →
      (r.forwarded = true → exec (.redFlushArrival p gid 0) s = .next (s.setRgroup p gid { g with flushes := rest })) ∧
      (r.forwarded = false →
        exec (.redFlushArrival p gid 0) s = .next (s.setRgroup p gid (rForward
          (setRouter { g with flushes := rest ++ (rWaiting g n r).map (·.2) } n { r with flushed := true }) n)))) ∧
    (g.state = .draining → g.packets = [] → g.flushes = [] → mcastInFlight s p gid = false →
      exec (.groupDrainComplete p gid) s = .next (s.setRgroup p gid RGroup.reset))

/-- R272, R274, R277 to R280, R282, R302: a joiner that is alone at its incomplete barrier for the partition's time-out completes with status 4. A barrier that
all members have joined freezes every one of them, with its weights read and both contexts parked with reason 0xA. A pulse of a cell takes a
flit of activations, gives the slots their new sums, and counts; element (i, j) of a result-stationary one, lane j mod 32 of slot 2i + j div 32,
is the exact sum of the old one and its product, rounded once (R143); a weight-stationary one also sends its sums south. A cell that meets a poisoned
slot thaws its gang: its own record has cause 2, the others' 3, and all name it. A gang whose cells have all done their pulses thaws: gstat and the
`gang` instruction's result hold the pulses with cause 0, and the output flits are in place. -/
def Obligations.GangsRun : Prop :=
  (∀ (a b acc : Vec) (i j : Nat), i < 32 → j < 64 →
    ∃ fl, Spec.Delivers fp32 ⟨.rne, false, false⟩
      (Spec.total .rne [Spec.number fp32 false (laneN 32 acc (j % 32)),
        (Spec.number fpBf16 false (laneN 16 a i)).times (Spec.number fpBf16 false (laneN 16 b j))])
      (laneN 32 (rsSlot a b acc (2 * i + j / 32)) (j % 32), fl)) ∧
  ∀ (s : State) (n : Nat) (x : Ctx),
    let i : CtxId := ⟨n, x⟩
    let c := s.coreAt n
    let k := s.ctx i
    (∀ b, k.barrier = some b → c.cell = none → joinedCtxs s = [(i, b)] → rectComplete s x b.desc = false →
      b.time + Nat.max 1 (fld (s.partAt c.partition).gangtmo 31 0) * 64 ≤ s.now →
      ∃ t, exec (.gangBarrierTimeout n x) s = .next t ∧
        Sends s t i (Context.goesOn { (k.pop b.a).putX b.d 4 with barrier := none, reason := 0 } 4) b.d ⟨false, 4⟩) ∧
    (∀ b, k.barrier = some b → c.cell = none →
      let d := b.desc
      (∀ m ∈ gMembers d, (s.coreAt m).cell = none ∧ (∃ e, (s.ctx ⟨m, x⟩).barrier = some e ∧ e.desc = d) ∧ (s.ctx ⟨m, x⟩).acc = [] ∧
        (s.coreAt m).n.halted = false ∧ (s.coreAt m).u.halted = false ∧
        (gRs d = true ∨ poisonedIn s (weightPa m d) (weightBytes (gCfmt d)) = none)) →
      ∃ t, exec (.gangFreeze n x) s = .next t ∧ ∀ m ∈ gMembers d,
        (t.coreAt m).cell = some ⟨x, d, gRs d, gCfmt d, gP d, if gRs d then 0 else readMem s (weightPa m d) (weightBytes (gCfmt d)), 0⟩ ∧
        (t.coreAt m).n.reason = 0xA ∧ (t.coreAt m).u.reason = 0xA ∧
        (gInit d = true → gRs d = true → (t.coreAt m).slots = Vector.replicate 64 0 ∧ (t.coreAt m).slotPoison = 0) ∧
        (gInit d = false → (t.coreAt m).slots = (s.coreAt m).slots)) ∧
    (∀ cell a ar b br, c.cell = some cell → cell.x = x → cell.rs = true → gW cell.desc = 1 → gH cell.desc = 1 →
      (portAt k .west).q = a :: ar → (portAt k .north).q = b :: br → cell.done < cell.pulses → (s.dieAt (dieOf n)).gates = [] →
      gCol cell.desc ≤ coreCol n → gRow cell.desc ≤ coreRow n →
      (c.slotPoison ≠ 0 → n ∈ gMembers cell.desc → ∃ t, exec (.gangPulse n) s = .next t ∧
        ∀ m ∈ gMembers cell.desc, ∀ e, (s.coreAt m).cell = some e → e.desc = cell.desc → (s.ctx ⟨m, e.x⟩).barrier ≠ none →
          (t.coreAt m).cell = none ∧ (t.ctx ⟨m, e.x⟩).barrier = none ∧
          (t.coreAt m).gstat = Spec.w64 ((if m = n then 2 else 3) + e.done * 2 ^ 4 + 2 ^ 24 + 2 ^ 34
            + (coreCol n - gCol cell.desc) * 2 ^ 35 + (coreRow n - gRow cell.desc) * 2 ^ 41)) ∧
      (c.slotPoison = 0 → ∃ t, exec (.gangPulse n) s = .next t ∧
        (∀ j : Fin 64, (t.coreAt n).slots[j] = rsSlot a.bits b.bits c.slots[j] j.val) ∧
        (t.coreAt n).cell = some { cell with done := cell.done + 1 } ∧
        (portAt (t.ctx i) .west).q = ar ∧ (portAt (t.ctx i) .north).q = br)) ∧
    (∀ cell a ar q, c.cell = some cell → cell.x = x → cell.rs = false → gW cell.desc = 1 → gH cell.desc = 1 → gInit cell.desc = true →
      coreCol n = gCol cell.desc → coreRow n = gRow cell.desc →
      (portAt k .west).q = a :: ar → cell.cfmt ≠ 1 → cell.done < cell.pulses → (s.dieAt (dieOf n)).gates = [] → neighbour n .south = some q → q ≠ n →
      portRoom (s.ctx ⟨q, x⟩) .north 1 = true →
      let sums := wsPulse cell.cfmt cell.weights ((List.range 64).map fun j => laneN 16 a.bits j) 0
      ∃ t, exec (.gangPulse n) s = .next t ∧
        (t.coreAt n).slots[0] = sums ∧ (t.coreAt n).slotPoison = c.slotPoison &&& ~~~1#64 ∧
        (t.coreAt n).cell = some { cell with done := cell.done + 1 } ∧ (portAt (t.ctx i) .west).q = ar ∧
        (portAt (t.ctx ⟨q, x⟩) .north).fly = (portAt (s.ctx ⟨q, x⟩) .north).fly ++ [⟨true, sums⟩]) ∧
    (∀ cell, c.cell = some cell → (∀ m ∈ gMembers cell.desc, ∃ e, (s.coreAt m).cell = some e ∧ e.pulses ≤ e.done) →
      ∃ t, exec (.gangThaw n) s = .next t ∧
        ((∀ m ∈ gMembers cell.desc, ∀ y b, (s.ctx ⟨m, y⟩).barrier = some b → portDir b.d = none) →
          ∀ m ∈ gMembers cell.desc, ∀ q, (neighbour m .east = some q → (portAt (t.ctx ⟨q, cell.x⟩) .west).fly = []) ∧
            (neighbour m .south = some q → (portAt (t.ctx ⟨q, cell.x⟩) .north).fly = [])) ∧
        ∀ m ∈ gMembers cell.desc, ∀ e b,
        (s.coreAt m).cell = some e → (s.ctx ⟨m, e.x⟩).barrier = some b →
        (t.coreAt m).cell = none ∧ (t.coreAt m).gstat = BitVec.ofNat 64 (e.done * 16) ∧ (t.ctx ⟨m, e.x⟩).barrier = none ∧
        (portDir b.d = none → b.d ≠ 0 → (t.ctx ⟨m, e.x⟩).fir.readX b.d = BitVec.ofNat 64 (e.done * 16)))

/-- R61 to R69, R348: a doorbell that grows is taken, with the wr of its queue's channel. A well-formed kind 0 record that the scheduler reads
enters its queue as a launch with the lowest free handle; a malformed one without a completion object counts in the channel's err. The group of
a lone launch of one core per group, with no map, is placed in its own die: it is live, and its start message leaves for the class and context
of that core. A forwarded group joins the queue of its die, behind those of its launch that came before it (R63). A group whose firings have all ended retires. That handles and group
identifiers are the lowest free ones is the model's choice (DESIGN CHOICE, notes/assumptions/26.md). -/
def Obligations.GroupsArePlacedAndRetire : Prop :=
  ∀ (s : State) (p : Nat),
    (∀ q total, let h := (s.partAt p).hqchan[Fin.ofNat 64 q]; let ch := fld h 11 0
      q < 64 → h.getLsbD 63 = true → partRunning s p = true → ((getN q (s.partAt p).doorbells).getD 0 : Word) < total →
      cV (s.chanAt p ch) = true → cWtype (s.chanAt p ch) = 1 →
      ∃ t, exec (.hostDoorbell p q total) s = .next t ∧ getN q (t.partAt p).doorbells = some total ∧
        t.chanAt p ch = { s.chanAt p ch with wr := total.setWidth 32 }) ∧
    (∀ q v, let h := (s.partAt p).hqchan[Fin.ofNat 64 q]; let ch := fld h 11 0; let c := s.chanAt p ch
      h.getLsbD 63 = true → partRunning s p = true → cV c = true → cWtype c = 1 → cDelivered c ≠ 0 →
      engRead s p true (cHring c + 64 * (c.rd.toNat % Nat.max (cCap c) 1)) 64 = .ok v →
      let r := BitVec.ofNat 512 v
      let good := recordBad r = false ∧ lrKind r = false ∧ lrDepth r ≤ 8 ∧ lrParent r = 0 ∧ stageAny s p (lrStage r) = true
      (good → ∃ t, exec (.hostQueueRecord p q) s = .next t ∧ t.chanAt p ch = { c with rd := c.rd + 1 } ∧
        t.launchAt p (freeHandle s p) = some ⟨r, true, cRcore c % 4, 0, 0, 0, 0, [], none, .host q⟩ ∧
        (t.dieAt (cRcore c % 4)).queue = (s.dieAt (cRcore c % 4)).queue ++ [⟨p, lrPrio r, BitVec.ofNat 32 (freeHandle s p), none⟩]) ∧
      (recordBad r = true → lrCobj r = 0 →
        ∃ t, exec (.hostQueueRecord p q) s = .next t ∧ t.chanAt p ch = { c with rd := c.rd + 1, err := c.err + 1 })) ∧
    (∀ die it l cl gid, let r := l.record; let n := clusterCore cl 0 0; let cls := lrClass r
      (s.dieAt die).queue = [it] → it.part = p → p < 16 → it.prio < 8 → it.fwd = none → s.launchAt p it.handle.toNat = some l →
      lrMap r = 0 → l.die = die → die ∈ candidateDies s p (lrStage r) → groupCluster s p die (lrStage r) = some cl → freeGid s die = some gid →
      lrGw r = 1 → lrGh r = 1 →
      ∃ t, exec (.groupPlace die p) s = .next t ∧
        (t.dieAt die).groups = (s.dieAt die).groups ++ [⟨gid, p, it.handle, l.next, cl, 1, 0, 0, false, 0⟩] ∧
        (t.dieAt die).queue = (if l.next + 1 < lrGroups r then [it] else []) ∧
        t.launchAt p it.handle.toNat = some { l with next := l.next + 1, placed := l.placed + 1 } ∧
        t.pkg.engine = s.pkg.engine ++ [⟨.sched die, n, ⟨header 0 it.handle.toNat gid (lrDepth r) (lrStage r) 32 n (deviceNum s)
          (hCtx (handlerOf (s.coreAt n) cls)) cls, startPayload l it.handle.toNat l.next 0 0⟩, none⟩]) ∧
    (∀ die it rest, (s.dieAt die).arriving = it :: rest →
      exec (.groupForward die 0) s = .next (s.modDie die fun d => { d with arriving := rest, queue := d.queue ++ [it] }) ∧
      (∀ o l, rest = o :: l → o.part = it.part → o.handle = it.handle → exec (.groupForward die 1) s = .next s)) ∧
    (∀ die gid g l, (s.dieAt die).groups.find? (fun g => g.gid == gid) = some g → g.size ≤ g.ended →
      (∀ q ∈ (s.partAt g.part).killing, q.1 ≠ gid) → s.launchAt g.part g.handle.toNat = some l →
      ∃ t, exec (.groupRetire die gid) s = .next t ∧
        (t.dieAt die).groups = (s.dieAt die).groups.filter (fun o => o.gid != gid) ∧
        t.launchAt g.part g.handle.toNat = some { l with
          retired := l.retired + 1, bad := l.bad + (if g.bad then 1 else 0), badGroups := if g.bad then insNat gid l.badGroups else l.badGroups })

/-- R72, R73, R75, R76, R232: a launch of which every group has retired writes the second doubleword of its completion object and then the
first, and is gone; the child of a device-side launch counts as joined in the firing that launched it and frees its slot of the pool. A replay
of a good graph takes the lowest free patch slot and runs if none of the graph runs, else it waits; of a bad one it answers code 4, and with
five of the graph waiting or running code 5 (which nodes and addresses are bad beyond R75's list: DEDUCED, notes/assumptions/27.md). A node with no successor
that is not the last counts as done in its replay. That a launch does not wait for a read that a kill has left without its entry is a reading
(DEDUCED, notes/assumptions/28.md). -/
def Obligations.LaunchesAndReplaysComplete : Prop :=
  ∀ (s : State) (p : Nat),
    (∀ handle l, s.launchAt p handle = some l → launchDone l = true → launchQuiet s p handle = true → lrSucc l.record = 0 →
      let gone (s : State) : State := s.modPart p fun q => { q with launches := delN handle q.launches }
      (∀ q a b, l.src = .host q → lrCobj l.record ≠ 0 → engDest s p l.sup (lrCobj l.record) = .ok a →
        engDest s p l.sup ((lrCobj l.record + 8) % 2 ^ 64) = .ok b → a < Config.hbmBytes → b < Config.hbmBytes →
        let second := l.retired * 2 ^ 40 + l.bad * 2 ^ 16 + (l.cause.getD 0).toNat * 2 ^ 8
        let first := handle * 2 ^ 32 + (if l.bad = 0 then 1 else 2)
        exec (.launchRetire p handle) s = .next (gone (queueInterrupt (storeBytes (storeBytes s p b 8 second) p a 8 first) p (some q)))) ∧
      (∀ core x tag who, l.src = .device core x tag false who → lrCobj l.record = 0 → (s.fir ⟨core, x⟩).tag = tag →
        ∃ t, exec (.launchRetire p handle) s = .next t ∧ t.launchAt p handle = none ∧ (t.partAt p).poolUsed = (s.partAt p).poolUsed - 1 ∧
          let f := s.fir ⟨core, x⟩
          (t.fir ⟨core, x⟩).live = f.live - 1 ∧ (t.fir ⟨core, x⟩).joined = f.joined + 1 ∧
          (t.fir ⟨core, x⟩).bad = f.bad + (if l.bad = 0 then 0 else 1))) ∧
    (∀ q core x num, let g := q.graph.toNat; let pt := s.partAt p; let i : CtxId := ⟨core, x⟩
      let value (t : State) (v : Nat) : Prop := (t.ctx i).rb = (s.ctx i).rb.map fun e => if e.num = num then { e with value := v } else e
      pt.replayReqs = [q] → q.who = some (core, x, num) →
      (graphCheck s p q.sup g = .ok none →
        ∃ t, exec (.replayRequest p 0) s = .next t ∧ (t.partAt p).replayReqs = [] ∧ (t.partAt p).replays = pt.replays ∧ value t (2 ^ 63 + 4)) ∧
      (∀ ns, graphCheck s p q.sup g = .ok (some ns) → (graphDie s p q.sup g).isSome = true →
        let own := pt.replays.filter fun r => sameGraph s p r.sup r.graph.toNat g
        (5 ≤ own.length →
          ∃ t, exec (.replayRequest p 0) s = .next t ∧ (t.partAt p).replayReqs = [] ∧ (t.partAt p).replays = pt.replays ∧ value t (2 ^ 63 + 5)) ∧
        (∀ slot s1 s2, own.length < 5 → slot < 5 → (∀ r ∈ own, r.slot ≠ slot) → (∀ k < slot, ∃ r ∈ own, r.slot = k) →
          patchSlot (s.modPart p fun t => { t with replayReqs := [] }) p q.sup g slot q.patch = (s1, []) →
          graphHeader s1 p q.sup g true own.length = (s2, []) →
          ∃ t r, exec (.replayRequest p 0) s = .next t ∧ (t.partAt p).replayReqs = [] ∧ (t.partAt p).replays = pt.replays ++ [r] ∧ value t slot ∧
            r.graph = q.graph ∧ r.slot = slot ∧ r.nodes = ns.length ∧ r.running = own.isEmpty ∧
            r.counts = (if own.isEmpty then ns.map fun x => giNpred x.2 else [])))) ∧
    (∀ handle l va node r info, let s2 := s.modPart p fun q => { q with launches := delN handle q.launches }
      s.launchAt p handle = some l → l.src = .graph va node → (s.partAt p).replays = [r] → r.running = true → r.graph = va →
      launchDone l = true → launchQuiet s p handle = true → lrCobj l.record = 0 → l.bad = 0 → r.done + 1 < r.nodes →
      graphNode s2 p r.sup va.toNat node = .ok info → giSuccs info.2 = [] →
      ∃ t, exec (.graphNodeRetire p handle) s = .next t ∧ t.launchAt p handle = none ∧ (t.partAt p).replays = [{ r with done := r.done + 1 }])

/-- R21, R23, R365: an image whose signature does not hold loads nothing and its load returns status 1; one that fails a later step changes
nothing but the status; one that passes them all is added to the partition's loads with its footprints' cores. A load that holds no handlers,
windows, channels, graphs or page-table entries and started no live launch is unloaded: its range entries and indexes are freed. What R17 to R22
leave to the loader is the model's choice (DESIGN CHOICE, notes/assumptions/26.md). -/
def Obligations.ImagesLoadAndUnload : Prop :=
  ∀ (s : State) (r : LoadReq),
    (r.sys = false →
      (signatureOk r.image (partKey s r.part) = false →
        exec (.imageLoad r) s = .next (s.modPart r.part fun q => { q with loadStatus := 1 })) ∧
      (∀ c, signatureOk r.image (partKey s r.part) = true → loadSteps s r = .error c →
        exec (.imageLoad r) s = .next (s.modPart r.part fun q => { q with loadStatus := c })) ∧
      (∀ t, signatureOk r.image (partKey s r.part) = true → loadSteps s r = .ok (t, []) →
        exec (.imageLoad r) s = .next t ∧ (t.partAt r.part).loadStatus = 0 ∧
          ∃ l, (t.partAt r.part).loads = (s.partAt r.part).loads ++ [l] ∧
            l.cores = r.origins.flatMap fun o => subCores o 0 0 (hdFw (imgHeader r.image)) (hdFh (imgHeader r.image)))) ∧
    (∀ p l, (s.partAt p).loads.find? (fun o => o.handle == l.handle) = some l →
      l.binds = [] → l.wins = [] → l.channels = [] → l.graphs = [] → l.ptes = [] → (∀ q ∈ (s.partAt p).launches, q.2.src ≠ .image l.handle) →
      (∀ q ∈ (s.partAt p).imageRecs, q.2.2 ≠ l.handle) →
      ∃ t, exec (.imageUnload p l.handle) s = .next t ∧ (t.partAt p).loadStatus = 0 ∧
        (t.partAt p).loads = (s.partAt p).loads.filter (fun o => o.handle != l.handle) ∧
        (∀ i ∈ l.ranges, i < 32 → (t.partAt p).ranges[Fin.ofNat 32 i] = 0) ∧
        (∀ i, i ∈ l.indexes → indexAt t p i = 0))

/-- R110, R111, R118 to R123, R126: a kick whose well-formed descriptor lies in the requester's scratchpad puts its request into the cluster's
queue and answers 0; a malformed one, which an address that is no multiple of 64 is too, ends at once. A chunk of a request into its scratchpad,
every source page translated and every byte read, writes the lines that its bytes cover (its flits pass the paths, where an armed error strikes one: R130), and the request goes on behind them or, at
its end, leaves the queue; an empty line makes it wait; a fault stops the request with a copy-fault record, and a full queue the service hart,
which keeps the record. Replay makes a faulted request active again, cancel releases its
remaining lines and takes it out. A walk that ends at a leaf enters it in the cluster's translation cache as its newest entry. All this with no earlier message of the hart that has not
arrived (R294), and the walk with no error armed (R130). What a stalled
service hart goes on with is the model's choice (DESIGN CHOICE, notes/assumptions/17.md). -/
def Obligations.HartRequestsProceed : Prop :=
  ∀ (s : State) (cl : Nat),
    let c := s.clusterAt cl
    let alone := ∀ m ∈ s.pkg.engine, m.src ≠ .hart cl
    (∀ core x a, let i : CtxId := ⟨core, x⟩
      let d := readMem s (scratchPa core a.va.toNat) 64
      let field (hi lo : Nat) : Nat := d / 2 ^ lo % 2 ^ (hi + 1 - lo)
      Spec.Goes s i a [] → a.kind = .kick → a.who.core = core → core < 4608 → clusterOf core = cl → c.reqs = [] → c.waiting = [] →
      c.stalled = none → c.resetAt = none → a.va.toNat % 128 ≤ 64 → a.va.toNat < 0x18000 → lineEmpty s core (a.va.toNat / 128) = false →
      poisonedIn s (scratchPa core a.va.toNat) 64 = none → alone →
      let sound := a.va.toNat % 64 = 0 ∧ field 287 272 = 0 ∧ field 383 322 = 0 ∧ field 511 448 = 0 ∧ field 191 128 % 8 = 0 ∧
        field 271 256 * field 319 288 < 2 ^ 32
      (sound → 0x18000 ≤ field 127 64 → 0 < field 271 256 → 0 < field 319 288 →
        ∃ t q, exec (.copyKick core x 0) s = .next t ∧ (t.clusterAt cl).reqs = [q] ∧ (t.ctx i).acc = [] ∧
          (t.ctx i).rb = (s.ctx i).rb.map (fun e => if e.num = a.num then { e with value := 0 } else e) ∧
          q.slot = 0 ∧ q.state = .active ∧ q.who = a.who ∧ q.cursor = 0 ∧ q.src.toNat = field 63 0 ∧ q.dst.toNat = field 127 64 ∧
          q.mbox.toNat = field 191 128 ∧ q.sstride = field 223 192 ∧ q.dstride = field 255 224 ∧
          q.rows = field 271 256 ∧ q.rowbytes = field 319 288) ∧
      (¬ sound → 0x18000 ≤ field 127 64 → field 191 128 = 0 → field 320 320 = 0 →
        ∃ t, exec (.copyKick core x 0) s = .next t ∧ (t.clusterAt cl).reqs = [] ∧ (t.ctx i).acc = [] ∧ t.mem = s.mem)) ∧
    (∀ r, let stop := Nat.min (r.cursor + 4096) r.total
      let sources := pieceHomes cl r.who .read r.srcAt (pieces r.rowbytes r.srcAt 4096 r.cursor stop) (bump s) []
      c.reqs = [r] → r.state = .active → r.cancel = false → c.resetAt = none → c.stalled = none → r.after = none → r.win = none → alone →
      (∀ l s1, sources = (.ok l, s1) → r.toScratch = true →
        (∀ v, readPieces s1 r r.cursor l 0 = some (.ok v) →
          let t := (List.range ((stop - r.cursor + 127) / 128)).foldl (fun (s : State) j => fillStore s r.who.core
            (r.dst.toNat / 128 + r.cursor / 128 + j) (v / 2 ^ (1024 * j) % 2 ^ (8 * Nat.min 128 (stop - r.cursor - 128 * j)))) (piecesPass s1 cl r.who.part l)
          (stop < r.total → exec (.serviceHartChunk cl r.slot) s = .next (modReq t cl r.slot fun q => { q with cursor := stop })) ∧
          (stop = r.total → r.mbox = 0 → r.notify = false → exec (.serviceHartChunk cl r.slot) s = .next (dropReq t cl r.slot))) ∧
        (readPieces s1 r r.cursor l 0 = none → exec (.serviceHartChunk cl r.slot) s = .next s1)) ∧
      (∀ va cause s1, (sources = (.error (va, cause), s1) ∨
          ∃ l, sources = (.ok l, s1) ∧ r.toScratch = true ∧ readPieces s1 r r.cursor l 0 = some (.error (va, cause))) →
        cl < 288 → r.who.core < 4608 → r.slot < 32 → cause < 256 → r.cursor < 2 ^ 32 →
        ∃ t, exec (.serviceHartChunk cl r.slot) s = .next t ∧
          (t.clusterAt cl).reqs = (s1.clusterAt cl).reqs.map (fun q => if q.slot = r.slot then { q with state := .faulted } else q) ∧
          ∃ e : BitVec 256, e.extractLsb' 192 64 = BitVec.ofNat 64 va ∧ e.extractLsb' 160 32 = BitVec.ofNat 32 r.cursor ∧ e.extractLsb' 64 1 = 0 ∧
            ((s1.partAt r.who.part).copyFaults.length < 64 →
              (t.partAt r.who.part).copyFaults = (s1.partAt r.who.part).copyFaults ++ [e]) ∧
            (64 ≤ (s1.partAt r.who.part).copyFaults.length → (t.clusterAt cl).stalled = some (r.who.part, e) ∧
              (t.partAt r.who.part).copyFaults = (s1.partAt r.who.part).copyFaults))) ∧
    (∀ r, c.reqs = [r] → r.state = .faulted → r.win = none →
      exec (.shReplay cl r.slot) s = .next (s.modCluster cl fun c => { c with reqs := [{ r with state := .active, replayed := true }] }) ∧
      (r.mbox = 0 → r.notify = false → r.toScratch = true → c.stalled = none → c.resetAt = none →
        exec (.shCancel cl r.slot) s = .next (dropReq ((r.linesFrom r.cursor).foldl (fun s l => releaseLine s r.who.core l) s) cl r.slot))) ∧
    (∀ p (va : Word) a1 a2 a3 pa perm, let root := (s.partAt p).ptroot
      let at_ (tbl l : Nat) := readMem s (tbl + 8 * (va.toNat / 2 ^ (39 - 9 * l) % 512)) 8
      va.toNat < 2 ^ 48 → root.getLsbD 0 = true → fld root 49 12 * 4096 < Config.hbmBytes →
      (∀ e ∈ c.tcache, e.covers p va.toNat = false) → c.tcache.length ≤ 512 → (∀ a, (getLog s a).inject.getLsbD 0 = false) →
      walkEntry 0 (at_ (fld root 49 12 * 4096) 0) = .table a1 → walkEntry 1 (at_ a1 1) = .table a2 → walkEntry 2 (at_ a2 2) = .table a3 →
      walkEntry 3 (at_ a3 3) = .page 4096 pa perm →
      exec (.translationWalk cl p va) s = .next (s.modCluster cl fun c => { c with
        tcache := ⟨p, va.toNat / 4096, 4096, pa, BitVec.ofNat 3 perm⟩ :: c.tcache.take 511 }))

/-- R128, R129, R335: an error that is corrected is only logged. An uncorrectable one in memory poisons the protected word that it hits, and a
parity error in a register is a fault that its context is to report; of a frozen member it thaws the gang too, with cause 2 and kind 2 in
its record (R280, R282). The first entry of an empty log takes kind, address, the tag of the access, of a core's array the core's partition, and
count 1. That HBM's protected word is 8 bytes is
the model's choice (notes/assumptions/4.md). -/
def Obligations.ErrorsAreDetected : Prop :=
  ∀ (s : State) (e : ErrorReport), getLog s e.array = ErrLog.reset → (∀ n, (s.coreAt n).partition < 16) →
    let logged (t : State) (kind : Nat) : Prop :=
      let x := (getLog t e.array).entries[0]
      fld x 123 120 = kind ∧ fld x 49 0 = e.address % 2 ^ 50 ∧ fld x 159 144 = 1 ∧ fld x 191 160 = e.tag.toNat ∧
        ∀ c n, e.array = .core c n → fld x 127 124 = (s.coreAt c).partition
    (e.kind = .corrected → ∃ t, exec (.errorDetected e) s = .next t ∧ logged t 1 ∧ t.mem = s.mem ∧ t.poison = s.poison ∧
      ∀ i, t.ctx i = s.ctx i) ∧
    (∀ pa, e.kind = .uncorrectable → e.target = .memory pa →
      ∃ t, exec (.errorDetected e) s = .next t ∧ logged t 2 ∧ t.poison = insNat (protBase pa) s.poison ∧ t.mem = s.mem) ∧
    (∀ core x r cell b, e.kind = .parity → e.target = .xreg core x r → (s.coreAt core).cell = some cell → core ∈ gMembers cell.desc →
      (s.ctx ⟨core, cell.x⟩).barrier = some b →
      ∃ t, exec (.errorDetected e) s = .next t ∧ logged t 3 ∧ (t.coreAt core).cell = none ∧ (t.ctx ⟨core, cell.x⟩).barrier = none ∧
        fld (t.coreAt core).gstat 3 0 = 2 ∧ fld (t.coreAt core).gstat 33 24 = 2 ∧ (t.ctx ⟨core, x⟩).parity = true) ∧
    (∀ core x r, e.kind = .parity → e.target = .xreg core x r → (s.coreAt core).cell = none →
      ∃ t, exec (.errorDetected e) s = .next t ∧ logged t 3 ∧ (t.ctx ⟨core, x⟩).parity = true ∧
        ∀ q : Reg, q ≠ r → (t.fir ⟨core, x⟩).readX q = (s.fir ⟨core, x⟩).readX q)

/-- R328, R330 to R332: a preq on a running context halts it at once; what it has issued and not performed will be issued again, a context that
is named halted gives a kind 5 event, which waits for room in the queue (R320), as the end of a request does. The hart's save writes the record with the context's pc and registers, empties the context, and ends the
request with a kind 6 event; it holds park reason 7, or 0xA while the core's gang is frozen (R273), and skid 15 when no record is queued. A
presume restores pc and registers from the record; a partition that is stopping ignores it (R355). A pdiscard ends the saved firing with cause
0x10 toward its group. That a save, a restore and the halt at a boundary are one step each is the model's choice (notes/assumptions/1.md),
as is that the record's internal form is kept beside it (DESIGN CHOICE, notes/assumptions/22.md). -/
def Obligations.PreemptionProceeds : Prop :=
  ∀ (s : State) (p : Nat) (i : CtxId) (v : Word),
    let k := s.ctx i
    let q := s.partAt p
    let token := v.toNat % 2 ^ 16
    let frozen := (s.coreAt i.core).cell.isSome
    let room := q.faultEvents.length < 64
    let event (t : State) (kind : Nat) : Prop := ∃ e, (t.partAt p).faultEvents = q.faultEvents ++ [e] ∧ fld e 7 0 = kind ∧ fld e 79 64 = token
    (q.pstat.getLsbD 0 = false → targetBad s p v = false → targetsOf v = [i] →
      (k.halted = false → (s.coreAt i.core).cell = none → k.barrier = none → k.trapping = none →
        ∃ t, exec (.preq p v) s = .next t ∧ (t.ctx i).halted = true ∧ (t.ctx i).reason = 7 ∧ (t.ctx i).token = BitVec.ofNat 16 token ∧
          (t.ctx i).fir.x = k.fir.x ∧ (t.ctx i).fir.pc = k.fir.pc ∧
          (∀ e ∈ (t.ctx i).rb, e.state = .pending → ∀ a ∈ k.acc, a.feeds e.num = true → a.kind.commits = true) ∧
          (t.partAt p).request = some (.halt, [i], BitVec.ofNat 16 token) ∧ (t.partAt p).pstat.getLsbD 1 = true ∧ (room → event t 5) ∧
          (¬ room → (t.partAt p).faultEvents = q.faultEvents ∧ (t.partAt p).haltEvent = some (BitVec.ofNat 16 token))) ∧
      (∀ r, room → q.haltEvent = none → k.halted = true → k.saved = true → (s.coreAt i.core).cell = none → getN (shadowKey i) s.shadows = some r → r.killed = [] →
        let rd (off n : Nat) : Nat := (recordRead s p (recordVa s p i) off n).getD 0
        (∀ j < 8, (recordRead s p (recordVa s p i) (4096 * j) 8).isSome = true) → partState s p ≠ 3 →
        ∃ t, exec (.presume p v) s = .next t ∧ (t.ctx i).halted = false ∧ (t.ctx i).saved = false ∧
          (t.ctx i).running = (rd 0 8 % 2 ^ 32 != 0) ∧ (t.ctx i).fir.pc = BitVec.ofNat 64 (rd 8 8) ∧
          (∀ n : Fin 32, (t.ctx i).fir.x[n] = BitVec.ofNat 64 (rd (0x100 + 8 * n.val) 8)) ∧
          (∀ n : Fin 8, (t.ctx i).fir.m[n] = BitVec.ofNat 64 (rd (0x200 + 8 * n.val) 8)) ∧
          (∀ n : Fin 28, (t.ctx i).fir.v[n] = BitVec.ofNat 1024 (rd (0x1000 + 128 * n.val) 128)) ∧
          (t.partAt p).request = none ∧ event t 6) ∧
      (∀ r, room → q.haltEvent = none → k.halted = true → k.saved = true → getN (shadowKey i) s.shadows = some r → r.running = true → r.yieldSlot = none → queuedMsgs r = [] →
        ∃ t, exec (.pdiscard p v) s = .next t ∧ (t.ctx i).halted = false ∧ (t.ctx i).running = false ∧
          t.dies = (countEnd s p r.fir.launch.toNat r.fir.group.toNat r.fir.groupStart (.faulted 0x10)).dies ∧ getN (shadowKey i) t.shadows = none ∧ event t 6)) ∧
    (∀ s1, room → q.haltEvent = none → (s.coreAt i.core).partition = p → q.request = some (.halt, [i], BitVec.ofNat 16 token) → q.pstat.getLsbD 1 = true → k.trapping = none →
      savable k = true → writeRecord s p (recordVa s p i) (saveRecord i.x k frozen s.fresh) = some s1 →
      ∃ t, exec (.contextSave i.core i.x) s = .next t ∧ t.mem = s1.mem ∧ (t.ctx i).running = false ∧ (t.ctx i).halted = true ∧
        (t.ctx i).saved = true ∧ getN (shadowKey i) t.shadows = some { k with killed := [] } ∧ (t.partAt p).request = none ∧ event t 6) ∧
    (partState s p = 3 → exec (.presume p v) s = .next s) ∧
    (∃ head, (0, 8, head) ∈ saveRecord i.x k frozen s.fresh ∧ head / 2 ^ 32 % 2 ^ 4 = (if frozen then 0xA else 7) ∧
      (k.sfq = [] → head / 2 ^ 44 = 15)) ∧
    (0x8, 8, k.fir.pc.toNat) ∈ saveRecord i.x k frozen s.fresh ∧
    (∀ r : Reg, portDir r = none → (0x100 + 8 * r.val, 8, (k.fir.readX r).toNat) ∈ saveRecord i.x k frozen s.fresh) ∧
    (∀ r : Fin 28, (0x1000 + 128 * r.val, 128, k.fir.v[r].toNat) ∈ saveRecord i.x k frozen s.fresh)

/-- R333, R334, R336: gkill of a live group ends its firings in the partition, whose issued accesses go on; once their stores are done and the
group's requests cancelled, a kind 7 event reports how many, and of no live group of the partition at once none. creset ends the firings of its
cluster, saved ones too; a posted access or a message that is still there 256 cycles later is dropped with a kind 8 event; from cycle 4,096 on the reset ends with the cluster's translation cache empty, its windows invalid and a kind 4 event. A silent
stretch of the watchdog's interval is reported once. While the fault event queue is full, what appends an event waits (R320). What a kill takes at once and what a completed reset loses are readings (DEDUCED,
notes/assumptions/28.md). -/
def Obligations.KillsAndResetsContain : Prop :=
  ∀ (s : State) (p : Nat),
    let q := s.partAt p
    let room := q.faultEvents.length < 64
    let event (t : State) (kind value : Nat) : Prop :=
      ∃ e, (t.partAt p).faultEvents = q.faultEvents ++ [e] ∧ fld e 7 0 = kind ∧ e.extractLsb' 192 64 = BitVec.ofNat 64 value
    (∀ (v : Word), let g := v.toNat % 2 ^ 16
      (findGroup s g = none → ∃ t, exec (.gkill p v) s = .next t ∧ t.cores = s.cores ∧ (room → event t 7 0) ∧ (¬ room → t = s)) ∧
      (∀ n c gr, s.cores = [(n, c)] → c.partition = p → n < 4608 → findGroup s g = some gr → gr.part = p →
        c.cell = none → c.rqtop = c.rqbot → c.n.running = true → c.n.fir.group.toNat = g → c.n.fir.groupStart = false → c.n.barrier = none →
        c.n.runq = [] → c.n.hold = none → c.n.yieldSlot = none → c.n.fir.range = none →
        c.u.running = false → c.u.runq = [] → c.u.hold = none → c.u.yieldSlot = none → s.pkg.engine = [] →
        ∃ t, exec (.gkill p v) s = .next t ∧ (t.ctx ⟨n, .n⟩).running = false ∧ (∀ a ∈ c.n.acc, a.kind.isStore = true → a ∈ (t.ctx ⟨n, .n⟩).acc) ∧
          (t.partAt p).killing = q.killing ++ [(g, 1)] ∧ (t.partAt p).faultEvents = q.faultEvents)) ∧
    (∀ g n, q.killing = [(g, n)] →
      (killQuiet s p g = false ∨ ¬ room → killProgress s p = s) ∧
      (killQuiet s p g = true → room → (killProgress s p).cores = s.cores ∧ event (killProgress s p) 7 n ∧ ((killProgress s p).partAt p).killing = [])) ∧
    (∀ cl, let v : Word := BitVec.ofNat 64 (cl + 512)
      cl < 288 → partState s p ≠ 3 → (s.clusterAt cl).resetAt = none →
      (∀ n ∈ clusterCores cl, (s.coreAt n).cell = none ∧ (s.coreAt n).n.barrier = none ∧ (s.coreAt n).u.barrier = none) →
      ∃ t, exec (.creset p v) s = .next t ∧ (t.clusterAt cl).resetAt = some s.now ∧
        ∀ n ∈ clusterCores cl, ∀ x, (t.ctx ⟨n, x⟩).running = false ∧ (t.ctx ⟨n, x⟩).yieldSlot = none ∧
          getN (shadowKey ⟨n, x⟩) t.shadows = none) ∧
    (∀ core x t0 a l, let i : CtxId := ⟨core, x⟩
      (s.clusterAt (clusterOf core)).resetAt = some t0 → t0 + 256 ≤ s.now → (s.ctx i).acc = a :: l → a.kind.posted = true → a.who.part = p →
      ∃ t, exec (.resetTailTimeout core x 0) s = .next t ∧ (room → (t.ctx i).acc = l ∧ event t 8 (a.pa.getD 0)) ∧ (¬ room → t = s)) ∧
    (∀ core x t0 j l, let i : CtxId := ⟨core, x⟩
      (s.clusterAt (clusterOf core)).resetAt = some t0 → t0 + 256 ≤ s.now → (s.ctx i).inj = j :: l → (s.coreAt core).partition = p →
      ∃ t, exec (.resetTailTimeout core x (s.ctx i).acc.length) s = .next t ∧ (room → (t.ctx i).inj = l ∧ event t 8 0) ∧ (¬ room → t = s)) ∧
    (∀ cl t0, room → (s.clusterAt cl).resetAt = some t0 → t0 + 4096 ≤ s.now → (s.clusterAt cl).reqs = [] → (s.clusterAt cl).waiting = [] → clusterPart s cl = p → partState s p ≠ 3 →
      (∀ n ∈ clusterCores cl, ∀ x, (s.ctx ⟨n, x⟩).runq = [] ∧ (s.ctx ⟨n, x⟩).hold = none ∧ (s.ctx ⟨n, x⟩).acc = [] ∧ (s.ctx ⟨n, x⟩).inj = []) →
      ∃ t, exec (.clusterResetComplete cl) s = .next t ∧ (t.clusterAt cl).resetAt = none ∧ (t.clusterAt cl).tcache = [] ∧ event t 4 cl ∧
        ∀ n ∈ clusterCores cl, (t.coreAt n).n.running = false ∧ (t.coreAt n).u.running = false ∧ (t.coreAt n).accowner = 0 ∧
          (∀ e : Fin 8, (t.coreAt n).wins[e].bits.getLsbD 0 = false) ∧ (t.coreAt n).n.rb = [] ∧ (t.coreAt n).u.rb = []) ∧
    (fld q.wdog 31 0 ≠ 0 → q.wreported = false → fld q.wdog 31 0 * 1024 ≤ q.wcount → fld q.hangbuf 63 12 = 0 →
      ∃ t, exec (.watchdogExpiry p) s = .next t ∧ (room → (t.partAt p).wreported = true ∧ t.mem = s.mem ∧ event t 3 q.wcount) ∧ (¬ room → t = s))

/-- R357 to R359: a cold start and a warm one put the device at stage 0x01 with nothing running and no partition, a warm one with the cycle
counter going on; one that is asked for while another runs waits for it. The boot goes from stage to stage, a failure stops it with its error,
stage 0x05 leaves each die's colrep as R77 lays it out, stage 0x06 clears all memory, stage 0x07 starts the hypervisor on every management core,
and at 0x0F the start is over. A recovery chunk is staged in die 0's hampers, and rgo starts again at stage 0x03 from them. That chunk k lies in
the hamper of core k is the model's choice (DESIGN CHOICE, notes/assumptions/34.md), as is where the hypervisor starts (notes/assumptions/9.md). -/
def Obligations.DeviceStarts : Prop :=
  ∀ (s : State) (v : Word),
    let k := s.pkg
    let at_ (t : State) (st : Nat) : Prop := t.pkg.stage = BitVec.ofNat 8 st ∧ t.pkg.error = 0 ∧ t.pkg.starting = true
    let failed (t : State) (e : BitVec 8) (d : BitVec 16) : Prop :=
      t.pkg.stage = k.stage ∧ t.pkg.error = e ∧ t.pkg.detail = d ∧ t.pkg.starting = false
    let fresh (t : State) : Prop := at_ t 1 ∧ t.parts = [] ∧ t.clusters = [] ∧ t.mem = s.mem ∧
      ∀ i, (t.ctx i).running = false ∧ (t.ctx i).acc = [] ∧ (t.ctx i).runq = []
    (k.starting = false →
      (∃ t, exec (.devctlColdStart v) s = .next t ∧ fresh t ∧ t.dies = [] ∧ t.cycle = 0 ∧ t.pkg.warm = false) ∧
      (∃ t, exec (.devctlWarmStart v) s = .next t ∧ fresh t ∧ t.cycle = s.cycle ∧ t.pkg.warm = true ∧ t.pkg.keep = v.getLsbD 2 ∧
        ∀ d, t.dieAt d = { Die.reset with colrep := (s.dieAt d).colrep })) ∧
    (k.starting = true → exec (.devctlWarmStart v) s = .next (s.modPkg fun k => { k with nextStart := some v })) ∧
    (∀ err detail, k.starting = true → k.error = 0 → k.nextStart = none →
      ∃ t, exec (.bootStage err detail) s = .next t ∧
        (k.stage = 1 → at_ t 2) ∧
        (k.stage = 2 → if firmware s = [] then failed t 1 0 else at_ t 3) ∧
        (k.stage = 3 → verifyFirmware (firmware s) ≠ 0 → failed t (verifyFirmware (firmware s)) 0) ∧
        (k.stage = 3 → verifyFirmware (firmware s) = 0 → at_ t (if k.warm then (if k.keep then 7 else 6) else 4)) ∧
        (k.stage = 4 → if err = 5 ∧ detail.toNat < 8 then failed t 5 detail else at_ t 5) ∧
        (k.stage = 5 → if err = 6 ∧ detail.toNat < 4 then failed t 6 detail else at_ t 6 ∧
          ∀ d < 4, let w := (t.dieAt d).colrep.toNat
            w < 2 ^ 16 ∧ w / 2 ^ 14 % 2 = 0 ∧ w / 2 ^ 6 % 2 = 0 ∧ w % 2 ^ 6 < 50 ∧ w / 2 ^ 8 % 2 ^ 6 < 50 ∧ (w / 2 ^ 15 = 1 → w % 2 ^ 6 < w / 2 ^ 8 % 2 ^ 6)) ∧
        (k.stage = 6 → at_ t 7 ∧ t.mem = [] ∧ t.poison = [] ∧ ∀ n, (t.coreAt n).empty = []) ∧
        (k.stage = 7 → if err = 7 then failed t 7 0 else at_ t 8 ∧ ∀ m : Fin 4, t.pkg.mgmt[m].hstatus = 1 ∧
          (t.ctx ⟨4608 + m.val, .n⟩).running = true ∧ (t.ctx ⟨4608 + m.val, .n⟩).fir.sup = true) ∧
        (k.stage = 8 → t.pkg.stage = 0x0F ∧ t.pkg.error = 0 ∧ t.pkg.starting = false)) ∧
    (k.error ≠ 0 → v.toNat < 256 → exec (.recoveryChunk v) s = .next (writeMem (s.modPkg fun k => { k with rchunk := v })
      (hamperPa v.toNat 0) (2 ^ 20) (Mem.readLE k.rbuf 0 (2 ^ 20)))) ∧
    (v.toNat < 256 → dieOf v.toNat = 0) ∧
    (k.starting = false → k.error ≠ 0 → k.error ≠ 8 →
      ∃ t, exec .recoveryGo s = .next t ∧ at_ t 3 ∧ t.pkg.stagedUse = true)

/-- R308, R347, R349 to R353: a host write through BAR2 stores its bytes in HBM at bar2base, and a read is answered with them, or with
a poisoned TLP; a read of devstat is answered with stage, error and detail. The last doubleword of
hmbox signals the hypervisor. A link whose eighth replay fails goes down, one that goes down signals it, retraining brings a link up or leaves
it down. A peer's store that an export entry and the grants allow is performed at its home, one that they refuse counts; its load and
its atomic are answered (R307), poison with cause 0x0F. A flit for another
device goes out on the link of its route. That a peer acts in user mode of the export entry's partition is a reading (DEDUCED,
notes/assumptions/11.md). -/
def Obligations.OutsideAgentsReachTheDevice : Prop :=
  ∀ (s : State),
    (∀ a : HostAcc, a.bar2 = true → 0 < a.size → a.size ≤ 8 → a.offset + a.size ≤ 2 ^ s.pkg.bar2log →
      s.pkg.bar2base.toNat + a.offset + a.size ≤ Config.hbmBytes →
      let pa := s.pkg.bar2base.toNat + a.offset
      let answer : Option Word := if poisonedIn s pa a.size = none then some (BitVec.ofNat 64 (readMem s pa a.size)) else none
      exec (.hostAccess a) s = .next (if a.write then writeMem s pa a.size (a.value.toNat % 2 ^ (8 * a.size))
        else { s with pkg := { s.pkg with toHost := .reply answer :: s.pkg.toHost } })) ∧
    (∀ a : HostAcc, a.bar2 = false → a.write = false → a.size = 8 → a.offset = 0 →
      exec (.hostAccess a) s = .next { s with pkg := { s.pkg with toHost := .reply (some (BitVec.ofNat 64
        (s.pkg.stage.toNat * 2 ^ 24 + s.pkg.error.toNat * 2 ^ 16 + s.pkg.detail.toNat))) :: s.pkg.toHost } }) ∧
    (∀ v : Word, ∃ t, exec (.hmboxSignal v) s = .next t ∧ t.pkg.hmbox = Mem.writeLE s.pkg.hmbox 0xFF8 8 v.toNat ∧
      ∀ d : Fin 4, t.pkg.mgmt[d].hevent = (s.pkg.mgmt[d].hevent ||| 1)) ∧
    (∀ l : Fin 16, s.pkg.links[l].up = true →
      (s.pkg.links[l].fails < 8 → ∃ t, exec (.linkReplay l.val) s = .next t ∧ t.pkg.links[l] = ⟨true, s.pkg.links[l].fails + 1⟩) ∧
      (8 ≤ s.pkg.links[l].fails → ∃ t, exec (.linkReplay l.val) s = .next t ∧ t.pkg.links[l].up = false) ∧
      (∃ t, exec (.linkDown l.val) s = .next t ∧ t.pkg.links[l].up = false ∧ ∀ d : Fin 4, (t.pkg.mgmt[d].hevent).getLsbD 1 = true)) ∧
    (∀ (l : Fin 16) trained, ∃ t, exec (.linkRetrain l.val trained) s = .next t ∧ t.pkg.links = s.pkg.links.set l ⟨trained, 0⟩ ∧
      ∀ d : Fin 4, (t.pkg.mgmt[d].hevent).getLsbD 1 = true) ∧
    (∀ a : PeerAcc, a.kind = .store → 0 < a.size →
      (∀ pa p, peerHome s a = some (pa, p) → pa + a.size ≤ Config.hbmBytes →
        exec (.peerAccess a) s = .next (storeBytes s p pa a.size (a.value.toNat % 2 ^ (8 * a.size)))) ∧
      (peerHome s a = none → s.pkg.refusals.toNat < 2 ^ 64 - 1 →
        ∃ t, exec (.peerAccess a) s = .next t ∧ t.pkg.refusals = s.pkg.refusals + 1 ∧ t.mem = s.mem ∧
          ∀ d : Fin 4, (t.pkg.mgmt[d].hevent).getLsbD 2 = true)) ∧
    (∀ (a : PeerAcc) pa p, a.kind = .load → 0 < a.size → peerHome s a = some (pa, p) → pa + a.size ≤ Config.hbmBytes →
      ∃ t, exec (.peerAccess a) s = .next t ∧ t.mem = s.mem ∧
        t.pkg.toPeer = (if poisonedIn s pa a.size = none then .value a.dev (BitVec.ofNat 64 (readMem s pa a.size))
          else .fault a.dev 0x0F) :: s.pkg.toPeer) ∧
    (∀ (a : PeerAcc) op x y pa p n ln, a.kind = .atomic op x y → peerHome s a = some (pa, p) → lineOf pa = some (n, ln) →
      lineHolds s pa true = false → (∀ m ∈ s.pkg.engine, EngSrc.isPeer a.dev m.src = false) → poisonedIn s pa a.size = none →
      let old := readMem s pa a.size
      ∃ t, exec (.peerAccess a) s = .next t ∧ t.pkg.toPeer = .value a.dev (BitVec.ofNat 64 old) :: s.pkg.toPeer ∧
        t.mem = (storeBytes s p pa a.size (amoNew op.val (8 * a.size) old x.toNat y.toNat)).mem) ∧
    (∀ (f : LinkFlit) l, f.dest ≠ deviceNum s → linkOf s f.dest = some l → s.pkg.links[l].up = true →
      ∃ t, exec (.tladeisFlitForward f) s = .next t ∧ t.pkg.forwarded = s.pkg.forwarded ++ [(l.val, f)])

/-- R354, R355, R360, R361: a free partition whose descriptor is sound becomes defined; a defined one starts with its window at the reset values
and its cores' positions naming it, and its system image is loaded; a running one stops by resetting its clusters. A sample enters a monitor's
minimum, maximum, count and bin. A die that crosses a limit gates its issue to one cycle in two, then in four, and releases a step when no
cause holds; the hypervisor hears of it through hevent's thermal bit, for the current too (DESIGN CHOICE, notes/assumptions/35.md). Thermal
shutdown sets error 8. -/
def Obligations.PartitionsAndSensorsAreManaged : Prop :=
  ∀ (s : State) (p d : Nat),
    (p < 16 →
      (partState s p = 0 → definable s p (partDesc s p) = true → ∃ t, exec (.partitionDefine p) s = .next t ∧ partState t p = 1) ∧
      (partState s p = 1 →
        ∃ t, exec (.partitionStart p) s = .next (settleHyp s p (imageLoad t (systemLoad t p))) ∧ partState t p = 2 ∧ t.partAt p = Partition.reset ∧
          (∀ n ∈ partCores s p, (t.coreAt n).partition = p) ∧ t.mem = s.mem) ∧
      (partState s p = 2 → ∃ t, exec (.partitionStop p) s = .next t ∧ partState t p = 3 ∧
        ∀ cl ∈ partClusters s p, (t.clusterAt cl).resetAt.isSome = true)) ∧
    (∀ (i : Nat) (v : Word), let m := monAt s d i; let x := v.toNat
      i < 32 → m.cfg.getLsbD 24 = true → fld m.cfg 3 0 < 4 → m.count.toNat < 2 ^ 64 - 1 →
      ∃ t, exec (.monitorSample d i v) s = .next t ∧
        (monAt t d i).min.toNat = Nat.min x m.min.toNat ∧ (monAt t d i).max.toNat = Nat.max x m.max.toNat ∧
        (monAt t d i).count = m.count + 1 ∧ (monAt t d i).cfg = m.cfg ∧
        ∀ b : Fin 16, (m.bins[b]).toNat < 2 ^ 32 - 1 → (monAt t d i).bins[b] = if b.val = Nat.min (bitLen x) 15 then m.bins[b] + 1 else m.bins[b]) ∧
    (∀ c, (s.dieAt d).gates = [] → (s.dieAt d).hot = false → (s.dieAt d).overCurrent = false →
      ∃ t, exec (.throttleEnter d c) s = .next t ∧ (t.dieAt d).gates = [c] ∧
        ((t.dieAt d).hot = true ↔ c = .temperature) ∧ ((t.dieAt d).overCurrent = true ↔ c = .current) ∧
        ∀ m : Fin 4, (t.pkg.mgmt[m].hevent).getLsbD 3 = true) ∧
    (∀ c, (s.dieAt d).gates = [c] → (s.dieAt d).hot = true →
      exec (.throttleStep d) s = .next (s.modDie d fun q => { q with gates := [.temperature, c] })) ∧
    (∀ c l, (s.dieAt d).gates = c :: l →
      (s.dieAt d).hot = true → (s.dieAt d).overCurrent = false →
      exec (.throttleRelease d .temperature) s = .next (s.modDie d fun q => { q with hot := false, gates := l })) ∧
    (s.pkg.nextStart = none → ∃ t, exec .thermalShutdown s = .next t ∧ t.pkg.error = 8 ∧ t.pkg.starting = false ∧ ∀ m : Fin 4, (t.pkg.mgmt[m].hevent).getLsbD 3 = true)
end

