-- ==== Sys2Proof/Laws/Plan.lean ====
section
/-!
SUPPORT. What each instruction asks at its boundary, one equation for each.
-/
namespace Sys2Proof.Machine

theorem planOf_nop (o) : planOf (.nop o) = ({} : Plan) := rfl
theorem planOf_trap (o) : planOf (.trap o) = ({} : Plan) := rfl
theorem planOf_bkpt (o) : planOf (.bkpt o) = ({} : Plan) := rfl
theorem planOf_eret (o) : planOf (.eret o) = ({ illegal := userMode } : Plan) := rfl
theorem planOf_getc (o) : planOf (.getc o) = ({ writes := [o.d], illegal := fun s i => !cregReadable s i.core (s.fir i).sup o.creg.toNat } : Plan) := rfl
theorem planOf_setc (o) : planOf (.setc o) = ({ reads := [o.a], illegal := fun s i => !cregWritable s i.core (s.fir i).sup o.creg.toNat } : Plan) := rfl
theorem planOf_park (o) : planOf (.park o) = (show Plan from
    { reads := [o.a], writes := [o.d]
      fault := fun s i => let v := peekX s i o.a; if o.a.val != 0 && v.toNat ≥ scratchBytes then some (0x03, v) else none }) := rfl
theorem planOf_xinv (o) : planOf (.xinv o) = ({ reads := [o.a], entries := one, illegal := userMode } : Plan) := rfl
theorem planOf_add (o) : planOf (.add o) = (regPlan [o.a, o.b] [o.d] : Plan) := rfl
theorem planOf_sub (o) : planOf (.sub o) = (regPlan [o.a, o.b] [o.d] : Plan) := rfl
theorem planOf_and (o) : planOf (.and o) = (regPlan [o.a, o.b] [o.d] : Plan) := rfl
theorem planOf_or (o) : planOf (.or o) = (regPlan [o.a, o.b] [o.d] : Plan) := rfl
theorem planOf_xor (o) : planOf (.xor o) = (regPlan [o.a, o.b] [o.d] : Plan) := rfl
theorem planOf_andn (o) : planOf (.andn o) = (regPlan [o.a, o.b] [o.d] : Plan) := rfl
theorem planOf_sll (o) : planOf (.sll o) = (regPlan [o.a, o.b] [o.d] : Plan) := rfl
theorem planOf_srl (o) : planOf (.srl o) = (regPlan [o.a, o.b] [o.d] : Plan) := rfl
theorem planOf_sra (o) : planOf (.sra o) = (regPlan [o.a, o.b] [o.d] : Plan) := rfl
theorem planOf_slt (o) : planOf (.slt o) = (regPlan [o.a, o.b] [o.d] : Plan) := rfl
theorem planOf_sltu (o) : planOf (.sltu o) = (regPlan [o.a, o.b] [o.d] : Plan) := rfl
theorem planOf_min (o) : planOf (.min o) = (regPlan [o.a, o.b] [o.d] : Plan) := rfl
theorem planOf_max (o) : planOf (.max o) = (regPlan [o.a, o.b] [o.d] : Plan) := rfl
theorem planOf_minu (o) : planOf (.minu o) = (regPlan [o.a, o.b] [o.d] : Plan) := rfl
theorem planOf_maxu (o) : planOf (.maxu o) = (regPlan [o.a, o.b] [o.d] : Plan) := rfl
theorem planOf_bext (o) : planOf (.bext o) = (regPlan [o.a, o.b] [o.d] : Plan) := rfl
theorem planOf_mul (o) : planOf (.mul o) = (regPlan [o.a, o.b] [o.d] : Plan) := rfl
theorem planOf_mulh (o) : planOf (.mulh o) = (regPlan [o.a, o.b] [o.d] : Plan) := rfl
theorem planOf_mulhu (o) : planOf (.mulhu o) = (regPlan [o.a, o.b] [o.d] : Plan) := rfl
theorem planOf_mulhsu (o) : planOf (.mulhsu o) = (regPlan [o.a, o.b] [o.d] : Plan) := rfl
theorem planOf_clz (o) : planOf (.clz o) = (regPlan [o.a] [o.d] : Plan) := rfl
theorem planOf_ctz (o) : planOf (.ctz o) = (regPlan [o.a] [o.d] : Plan) := rfl
theorem planOf_popc (o) : planOf (.popc o) = (regPlan [o.a] [o.d] : Plan) := rfl
theorem planOf_sextW (o) : planOf (.sextW o) = (regPlan [o.a] [o.d] : Plan) := rfl
theorem planOf_zextW (o) : planOf (.zextW o) = (regPlan [o.a] [o.d] : Plan) := rfl
theorem planOf_addi (o) : planOf (.addi o) = (regPlan [o.a] [o.d] : Plan) := rfl
theorem planOf_andi (o) : planOf (.andi o) = (regPlan [o.a] [o.d] : Plan) := rfl
theorem planOf_ori (o) : planOf (.ori o) = (regPlan [o.a] [o.d] : Plan) := rfl
theorem planOf_xori (o) : planOf (.xori o) = (regPlan [o.a] [o.d] : Plan) := rfl
theorem planOf_slti (o) : planOf (.slti o) = (regPlan [o.a] [o.d] : Plan) := rfl
theorem planOf_sltiu (o) : planOf (.sltiu o) = (regPlan [o.a] [o.d] : Plan) := rfl
theorem planOf_slli (o) : planOf (.slli o) = (regPlan [o.a] [o.d] : Plan) := rfl
theorem planOf_srli (o) : planOf (.srli o) = (regPlan [o.a] [o.d] : Plan) := rfl
theorem planOf_srai (o) : planOf (.srai o) = (regPlan [o.a] [o.d] : Plan) := rfl
theorem planOf_lih (o) : planOf (.lih o) = (regPlan [] [o.d] : Plan) := rfl
theorem planOf_div (o) : planOf (.div o) = (outPlan [o.a, o.b] : Plan) := rfl
theorem planOf_divu (o) : planOf (.divu o) = (outPlan [o.a, o.b] : Plan) := rfl
theorem planOf_rem (o) : planOf (.rem o) = (outPlan [o.a, o.b] : Plan) := rfl
theorem planOf_remu (o) : planOf (.remu o) = (outPlan [o.a, o.b] : Plan) := rfl
theorem planOf_beq (o) : planOf (.beq o) = (regPlan [o.a, o.b] [] : Plan) := rfl
theorem planOf_bne (o) : planOf (.bne o) = (regPlan [o.a, o.b] [] : Plan) := rfl
theorem planOf_blt (o) : planOf (.blt o) = (regPlan [o.a, o.b] [] : Plan) := rfl
theorem planOf_bge (o) : planOf (.bge o) = (regPlan [o.a, o.b] [] : Plan) := rfl
theorem planOf_bltu (o) : planOf (.bltu o) = (regPlan [o.a, o.b] [] : Plan) := rfl
theorem planOf_bgeu (o) : planOf (.bgeu o) = (regPlan [o.a, o.b] [] : Plan) := rfl
theorem planOf_bbs (o) : planOf (.bbs o) = (regPlan [o.a, o.b] [] : Plan) := rfl
theorem planOf_bbc (o) : planOf (.bbc o) = (regPlan [o.a, o.b] [] : Plan) := rfl
theorem planOf_jal (o) : planOf (.jal o) = (regPlan [] [o.d] : Plan) := rfl
theorem planOf_jalr (o) : planOf (.jalr o) = (show Plan from
    { reads := [o.a], writes := [o.d]
      fault := fun s i => let t := peekX s i o.a + immVal o.imm; if t.toNat % 4 != 0 then some (0x02, t) else none }) := rfl
theorem planOf_loop (o) : planOf (.loop o) = ({ reads := [o.a], fault := fun s i => loopFault s i o.dist (fld (peekX s i o.a) 31 0) } : Plan) := rfl
theorem planOf_loopi (o) : planOf (.loopi o) = ({ fault := fun s i => loopFault s i o.dist o.cnt.toNat } : Plan) := rfl
theorem planOf_fadd (o) : planOf (.fadd o) = (regPlan [o.a, o.b] [o.d] : Plan) := rfl
theorem planOf_fsub (o) : planOf (.fsub o) = (regPlan [o.a, o.b] [o.d] : Plan) := rfl
theorem planOf_fmul (o) : planOf (.fmul o) = (regPlan [o.a, o.b] [o.d] : Plan) := rfl
theorem planOf_fdiv (o) : planOf (.fdiv o) = (outPlan [o.a, o.b] : Plan) := rfl
theorem planOf_fsqrt (o) : planOf (.fsqrt o) = (outPlan [o.a] : Plan) := rfl
theorem planOf_fmin (o) : planOf (.fmin o) = (regPlan [o.a, o.b] [o.d] : Plan) := rfl
theorem planOf_fmax (o) : planOf (.fmax o) = (regPlan [o.a, o.b] [o.d] : Plan) := rfl
theorem planOf_feq (o) : planOf (.feq o) = (regPlan [o.a, o.b] [o.d] : Plan) := rfl
theorem planOf_flt (o) : planOf (.flt o) = (regPlan [o.a, o.b] [o.d] : Plan) := rfl
theorem planOf_fle (o) : planOf (.fle o) = (regPlan [o.a, o.b] [o.d] : Plan) := rfl
theorem planOf_fsgnj (o) : planOf (.fsgnj o) = (regPlan [o.a, o.b] [o.d] : Plan) := rfl
theorem planOf_fsgnjn (o) : planOf (.fsgnjn o) = (regPlan [o.a, o.b] [o.d] : Plan) := rfl
theorem planOf_fclass (o) : planOf (.fclass o) = (regPlan [o.a] [o.d] : Plan) := rfl
theorem planOf_frsqe (o) : planOf (.frsqe o) = (regPlan [o.a] [o.d] : Plan) := rfl
theorem planOf_frcpe (o) : planOf (.frcpe o) = (regPlan [o.a] [o.d] : Plan) := rfl
theorem planOf_fcvtF32I64 (o) : planOf (.fcvtF32I64 o) = (regPlan [o.a] [o.d] : Plan) := rfl
theorem planOf_fcvtI64F32 (o) : planOf (.fcvtI64F32 o) = (regPlan [o.a] [o.d] : Plan) := rfl
theorem planOf_fcvtF32Bf16 (o) : planOf (.fcvtF32Bf16 o) = (regPlan [o.a] [o.d] : Plan) := rfl
theorem planOf_fcvtF32F16 (o) : planOf (.fcvtF32F16 o) = (regPlan [o.a] [o.d] : Plan) := rfl
theorem planOf_fcvtBf16F32 (o) : planOf (.fcvtBf16F32 o) = (regPlan [o.a] [o.d] : Plan) := rfl
theorem planOf_fcvtF16F32 (o) : planOf (.fcvtF16F32 o) = (regPlan [o.a] [o.d] : Plan) := rfl
theorem planOf_fmadd (o) : planOf (.fmadd o) = (regPlan [o.a, o.b, o.c] [o.d] : Plan) := rfl
theorem planOf_fmsub (o) : planOf (.fmsub o) = (regPlan [o.a, o.b, o.c] [o.d] : Plan) := rfl
theorem planOf_fnmadd (o) : planOf (.fnmadd o) = (regPlan [o.a, o.b, o.c] [o.d] : Plan) := rfl
theorem planOf_fnmsub (o) : planOf (.fnmsub o) = (regPlan [o.a, o.b, o.c] [o.d] : Plan) := rfl
theorem planOf_ldB (o) : planOf (.ldB o) = (loadPlan o.a (offVal o.off) 1 : Plan) := rfl
theorem planOf_ldBu (o) : planOf (.ldBu o) = (loadPlan o.a (offVal o.off) 1 : Plan) := rfl
theorem planOf_ldH (o) : planOf (.ldH o) = (loadPlan o.a (offVal o.off) 2 : Plan) := rfl
theorem planOf_ldHu (o) : planOf (.ldHu o) = (loadPlan o.a (offVal o.off) 2 : Plan) := rfl
theorem planOf_ldW (o) : planOf (.ldW o) = (loadPlan o.a (offVal o.off) 4 : Plan) := rfl
theorem planOf_ldWu (o) : planOf (.ldWu o) = (loadPlan o.a (offVal o.off) 4 : Plan) := rfl
theorem planOf_ldD (o) : planOf (.ldD o) = (loadPlan o.a (offVal o.off) 8 : Plan) := rfl
theorem planOf_ldAcq (o) : planOf (.ldAcq o) = (loadPlan o.a (offVal o.off) 8 : Plan) := rfl
theorem planOf_stB (o) : planOf (.stB o) = (storePlan o.d o.a (offVal o.off) 1 : Plan) := rfl
theorem planOf_stH (o) : planOf (.stH o) = (storePlan o.d o.a (offVal o.off) 2 : Plan) := rfl
theorem planOf_stW (o) : planOf (.stW o) = (storePlan o.d o.a (offVal o.off) 4 : Plan) := rfl
theorem planOf_stD (o) : planOf (.stD o) = (storePlan o.d o.a (offVal o.off) 8 : Plan) := rfl
theorem planOf_stf (o) : planOf (.stf o) = (storePlan o.d o.a (offVal o.off) 8 : Plan) := rfl
theorem planOf_stRel (o) : planOf (.stRel o) = (storePlan o.d o.a (offVal o.off) 8 : Plan) := rfl
theorem planOf_amoAdd (o) : planOf (.amoAdd o) = (amoPlan o.d o.a o.b (if o.dbl then 8 else 4) : Plan) := rfl
theorem planOf_amoAnd (o) : planOf (.amoAnd o) = (amoPlan o.d o.a o.b (if o.dbl then 8 else 4) : Plan) := rfl
theorem planOf_amoOr (o) : planOf (.amoOr o) = (amoPlan o.d o.a o.b (if o.dbl then 8 else 4) : Plan) := rfl
theorem planOf_amoXor (o) : planOf (.amoXor o) = (amoPlan o.d o.a o.b (if o.dbl then 8 else 4) : Plan) := rfl
theorem planOf_amoMin (o) : planOf (.amoMin o) = (amoPlan o.d o.a o.b (if o.dbl then 8 else 4) : Plan) := rfl
theorem planOf_amoMax (o) : planOf (.amoMax o) = (amoPlan o.d o.a o.b (if o.dbl then 8 else 4) : Plan) := rfl
theorem planOf_amoMinu (o) : planOf (.amoMinu o) = (amoPlan o.d o.a o.b (if o.dbl then 8 else 4) : Plan) := rfl
theorem planOf_amoMaxu (o) : planOf (.amoMaxu o) = (amoPlan o.d o.a o.b (if o.dbl then 8 else 4) : Plan) := rfl
theorem planOf_amoSwap (o) : planOf (.amoSwap o) = (amoPlan o.d o.a o.b (if o.dbl then 8 else 4) : Plan) := rfl
theorem planOf_amoCas (o) : planOf (.amoCas o) = (amoPlan o.d o.a o.b (if o.dbl then 8 else 4) : Plan) := rfl
theorem planOf_amoFaddF32 (o) : planOf (.amoFaddF32 o) = (amoPlan o.d o.a o.b 4 : Plan) := rfl
theorem planOf_amoFaddBf16x2 (o) : planOf (.amoFaddBf16x2 o) = (amoPlan o.d o.a o.b 4 : Plan) := rfl
theorem planOf_fence (o) : planOf (.fence o) = ({ wait := fun s i => fenceWait s i o.kind o.scope } : Plan) := rfl
theorem planOf_drain (o) : planOf (.drain o) = ({ drains := true } : Plan) := rfl
theorem planOf_feClr (o) : planOf (.feClr o) = (linePlan o.a (o.n1.toNat + 1) [] : Plan) := rfl
theorem planOf_feSet (o) : planOf (.feSet o) = (linePlan o.a (o.n1.toNat + 1) [] : Plan) := rfl
theorem planOf_feTest (o) : planOf (.feTest o) = (linePlan o.a 1 [o.d] : Plan) := rfl
theorem planOf_fePeek (o) : planOf (.fePeek o) = (show Plan from
    { reads := [o.a], entries := one
      fault := fun s i =>
        let v := peekX s i o.a
        if v.toNat % 8 != 0 then some (0x02, v) else if v.toNat ≥ scratchBytes then some (0x03, v) else none
      homes := fun s i => homesOf s i .read [peekX s i o.a] }) := rfl
theorem planOf_winSet (o) : planOf (.winSet o) = (regPlan [] [o.d] : Plan) := rfl
theorem planOf_winDrop (o) : planOf (.winDrop o) = ({} : Plan) := rfl
theorem planOf_winTouch (o) : planOf (.winTouch o) = ({} : Plan) := rfl
theorem planOf_winState (o) : planOf (.winState o) = (regPlan [] [o.d] : Plan) := rfl
theorem planOf_copy (o) : planOf (.copy o) = (kickPlan o.a 0 : Plan) := rfl
theorem planOf_copySt (o) : planOf (.copySt o) = (kickPlan o.a 1 : Plan) := rfl
theorem planOf_send (o) : planOf (.send o) = (show Plan from
    { reads := [o.b], wait := slotWait
      fault := fun s i => destFault (sendDest s i o.b (peekX s i o.b) o.dx o.dy)
      homes := fun s i => destHome s (sendDest s i o.b (peekX s i o.b) o.dx o.dy) }) := rfl
theorem planOf_sendv (o) : planOf (.sendv o) = (show Plan from
    { reads := [o.a, o.b], wait := slotWait
      fault := fun s i => destFault (sendDest s i o.b (peekX (takeV s i o.a).2 i o.b) o.dx o.dy)
      homes := fun s i => destHome s (sendDest s i o.b (peekX (takeV s i o.a).2 i o.b) o.dx o.dy) }) := rfl
theorem planOf_mcast (o) : planOf (.mcast o) = (show Plan from
    { wait := slotWait
      homes := fun s i => (rMembers (s.rgroupAt (s.coreAt i.core).partition o.gid.val)).map fun n => scratchPa n 0 }) := rfl
theorem planOf_grpArm (o) : planOf (.grpArm o) = ({ outPlan [o.a, o.b] with fault := fun s i => placeFault s i o.dx o.dy } : Plan) := rfl
theorem planOf_redF32 (o) : planOf (.redF32 o) = (regPlan [o.a] [] : Plan) := rfl
theorem planOf_redI64 (o) : planOf (.redI64 o) = (regPlan [o.a] [] : Plan) := rfl
theorem planOf_grpWait (o) : planOf (.grpWait o) = (outPlan [] : Plan) := rfl
theorem planOf_grpFree (o) : planOf (.grpFree o) = (outPlan [] : Plan) := rfl
theorem planOf_done (o) : planOf (.done o) = (show Plan from
    { lands := true, drains := true, spares := fun s i => (s.fir i).intrap
      wait := fun s i =>
        if (s.fir i).intrap && !faultRoom s (s.coreAt i.core).partition (recordEvents (s.ctx i)) then some (0x3, none) else none }) := rfl
theorem planOf_yield (o) : planOf (.yield o) = ({ lands := true } : Plan) := rfl
theorem planOf_rngPush (o) : planOf (.rngPush o) = (regPlan [] [o.d] : Plan) := rfl
theorem planOf_rngTake (o) : planOf (.rngTake o) = (regPlan [o.a] [] : Plan) := rfl
theorem planOf_launch (o) : planOf (.launch o) = (show Plan from
    { reads := [o.a], entries := one
      fault := fun s i => let v := peekX s i o.a; if v.toNat % 64 != 0 then some (0x02, v) else none
      homes := fun s i => homesOf s i .read [peekX s i o.a] }) := rfl
theorem planOf_join (o) : planOf (.join o) = (outPlan [] : Plan) := rfl
theorem planOf_replay (o) : planOf (.replay o) = (show Plan from
    { entries := one
      homes := fun s i =>
        match engineHome s (s.coreAt i.core).partition (s.fir i).sup ((s.fir i).readX (regPlus o.a 1)).toNat .read with
        | .ok pa => if o.n.toNat = 0 then [] else [pa]
        | .error _ => [] }) := rfl
theorem planOf_lnstat (o) : planOf (.lnstat o) = (outPlan [o.a] : Plan) := rfl
theorem planOf_chOpen (o) : planOf (.chOpen o) = (chanPlan o.a [] [o.d] .either anyClass false false noMore : Plan) := rfl
theorem planOf_chW (o) : planOf (.chW o) = (recordPlan (chanPlan o.a [o.d] [] .writer (plainTo 3) true false fun s i v => dataRegsBad o.d (cK (chanOf s i v))) o.a : Plan) := rfl
theorem planOf_chWv (o) : planOf (.chWv o) = (recordPlan (chanPlan o.a [o.d] [] .writer (plainTo 5) true false fun s i v => dataVecBad o.d (cK (chanOf s i v))) o.a : Plan) := rfl
theorem planOf_chR (o) : planOf (.chR o) = ({ chanPlan o.a [] [] .reader (readTo 0) true false noMore with entries := one } : Plan) := rfl
theorem planOf_chRv (o) : planOf (.chRv o) = (show Plan from
    { chanPlan o.a [] [] .reader (readTo 5) true false fun s i v => dataVecBad o.d (cK (chanOf s i v)) with
      entries := fun s i => if cK (chanOf s i (peekX s i o.a)) = 5 then 2 else 1 }) := rfl
theorem planOf_chAvail (o) : planOf (.chAvail o) = (chanPlan o.a [] [o.d] .reader anyClass true false noMore : Plan) := rfl
theorem planOf_chSpace (o) : planOf (.chSpace o) = (chanPlan o.a [] [o.d] .writer (fun c _ => c == 0 || c == 2) true false noMore : Plan) := rfl
theorem planOf_chRes (o) : planOf (.chRes o) = ({ chanPlan o.a [] [] .writer (fun c k => c == 1 && k ≤ 4) true false fun s i v => o.n1.toNat + 1 > cCap (chanOf s i v) with entries := one } : Plan) := rfl
theorem planOf_chPub (o) : planOf (.chPub o) = (show Plan from
    { chanPlan o.a [o.d] [] .writer (fun c _ => c == 1) true true fun s i v =>
        let p := (s.coreAt i.core).partition
        let (rp, rc) := readerSide s p (fld v 11 0)
        (if o.vec then dataVecBad o.d (cK (chanOf s i v)) else dataRegsBad o.d (cK (chanOf s i v)))
          || !unpublished (s.chanAt rp rc) i.core (fld v 63 32) with
      homes := fun s i => recordHome s i (fld (peekX s i o.a) 11 0) }) := rfl
theorem planOf_chClose (o) : planOf (.chClose o) = (chanPlan o.a [] [] .either anyClass false false noMore : Plan) := rfl
theorem planOf_dqEmit (o) : planOf (.dqEmit o) = (recordPlan (chanPlan o.a [o.d] [] .writer deltaOnly true false fun s i _ => emitBad s i o.a o.d) o.a : Plan) := rfl
theorem planOf_dqRead (o) : planOf (.dqRead o) = ({ chanPlan o.a [] [] .reader deltaOnly true false noMore with entries := one } : Plan) := rfl
theorem planOf_dqCork (o) : planOf (.dqCork o) = (recordPlan (chanPlan o.a [] [] .writer deltaOnly true false noMore) o.a : Plan) := rfl
theorem planOf_dqCons (o) : planOf (.dqCons o) = (chanPlan o.a [] [o.d] .reader deltaOnly true false noMore : Plan) := rfl
theorem planOf_dqQuiet (o) : planOf (.dqQuiet o) = (outPlan [] : Plan) := rfl
theorem planOf_ixUpd (o) : planOf (.ixUpd o) = (keyPlan o.d o.a .both : Plan) := rfl
theorem planOf_ixLook (o) : planOf (.ixLook o) = (keyPlan o.d o.a .read : Plan) := rfl
theorem planOf_ixNext (o) : planOf (.ixNext o) = (show Plan from
    { reads := [o.a], entries := one
      fault := fun s i =>
        let v := peekX s i o.a
        misuse (ixV (indexAt s (s.coreAt i.core).partition (fld v 7 0)) && fld v 63 35 != 0) v
      homes := fun s i => let v := peekX s i o.a; indexHome s i (fld v 7 0) (fld v 31 8) .read }) := rfl
theorem planOf_ixClear (o) : planOf (.ixClear o) = ({ reads := [o.a], entries := one, homes := fun s i => indexHome s i (fld (peekX s i o.a) 7 0) 0 .both } : Plan) := rfl
theorem planOf_vadd (o) : planOf (.vadd o) = (regPlan [o.a, o.b] [o.d] : Plan) := rfl
theorem planOf_vsub (o) : planOf (.vsub o) = (regPlan [o.a, o.b] [o.d] : Plan) := rfl
theorem planOf_vmul (o) : planOf (.vmul o) = (regPlan [o.a, o.b] [o.d] : Plan) := rfl
theorem planOf_vmin (o) : planOf (.vmin o) = (regPlan [o.a, o.b] [o.d] : Plan) := rfl
theorem planOf_vmax (o) : planOf (.vmax o) = (regPlan [o.a, o.b] [o.d] : Plan) := rfl
theorem planOf_vabs (o) : planOf (.vabs o) = (regPlan [o.a] [o.d] : Plan) := rfl
theorem planOf_vneg (o) : planOf (.vneg o) = (regPlan [o.a] [o.d] : Plan) := rfl
theorem planOf_vrsqe (o) : planOf (.vrsqe o) = (regPlan [o.a] [o.d] : Plan) := rfl
theorem planOf_vrcpe (o) : planOf (.vrcpe o) = (regPlan [o.a] [o.d] : Plan) := rfl
theorem planOf_vexp2 (o) : planOf (.vexp2 o) = (regPlan [o.a] [o.d] : Plan) := rfl
theorem planOf_vfeq (o) : planOf (.vfeq o) = (regPlan [o.a, o.b] [] : Plan) := rfl
theorem planOf_vflt (o) : planOf (.vflt o) = (regPlan [o.a, o.b] [] : Plan) := rfl
theorem planOf_vfle (o) : planOf (.vfle o) = (regPlan [o.a, o.b] [] : Plan) := rfl
theorem planOf_vfmadd (o) : planOf (.vfmadd o) = (regPlan [o.a, o.b, o.c] [o.d] : Plan) := rfl
theorem planOf_vfmsub (o) : planOf (.vfmsub o) = (regPlan [o.a, o.b, o.c] [o.d] : Plan) := rfl
theorem planOf_vfnmadd (o) : planOf (.vfnmadd o) = (regPlan [o.a, o.b, o.c] [o.d] : Plan) := rfl
theorem planOf_vfnmsub (o) : planOf (.vfnmsub o) = (regPlan [o.a, o.b, o.c] [o.d] : Plan) := rfl
theorem planOf_vaddI (o) : planOf (.vaddI o) = (regPlan [o.a, o.b] [o.d] : Plan) := rfl
theorem planOf_vsubI (o) : planOf (.vsubI o) = (regPlan [o.a, o.b] [o.d] : Plan) := rfl
theorem planOf_vmulI (o) : planOf (.vmulI o) = (regPlan [o.a, o.b] [o.d] : Plan) := rfl
theorem planOf_vand (o) : planOf (.vand o) = (regPlan [o.a, o.b] [o.d] : Plan) := rfl
theorem planOf_vor (o) : planOf (.vor o) = (regPlan [o.a, o.b] [o.d] : Plan) := rfl
theorem planOf_vxor (o) : planOf (.vxor o) = (regPlan [o.a, o.b] [o.d] : Plan) := rfl
theorem planOf_vsll (o) : planOf (.vsll o) = (regPlan [o.a, o.b] [o.d] : Plan) := rfl
theorem planOf_vsrl (o) : planOf (.vsrl o) = (regPlan [o.a, o.b] [o.d] : Plan) := rfl
theorem planOf_vsra (o) : planOf (.vsra o) = (regPlan [o.a, o.b] [o.d] : Plan) := rfl
theorem planOf_vminI (o) : planOf (.vminI o) = (regPlan [o.a, o.b] [o.d] : Plan) := rfl
theorem planOf_vmaxI (o) : planOf (.vmaxI o) = (regPlan [o.a, o.b] [o.d] : Plan) := rfl
theorem planOf_vminu (o) : planOf (.vminu o) = (regPlan [o.a, o.b] [o.d] : Plan) := rfl
theorem planOf_vmaxu (o) : planOf (.vmaxu o) = (regPlan [o.a, o.b] [o.d] : Plan) := rfl
theorem planOf_vieq (o) : planOf (.vieq o) = (regPlan [o.a, o.b] [] : Plan) := rfl
theorem planOf_vilt (o) : planOf (.vilt o) = (regPlan [o.a, o.b] [] : Plan) := rfl
theorem planOf_viltu (o) : planOf (.viltu o) = (regPlan [o.a, o.b] [] : Plan) := rfl
theorem planOf_vcvt (o) : planOf (.vcvt o) = (regPlan [o.a] [o.d] : Plan) := rfl
theorem planOf_vquant (o) : planOf (.vquant o) = (regPlan [o.a, o.c] [o.d] : Plan) := rfl
theorem planOf_vdequant (o) : planOf (.vdequant o) = (regPlan [o.a, o.c] [o.d] : Plan) := rfl
theorem planOf_vredsum (o) : planOf (.vredsum o) = (regPlan [o.a] [o.d] : Plan) := rfl
theorem planOf_vredmax (o) : planOf (.vredmax o) = (regPlan [o.a] [o.d] : Plan) := rfl
theorem planOf_vredmin (o) : planOf (.vredmin o) = (regPlan [o.a] [o.d] : Plan) := rfl
theorem planOf_vscan (o) : planOf (.vscan o) = (regPlan [o.a] [o.d] : Plan) := rfl
theorem planOf_vbcast (o) : planOf (.vbcast o) = (regPlan [o.a] [o.d] : Plan) := rfl
theorem planOf_vcompress (o) : planOf (.vcompress o) = (regPlan [o.a] [o.d] : Plan) := rfl
theorem planOf_vmov (o) : planOf (.vmov o) = (regPlan [o.a] [o.d] : Plan) := rfl
theorem planOf_vperm (o) : planOf (.vperm o) = (regPlan [o.a, o.b] [o.d] : Plan) := rfl
theorem planOf_vslup (o) : planOf (.vslup o) = (regPlan [o.a, o.b] [o.d] : Plan) := rfl
theorem planOf_vsldn (o) : planOf (.vsldn o) = (regPlan [o.a, o.b] [o.d] : Plan) := rfl
theorem planOf_vins (o) : planOf (.vins o) = (regPlan [o.a, o.b] [o.d] : Plan) := rfl
theorem planOf_vext (o) : planOf (.vext o) = (regPlan [o.a, o.b] [o.d] : Plan) := rfl
theorem planOf_viota (o) : planOf (.viota o) = (regPlan [] [o.d] : Plan) := rfl
theorem planOf_vsel (o) : planOf (.vsel o) = (regPlan [o.a, o.b] [o.d] : Plan) := rfl
theorem planOf_mand (o) : planOf (.mand o) = ({} : Plan) := rfl
theorem planOf_mor (o) : planOf (.mor o) = ({} : Plan) := rfl
theorem planOf_mxor (o) : planOf (.mxor o) = ({} : Plan) := rfl
theorem planOf_mnot (o) : planOf (.mnot o) = ({} : Plan) := rfl
theorem planOf_mpopc (o) : planOf (.mpopc o) = (regPlan [] [o.d] : Plan) := rfl
theorem planOf_mfirst (o) : planOf (.mfirst o) = (regPlan [] [o.d] : Plan) := rfl
theorem planOf_mget (o) : planOf (.mget o) = (regPlan [] [o.d] : Plan) := rfl
theorem planOf_mset (o) : planOf (.mset o) = (regPlan [o.a] [] : Plan) := rfl
theorem planOf_vld (o) : planOf (.vld o) = (vloadPlan o.a (voffVal o.off) (mextMask o.ext) true (fun _ => lineAdr) : Plan) := rfl
theorem planOf_vst (o) : planOf (.vst o) = (vstorePlan o.d o.a (voffVal o.off) (o.ext.getD 0) true (fun _ => lineAdr) : Plan) := rfl
theorem planOf_vgather (o) : planOf (.vgather o) = (vloadPlan o.a (voffVal o.off) (mextMask o.ext) false laneAdr : Plan) := rfl
theorem planOf_vscatter (o) : planOf (.vscatter o) = (vstorePlan o.d o.a (voffVal o.off) (o.ext.getD 0) false laneAdr : Plan) := rfl
theorem planOf_vldbc (o) : planOf (.vldbc o) = (planOf.vbcPlan o.a (voffVal o.off) (mextMask o.ext) : Plan) := rfl
theorem planOf_vanc (o) : planOf (.vanc o) = (regPlan [o.a, o.b] [] : Plan) := rfl
theorem planOf_gang (o) : planOf (.gang o) = (show Plan from
    { reads := [o.a], writes := [o.d], lands := true, drains := true
      fault := fun s i => let v := peekX s i o.a; if gangOk s i.core v then ownerFault s i else some (0x0A, v) }) := rfl
theorem planOf_gstat (o) : planOf (.gstat o) = (regPlan [] [o.d] : Plan) := rfl
theorem planOf_accRd (o) : planOf (.accRd o) = ({ entries := one, fault := accFault } : Plan) := rfl
theorem planOf_accWr (o) : planOf (.accWr o) = ({ reads := [o.d], fault := accFault } : Plan) := rfl
theorem planOf_accZero (o) : planOf (.accZero o) = ({ fault := accFault } : Plan) := rfl
theorem planOf_accSpill (o) : planOf (.accSpill o) = (show Plan from
    { reads := [o.a]
      fault := fun s i => let v := peekX s i o.a
        (accFault s i).or (if v.toNat % 128 != 0 then some (0x02, v) else storeCheck s i (slotAdrs v))
      homes := fun s i => homesOf s i .write (slotAdrs (peekX s i o.a)) }) := rfl
theorem planOf_accFill (o) : planOf (.accFill o) = (show Plan from
    { reads := [o.a], entries := one
      fault := fun s i => let v := peekX s i o.a
        (accFault s i).or (if v.toNat % 128 != 0 then some (0x02, v) else none)
      homes := fun s i => homesOf s i .read (slotAdrs (peekX s i o.a)) }) := rfl
theorem planOf_accTag (o) : planOf (.accTag o) = ({ reads := [o.a], writes := [o.d], fault := ownerFault } : Plan) := rfl
theorem planOf_hLd (o) : planOf (.hLd o) = (hamperPlan o.a [] 2 : Plan) := rfl
theorem planOf_hSt (o) : planOf (.hSt o) = (hamperPlan o.a [] 0 : Plan) := rfl
theorem planOf_hFill (o) : planOf (.hFill o) = (show Plan from
    { reads := [o.a, o.b], entries := one
      fault := fun s i =>
        let (x, s1) := takeX s i o.a
        let y := peekX s1 i o.b
        if y.toNat % 128 != 0 then some (0x02, y) else if x.toNat ≥ 256 then some (0x03, x)
        else if y.toNat + 4096 > scratchBytes then some (0x03, y) else none
      homes := fun s i => let y := peekX (takeX s i o.a).2 i o.b; [scratchPa i.core y.toNat] }) := rfl

end Sys2Proof.Machine
end

