-- ==== Sys2Proof/Laws/State.lean ====
section
/-!
SUPPORT. What each update of the state leaves in each field, and the parts of the state after an update of one of them.
-/
namespace Sys2Proof.Machine

/-! ### Lists of like things -/

@[simp] theorem getN_putN_self {α : Type} (n : Nat) (a : α) (l : List (Nat × α)) : getN n (putN n a l) = some a := by
  induction l with
  | nil => simp [putN, getN]
  | cons h t ih =>
    obtain ⟨k, b⟩ := h
    simp only [putN]
    split
    · simp [getN]
    · split
      · simp [getN]
      · have : k ≠ n := by omega
        simp [getN, this, ih]

theorem getN_putN_of_ne {α : Type} {m n : Nat} (h : m ≠ n) (a : α) (l : List (Nat × α)) : getN m (putN n a l) = getN m l := by
  induction l with
  | nil => simp [putN, getN, Ne.symm h]
  | cons x t ih =>
    obtain ⟨k, b⟩ := x
    simp only [putN]
    split
    · simp [getN, Ne.symm h]
    · split
      · rename_i h1 h2
        have : k ≠ m := by omega
        simp [getN, Ne.symm h, this]
      · simp only [getN, ih]

/-! ### Cores, clusters, dies and partitions -/

@[simp] theorem State.coreAt_setCore_self (s : State) (n : Nat) (a : Core) : (s.setCore n a).coreAt n = a := by
  simp [State.coreAt, State.setCore]
theorem State.coreAt_setCore_of_ne {m n : Nat} (h : m ≠ n) (s : State) (a : Core) : (s.setCore n a).coreAt m = s.coreAt m := by
  simp [State.coreAt, State.setCore, getN_putN_of_ne h]

@[simp] theorem State.clusterAt_setCluster_self (s : State) (n : Nat) (a : Cluster) : (s.setCluster n a).clusterAt n = a := by
  simp [State.clusterAt, State.setCluster]
theorem State.clusterAt_setCluster_of_ne {m n : Nat} (h : m ≠ n) (s : State) (a : Cluster) : (s.setCluster n a).clusterAt m = s.clusterAt m := by
  simp [State.clusterAt, State.setCluster, getN_putN_of_ne h]

@[simp] theorem State.dieAt_setDie_self (s : State) (n : Nat) (a : Die) : (s.setDie n a).dieAt n = a := by
  simp [State.dieAt, State.setDie]
theorem State.dieAt_setDie_of_ne {m n : Nat} (h : m ≠ n) (s : State) (a : Die) : (s.setDie n a).dieAt m = s.dieAt m := by
  simp [State.dieAt, State.setDie, getN_putN_of_ne h]

@[simp] theorem State.partAt_setPart_self (s : State) (n : Nat) (a : Partition) : (s.setPart n a).partAt n = a := by
  simp [State.partAt, State.setPart]
theorem State.partAt_setPart_of_ne {m n : Nat} (h : m ≠ n) (s : State) (a : Partition) : (s.setPart n a).partAt m = s.partAt m := by
  simp [State.partAt, State.setPart, getN_putN_of_ne h]

/-! ### The fields that an update leaves alone -/

@[simp] theorem State.mem_setCore (s : State) (n : Nat) (c : Core) : (s.setCore n c).mem = s.mem := rfl
@[simp] theorem State.poison_setCore (s : State) (n : Nat) (c : Core) : (s.setCore n c).poison = s.poison := rfl
@[simp] theorem State.clusters_setCore (s : State) (n : Nat) (c : Core) : (s.setCore n c).clusters = s.clusters := rfl
@[simp] theorem State.dies_setCore (s : State) (n : Nat) (c : Core) : (s.setCore n c).dies = s.dies := rfl
@[simp] theorem State.parts_setCore (s : State) (n : Nat) (c : Core) : (s.setCore n c).parts = s.parts := rfl
@[simp] theorem State.pkg_setCore (s : State) (n : Nat) (c : Core) : (s.setCore n c).pkg = s.pkg := rfl
@[simp] theorem State.shadows_setCore (s : State) (n : Nat) (c : Core) : (s.setCore n c).shadows = s.shadows := rfl
@[simp] theorem State.cycle_setCore (s : State) (n : Nat) (c : Core) : (s.setCore n c).cycle = s.cycle := rfl
@[simp] theorem State.sched_setCore (s : State) (n : Nat) (c : Core) : (s.setCore n c).sched = s.sched := rfl
@[simp] theorem State.slot_setCore (s : State) (n : Nat) (c : Core) : (s.setCore n c).slot = s.slot := rfl
@[simp] theorem State.granted_setCore (s : State) (n : Nat) (c : Core) : (s.setCore n c).granted = s.granted := rfl
@[simp] theorem State.fresh_setCore (s : State) (n : Nat) (c : Core) : (s.setCore n c).fresh = s.fresh := rfl

@[simp] theorem State.mem_setCluster (s : State) (n : Nat) (c : Cluster) : (s.setCluster n c).mem = s.mem := rfl
@[simp] theorem State.poison_setCluster (s : State) (n : Nat) (c : Cluster) : (s.setCluster n c).poison = s.poison := rfl
@[simp] theorem State.cores_setCluster (s : State) (n : Nat) (c : Cluster) : (s.setCluster n c).cores = s.cores := rfl
@[simp] theorem State.dies_setCluster (s : State) (n : Nat) (c : Cluster) : (s.setCluster n c).dies = s.dies := rfl
@[simp] theorem State.parts_setCluster (s : State) (n : Nat) (c : Cluster) : (s.setCluster n c).parts = s.parts := rfl
@[simp] theorem State.pkg_setCluster (s : State) (n : Nat) (c : Cluster) : (s.setCluster n c).pkg = s.pkg := rfl
@[simp] theorem State.shadows_setCluster (s : State) (n : Nat) (c : Cluster) : (s.setCluster n c).shadows = s.shadows := rfl
@[simp] theorem State.cycle_setCluster (s : State) (n : Nat) (c : Cluster) : (s.setCluster n c).cycle = s.cycle := rfl
@[simp] theorem State.sched_setCluster (s : State) (n : Nat) (c : Cluster) : (s.setCluster n c).sched = s.sched := rfl
@[simp] theorem State.slot_setCluster (s : State) (n : Nat) (c : Cluster) : (s.setCluster n c).slot = s.slot := rfl
@[simp] theorem State.granted_setCluster (s : State) (n : Nat) (c : Cluster) : (s.setCluster n c).granted = s.granted := rfl
@[simp] theorem State.fresh_setCluster (s : State) (n : Nat) (c : Cluster) : (s.setCluster n c).fresh = s.fresh := rfl

@[simp] theorem State.mem_setDie (s : State) (n : Nat) (d : Die) : (s.setDie n d).mem = s.mem := rfl
@[simp] theorem State.poison_setDie (s : State) (n : Nat) (d : Die) : (s.setDie n d).poison = s.poison := rfl
@[simp] theorem State.cores_setDie (s : State) (n : Nat) (d : Die) : (s.setDie n d).cores = s.cores := rfl
@[simp] theorem State.clusters_setDie (s : State) (n : Nat) (d : Die) : (s.setDie n d).clusters = s.clusters := rfl
@[simp] theorem State.parts_setDie (s : State) (n : Nat) (d : Die) : (s.setDie n d).parts = s.parts := rfl
@[simp] theorem State.pkg_setDie (s : State) (n : Nat) (d : Die) : (s.setDie n d).pkg = s.pkg := rfl
@[simp] theorem State.shadows_setDie (s : State) (n : Nat) (d : Die) : (s.setDie n d).shadows = s.shadows := rfl
@[simp] theorem State.cycle_setDie (s : State) (n : Nat) (d : Die) : (s.setDie n d).cycle = s.cycle := rfl
@[simp] theorem State.sched_setDie (s : State) (n : Nat) (d : Die) : (s.setDie n d).sched = s.sched := rfl
@[simp] theorem State.slot_setDie (s : State) (n : Nat) (d : Die) : (s.setDie n d).slot = s.slot := rfl
@[simp] theorem State.granted_setDie (s : State) (n : Nat) (d : Die) : (s.setDie n d).granted = s.granted := rfl
@[simp] theorem State.fresh_setDie (s : State) (n : Nat) (d : Die) : (s.setDie n d).fresh = s.fresh := rfl

@[simp] theorem State.mem_setPart (s : State) (n : Nat) (p : Partition) : (s.setPart n p).mem = s.mem := rfl
@[simp] theorem State.poison_setPart (s : State) (n : Nat) (p : Partition) : (s.setPart n p).poison = s.poison := rfl
@[simp] theorem State.cores_setPart (s : State) (n : Nat) (p : Partition) : (s.setPart n p).cores = s.cores := rfl
@[simp] theorem State.clusters_setPart (s : State) (n : Nat) (p : Partition) : (s.setPart n p).clusters = s.clusters := rfl
@[simp] theorem State.dies_setPart (s : State) (n : Nat) (p : Partition) : (s.setPart n p).dies = s.dies := rfl
@[simp] theorem State.pkg_setPart (s : State) (n : Nat) (p : Partition) : (s.setPart n p).pkg = s.pkg := rfl
@[simp] theorem State.shadows_setPart (s : State) (n : Nat) (p : Partition) : (s.setPart n p).shadows = s.shadows := rfl
@[simp] theorem State.cycle_setPart (s : State) (n : Nat) (p : Partition) : (s.setPart n p).cycle = s.cycle := rfl
@[simp] theorem State.sched_setPart (s : State) (n : Nat) (p : Partition) : (s.setPart n p).sched = s.sched := rfl
@[simp] theorem State.slot_setPart (s : State) (n : Nat) (p : Partition) : (s.setPart n p).slot = s.slot := rfl
@[simp] theorem State.granted_setPart (s : State) (n : Nat) (p : Partition) : (s.setPart n p).granted = s.granted := rfl
@[simp] theorem State.fresh_setPart (s : State) (n : Nat) (p : Partition) : (s.setPart n p).fresh = s.fresh := rfl

@[simp] theorem State.mem_setCtx (s : State) (i : CtxId) (k : Context) : (s.setCtx i k).mem = s.mem := rfl
@[simp] theorem State.poison_setCtx (s : State) (i : CtxId) (k : Context) : (s.setCtx i k).poison = s.poison := rfl
@[simp] theorem State.clusters_setCtx (s : State) (i : CtxId) (k : Context) : (s.setCtx i k).clusters = s.clusters := rfl
@[simp] theorem State.dies_setCtx (s : State) (i : CtxId) (k : Context) : (s.setCtx i k).dies = s.dies := rfl
@[simp] theorem State.parts_setCtx (s : State) (i : CtxId) (k : Context) : (s.setCtx i k).parts = s.parts := rfl
@[simp] theorem State.pkg_setCtx (s : State) (i : CtxId) (k : Context) : (s.setCtx i k).pkg = s.pkg := rfl
@[simp] theorem State.shadows_setCtx (s : State) (i : CtxId) (k : Context) : (s.setCtx i k).shadows = s.shadows := rfl
@[simp] theorem State.cycle_setCtx (s : State) (i : CtxId) (k : Context) : (s.setCtx i k).cycle = s.cycle := rfl
@[simp] theorem State.sched_setCtx (s : State) (i : CtxId) (k : Context) : (s.setCtx i k).sched = s.sched := rfl
@[simp] theorem State.slot_setCtx (s : State) (i : CtxId) (k : Context) : (s.setCtx i k).slot = s.slot := rfl
@[simp] theorem State.granted_setCtx (s : State) (i : CtxId) (k : Context) : (s.setCtx i k).granted = s.granted := rfl
@[simp] theorem State.fresh_setCtx (s : State) (i : CtxId) (k : Context) : (s.setCtx i k).fresh = s.fresh := rfl

@[simp] theorem State.mem_modCtx (s : State) (i : CtxId) (f : Context → Context) : (s.modCtx i f).mem = s.mem := rfl
@[simp] theorem State.poison_modCtx (s : State) (i : CtxId) (f : Context → Context) : (s.modCtx i f).poison = s.poison := rfl
@[simp] theorem State.clusters_modCtx (s : State) (i : CtxId) (f : Context → Context) : (s.modCtx i f).clusters = s.clusters := rfl
@[simp] theorem State.dies_modCtx (s : State) (i : CtxId) (f : Context → Context) : (s.modCtx i f).dies = s.dies := rfl
@[simp] theorem State.parts_modCtx (s : State) (i : CtxId) (f : Context → Context) : (s.modCtx i f).parts = s.parts := rfl
@[simp] theorem State.pkg_modCtx (s : State) (i : CtxId) (f : Context → Context) : (s.modCtx i f).pkg = s.pkg := rfl
@[simp] theorem State.shadows_modCtx (s : State) (i : CtxId) (f : Context → Context) : (s.modCtx i f).shadows = s.shadows := rfl
@[simp] theorem State.cycle_modCtx (s : State) (i : CtxId) (f : Context → Context) : (s.modCtx i f).cycle = s.cycle := rfl
@[simp] theorem State.sched_modCtx (s : State) (i : CtxId) (f : Context → Context) : (s.modCtx i f).sched = s.sched := rfl
@[simp] theorem State.slot_modCtx (s : State) (i : CtxId) (f : Context → Context) : (s.modCtx i f).slot = s.slot := rfl
@[simp] theorem State.granted_modCtx (s : State) (i : CtxId) (f : Context → Context) : (s.modCtx i f).granted = s.granted := rfl
@[simp] theorem State.fresh_modCtx (s : State) (i : CtxId) (f : Context → Context) : (s.modCtx i f).fresh = s.fresh := rfl

@[simp] theorem State.mem_setFir (s : State) (i : CtxId) (f : Firing) : (s.setFir i f).mem = s.mem := rfl
@[simp] theorem State.poison_setFir (s : State) (i : CtxId) (f : Firing) : (s.setFir i f).poison = s.poison := rfl
@[simp] theorem State.clusters_setFir (s : State) (i : CtxId) (f : Firing) : (s.setFir i f).clusters = s.clusters := rfl
@[simp] theorem State.dies_setFir (s : State) (i : CtxId) (f : Firing) : (s.setFir i f).dies = s.dies := rfl
@[simp] theorem State.parts_setFir (s : State) (i : CtxId) (f : Firing) : (s.setFir i f).parts = s.parts := rfl
@[simp] theorem State.pkg_setFir (s : State) (i : CtxId) (f : Firing) : (s.setFir i f).pkg = s.pkg := rfl
@[simp] theorem State.shadows_setFir (s : State) (i : CtxId) (f : Firing) : (s.setFir i f).shadows = s.shadows := rfl
@[simp] theorem State.cycle_setFir (s : State) (i : CtxId) (f : Firing) : (s.setFir i f).cycle = s.cycle := rfl
@[simp] theorem State.sched_setFir (s : State) (i : CtxId) (f : Firing) : (s.setFir i f).sched = s.sched := rfl
@[simp] theorem State.slot_setFir (s : State) (i : CtxId) (f : Firing) : (s.setFir i f).slot = s.slot := rfl
@[simp] theorem State.granted_setFir (s : State) (i : CtxId) (f : Firing) : (s.setFir i f).granted = s.granted := rfl
@[simp] theorem State.fresh_setFir (s : State) (i : CtxId) (f : Firing) : (s.setFir i f).fresh = s.fresh := rfl

@[simp] theorem State.mem_modFir (s : State) (i : CtxId) (f : Firing → Firing) : (s.modFir i f).mem = s.mem := rfl
@[simp] theorem State.poison_modFir (s : State) (i : CtxId) (f : Firing → Firing) : (s.modFir i f).poison = s.poison := rfl
@[simp] theorem State.clusters_modFir (s : State) (i : CtxId) (f : Firing → Firing) : (s.modFir i f).clusters = s.clusters := rfl
@[simp] theorem State.dies_modFir (s : State) (i : CtxId) (f : Firing → Firing) : (s.modFir i f).dies = s.dies := rfl
@[simp] theorem State.parts_modFir (s : State) (i : CtxId) (f : Firing → Firing) : (s.modFir i f).parts = s.parts := rfl
@[simp] theorem State.pkg_modFir (s : State) (i : CtxId) (f : Firing → Firing) : (s.modFir i f).pkg = s.pkg := rfl
@[simp] theorem State.shadows_modFir (s : State) (i : CtxId) (f : Firing → Firing) : (s.modFir i f).shadows = s.shadows := rfl
@[simp] theorem State.cycle_modFir (s : State) (i : CtxId) (f : Firing → Firing) : (s.modFir i f).cycle = s.cycle := rfl
@[simp] theorem State.sched_modFir (s : State) (i : CtxId) (f : Firing → Firing) : (s.modFir i f).sched = s.sched := rfl
@[simp] theorem State.slot_modFir (s : State) (i : CtxId) (f : Firing → Firing) : (s.modFir i f).slot = s.slot := rfl
@[simp] theorem State.granted_modFir (s : State) (i : CtxId) (f : Firing → Firing) : (s.modFir i f).granted = s.granted := rfl
@[simp] theorem State.fresh_modFir (s : State) (i : CtxId) (f : Firing → Firing) : (s.modFir i f).fresh = s.fresh := rfl

@[simp] theorem State.mem_modCore (s : State) (n : Nat) (f : Core → Core) : (s.modCore n f).mem = s.mem := rfl
@[simp] theorem State.poison_modCore (s : State) (n : Nat) (f : Core → Core) : (s.modCore n f).poison = s.poison := rfl
@[simp] theorem State.clusters_modCore (s : State) (n : Nat) (f : Core → Core) : (s.modCore n f).clusters = s.clusters := rfl
@[simp] theorem State.dies_modCore (s : State) (n : Nat) (f : Core → Core) : (s.modCore n f).dies = s.dies := rfl
@[simp] theorem State.parts_modCore (s : State) (n : Nat) (f : Core → Core) : (s.modCore n f).parts = s.parts := rfl
@[simp] theorem State.pkg_modCore (s : State) (n : Nat) (f : Core → Core) : (s.modCore n f).pkg = s.pkg := rfl
@[simp] theorem State.shadows_modCore (s : State) (n : Nat) (f : Core → Core) : (s.modCore n f).shadows = s.shadows := rfl
@[simp] theorem State.cycle_modCore (s : State) (n : Nat) (f : Core → Core) : (s.modCore n f).cycle = s.cycle := rfl
@[simp] theorem State.sched_modCore (s : State) (n : Nat) (f : Core → Core) : (s.modCore n f).sched = s.sched := rfl
@[simp] theorem State.slot_modCore (s : State) (n : Nat) (f : Core → Core) : (s.modCore n f).slot = s.slot := rfl
@[simp] theorem State.granted_modCore (s : State) (n : Nat) (f : Core → Core) : (s.modCore n f).granted = s.granted := rfl
@[simp] theorem State.fresh_modCore (s : State) (n : Nat) (f : Core → Core) : (s.modCore n f).fresh = s.fresh := rfl

@[simp] theorem State.mem_modPart (s : State) (n : Nat) (f : Partition → Partition) : (s.modPart n f).mem = s.mem := rfl
@[simp] theorem State.poison_modPart (s : State) (n : Nat) (f : Partition → Partition) : (s.modPart n f).poison = s.poison := rfl
@[simp] theorem State.cores_modPart (s : State) (n : Nat) (f : Partition → Partition) : (s.modPart n f).cores = s.cores := rfl
@[simp] theorem State.clusters_modPart (s : State) (n : Nat) (f : Partition → Partition) : (s.modPart n f).clusters = s.clusters := rfl
@[simp] theorem State.dies_modPart (s : State) (n : Nat) (f : Partition → Partition) : (s.modPart n f).dies = s.dies := rfl
@[simp] theorem State.pkg_modPart (s : State) (n : Nat) (f : Partition → Partition) : (s.modPart n f).pkg = s.pkg := rfl
@[simp] theorem State.shadows_modPart (s : State) (n : Nat) (f : Partition → Partition) : (s.modPart n f).shadows = s.shadows := rfl
@[simp] theorem State.cycle_modPart (s : State) (n : Nat) (f : Partition → Partition) : (s.modPart n f).cycle = s.cycle := rfl
@[simp] theorem State.sched_modPart (s : State) (n : Nat) (f : Partition → Partition) : (s.modPart n f).sched = s.sched := rfl
@[simp] theorem State.slot_modPart (s : State) (n : Nat) (f : Partition → Partition) : (s.modPart n f).slot = s.slot := rfl
@[simp] theorem State.granted_modPart (s : State) (n : Nat) (f : Partition → Partition) : (s.modPart n f).granted = s.granted := rfl
@[simp] theorem State.fresh_modPart (s : State) (n : Nat) (f : Partition → Partition) : (s.modPart n f).fresh = s.fresh := rfl

@[simp] theorem State.mem_modDie (s : State) (n : Nat) (f : Die → Die) : (s.modDie n f).mem = s.mem := rfl
@[simp] theorem State.poison_modDie (s : State) (n : Nat) (f : Die → Die) : (s.modDie n f).poison = s.poison := rfl
@[simp] theorem State.cores_modDie (s : State) (n : Nat) (f : Die → Die) : (s.modDie n f).cores = s.cores := rfl
@[simp] theorem State.clusters_modDie (s : State) (n : Nat) (f : Die → Die) : (s.modDie n f).clusters = s.clusters := rfl
@[simp] theorem State.parts_modDie (s : State) (n : Nat) (f : Die → Die) : (s.modDie n f).parts = s.parts := rfl
@[simp] theorem State.pkg_modDie (s : State) (n : Nat) (f : Die → Die) : (s.modDie n f).pkg = s.pkg := rfl
@[simp] theorem State.shadows_modDie (s : State) (n : Nat) (f : Die → Die) : (s.modDie n f).shadows = s.shadows := rfl
@[simp] theorem State.cycle_modDie (s : State) (n : Nat) (f : Die → Die) : (s.modDie n f).cycle = s.cycle := rfl
@[simp] theorem State.sched_modDie (s : State) (n : Nat) (f : Die → Die) : (s.modDie n f).sched = s.sched := rfl
@[simp] theorem State.slot_modDie (s : State) (n : Nat) (f : Die → Die) : (s.modDie n f).slot = s.slot := rfl
@[simp] theorem State.granted_modDie (s : State) (n : Nat) (f : Die → Die) : (s.modDie n f).granted = s.granted := rfl
@[simp] theorem State.fresh_modDie (s : State) (n : Nat) (f : Die → Die) : (s.modDie n f).fresh = s.fresh := rfl

@[simp] theorem State.mem_modCluster (s : State) (n : Nat) (f : Cluster → Cluster) : (s.modCluster n f).mem = s.mem := rfl
@[simp] theorem State.poison_modCluster (s : State) (n : Nat) (f : Cluster → Cluster) : (s.modCluster n f).poison = s.poison := rfl
@[simp] theorem State.cores_modCluster (s : State) (n : Nat) (f : Cluster → Cluster) : (s.modCluster n f).cores = s.cores := rfl
@[simp] theorem State.dies_modCluster (s : State) (n : Nat) (f : Cluster → Cluster) : (s.modCluster n f).dies = s.dies := rfl
@[simp] theorem State.parts_modCluster (s : State) (n : Nat) (f : Cluster → Cluster) : (s.modCluster n f).parts = s.parts := rfl
@[simp] theorem State.pkg_modCluster (s : State) (n : Nat) (f : Cluster → Cluster) : (s.modCluster n f).pkg = s.pkg := rfl
@[simp] theorem State.shadows_modCluster (s : State) (n : Nat) (f : Cluster → Cluster) : (s.modCluster n f).shadows = s.shadows := rfl
@[simp] theorem State.cycle_modCluster (s : State) (n : Nat) (f : Cluster → Cluster) : (s.modCluster n f).cycle = s.cycle := rfl
@[simp] theorem State.sched_modCluster (s : State) (n : Nat) (f : Cluster → Cluster) : (s.modCluster n f).sched = s.sched := rfl
@[simp] theorem State.slot_modCluster (s : State) (n : Nat) (f : Cluster → Cluster) : (s.modCluster n f).slot = s.slot := rfl
@[simp] theorem State.granted_modCluster (s : State) (n : Nat) (f : Cluster → Cluster) : (s.modCluster n f).granted = s.granted := rfl
@[simp] theorem State.fresh_modCluster (s : State) (n : Nat) (f : Cluster → Cluster) : (s.modCluster n f).fresh = s.fresh := rfl

@[simp] theorem State.mem_modPkg (s : State) (f : Package → Package) : (s.modPkg f).mem = s.mem := rfl
@[simp] theorem State.poison_modPkg (s : State) (f : Package → Package) : (s.modPkg f).poison = s.poison := rfl
@[simp] theorem State.cores_modPkg (s : State) (f : Package → Package) : (s.modPkg f).cores = s.cores := rfl
@[simp] theorem State.clusters_modPkg (s : State) (f : Package → Package) : (s.modPkg f).clusters = s.clusters := rfl
@[simp] theorem State.dies_modPkg (s : State) (f : Package → Package) : (s.modPkg f).dies = s.dies := rfl
@[simp] theorem State.parts_modPkg (s : State) (f : Package → Package) : (s.modPkg f).parts = s.parts := rfl
@[simp] theorem State.shadows_modPkg (s : State) (f : Package → Package) : (s.modPkg f).shadows = s.shadows := rfl
@[simp] theorem State.cycle_modPkg (s : State) (f : Package → Package) : (s.modPkg f).cycle = s.cycle := rfl
@[simp] theorem State.sched_modPkg (s : State) (f : Package → Package) : (s.modPkg f).sched = s.sched := rfl
@[simp] theorem State.slot_modPkg (s : State) (f : Package → Package) : (s.modPkg f).slot = s.slot := rfl
@[simp] theorem State.granted_modPkg (s : State) (f : Package → Package) : (s.modPkg f).granted = s.granted := rfl
@[simp] theorem State.fresh_modPkg (s : State) (f : Package → Package) : (s.modPkg f).fresh = s.fresh := rfl

@[simp] theorem State.mem_setChan (s : State) (p ch : Nat) (c : Chan) : (s.setChan p ch c).mem = s.mem := rfl
@[simp] theorem State.poison_setChan (s : State) (p ch : Nat) (c : Chan) : (s.setChan p ch c).poison = s.poison := rfl
@[simp] theorem State.cores_setChan (s : State) (p ch : Nat) (c : Chan) : (s.setChan p ch c).cores = s.cores := rfl
@[simp] theorem State.clusters_setChan (s : State) (p ch : Nat) (c : Chan) : (s.setChan p ch c).clusters = s.clusters := rfl
@[simp] theorem State.dies_setChan (s : State) (p ch : Nat) (c : Chan) : (s.setChan p ch c).dies = s.dies := rfl
@[simp] theorem State.pkg_setChan (s : State) (p ch : Nat) (c : Chan) : (s.setChan p ch c).pkg = s.pkg := rfl
@[simp] theorem State.shadows_setChan (s : State) (p ch : Nat) (c : Chan) : (s.setChan p ch c).shadows = s.shadows := rfl
@[simp] theorem State.cycle_setChan (s : State) (p ch : Nat) (c : Chan) : (s.setChan p ch c).cycle = s.cycle := rfl
@[simp] theorem State.sched_setChan (s : State) (p ch : Nat) (c : Chan) : (s.setChan p ch c).sched = s.sched := rfl
@[simp] theorem State.slot_setChan (s : State) (p ch : Nat) (c : Chan) : (s.setChan p ch c).slot = s.slot := rfl
@[simp] theorem State.granted_setChan (s : State) (p ch : Nat) (c : Chan) : (s.setChan p ch c).granted = s.granted := rfl
@[simp] theorem State.fresh_setChan (s : State) (p ch : Nat) (c : Chan) : (s.setChan p ch c).fresh = s.fresh := rfl

@[simp] theorem State.mem_setRgroup (s : State) (p g : Nat) (r : RGroup) : (s.setRgroup p g r).mem = s.mem := rfl
@[simp] theorem State.poison_setRgroup (s : State) (p g : Nat) (r : RGroup) : (s.setRgroup p g r).poison = s.poison := rfl
@[simp] theorem State.cores_setRgroup (s : State) (p g : Nat) (r : RGroup) : (s.setRgroup p g r).cores = s.cores := rfl
@[simp] theorem State.clusters_setRgroup (s : State) (p g : Nat) (r : RGroup) : (s.setRgroup p g r).clusters = s.clusters := rfl
@[simp] theorem State.dies_setRgroup (s : State) (p g : Nat) (r : RGroup) : (s.setRgroup p g r).dies = s.dies := rfl
@[simp] theorem State.pkg_setRgroup (s : State) (p g : Nat) (r : RGroup) : (s.setRgroup p g r).pkg = s.pkg := rfl
@[simp] theorem State.shadows_setRgroup (s : State) (p g : Nat) (r : RGroup) : (s.setRgroup p g r).shadows = s.shadows := rfl
@[simp] theorem State.cycle_setRgroup (s : State) (p g : Nat) (r : RGroup) : (s.setRgroup p g r).cycle = s.cycle := rfl
@[simp] theorem State.sched_setRgroup (s : State) (p g : Nat) (r : RGroup) : (s.setRgroup p g r).sched = s.sched := rfl
@[simp] theorem State.slot_setRgroup (s : State) (p g : Nat) (r : RGroup) : (s.setRgroup p g r).slot = s.slot := rfl
@[simp] theorem State.granted_setRgroup (s : State) (p g : Nat) (r : RGroup) : (s.setRgroup p g r).granted = s.granted := rfl
@[simp] theorem State.fresh_setRgroup (s : State) (p g : Nat) (r : RGroup) : (s.setRgroup p g r).fresh = s.fresh := rfl

@[simp] theorem State.mem_setLaunch (s : State) (p h : Nat) (l : Launch) : (s.setLaunch p h l).mem = s.mem := rfl
@[simp] theorem State.poison_setLaunch (s : State) (p h : Nat) (l : Launch) : (s.setLaunch p h l).poison = s.poison := rfl
@[simp] theorem State.cores_setLaunch (s : State) (p h : Nat) (l : Launch) : (s.setLaunch p h l).cores = s.cores := rfl
@[simp] theorem State.clusters_setLaunch (s : State) (p h : Nat) (l : Launch) : (s.setLaunch p h l).clusters = s.clusters := rfl
@[simp] theorem State.dies_setLaunch (s : State) (p h : Nat) (l : Launch) : (s.setLaunch p h l).dies = s.dies := rfl
@[simp] theorem State.pkg_setLaunch (s : State) (p h : Nat) (l : Launch) : (s.setLaunch p h l).pkg = s.pkg := rfl
@[simp] theorem State.shadows_setLaunch (s : State) (p h : Nat) (l : Launch) : (s.setLaunch p h l).shadows = s.shadows := rfl
@[simp] theorem State.cycle_setLaunch (s : State) (p h : Nat) (l : Launch) : (s.setLaunch p h l).cycle = s.cycle := rfl
@[simp] theorem State.sched_setLaunch (s : State) (p h : Nat) (l : Launch) : (s.setLaunch p h l).sched = s.sched := rfl
@[simp] theorem State.slot_setLaunch (s : State) (p h : Nat) (l : Launch) : (s.setLaunch p h l).slot = s.slot := rfl
@[simp] theorem State.granted_setLaunch (s : State) (p h : Nat) (l : Launch) : (s.setLaunch p h l).granted = s.granted := rfl
@[simp] theorem State.fresh_setLaunch (s : State) (p h : Nat) (l : Launch) : (s.setLaunch p h l).fresh = s.fresh := rfl

/-! ### Parts of the state under updates of other parts -/

@[simp] theorem State.clusterAt_setCore (s : State) (n : Nat) (c : Core) (m : Nat) : (s.setCore n c).clusterAt m = s.clusterAt m := rfl
@[simp] theorem State.dieAt_setCore (s : State) (n : Nat) (c : Core) (m : Nat) : (s.setCore n c).dieAt m = s.dieAt m := rfl
@[simp] theorem State.partAt_setCore (s : State) (n : Nat) (c : Core) (m : Nat) : (s.setCore n c).partAt m = s.partAt m := rfl
@[simp] theorem State.now_setCore (s : State) (n : Nat) (c : Core) : (s.setCore n c).now = s.now := rfl

@[simp] theorem State.coreAt_setCluster (s : State) (n : Nat) (c : Cluster) (m : Nat) : (s.setCluster n c).coreAt m = s.coreAt m := rfl
@[simp] theorem State.dieAt_setCluster (s : State) (n : Nat) (c : Cluster) (m : Nat) : (s.setCluster n c).dieAt m = s.dieAt m := rfl
@[simp] theorem State.partAt_setCluster (s : State) (n : Nat) (c : Cluster) (m : Nat) : (s.setCluster n c).partAt m = s.partAt m := rfl
@[simp] theorem State.ctx_setCluster (s : State) (n : Nat) (c : Cluster) (j : CtxId) : (s.setCluster n c).ctx j = s.ctx j := rfl
@[simp] theorem State.fir_setCluster (s : State) (n : Nat) (c : Cluster) (j : CtxId) : (s.setCluster n c).fir j = s.fir j := rfl
@[simp] theorem State.now_setCluster (s : State) (n : Nat) (c : Cluster) : (s.setCluster n c).now = s.now := rfl

@[simp] theorem State.coreAt_setDie (s : State) (n : Nat) (d : Die) (m : Nat) : (s.setDie n d).coreAt m = s.coreAt m := rfl
@[simp] theorem State.clusterAt_setDie (s : State) (n : Nat) (d : Die) (m : Nat) : (s.setDie n d).clusterAt m = s.clusterAt m := rfl
@[simp] theorem State.partAt_setDie (s : State) (n : Nat) (d : Die) (m : Nat) : (s.setDie n d).partAt m = s.partAt m := rfl
@[simp] theorem State.ctx_setDie (s : State) (n : Nat) (d : Die) (j : CtxId) : (s.setDie n d).ctx j = s.ctx j := rfl
@[simp] theorem State.fir_setDie (s : State) (n : Nat) (d : Die) (j : CtxId) : (s.setDie n d).fir j = s.fir j := rfl
@[simp] theorem State.now_setDie (s : State) (n : Nat) (d : Die) : (s.setDie n d).now = s.now := rfl

@[simp] theorem State.coreAt_setPart (s : State) (n : Nat) (p : Partition) (m : Nat) : (s.setPart n p).coreAt m = s.coreAt m := rfl
@[simp] theorem State.clusterAt_setPart (s : State) (n : Nat) (p : Partition) (m : Nat) : (s.setPart n p).clusterAt m = s.clusterAt m := rfl
@[simp] theorem State.dieAt_setPart (s : State) (n : Nat) (p : Partition) (m : Nat) : (s.setPart n p).dieAt m = s.dieAt m := rfl
@[simp] theorem State.ctx_setPart (s : State) (n : Nat) (p : Partition) (j : CtxId) : (s.setPart n p).ctx j = s.ctx j := rfl
@[simp] theorem State.fir_setPart (s : State) (n : Nat) (p : Partition) (j : CtxId) : (s.setPart n p).fir j = s.fir j := rfl
@[simp] theorem State.now_setPart (s : State) (n : Nat) (p : Partition) : (s.setPart n p).now = s.now := rfl

@[simp] theorem State.clusterAt_setCtx (s : State) (i : CtxId) (k : Context) (m : Nat) : (s.setCtx i k).clusterAt m = s.clusterAt m := rfl
@[simp] theorem State.dieAt_setCtx (s : State) (i : CtxId) (k : Context) (m : Nat) : (s.setCtx i k).dieAt m = s.dieAt m := rfl
@[simp] theorem State.partAt_setCtx (s : State) (i : CtxId) (k : Context) (m : Nat) : (s.setCtx i k).partAt m = s.partAt m := rfl
@[simp] theorem State.now_setCtx (s : State) (i : CtxId) (k : Context) : (s.setCtx i k).now = s.now := rfl

@[simp] theorem State.clusterAt_modCtx (s : State) (i : CtxId) (f : Context → Context) (m : Nat) : (s.modCtx i f).clusterAt m = s.clusterAt m := rfl
@[simp] theorem State.dieAt_modCtx (s : State) (i : CtxId) (f : Context → Context) (m : Nat) : (s.modCtx i f).dieAt m = s.dieAt m := rfl
@[simp] theorem State.partAt_modCtx (s : State) (i : CtxId) (f : Context → Context) (m : Nat) : (s.modCtx i f).partAt m = s.partAt m := rfl
@[simp] theorem State.now_modCtx (s : State) (i : CtxId) (f : Context → Context) : (s.modCtx i f).now = s.now := rfl

@[simp] theorem State.clusterAt_setFir (s : State) (i : CtxId) (f : Firing) (m : Nat) : (s.setFir i f).clusterAt m = s.clusterAt m := rfl
@[simp] theorem State.dieAt_setFir (s : State) (i : CtxId) (f : Firing) (m : Nat) : (s.setFir i f).dieAt m = s.dieAt m := rfl
@[simp] theorem State.partAt_setFir (s : State) (i : CtxId) (f : Firing) (m : Nat) : (s.setFir i f).partAt m = s.partAt m := rfl
@[simp] theorem State.now_setFir (s : State) (i : CtxId) (f : Firing) : (s.setFir i f).now = s.now := rfl

@[simp] theorem State.clusterAt_modFir (s : State) (i : CtxId) (f : Firing → Firing) (m : Nat) : (s.modFir i f).clusterAt m = s.clusterAt m := rfl
@[simp] theorem State.dieAt_modFir (s : State) (i : CtxId) (f : Firing → Firing) (m : Nat) : (s.modFir i f).dieAt m = s.dieAt m := rfl
@[simp] theorem State.partAt_modFir (s : State) (i : CtxId) (f : Firing → Firing) (m : Nat) : (s.modFir i f).partAt m = s.partAt m := rfl
@[simp] theorem State.now_modFir (s : State) (i : CtxId) (f : Firing → Firing) : (s.modFir i f).now = s.now := rfl

@[simp] theorem State.clusterAt_modCore (s : State) (n : Nat) (f : Core → Core) (m : Nat) : (s.modCore n f).clusterAt m = s.clusterAt m := rfl
@[simp] theorem State.dieAt_modCore (s : State) (n : Nat) (f : Core → Core) (m : Nat) : (s.modCore n f).dieAt m = s.dieAt m := rfl
@[simp] theorem State.partAt_modCore (s : State) (n : Nat) (f : Core → Core) (m : Nat) : (s.modCore n f).partAt m = s.partAt m := rfl
@[simp] theorem State.now_modCore (s : State) (n : Nat) (f : Core → Core) : (s.modCore n f).now = s.now := rfl

@[simp] theorem State.coreAt_modPart (s : State) (n : Nat) (f : Partition → Partition) (m : Nat) : (s.modPart n f).coreAt m = s.coreAt m := rfl
@[simp] theorem State.clusterAt_modPart (s : State) (n : Nat) (f : Partition → Partition) (m : Nat) : (s.modPart n f).clusterAt m = s.clusterAt m := rfl
@[simp] theorem State.dieAt_modPart (s : State) (n : Nat) (f : Partition → Partition) (m : Nat) : (s.modPart n f).dieAt m = s.dieAt m := rfl
@[simp] theorem State.ctx_modPart (s : State) (n : Nat) (f : Partition → Partition) (j : CtxId) : (s.modPart n f).ctx j = s.ctx j := rfl
@[simp] theorem State.fir_modPart (s : State) (n : Nat) (f : Partition → Partition) (j : CtxId) : (s.modPart n f).fir j = s.fir j := rfl
@[simp] theorem State.now_modPart (s : State) (n : Nat) (f : Partition → Partition) : (s.modPart n f).now = s.now := rfl

@[simp] theorem State.coreAt_modDie (s : State) (n : Nat) (f : Die → Die) (m : Nat) : (s.modDie n f).coreAt m = s.coreAt m := rfl
@[simp] theorem State.clusterAt_modDie (s : State) (n : Nat) (f : Die → Die) (m : Nat) : (s.modDie n f).clusterAt m = s.clusterAt m := rfl
@[simp] theorem State.partAt_modDie (s : State) (n : Nat) (f : Die → Die) (m : Nat) : (s.modDie n f).partAt m = s.partAt m := rfl
@[simp] theorem State.ctx_modDie (s : State) (n : Nat) (f : Die → Die) (j : CtxId) : (s.modDie n f).ctx j = s.ctx j := rfl
@[simp] theorem State.fir_modDie (s : State) (n : Nat) (f : Die → Die) (j : CtxId) : (s.modDie n f).fir j = s.fir j := rfl
@[simp] theorem State.now_modDie (s : State) (n : Nat) (f : Die → Die) : (s.modDie n f).now = s.now := rfl

@[simp] theorem State.coreAt_modCluster (s : State) (n : Nat) (f : Cluster → Cluster) (m : Nat) : (s.modCluster n f).coreAt m = s.coreAt m := rfl
@[simp] theorem State.dieAt_modCluster (s : State) (n : Nat) (f : Cluster → Cluster) (m : Nat) : (s.modCluster n f).dieAt m = s.dieAt m := rfl
@[simp] theorem State.partAt_modCluster (s : State) (n : Nat) (f : Cluster → Cluster) (m : Nat) : (s.modCluster n f).partAt m = s.partAt m := rfl
@[simp] theorem State.ctx_modCluster (s : State) (n : Nat) (f : Cluster → Cluster) (j : CtxId) : (s.modCluster n f).ctx j = s.ctx j := rfl
@[simp] theorem State.fir_modCluster (s : State) (n : Nat) (f : Cluster → Cluster) (j : CtxId) : (s.modCluster n f).fir j = s.fir j := rfl
@[simp] theorem State.now_modCluster (s : State) (n : Nat) (f : Cluster → Cluster) : (s.modCluster n f).now = s.now := rfl

@[simp] theorem State.coreAt_modPkg (s : State) (f : Package → Package) (m : Nat) : (s.modPkg f).coreAt m = s.coreAt m := rfl
@[simp] theorem State.clusterAt_modPkg (s : State) (f : Package → Package) (m : Nat) : (s.modPkg f).clusterAt m = s.clusterAt m := rfl
@[simp] theorem State.dieAt_modPkg (s : State) (f : Package → Package) (m : Nat) : (s.modPkg f).dieAt m = s.dieAt m := rfl
@[simp] theorem State.partAt_modPkg (s : State) (f : Package → Package) (m : Nat) : (s.modPkg f).partAt m = s.partAt m := rfl
@[simp] theorem State.ctx_modPkg (s : State) (f : Package → Package) (j : CtxId) : (s.modPkg f).ctx j = s.ctx j := rfl
@[simp] theorem State.fir_modPkg (s : State) (f : Package → Package) (j : CtxId) : (s.modPkg f).fir j = s.fir j := rfl
@[simp] theorem State.now_modPkg (s : State) (f : Package → Package) : (s.modPkg f).now = s.now := rfl

@[simp] theorem State.coreAt_setChan (s : State) (p ch : Nat) (c : Chan) (m : Nat) : (s.setChan p ch c).coreAt m = s.coreAt m := rfl
@[simp] theorem State.clusterAt_setChan (s : State) (p ch : Nat) (c : Chan) (m : Nat) : (s.setChan p ch c).clusterAt m = s.clusterAt m := rfl
@[simp] theorem State.dieAt_setChan (s : State) (p ch : Nat) (c : Chan) (m : Nat) : (s.setChan p ch c).dieAt m = s.dieAt m := rfl
@[simp] theorem State.ctx_setChan (s : State) (p ch : Nat) (c : Chan) (j : CtxId) : (s.setChan p ch c).ctx j = s.ctx j := rfl
@[simp] theorem State.fir_setChan (s : State) (p ch : Nat) (c : Chan) (j : CtxId) : (s.setChan p ch c).fir j = s.fir j := rfl
@[simp] theorem State.now_setChan (s : State) (p ch : Nat) (c : Chan) : (s.setChan p ch c).now = s.now := rfl

@[simp] theorem State.coreAt_setRgroup (s : State) (p g : Nat) (r : RGroup) (m : Nat) : (s.setRgroup p g r).coreAt m = s.coreAt m := rfl
@[simp] theorem State.clusterAt_setRgroup (s : State) (p g : Nat) (r : RGroup) (m : Nat) : (s.setRgroup p g r).clusterAt m = s.clusterAt m := rfl
@[simp] theorem State.dieAt_setRgroup (s : State) (p g : Nat) (r : RGroup) (m : Nat) : (s.setRgroup p g r).dieAt m = s.dieAt m := rfl
@[simp] theorem State.ctx_setRgroup (s : State) (p g : Nat) (r : RGroup) (j : CtxId) : (s.setRgroup p g r).ctx j = s.ctx j := rfl
@[simp] theorem State.fir_setRgroup (s : State) (p g : Nat) (r : RGroup) (j : CtxId) : (s.setRgroup p g r).fir j = s.fir j := rfl
@[simp] theorem State.now_setRgroup (s : State) (p g : Nat) (r : RGroup) : (s.setRgroup p g r).now = s.now := rfl

@[simp] theorem State.coreAt_setLaunch (s : State) (p h : Nat) (l : Launch) (m : Nat) : (s.setLaunch p h l).coreAt m = s.coreAt m := rfl
@[simp] theorem State.clusterAt_setLaunch (s : State) (p h : Nat) (l : Launch) (m : Nat) : (s.setLaunch p h l).clusterAt m = s.clusterAt m := rfl
@[simp] theorem State.dieAt_setLaunch (s : State) (p h : Nat) (l : Launch) (m : Nat) : (s.setLaunch p h l).dieAt m = s.dieAt m := rfl
@[simp] theorem State.ctx_setLaunch (s : State) (p h : Nat) (l : Launch) (j : CtxId) : (s.setLaunch p h l).ctx j = s.ctx j := rfl
@[simp] theorem State.fir_setLaunch (s : State) (p h : Nat) (l : Launch) (j : CtxId) : (s.setLaunch p h l).fir j = s.fir j := rfl
@[simp] theorem State.now_setLaunch (s : State) (p h : Nat) (l : Launch) : (s.setLaunch p h l).now = s.now := rfl

/-! ### Contexts -/

@[simp] theorem Core.ctx_setCtx_self (c : Core) (x : Ctx) (k : Context) : (c.setCtx x k).ctx x = k := by cases x <;> rfl
theorem Core.ctx_setCtx_of_ne {x y : Ctx} (h : x ≠ y) (c : Core) (k : Context) : (c.setCtx y k).ctx x = c.ctx x := by
  cases x <;> cases y <;> first | rfl | exact absurd rfl h

@[simp] theorem State.ctx_setCtx_self (s : State) (i : CtxId) (k : Context) : (s.setCtx i k).ctx i = k := by
  simp [State.ctx, State.setCtx]
theorem State.ctx_setCtx_of_ne {i j : CtxId} (h : j ≠ i) (s : State) (k : Context) : (s.setCtx i k).ctx j = s.ctx j := by
  by_cases hc : j.core = i.core
  · have hx : j.x ≠ i.x := fun hx => h (by cases i; cases j; simp_all)
    simp [State.ctx, State.setCtx, hc, Core.ctx_setCtx_of_ne hx]
  · simp [State.ctx, State.setCtx, State.coreAt_setCore_of_ne hc]

@[simp] theorem State.ctx_modCtx_self (s : State) (i : CtxId) (f : Context → Context) : (s.modCtx i f).ctx i = f (s.ctx i) := by
  simp [State.modCtx]
theorem State.ctx_modCtx_of_ne {i j : CtxId} (h : j ≠ i) (s : State) (f : Context → Context) : (s.modCtx i f).ctx j = s.ctx j := by
  simp [State.modCtx, State.ctx_setCtx_of_ne h]
@[simp] theorem State.fir_modCtx_self (s : State) (i : CtxId) (f : Context → Context) : (s.modCtx i f).fir i = (f (s.ctx i)).fir := by
  simp [State.fir]
@[simp] theorem State.ctx_modFir_self (s : State) (i : CtxId) (f : Firing → Firing) :
    (s.modFir i f).ctx i = { s.ctx i with fir := f (s.ctx i).fir } := by
  simp [State.modFir, State.setFir, State.fir]
@[simp] theorem State.fir_modFir_self (s : State) (i : CtxId) (f : Firing → Firing) : (s.modFir i f).fir i = f (s.fir i) := by
  simp [State.fir]
theorem State.ctx_modFir_of_ne {i j : CtxId} (h : j ≠ i) (s : State) (f : Firing → Firing) : (s.modFir i f).ctx j = s.ctx j := by
  simp [State.modFir, State.setFir, State.ctx_setCtx_of_ne h]

/-! ### Cores without their contexts -/

/-- A core without its contexts. -/
def Core.shell (c : Core) : Core := { c with n := Context.reset, u := Context.reset }

@[simp] theorem Core.shell_setCtx (c : Core) (x : Ctx) (k : Context) : (c.setCtx x k).shell = c.shell := by cases x <;> rfl
@[simp] theorem State.shell_setCtx (s : State) (i : CtxId) (k : Context) (n : Nat) : ((s.setCtx i k).coreAt n).shell = (s.coreAt n).shell := by
  by_cases h : n = i.core
  · simp [State.setCtx, h]
  · simp [State.setCtx, State.coreAt_setCore_of_ne h]
@[simp] theorem State.shell_modCtx (s : State) (i : CtxId) (f : Context → Context) (n : Nat) :
    ((s.modCtx i f).coreAt n).shell = (s.coreAt n).shell := by
  simp [State.modCtx]
@[simp] theorem State.shell_modFir (s : State) (i : CtxId) (f : Firing → Firing) (n : Nat) :
    ((s.modFir i f).coreAt n).shell = (s.coreAt n).shell := by
  simp [State.modFir, State.setFir]

/-- A core is its shell with its contexts. -/
theorem Core.ext_shell {c d : Core} (h : c.shell = d.shell) (hn : c.n = d.n) (hu : c.u = d.u) : c = d := by
  cases c; cases d; simp_all [Core.shell]

theorem Core.handlers_eq_of_shell {c d : Core} (h : c.shell = d.shell) : c.handlers = d.handlers := by
  have q := congrArg (fun c : Core => c.handlers) h
  exact q
@[simp] theorem State.handlers_setCtx (s : State) (i : CtxId) (k : Context) (n : Nat) : ((s.setCtx i k).coreAt n).handlers = (s.coreAt n).handlers :=
  Core.handlers_eq_of_shell (State.shell_setCtx s i k n)
@[simp] theorem State.handlers_modCtx (s : State) (i : CtxId) (f : Context → Context) (n : Nat) : ((s.modCtx i f).coreAt n).handlers = (s.coreAt n).handlers :=
  Core.handlers_eq_of_shell (State.shell_modCtx s i f n)
@[simp] theorem State.handlers_modFir (s : State) (i : CtxId) (f : Firing → Firing) (n : Nat) : ((s.modFir i f).coreAt n).handlers = (s.coreAt n).handlers :=
  Core.handlers_eq_of_shell (State.shell_modFir s i f n)
theorem Core.wins_eq_of_shell {c d : Core} (h : c.shell = d.shell) : c.wins = d.wins := by
  have q := congrArg (fun c : Core => c.wins) h
  exact q
@[simp] theorem State.wins_setCtx (s : State) (i : CtxId) (k : Context) (n : Nat) : ((s.setCtx i k).coreAt n).wins = (s.coreAt n).wins :=
  Core.wins_eq_of_shell (State.shell_setCtx s i k n)
@[simp] theorem State.wins_modCtx (s : State) (i : CtxId) (f : Context → Context) (n : Nat) : ((s.modCtx i f).coreAt n).wins = (s.coreAt n).wins :=
  Core.wins_eq_of_shell (State.shell_modCtx s i f n)
@[simp] theorem State.wins_modFir (s : State) (i : CtxId) (f : Firing → Firing) (n : Nat) : ((s.modFir i f).coreAt n).wins = (s.coreAt n).wins :=
  Core.wins_eq_of_shell (State.shell_modFir s i f n)
theorem Core.empty_eq_of_shell {c d : Core} (h : c.shell = d.shell) : c.empty = d.empty := by
  have q := congrArg (fun c : Core => c.empty) h
  exact q
@[simp] theorem State.empty_setCtx (s : State) (i : CtxId) (k : Context) (n : Nat) : ((s.setCtx i k).coreAt n).empty = (s.coreAt n).empty :=
  Core.empty_eq_of_shell (State.shell_setCtx s i k n)
@[simp] theorem State.empty_modCtx (s : State) (i : CtxId) (f : Context → Context) (n : Nat) : ((s.modCtx i f).coreAt n).empty = (s.coreAt n).empty :=
  Core.empty_eq_of_shell (State.shell_modCtx s i f n)
@[simp] theorem State.empty_modFir (s : State) (i : CtxId) (f : Firing → Firing) (n : Nat) : ((s.modFir i f).coreAt n).empty = (s.coreAt n).empty :=
  Core.empty_eq_of_shell (State.shell_modFir s i f n)
theorem Core.filling_eq_of_shell {c d : Core} (h : c.shell = d.shell) : c.filling = d.filling := by
  have q := congrArg (fun c : Core => c.filling) h
  exact q
theorem Core.waits_eq_of_shell {c d : Core} (h : c.shell = d.shell) : c.waits = d.waits := by
  have q := congrArg (fun c : Core => c.waits) h
  exact q
@[simp] theorem State.filling_setCtx (s : State) (i : CtxId) (k : Context) (n : Nat) : ((s.setCtx i k).coreAt n).filling = (s.coreAt n).filling :=
  Core.filling_eq_of_shell (State.shell_setCtx s i k n)
@[simp] theorem State.waits_setCtx (s : State) (i : CtxId) (k : Context) (n : Nat) : ((s.setCtx i k).coreAt n).waits = (s.coreAt n).waits :=
  Core.waits_eq_of_shell (State.shell_setCtx s i k n)
@[simp] theorem State.filling_modCtx (s : State) (i : CtxId) (f : Context → Context) (n : Nat) : ((s.modCtx i f).coreAt n).filling = (s.coreAt n).filling :=
  Core.filling_eq_of_shell (State.shell_modCtx s i f n)
@[simp] theorem State.waits_modCtx (s : State) (i : CtxId) (f : Context → Context) (n : Nat) : ((s.modCtx i f).coreAt n).waits = (s.coreAt n).waits :=
  Core.waits_eq_of_shell (State.shell_modCtx s i f n)
@[simp] theorem State.filling_modFir (s : State) (i : CtxId) (f : Firing → Firing) (n : Nat) : ((s.modFir i f).coreAt n).filling = (s.coreAt n).filling :=
  Core.filling_eq_of_shell (State.shell_modFir s i f n)
@[simp] theorem State.waits_modFir (s : State) (i : CtxId) (f : Firing → Firing) (n : Nat) : ((s.modFir i f).coreAt n).waits = (s.coreAt n).waits :=
  Core.waits_eq_of_shell (State.shell_modFir s i f n)
theorem Core.rqbase_eq_of_shell {c d : Core} (h : c.shell = d.shell) : c.rqbase = d.rqbase := by
  have q := congrArg (fun c : Core => c.rqbase) h
  exact q
@[simp] theorem State.rqbase_setCtx (s : State) (i : CtxId) (k : Context) (n : Nat) : ((s.setCtx i k).coreAt n).rqbase = (s.coreAt n).rqbase :=
  Core.rqbase_eq_of_shell (State.shell_setCtx s i k n)
@[simp] theorem State.rqbase_modCtx (s : State) (i : CtxId) (f : Context → Context) (n : Nat) : ((s.modCtx i f).coreAt n).rqbase = (s.coreAt n).rqbase :=
  Core.rqbase_eq_of_shell (State.shell_modCtx s i f n)
@[simp] theorem State.rqbase_modFir (s : State) (i : CtxId) (f : Firing → Firing) (n : Nat) : ((s.modFir i f).coreAt n).rqbase = (s.coreAt n).rqbase :=
  Core.rqbase_eq_of_shell (State.shell_modFir s i f n)
theorem Core.rqlim_eq_of_shell {c d : Core} (h : c.shell = d.shell) : c.rqlim = d.rqlim := by
  have q := congrArg (fun c : Core => c.rqlim) h
  exact q
@[simp] theorem State.rqlim_setCtx (s : State) (i : CtxId) (k : Context) (n : Nat) : ((s.setCtx i k).coreAt n).rqlim = (s.coreAt n).rqlim :=
  Core.rqlim_eq_of_shell (State.shell_setCtx s i k n)
@[simp] theorem State.rqlim_modCtx (s : State) (i : CtxId) (f : Context → Context) (n : Nat) : ((s.modCtx i f).coreAt n).rqlim = (s.coreAt n).rqlim :=
  Core.rqlim_eq_of_shell (State.shell_modCtx s i f n)
@[simp] theorem State.rqlim_modFir (s : State) (i : CtxId) (f : Firing → Firing) (n : Nat) : ((s.modFir i f).coreAt n).rqlim = (s.coreAt n).rqlim :=
  Core.rqlim_eq_of_shell (State.shell_modFir s i f n)
theorem Core.rqtop_eq_of_shell {c d : Core} (h : c.shell = d.shell) : c.rqtop = d.rqtop := by
  have q := congrArg (fun c : Core => c.rqtop) h
  exact q
@[simp] theorem State.rqtop_setCtx (s : State) (i : CtxId) (k : Context) (n : Nat) : ((s.setCtx i k).coreAt n).rqtop = (s.coreAt n).rqtop :=
  Core.rqtop_eq_of_shell (State.shell_setCtx s i k n)
@[simp] theorem State.rqtop_modCtx (s : State) (i : CtxId) (f : Context → Context) (n : Nat) : ((s.modCtx i f).coreAt n).rqtop = (s.coreAt n).rqtop :=
  Core.rqtop_eq_of_shell (State.shell_modCtx s i f n)
@[simp] theorem State.rqtop_modFir (s : State) (i : CtxId) (f : Firing → Firing) (n : Nat) : ((s.modFir i f).coreAt n).rqtop = (s.coreAt n).rqtop :=
  Core.rqtop_eq_of_shell (State.shell_modFir s i f n)
theorem Core.rqbot_eq_of_shell {c d : Core} (h : c.shell = d.shell) : c.rqbot = d.rqbot := by
  have q := congrArg (fun c : Core => c.rqbot) h
  exact q
@[simp] theorem State.rqbot_setCtx (s : State) (i : CtxId) (k : Context) (n : Nat) : ((s.setCtx i k).coreAt n).rqbot = (s.coreAt n).rqbot :=
  Core.rqbot_eq_of_shell (State.shell_setCtx s i k n)
@[simp] theorem State.rqbot_modCtx (s : State) (i : CtxId) (f : Context → Context) (n : Nat) : ((s.modCtx i f).coreAt n).rqbot = (s.coreAt n).rqbot :=
  Core.rqbot_eq_of_shell (State.shell_modCtx s i f n)
@[simp] theorem State.rqbot_modFir (s : State) (i : CtxId) (f : Firing → Firing) (n : Nat) : ((s.modFir i f).coreAt n).rqbot = (s.coreAt n).rqbot :=
  Core.rqbot_eq_of_shell (State.shell_modFir s i f n)
theorem Core.slots_eq_of_shell {c d : Core} (h : c.shell = d.shell) : c.slots = d.slots := by
  have q := congrArg (fun c : Core => c.slots) h
  exact q
@[simp] theorem State.slots_setCtx (s : State) (i : CtxId) (k : Context) (n : Nat) : ((s.setCtx i k).coreAt n).slots = (s.coreAt n).slots :=
  Core.slots_eq_of_shell (State.shell_setCtx s i k n)
@[simp] theorem State.slots_modCtx (s : State) (i : CtxId) (f : Context → Context) (n : Nat) : ((s.modCtx i f).coreAt n).slots = (s.coreAt n).slots :=
  Core.slots_eq_of_shell (State.shell_modCtx s i f n)
@[simp] theorem State.slots_modFir (s : State) (i : CtxId) (f : Firing → Firing) (n : Nat) : ((s.modFir i f).coreAt n).slots = (s.coreAt n).slots :=
  Core.slots_eq_of_shell (State.shell_modFir s i f n)
theorem Core.slotPoison_eq_of_shell {c d : Core} (h : c.shell = d.shell) : c.slotPoison = d.slotPoison := by
  have q := congrArg (fun c : Core => c.slotPoison) h
  exact q
@[simp] theorem State.slotPoison_setCtx (s : State) (i : CtxId) (k : Context) (n : Nat) : ((s.setCtx i k).coreAt n).slotPoison = (s.coreAt n).slotPoison :=
  Core.slotPoison_eq_of_shell (State.shell_setCtx s i k n)
@[simp] theorem State.slotPoison_modCtx (s : State) (i : CtxId) (f : Context → Context) (n : Nat) : ((s.modCtx i f).coreAt n).slotPoison = (s.coreAt n).slotPoison :=
  Core.slotPoison_eq_of_shell (State.shell_modCtx s i f n)
@[simp] theorem State.slotPoison_modFir (s : State) (i : CtxId) (f : Firing → Firing) (n : Nat) : ((s.modFir i f).coreAt n).slotPoison = (s.coreAt n).slotPoison :=
  Core.slotPoison_eq_of_shell (State.shell_modFir s i f n)
theorem Core.accowner_eq_of_shell {c d : Core} (h : c.shell = d.shell) : c.accowner = d.accowner := by
  have q := congrArg (fun c : Core => c.accowner) h
  exact q
@[simp] theorem State.accowner_setCtx (s : State) (i : CtxId) (k : Context) (n : Nat) : ((s.setCtx i k).coreAt n).accowner = (s.coreAt n).accowner :=
  Core.accowner_eq_of_shell (State.shell_setCtx s i k n)
@[simp] theorem State.accowner_modCtx (s : State) (i : CtxId) (f : Context → Context) (n : Nat) : ((s.modCtx i f).coreAt n).accowner = (s.coreAt n).accowner :=
  Core.accowner_eq_of_shell (State.shell_modCtx s i f n)
@[simp] theorem State.accowner_modFir (s : State) (i : CtxId) (f : Firing → Firing) (n : Nat) : ((s.modFir i f).coreAt n).accowner = (s.coreAt n).accowner :=
  Core.accowner_eq_of_shell (State.shell_modFir s i f n)
theorem Core.gangpos_eq_of_shell {c d : Core} (h : c.shell = d.shell) : c.gangpos = d.gangpos := by
  have q := congrArg (fun c : Core => c.gangpos) h
  exact q
@[simp] theorem State.gangpos_setCtx (s : State) (i : CtxId) (k : Context) (n : Nat) : ((s.setCtx i k).coreAt n).gangpos = (s.coreAt n).gangpos :=
  Core.gangpos_eq_of_shell (State.shell_setCtx s i k n)
@[simp] theorem State.gangpos_modCtx (s : State) (i : CtxId) (f : Context → Context) (n : Nat) : ((s.modCtx i f).coreAt n).gangpos = (s.coreAt n).gangpos :=
  Core.gangpos_eq_of_shell (State.shell_modCtx s i f n)
@[simp] theorem State.gangpos_modFir (s : State) (i : CtxId) (f : Firing → Firing) (n : Nat) : ((s.modFir i f).coreAt n).gangpos = (s.coreAt n).gangpos :=
  Core.gangpos_eq_of_shell (State.shell_modFir s i f n)
theorem Core.gstat_eq_of_shell {c d : Core} (h : c.shell = d.shell) : c.gstat = d.gstat := by
  have q := congrArg (fun c : Core => c.gstat) h
  exact q
@[simp] theorem State.gstat_setCtx (s : State) (i : CtxId) (k : Context) (n : Nat) : ((s.setCtx i k).coreAt n).gstat = (s.coreAt n).gstat :=
  Core.gstat_eq_of_shell (State.shell_setCtx s i k n)
@[simp] theorem State.gstat_modCtx (s : State) (i : CtxId) (f : Context → Context) (n : Nat) : ((s.modCtx i f).coreAt n).gstat = (s.coreAt n).gstat :=
  Core.gstat_eq_of_shell (State.shell_modCtx s i f n)
@[simp] theorem State.gstat_modFir (s : State) (i : CtxId) (f : Firing → Firing) (n : Nat) : ((s.modFir i f).coreAt n).gstat = (s.coreAt n).gstat :=
  Core.gstat_eq_of_shell (State.shell_modFir s i f n)
theorem Core.cell_eq_of_shell {c d : Core} (h : c.shell = d.shell) : c.cell = d.cell := by
  have q := congrArg (fun c : Core => c.cell) h
  exact q
@[simp] theorem State.cell_setCtx (s : State) (i : CtxId) (k : Context) (n : Nat) : ((s.setCtx i k).coreAt n).cell = (s.coreAt n).cell :=
  Core.cell_eq_of_shell (State.shell_setCtx s i k n)
@[simp] theorem State.cell_modCtx (s : State) (i : CtxId) (f : Context → Context) (n : Nat) : ((s.modCtx i f).coreAt n).cell = (s.coreAt n).cell :=
  Core.cell_eq_of_shell (State.shell_modCtx s i f n)
@[simp] theorem State.cell_modFir (s : State) (i : CtxId) (f : Firing → Firing) (n : Nat) : ((s.modFir i f).coreAt n).cell = (s.coreAt n).cell :=
  Core.cell_eq_of_shell (State.shell_modFir s i f n)
theorem Core.nwait_eq_of_shell {c d : Core} (h : c.shell = d.shell) : c.nwait = d.nwait := by
  have q := congrArg (fun c : Core => c.nwait) h
  exact q
@[simp] theorem State.nwait_setCtx (s : State) (i : CtxId) (k : Context) (n : Nat) : ((s.setCtx i k).coreAt n).nwait = (s.coreAt n).nwait :=
  Core.nwait_eq_of_shell (State.shell_setCtx s i k n)
@[simp] theorem State.nwait_modCtx (s : State) (i : CtxId) (f : Context → Context) (n : Nat) : ((s.modCtx i f).coreAt n).nwait = (s.coreAt n).nwait :=
  Core.nwait_eq_of_shell (State.shell_modCtx s i f n)
@[simp] theorem State.nwait_modFir (s : State) (i : CtxId) (f : Firing → Firing) (n : Nat) : ((s.modFir i f).coreAt n).nwait = (s.coreAt n).nwait :=
  Core.nwait_eq_of_shell (State.shell_modFir s i f n)
theorem Core.partition_eq_of_shell {c d : Core} (h : c.shell = d.shell) : c.partition = d.partition := by
  have q := congrArg (fun c : Core => c.partition) h
  exact q
@[simp] theorem State.partition_setCtx (s : State) (i : CtxId) (k : Context) (n : Nat) : ((s.setCtx i k).coreAt n).partition = (s.coreAt n).partition :=
  Core.partition_eq_of_shell (State.shell_setCtx s i k n)
@[simp] theorem State.partition_modCtx (s : State) (i : CtxId) (f : Context → Context) (n : Nat) : ((s.modCtx i f).coreAt n).partition = (s.coreAt n).partition :=
  Core.partition_eq_of_shell (State.shell_modCtx s i f n)
@[simp] theorem State.partition_modFir (s : State) (i : CtxId) (f : Firing → Firing) (n : Nat) : ((s.modFir i f).coreAt n).partition = (s.coreAt n).partition :=
  Core.partition_eq_of_shell (State.shell_modFir s i f n)
theorem Core.evlog_eq_of_shell {c d : Core} (h : c.shell = d.shell) : c.evlog = d.evlog := by
  have q := congrArg (fun c : Core => c.evlog) h
  exact q
@[simp] theorem State.evlog_setCtx (s : State) (i : CtxId) (k : Context) (n : Nat) : ((s.setCtx i k).coreAt n).evlog = (s.coreAt n).evlog :=
  Core.evlog_eq_of_shell (State.shell_setCtx s i k n)
@[simp] theorem State.evlog_modCtx (s : State) (i : CtxId) (f : Context → Context) (n : Nat) : ((s.modCtx i f).coreAt n).evlog = (s.coreAt n).evlog :=
  Core.evlog_eq_of_shell (State.shell_modCtx s i f n)
@[simp] theorem State.evlog_modFir (s : State) (i : CtxId) (f : Firing → Firing) (n : Nat) : ((s.modFir i f).coreAt n).evlog = (s.coreAt n).evlog :=
  Core.evlog_eq_of_shell (State.shell_modFir s i f n)
theorem Core.logs_eq_of_shell {c d : Core} (h : c.shell = d.shell) : c.logs = d.logs := by
  have q := congrArg (fun c : Core => c.logs) h
  exact q
@[simp] theorem State.logs_setCtx (s : State) (i : CtxId) (k : Context) (n : Nat) : ((s.setCtx i k).coreAt n).logs = (s.coreAt n).logs :=
  Core.logs_eq_of_shell (State.shell_setCtx s i k n)
@[simp] theorem State.logs_modCtx (s : State) (i : CtxId) (f : Context → Context) (n : Nat) : ((s.modCtx i f).coreAt n).logs = (s.coreAt n).logs :=
  Core.logs_eq_of_shell (State.shell_modCtx s i f n)
@[simp] theorem State.logs_modFir (s : State) (i : CtxId) (f : Firing → Firing) (n : Nat) : ((s.modFir i f).coreAt n).logs = (s.coreAt n).logs :=
  Core.logs_eq_of_shell (State.shell_modFir s i f n)
theorem Core.steal_eq_of_shell {c d : Core} (h : c.shell = d.shell) : c.steal = d.steal := by
  have q := congrArg (fun c : Core => c.steal) h
  exact q
@[simp] theorem State.steal_setCtx (s : State) (i : CtxId) (k : Context) (n : Nat) : ((s.setCtx i k).coreAt n).steal = (s.coreAt n).steal :=
  Core.steal_eq_of_shell (State.shell_setCtx s i k n)
@[simp] theorem State.steal_modCtx (s : State) (i : CtxId) (f : Context → Context) (n : Nat) : ((s.modCtx i f).coreAt n).steal = (s.coreAt n).steal :=
  Core.steal_eq_of_shell (State.shell_modCtx s i f n)
@[simp] theorem State.steal_modFir (s : State) (i : CtxId) (f : Firing → Firing) (n : Nat) : ((s.modFir i f).coreAt n).steal = (s.coreAt n).steal :=
  Core.steal_eq_of_shell (State.shell_modFir s i f n)

end Sys2Proof.Machine
end

