-- ==== Sys2Proof/Laws/Issue.lean ====
section
/-!
SUPPORT. One lemma for each shared operation of the instructions: when the boundary lets one issue, and what the sources, the results, the
entries, the accesses and the completion do.
-/
namespace Sys2Proof.Machine

/-! ### The boundary -/

theorem Free.atBoundary {s : State} {i : CtxId} (h : Free s i) : atBoundary s i = true := by
  simp [Machine.atBoundary, h.running, h.going, h.entered, h.awake, h.loose, h.begun, h.kept]

theorem Free.boundary {s : State} {i : CtxId} (h : Free s i) (d sp : Bool) : boundary s i d sp = none := by
  simp [Machine.boundary, h.sound, h.clean, h.near]

theorem Free.acquire {s : State} {i : CtxId} (h : Free s i) (l : List Nat) : acquireHolds s i l = false := by
  simp only [acquireHolds, List.any_eq_false]
  intro e he
  simp [h.acquired e he]

/-- An empty buffer has landed. -/
theorem marker_of_empty {s : State} {i : CtxId} (h : (s.ctx i).rb = []) : marker s i = (none, s) := by
  simp [marker, landAll, h]

/-- The boundary lets an instruction issue. -/
theorem gate_go {s : State} {i : CtxId} {ins : Instr} (h : Free s i) (hi : (planOf ins).illegal s i = false)
    (hb : (s.ctx i).rb = [] ∨ needsMarker s i ins = false) (hl : landedGate s i (planOf ins) = .go s) : gate s i ins = .go s := by
  simp only [gate, h.atBoundary, h.boundary, hi, Bool.not_true, Bool.false_eq_true, if_false, hl]
  split
  · rename_i hn
    rcases hb with hb | hb
    · simp [marker_of_empty hb, hl]
    · simp [hn] at hb
  · rfl

theorem landedGate_go {s : State} {i : CtxId} {p : Plan} (h : Free s i) (hd : p.drains = true → uncheckedStores (s.ctx i) = false)
    (he : edgePort s i (p.reads ++ p.writes) = none) (hf : flitsThere s i p.reads = true) (hq : p.fault s i = none)
    (hr : roomThere s i p.writes = true) (hw : p.wait s i = none) : landedGate s i p = .go s := by
  have hd' : (p.drains && uncheckedStores (s.ctx i)) = false := by
    cases hp : p.drains
    · rfl
    · simp [hd hp]
  simp only [landedGate, hd', he, hf, hq, hr, h.acquire, hw]
  simp

/-- A ready instruction issues, if it is legal in its mode, raises no fault of its own and has nothing else to wait for. -/
theorem Ready.gate {s : State} {ins : Instr} {r w : List (Fin 32)} {n : Nat} (h : Ready s ins r w n)
    (pr : (planOf ins).reads = r) (pw : (planOf ins).writes = w) (pn : (planOf ins).entries s s.slot = n)
    (hl : (planOf ins).lands = true → (s.ctx s.slot).rb = [])
    (hi : (planOf ins).illegal s s.slot = false) (hd : (planOf ins).drains = true → uncheckedStores (s.ctx s.slot) = false)
    (hq : (planOf ins).fault s s.slot = none) (hw : (planOf ins).wait s s.slot = none) : gate s s.slot ins = .go s := by
  refine gate_go h.free hi ?_ (landedGate_go h.free hd (by rw [pr, pw]; exact h.edge) (by rw [pr]; exact h.flits) hq
    (by rw [pw]; exact h.room) hw)
  rcases h.buffer with hb | ⟨hm, hb⟩
  · exact .inl hb
  · cases hp : (planOf ins).lands
    · exact .inr (by simp [needsMarker, hm, hp, pn, hb])
    · exact .inl (hl hp)

/-- An instruction with sources and a destination and nothing else. -/
theorem Ready.gateRegs {s : State} {ins : Instr} {r w : List (Fin 32)} (hp : planOf ins = regPlan r w) (h : Ready s ins r w 0) :
    Machine.gate s s.slot ins = .go s :=
  h.gate (by rw [hp]; rfl) (by rw [hp]; rfl) (by rw [hp]; rfl) (by simp [hp, regPlan]) (by rw [hp]; rfl) (by simp [hp, regPlan])
    (by rw [hp]; rfl) (by rw [hp]; rfl)

/-- An instruction with sources and one outstanding result. -/
theorem Ready.gateOut {s : State} {ins : Instr} {r : List (Fin 32)} (hp : planOf ins = outPlan r) (h : Ready s ins r [] 1) :
    Machine.gate s s.slot ins = .go s :=
  h.gate (by rw [hp]; rfl) (by rw [hp]; rfl) (by rw [hp]; rfl) (by simp [hp, outPlan]) (by rw [hp]; rfl) (by simp [hp, outPlan])
    (by rw [hp]; rfl) (by rw [hp]; rfl)

theorem issue_go {s : State} {ins : Instr} (h : Machine.gate s s.slot ins = .go s) (f : State → CtxId → State) :
    issue ins f s = f (countIssue s s.slot) s.slot := by
  simp [issue, h]

/-! ### Only one context changes -/

theorem SameRest.refl (s : State) : SameRest s s := ⟨rfl, rfl, fun _ => rfl, rfl, rfl, rfl, rfl, rfl, rfl, rfl, rfl, rfl, rfl⟩

theorem SameRest.trans {s t u : State} (h : SameRest s t) (g : SameRest t u) : SameRest s u :=
  ⟨g.mem.trans h.mem, g.poison.trans h.poison, fun n => (g.shell n).trans (h.shell n), g.clusters.trans h.clusters, g.dies.trans h.dies,
    g.parts.trans h.parts, g.pkg.trans h.pkg, g.shadows.trans h.shadows, g.cycle.trans h.cycle, g.sched.trans h.sched,
    g.slot.trans h.slot, g.granted.trans h.granted, g.fresh.trans h.fresh⟩

theorem SameRest.modCtx (s : State) (i : CtxId) (f : Context → Context) : SameRest s (s.modCtx i f) :=
  ⟨rfl, rfl, fun n => State.shell_modCtx s i f n, rfl, rfl, rfl, rfl, rfl, rfl, rfl, rfl, rfl, rfl⟩

theorem Only.refl (s : State) (i : CtxId) : Only s s i (s.ctx i) := ⟨rfl, fun _ _ => rfl, SameRest.refl s⟩

theorem Only.modCtx (s : State) (i : CtxId) (f : Context → Context) : Only s (s.modCtx i f) i (f (s.ctx i)) :=
  ⟨State.ctx_modCtx_self s i f, fun _ h => State.ctx_modCtx_of_ne h s f, SameRest.modCtx s i f⟩

theorem Only.trans {s t u : State} {i : CtxId} {k k' : Context} (h : Only s t i k) (g : Only t u i k') : Only s u i k' :=
  ⟨g.1, fun j hj => (g.2.1 j hj).trans (h.2.1 j hj), h.2.2.trans g.2.2⟩

/-- A change of context i after others of it. -/
theorem Only.then {s t : State} {i : CtxId} {k : Context} (h : Only s t i k) (f : Context → Context) : Only s (t.modCtx i f) i (f k) := by
  have g := Only.modCtx t i f
  rw [h.1] at g
  exact h.trans g

theorem Only.sends {s t : State} {i : CtxId} {k : Context} {d : Fin 32} {f : Flit} (hd : portDir d = none) (h : Only s t i k) :
    Sends s t i k d f :=
  ⟨h.1, fun j hj => by simp [State.sent, hd, h.2.1 j hj], h.2.2⟩

/-- What comes before and after a flit is sent. -/
theorem Sends.before {s t u : State} {i : CtxId} {k k' : Context} {d : Fin 32} {f : Flit} (h : Only s t i k) (g : Sends t u i k' d f) :
    Sends s u i k' d f := by
  refine ⟨g.1, fun j hj => ?_, h.2.2.trans g.2.2⟩
  rw [g.2.1 j hj]
  simp only [State.sent, h.2.1 j hj]

theorem Sends.after {s t u : State} {i : CtxId} {k k' : Context} {d : Fin 32} {f : Flit} (g : Sends s t i k d f) (h : Only t u i k') :
    Sends s u i k' d f :=
  ⟨h.1, fun j hj => (h.2.1 j hj).trans (g.2.1 j hj), g.2.2.trans h.2.2⟩

/-! ### The shared operations -/

theorem only_countIssue (s : State) (i : CtxId) : Only s (countIssue s i) i (s.ctx i).counted := Only.modCtx s i _

theorem only_complete (s : State) (i : CtxId) (t : Xfer) : Only s (complete s i t) i ((s.ctx i).goes t) := Only.modCtx s i _

theorem only_finishOp (s : State) (i : CtxId) (ins : Instr) : Only s (finishOp s i ins) i ((s.ctx i).goesOn (byteLen ins)) :=
  only_complete s i _

theorem fst_takeX (s : State) (i : CtxId) (r : Reg) : (takeX s i r).1 = (s.ctx i).srcX r := by
  cases h : portDir r <;> simp [takeX, Context.srcX, h, State.fir]
theorem only_takeX (s : State) (i : CtxId) (r : Reg) : Only s (takeX s i r).2 i ((s.ctx i).pop r) := by
  cases h : portDir r
  · simpa [takeX, Context.pop, h] using Only.refl s i
  · simp only [takeX, Context.pop, h]
    exact Only.modCtx s i _
theorem peekX_eq (s : State) (i : CtxId) (r : Reg) : peekX s i r = (s.ctx i).srcX r := fst_takeX s i r

theorem fst_takeV (s : State) (i : CtxId) (r : VReg) : (takeV s i r).1 = (s.ctx i).srcV r := by
  cases h : portDir r <;> simp [takeV, Context.srcV, h, State.fir]
theorem only_takeV (s : State) (i : CtxId) (r : VReg) : Only s (takeV s i r).2 i ((s.ctx i).pop r) := by
  cases h : portDir r
  · simpa [takeV, Context.pop, h] using Only.refl s i
  · simp only [takeV, Context.pop, h]
    exact Only.modCtx s i _

/-- A port's neighbour is another core. -/
theorem neighbour_ne {n m : Nat} {p : Dir} (h : neighbour n p = some m) : m ≠ n := by
  simp only [neighbour, coreAtOffset] at h
  split at h
  · rename_i hc
    simp only [Option.some.injEq] at h
    rintro rfl
    simp only [Config.cols, coreCol, coreRow, coreAtPos, Bool.and_eq_true] at hc h
    obtain ⟨⟨⟨⟨_, h1⟩, h2⟩, h3⟩, h4⟩ := hc
    have h1 := of_decide_eq_true h1
    have h2 := of_decide_eq_true h2
    have h3 := of_decide_eq_true h3
    have h4 := of_decide_eq_true h4
    cases p <;> simp only [dirStep] at h h1 h2 h3 h4 <;> omega
  · simp at h

theorem sends_sendFlit (s : State) (i : CtxId) (d : Fin 32) (p : Dir) (hd : portDir d = some p) (f : Flit) :
    Sends s (sendFlit s i p f) i (s.ctx i) d f := by
  simp only [sendFlit]
  split
  · rename_i hn
    exact ⟨rfl, fun j _ => by simp [State.sent, hd, hn], SameRest.refl s⟩
  · rename_i n hn
    refine ⟨?_, fun j _ => ?_, SameRest.modCtx s _ _⟩
    · exact State.ctx_modCtx_of_ne (fun e => neighbour_ne hn (by rw [e])) s _
    · simp only [State.sent, hd, hn]
      split
      · rename_i hj
        subst hj
        exact State.ctx_modCtx_self s _ _
      · rename_i hj
        exact State.ctx_modCtx_of_ne hj s _

theorem sends_writeDest (s : State) (i : CtxId) (d : Reg) (v : Word) :
    Sends s (writeDest s i d v) i ((s.ctx i).putX d v) d ⟨false, v.setWidth 1024⟩ := by
  simp only [writeDest, Context.putX]
  split
  · rename_i p hp
    simpa [hp] using sends_sendFlit s i d p hp ⟨false, v.setWidth 1024⟩
  · rename_i hp
    simpa [hp] using Only.sends hp (Only.modCtx s i _)

theorem only_writeLat (s : State) (i : CtxId) (v : Vec) :
    Only s (writeLat s i v) i (supersedeLat (supersede (.v 0) { s.ctx i with fir := (s.ctx i).fir.setLat v })) := Only.modCtx s i _

theorem sends_writeVecDest (s : State) (i : CtxId) (d : VReg) (v : Vec) :
    Sends s (writeVecDest s i d v) i ((s.ctx i).putV d v) d ⟨true, v⟩ := by
  simp only [writeVecDest, Context.putV]
  split
  · rename_i p hp
    have h := sends_sendFlit s i d p hp ⟨true, v⟩
    have g := only_writeLat (sendFlit s i p ⟨true, v⟩) i v
    rw [h.1] at g
    simpa [hp] using h.after g
  · rename_i hp
    simpa [hp] using Only.sends hp ((only_writeLat s i v).then _)

theorem only_writeMask (s : State) (i : CtxId) (d : MReg) (v : Word) : Only s (writeMask s i d v) i ((s.ctx i).putM d v) :=
  Only.modCtx s i _

theorem only_addFlags (s : State) (i : CtxId) (fl : Flags) : Only s (addFlags s i fl) i ((s.ctx i).flag fl) := Only.modCtx s i _

theorem only_postAccesses (s : State) (i : CtxId) (l : List Access) : Only s (postAccesses s i l) i ((s.ctx i).post l) := Only.modCtx s i _

theorem only_takeEntry (s : State) (i : CtxId) (e : Entry) (l : List Access) : Only s (takeEntry s i e l) i ((s.ctx i).take e l) :=
  Only.modCtx s i _

/-! ### The shared operations one after another -/

section
variable {s t : State} {i : CtxId} {k : Context} {d' : Fin 32} {f' : Flit}

theorem Only.fst_takeX (h : Only s t i k) (r : Reg) : (Machine.takeX t i r).1 = k.srcX r := by rw [Machine.fst_takeX, h.1]
theorem Only.takeX (h : Only s t i k) (r : Reg) : Only s (Machine.takeX t i r).2 i (k.pop r) := by
  have g := only_takeX t i r
  rw [h.1] at g
  exact h.trans g
theorem Only.fst_takeV (h : Only s t i k) (r : VReg) : (Machine.takeV t i r).1 = k.srcV r := by rw [Machine.fst_takeV, h.1]
theorem Only.takeV (h : Only s t i k) (r : VReg) : Only s (Machine.takeV t i r).2 i (k.pop r) := by
  have g := only_takeV t i r
  rw [h.1] at g
  exact h.trans g
theorem Only.writeDest (h : Only s t i k) (d : Reg) (v : Word) :
    Sends s (Machine.writeDest t i d v) i (k.putX d v) d ⟨false, v.setWidth 1024⟩ := by
  have g := sends_writeDest t i d v
  rw [h.1] at g
  exact Sends.before h g
theorem Only.writeVecDest (h : Only s t i k) (d : VReg) (v : Vec) : Sends s (Machine.writeVecDest t i d v) i (k.putV d v) d ⟨true, v⟩ := by
  have g := sends_writeVecDest t i d v
  rw [h.1] at g
  exact Sends.before h g
theorem Only.writeMask (h : Only s t i k) (d : MReg) (v : Word) : Only s (Machine.writeMask t i d v) i (k.putM d v) := h.then _
theorem Only.addFlags (h : Only s t i k) (fl : Flags) : Only s (Machine.addFlags t i fl) i (k.flag fl) := h.then _
theorem Only.postAccesses (h : Only s t i k) (l : List Access) : Only s (Machine.postAccesses t i l) i (k.post l) := h.then _
theorem Only.takeEntry (h : Only s t i k) (e : Entry) (l : List Access) : Only s (Machine.takeEntry t i e l) i (k.take e l) := h.then _
theorem Only.complete (h : Only s t i k) (x : Xfer) : Only s (Machine.complete t i x) i (k.goes x) := h.then _
theorem Only.finishOp (h : Only s t i k) (ins : Instr) : Only s (Machine.finishOp t i ins) i (k.goesOn (byteLen ins)) := by
  have g := only_finishOp t i ins
  rw [h.1] at g
  exact h.trans g
theorem Sends.finishOp (h : Sends s t i k d' f') (ins : Instr) : Sends s (Machine.finishOp t i ins) i (k.goesOn (byteLen ins)) d' f' := by
  have g := only_finishOp t i ins
  rw [h.1] at g
  exact h.after g
theorem Sends.complete (h : Sends s t i k d' f') (x : Xfer) : Sends s (Machine.complete t i x) i (k.goes x) d' f' := by
  have g := only_complete t i x
  rw [h.1] at g
  exact h.after g
theorem Sends.addFlags (h : Sends s t i k d' f') (fl : Flags) : Sends s (Machine.addFlags t i fl) i (k.flag fl) d' f' := by
  have g := only_addFlags t i fl
  rw [h.1] at g
  exact h.after g

theorem Only.newEntry (h : Only s t i k) (va : Word) (dest : Dest) (ext : Ext) (base : Nat) :
    Machine.newEntry t i va dest ext base = { k.entry va dest ext with value := base, base := base } := by
  simp only [Machine.newEntry, nextNum, State.fir, h.1, Context.entry]
/-- An access that concerns no channel. -/
theorem Only.newAccess (h : Only s t i k) (va : Word) (kind : AccKind) (rel : Option Scope)
    (hk : ∀ u p, sideOf u p kind = (0, 0) := by intros; rfl) :
    Machine.newAccess t i (nextNum t i) va kind 0 rel = k.access (requester t i) va kind rel := by
  simp only [Machine.newAccess, nextNum, h.1, Context.access, hk]
theorem Only.takeDone (h : Only s t i k) (e : Entry) (he : e.req = []) : Only s (Machine.takeDone t i e) i (k.take e []) := by
  have g := Only.modCtx t i fun k => { supersede e.dest k with rb := (supersede e.dest k).rb ++ [e], num := (supersede e.dest k).num + 1 }
  rw [h.1] at g
  have e1 : k.take e [] = { supersede e.dest k with rb := (supersede e.dest k).rb ++ [e], num := (supersede e.dest k).num + 1 } := by
    cases e
    simp only at he
    subst he
    simp [Context.take, supersede]
  rw [e1]
  exact h.trans g
/-- An entry whose value is known at issue. -/
theorem Only.takeValue (h : Only s t i k) (va : Word) (d : Reg) (v : Nat) (fl : Flags) :
    Only s (Machine.takeValue t i va d v fl) i (k.take { k.entry va (.x d) .whole with value := v, base := v, flags := fl } []) := by
  rw [Machine.takeValue, h.newEntry]
  exact h.takeDone _ rfl
/-- One entry with one access. -/
theorem Only.takeOne (h : Only s t i k) (va : Word) (dest : Dest) (ext : Ext) (kind : AccKind) (rel : Option Scope)
    (hk : ∀ u p, sideOf u p kind = (0, 0) := by intros; rfl) :
    Only s (Machine.takeOne t i va dest ext kind rel) i (k.take (k.entry va dest ext) [k.access (requester t i) va kind rel]) := by
  rw [Machine.takeOne, h.newEntry, h.newAccess _ _ _ hk]
  exact h.takeEntry _ _

/-- A trap other than a store fault outside a handler, with no store check outstanding. -/
theorem Only.takeTrap (h : Only s t i k) (x : TrapInfo) (hc : fld x.cause 7 0 ≠ 5) (hi : k.fir.intrap = false) (hu : uncheckedStores k = false) :
    Only s (Machine.takeTrap t i x) i (k.enter x) := by
  have hx : x.atEntry k = x := by simp [TrapInfo.atEntry, hc]
  have e : Machine.takeTrap t i x = t.modCtx i fun k => k.enter x := by
    simp only [Machine.takeTrap, h.1, hu, enterTrap, hx, hi, Bool.false_and, Bool.false_eq_true, if_false]
    simp only [State.modCtx, h.1]
    rfl
  rw [e]
  exact h.then _
end

/-- Everything the boundary and the operands take from a state that only context i has changed is the same. -/
theorem requester_eq {s t : State} {i : CtxId} {k : Context} (h : Only s t i k) :
    requester t i = ⟨i.core, i.x, (s.coreAt i.core).partition, k.fir.tag, k.fir.group, k.fir.launch, k.fir.depth, k.fir.stage, k.fir.sup⟩ := by
  have hp : (t.coreAt i.core).partition = (s.coreAt i.core).partition := Core.partition_eq_of_shell (h.2.2.shell i.core)
  simp only [requester, State.fir, h.1, hp]

end Sys2Proof.Machine
end

