-- ==== Sys2Proof/Laws/Scalar.lean ====
section
/-!
SUPPORT. One lemma for each shared form of the scalar instructions: a ready one issues, and this is all that it does.
-/
namespace Sys2Proof.Machine

theorem alu2_ready {s : State} {ins : Instr} {d a b : Reg} (f : Word → Word → Word) (hp : planOf ins = regPlan [a, b] [d])
    (h : Ready s ins [a, b] [d] 0) :
    let k := (s.ctx s.slot).counted
    let v := f (k.srcX a) ((k.pop a).srcX b)
    Sends s (alu2 ins d a b f s) s.slot ((((k.pop a).pop b).putX d v).goesOn (byteLen ins)) d ⟨false, v.setWidth 1024⟩ := by
  intro k v
  have h0 := only_countIssue s s.slot
  have h1 := h0.takeX a
  rw [alu2, issue_go (h.gateRegs hp)]
  simp only [h0.fst_takeX, h1.fst_takeX]
  exact ((h1.takeX b).writeDest d v).finishOp ins

theorem alu1_ready {s : State} {ins : Instr} {d a : Reg} (f : Word → Word) (hp : planOf ins = regPlan [a] [d])
    (h : Ready s ins [a] [d] 0) :
    let k := (s.ctx s.slot).counted
    let v := f (k.srcX a)
    Sends s (alu1 ins d a f s) s.slot (((k.pop a).putX d v).goesOn (byteLen ins)) d ⟨false, v.setWidth 1024⟩ := by
  intro k v
  have h0 := only_countIssue s s.slot
  rw [alu1, issue_go (h.gateRegs hp)]
  simp only [h0.fst_takeX]
  exact ((h0.takeX a).writeDest d v).finishOp ins

theorem outstanding2_ready {s : State} {ins : Instr} {d a b : Reg} (f : Word → Word → Word) (hp : planOf ins = outPlan [a, b])
    (h : Ready s ins [a, b] [] 1) :
    let k := (s.ctx s.slot).counted
    let v := f (k.srcX a) ((k.pop a).srcX b)
    let k2 := (k.pop a).pop b
    Only s (outstanding2 ins d a b f s) s.slot
      ((k2.take { k2.entry (k.srcX a) (.x d) .whole with value := v.toNat, base := v.toNat } []).goesOn (byteLen ins)) := by
  intro k v k2
  have h0 := only_countIssue s s.slot
  have h1 := h0.takeX a
  rw [outstanding2, issue_go (h.gateOut hp)]
  simp only [h0.fst_takeX, h1.fst_takeX]
  exact ((h1.takeX b).takeValue _ d v.toNat 0).finishOp ins

theorem branch_ready {s : State} {ins : Instr} {a b : Reg} (off : BitVec 10) (test : Word → Word → Bool)
    (hp : planOf ins = regPlan [a, b] []) (h : Ready s ins [a, b] [] 0) :
    let k := (s.ctx s.slot).counted
    let k2 := (k.pop a).pop b
    Only s (branch ins a b off test s) s.slot
      (k2.goes (if test (k.srcX a) ((k.pop a).srcX b) then .branch (k2.fir.pc + off.signExtend 64 * 4) else .next (k2.fir.pc + 4))) := by
  intro k k2
  have h0 := only_countIssue s s.slot
  have h1 := h0.takeX a
  have h2 := h1.takeX b
  rw [branch, issue_go (h.gateRegs hp)]
  simp only [h0.fst_takeX, h1.fst_takeX, State.fir, h2.1]
  exact h2.complete _

@[simp] theorem Context.fir_pop (k : Context) (r : Fin 32) : (k.pop r).fir = k.fir := by
  cases h : portDir r <;> simp [Context.pop, h, setPort]
@[simp] theorem Context.rb_pop (k : Context) (r : Fin 32) : (k.pop r).rb = k.rb := by
  cases h : portDir r <;> simp [Context.pop, h, setPort]
@[simp] theorem Context.acc_pop (k : Context) (r : Fin 32) : (k.pop r).acc = k.acc := by
  cases h : portDir r <;> simp [Context.pop, h, setPort]
@[simp] theorem Context.num_pop (k : Context) (r : Fin 32) : (k.pop r).num = k.num := by
  cases h : portDir r <;> simp [Context.pop, h, setPort]
@[simp] theorem Context.issued_pop (k : Context) (r : Fin 32) : (k.pop r).issued = k.issued := by
  cases h : portDir r <;> simp [Context.pop, h, setPort]
@[simp] theorem Context.fpctl_pop (k : Context) (r : Fin 32) : (k.pop r).fpctl = k.fpctl := by
  cases h : portDir r <;> simp [Context.pop, h, setPort]
@[simp] theorem Context.fir_counted (k : Context) : k.counted.fir = k.fir := rfl
@[simp] theorem Context.rb_counted (k : Context) : k.counted.rb = k.rb := rfl
@[simp] theorem Context.acc_counted (k : Context) : k.counted.acc = k.acc := rfl
@[simp] theorem Context.fpctl_counted (k : Context) : k.counted.fpctl = k.fpctl := rfl
@[simp] theorem Context.srcX_counted (k : Context) (r : Reg) : k.counted.srcX r = k.srcX r := rfl
@[simp] theorem Context.srcV_counted (k : Context) (r : VReg) : k.counted.srcV r = k.srcV r := rfl

/-- Everything an access records of its firing is what the issuing state has. -/
theorem Only.requester_of_fir {s t : State} {i : CtxId} {k : Context} (h : Only s t i k) (hf : k.fir = s.fir i) :
    requester t i = requester s i := by
  rw [requester_eq h, hf]
  rfl

end Sys2Proof.Machine
end

