-- ==== Sys2Proof/Laws/Memory.lean ====
section
/-!
SUPPORT. One lemma for each shared form of the memory instructions: a ready one whose checks pass issues, and this is all that it does;
and what the line operations do.
-/
namespace Sys2Proof.Machine

/-- The checks of a scalar access pass (R101, R206). -/
theorem memFault_none {s : State} {i : CtxId} {a : Reg} {va : Word} {n : Nat} (ha : va.toNat % n = 0)
    (hs : a.val = 2 → (s.ctx i).stkbase.toNat ≤ va.toNat ∧ va.toNat + n ≤ (s.ctx i).stklim.toNat) : memFault s i a va n = none := by
  have h1 : (va.toNat % n != 0) = false := by simp [ha]
  have h2 : (a.val = 2 && !inStack (s.ctx i) va n) = false := by
    by_cases h : a.val = 2
    · simp [h, inStack, hs h]
    · simp [h]
  simp only [memFault, h1, h2]
  simp

theorem load_ready {s : State} {ins : Instr} {d a : Reg} {off : Word} {n : Nat} (e : Ext) (hp : planOf ins = loadPlan a off n)
    (h : Ready s ins [a] [] 1) (hm : memFault s s.slot a ((s.ctx s.slot).srcX a + off) n = none) :
    let k := (s.ctx s.slot).counted
    let va := k.srcX a + off
    let k2 := k.pop a
    Only s (load ins d a off n e s) s.slot
      ((k2.take (k2.entry va (.x d) e) [k2.access (requester s s.slot) va (.load n) none]).goesOn (byteLen ins)) := by
  intro k va k2
  have h0 := only_countIssue s s.slot
  have h1 := h0.takeX a
  have hg : gate s s.slot ins = .go s := by
    apply h.gate <;> simp [hp, loadPlan, one, eaOf, peekX_eq, hm]
  have hr := h1.requester_of_fir (by simp [State.fir])
  rw [load, issue_go hg]
  simp only [h0.fst_takeX]
  have g := (h1.takeOne va (.x d) e (.load n) none).finishOp ins
  rw [hr] at g
  exact g

theorem store_ready {s : State} {ins : Instr} {d a : Reg} {off : Word} {n : Nat} (f : Nat) (rel : Option Scope)
    (hp : planOf ins = storePlan d a off n) (h : Ready s ins [a, d] [] 0)
    (hm : memFault s s.slot a ((s.ctx s.slot).srcX a + off) n = none) :
    let k := (s.ctx s.slot).counted
    let va := k.srcX a + off
    let k2 := (k.pop a).pop d
    Only s (store ins d a off f rel s) s.slot
      ((k2.post [k2.access (requester s s.slot) va (.store f ((k.pop a).srcX d)) rel]).goesOn (byteLen ins)) := by
  intro k va k2
  have h0 := only_countIssue s s.slot
  have h1 := h0.takeX a
  have h2 := h1.takeX d
  have hg : gate s s.slot ins = .go s := by
    apply h.gate <;> simp [hp, storePlan, eaOf, peekX_eq, hm]
  have hr := h2.requester_of_fir (by simp [State.fir])
  rw [store, issue_go hg]
  have ha := h2.newAccess ((s.ctx s.slot).counted.srcX a + off) (.store f (((s.ctx s.slot).counted.pop a).srcX d)) rel
  simp only [h0.fst_takeX, h1.fst_takeX, ha, hr]
  exact (h2.postAccesses _).finishOp ins

theorem atomic_ready {s : State} {ins : Instr} {d a b : Reg} {n : Nat} (op : Nat) (dbl : Bool) (e : Ext) (hp : planOf ins = amoPlan d a b n)
    (h : Ready s ins [a, b, d] [] 1) (hm : memFault s s.slot a ((s.ctx s.slot).srcX a) n = none) :
    let k := (s.ctx s.slot).counted
    let va := k.srcX a
    let k2 := ((k.pop a).pop b).pop d
    Only s (atomic ins d a b op dbl e s) s.slot ((k2.take (k2.entry va (.x d) e) [k2.access (requester s s.slot) va
      (.atomic op dbl ((k.pop a).srcX b) (((k.pop a).pop b).srcX d)) none]).goesOn (byteLen ins)) := by
  intro k va k2
  have h0 := only_countIssue s s.slot
  have h1 := h0.takeX a
  have h2 := h1.takeX b
  have h3 := h2.takeX d
  have hg : gate s s.slot ins = .go s := by
    apply h.gate <;> simp [hp, amoPlan, one, peekX_eq, hm]
  have hr := h3.requester_of_fir (by simp [State.fir])
  rw [atomic, issue_go hg]
  simp only [h0.fst_takeX, h1.fst_takeX, h2.fst_takeX]
  have g := (h3.takeOne va (.x d) e (.atomic op dbl ((k.pop a).srcX b) (((k.pop a).pop b).srcX d)) none).finishOp ins
  rw [hr] at g
  exact g

/-- An instruction traps when it has a fault of its own and nothing comes before it. -/
theorem issue_fault {s : State} {ins : Instr} {r w : List (Fin 32)} {n : Nat} {c v : Word} (f : State → CtxId → State) (h : Ready s ins r w n)
    (hr : (planOf ins).reads = r) (hw : (planOf ins).writes = w) (hi : (planOf ins).illegal s s.slot = false)
    (hn : (planOf ins).entries s s.slot = n) (hl : (planOf ins).lands = false) (hd : (planOf ins).drains = false)
    (hf : (planOf ins).fault s s.slot = some (c, v)) :
    issue ins f s = takeTrap s s.slot ⟨(s.fir s.slot).pc, c, v, none⟩ := by
  have hb := h.free.boundary ((planOf ins).drains) ((planOf ins).spares s s.slot)
  have hland : landedGate s s.slot (planOf ins) = .trap ⟨(s.fir s.slot).pc, c, v, none⟩ s := by
    simp only [landedGate, hd, hr, hw, h.edge, h.flits, hf]
    simp
  have hg : gate s s.slot ins = .trap ⟨(s.fir s.slot).pc, c, v, none⟩ s := by
    simp only [gate, h.free.atBoundary, hb, hi]
    by_cases hm : needsMarker s s.slot ins
    · have he : (s.ctx s.slot).rb = [] := by
        rcases h.buffer with he | ⟨hk, hq⟩
        · exact he
        · simp only [needsMarker, hk, hl, hn, Bool.false_or, decide_eq_true_eq] at hm
          omega
      simp [hm, marker_of_empty he, hland]
    · simp [hm, hland]
  simp [issue, hg, Gate.settle]

/-! ### Updates of a core beside one context -/

/-- A core update that changes the core outside its contexts by `g`, which does not depend on them, and each context by `m`. -/
structure CoreMap (f : Core → Core) (m : Context → Context) : Prop where
  ctx : ∀ c x, (f c).ctx x = m (c.ctx x)
  shell : ∀ c c' : Core, { c with n := Context.reset, u := Context.reset } = { c' with n := Context.reset, u := Context.reset } →
    { f c with n := Context.reset, u := Context.reset } = { f c' with n := Context.reset, u := Context.reset }

theorem State.ctx_modCore {f : Core → Core} {m : Context → Context} (hf : CoreMap f m) (s : State) (n : Nat) (j : CtxId) :
    (s.modCore n f).ctx j = if j.core = n then m (s.ctx j) else s.ctx j := by
  by_cases h : j.core = n
  · subst h
    simp [State.ctx, State.modCore, hf.ctx]
  · simp [h, State.ctx, State.modCore, State.coreAt_setCore_of_ne h]

/-- A core update that does not change the issuing context may be seen as coming first. -/
theorem Only.overCore {s t : State} {i : CtxId} {k : Context} (h : Only s t i k) {f : Core → Core} {m : Context → Context} (hf : CoreMap f m)
    (n : Nat) (hk : m k = k) : Only (s.modCore n f) (t.modCore n f) i k := by
  refine ⟨?_, ?_, ?_⟩
  · rw [State.ctx_modCore hf, h.1, hk]
    simp
  · intro j hj
    rw [State.ctx_modCore hf, State.ctx_modCore hf, h.2.1 j hj]
  · have g := h.2.2
    refine ⟨g.mem, g.poison, ?_, g.clusters, g.dies, g.parts, g.pkg, g.shadows, g.cycle, g.sched, g.slot, g.granted, g.fresh⟩
    intro q
    by_cases hq : q = n
    · subst hq
      simp only [State.modCore, State.coreAt_setCore_self]
      exact hf.shell _ _ (g.shell q)
    · simp only [State.modCore, State.coreAt_setCore_of_ne hq]
      exact g.shell q

/-- What a context hears of an access on a line (R174). -/
def heard (l : Nat) (k : Context) : Context :=
  match k.parked with
  | some q => if q.line == some l then { k with evLine := true } else k
  | none => k

theorem heard_of_awake {k : Context} (h : k.parked = none) (l : Nat) : heard l k = k := by simp [heard, h]

theorem coreMap_heard (l : Nat) : CoreMap (fun c => { c with n := heard l c.n, u := heard l c.u }) (heard l) := by
  refine ⟨fun c x => by cases x <;> rfl, ?_⟩
  intro c c' h
  cases c
  cases c'
  simp only [Core.mk.injEq] at h ⊢
  exact h

theorem noteLine_eq (s : State) (n l : Nat) : noteLine s n l = s.modCore n fun c => { c with n := heard l c.n, u := heard l c.u } := rfl

/-- A core update outside its contexts. -/
theorem coreMap_id {f : Core → Core} (hn : ∀ c, (f c).n = c.n) (hu : ∀ c, (f c).u = c.u)
    (hs : ∀ c a b, f { c with n := a, u := b } = { f c with n := a, u := b }) : CoreMap f id := by
  refine ⟨fun c x => by cases x <;> simp [Core.ctx, hn, hu], ?_⟩
  intro c c' h
  have h1 := hs c Context.reset Context.reset
  have h2 := hs c' Context.reset Context.reset
  rw [← h1, ← h2, h]

section
variable {s t : State} {i : CtxId} {k : Context}

theorem Only.noteLine (h : Only s t i k) (hk : k.parked = none) (n l : Nat) : Only (Machine.noteLine s n l) (Machine.noteLine t n l) i k := by
  rw [noteLine_eq, noteLine_eq]
  exact h.overCore (coreMap_heard l) n (heard_of_awake hk l)
theorem Only.setEmpty (h : Only s t i k) (hk : k.parked = none) (n l : Nat) : Only (Machine.setEmpty s n l) (Machine.setEmpty t n l) i k :=
  (h.overCore (coreMap_id (f := fun c => { c with empty := insNat l c.empty }) (fun _ => rfl) (fun _ => rfl) fun _ _ _ => rfl) n rfl).noteLine hk n l
theorem Only.setFull (h : Only s t i k) (hk : k.parked = none) (n l : Nat) : Only (Machine.setFull s n l) (Machine.setFull t n l) i k :=
  (h.overCore (coreMap_id (f := fun c => readyWaits l true { c with empty := delNat l c.empty }) (fun _ => rfl) (fun _ => rfl) fun _ _ _ => rfl) n rfl).noteLine hk n l
theorem Only.claimLine (h : Only s t i k) (hk : k.parked = none) (n l : Nat) : Only (Machine.claimLine s n l) (Machine.claimLine t n l) i k :=
  (h.setEmpty hk n l).overCore
    (coreMap_id (f := fun c => { c with filling := insNat l c.filling }) (fun _ => rfl) (fun _ => rfl) fun _ _ _ => rfl) n rfl
theorem Only.setWin (h : Only s t i k) (n e : Nat) (w : Window) : Only (Machine.setWin s n e w) (Machine.setWin t n e w) i k :=
  h.overCore (coreMap_id (f := fun c => { c with wins := c.wins.set (Fin.ofNat 8 e) w }) (fun _ => rfl) (fun _ => rfl) fun _ _ _ => rfl) n rfl
/-- An operation on each of some lines. -/
theorem Only.eachLine (f : State → Nat → Nat → State)
    (hf : ∀ {s t : State} (_ : Only s t i k) (n l : Nat), Only (f s n l) (f t n l) i k) (h : Only s t i k) (c : Nat) (x : Word) (n : Nat) :
    Only (Machine.eachLine f s c x n) (Machine.eachLine f t c x n) i k := by
  simp only [Machine.eachLine]
  generalize List.range n = l
  induction l generalizing s t with
  | nil => exact h
  | cons a l ih => exact ih (hf h _ _)
end

end Sys2Proof.Machine
end

