-- ==== Sys2Proof/Laws/Access.lean ====
section
/-!
SUPPORT. Performing the first access of a context: where a scratchpad address lies, when nothing comes before the access, and all that its
end does.
-/
namespace Sys2Proof.Machine

theorem regionOf_scratch {c v : Nat} (h : c < 4608) (hv : v < 0x18000) : regionOf (scratchPa c v) = some (.scratch c v) := by
  have e : scratchPa c v = 281474976710656 + c * 131072 + v := rfl
  have e1 : (281474976710656 + c * 131072 + v - scratchBase) = c * 131072 + v := by unfold scratchBase; omega
  have e2 : (c * 131072 + v) % 131072 = v := by omega
  have e3 : (c * 131072 + v) / 131072 = c := by omega
  rw [e, regionOf, if_neg (by unfold Config.hbmBytes; omega), if_pos (by
    simp only [Bool.and_eq_true, decide_eq_true_eq]; unfold scratchBase Config.cores; omega)]
  simp only [e1, e2, e3, scratchBytes, hv, if_true]

theorem lineOf_scratch {c v : Nat} (h : c < 4608) (hv : v < 0x18000) : lineOf (scratchPa c v) = some (c, v / 128) := by
  simp [lineOf, regionOf_scratch h hv]

theorem hasNat_of_not_mem {l : List Nat} {n : Nat} (h : n ∉ l) : hasNat l n = false := by
  simp only [hasNat, List.any_eq_false, beq_iff_eq]
  intro x hx he
  exact h (he ▸ hx)

/-- A packet is held behind no message of a context that has none on its way (R294). -/
theorem messageBefore_of_quiet {s : State} {i : CtxId} (h : (s.ctx i).inj = []) (a : Access) : messageBefore s i a = false := by
  simp only [messageBefore, h, List.any_nil, Bool.and_false]
  split <;> rfl

/-- Nothing holds back a context's first access that is no release, where no `fence.rel` is outstanding (R207, R294). -/
theorem mayPerform_first {s : State} {i : CtxId} {a : Access} {l : List Access} (h : (s.ctx i).acc = a :: l) (hr : a.rel = none)
    (hm : messageBefore s i a = false) (hf : ∀ b ∈ a :: l, b.kind ≠ .fence) : mayPerform s i 0 a = true := by
  simp only [mayPerform, h, hr, hm, List.take_zero, List.all_nil, Bool.not_false, Bool.true_and, Bool.and_true]
  rw [Bool.or_eq_true]; right
  simp only [fencesPassed, h, List.all_eq_true, Bool.or_eq_true]
  intro f he; right
  have := hf f he
  split
  · rename_i hk; exact absurd hk this
  · rfl

/-- Removing the first access does nothing else. -/
theorem dropAcc_first {s : State} {i : CtxId} {a : Access} {l : List Access} (h : (s.ctx i).acc = a :: l)
    (hf : ∀ b ∈ a :: l, b.kind ≠ .fence) : Only s (dropAcc s i 0) i { s.ctx i with acc := l } := by
  have := ((Only.modCtx s i fun c => { c with acc := delAt 0 c.acc }).then fun c => { c with acc := c.acc.filter fun a =>
    !(a.kind == .fence && releasedBefore (s.modCtx i fun c => { c with acc := delAt 0 c.acc }) i a.num (a.rel.getD .core) allMsgs) })
  simp only [h, delAt] at this
  have e : (l.filter fun a => !(a.kind == .fence &&
      releasedBefore (s.modCtx i fun c => { c with acc := delAt 0 c.acc }) i a.num (a.rel.getD .core) allMsgs)) = l := by
    rw [List.filter_eq_self]
    intro b hb
    have := hf b (List.mem_cons_of_mem _ hb)
    simp [this]
  simp only [e] at this
  exact this

/-- A change of one entry, in the return buffer or set aside, is a change of its context only. -/
theorem modEntry_only (s : State) (i : CtxId) (num : Nat) (f : Entry → Entry) :
    Only s (modEntry s i num f) i { s.ctx i with
      rb := (s.ctx i).rb.map fun e => if e.num = num then f e else e
      fir := { (s.ctx i).fir with aside := (s.ctx i).fir.aside.map fun e => if e.num = num then f e else e } } :=
  Only.modCtx s i _

/-- A first access that ends gives its bytes to its entry, and does nothing else (R97, R200). -/
theorem finishAcc_first {s : State} {i : CtxId} {a : Access} {l : List Access} {n v : Nat} (h : (s.ctx i).acc = a :: l)
    (hf : ∀ b ∈ a :: l, b.kind ≠ .fence) :
    let one (e : Entry) : Entry :=
      if e.num = a.num then { e with value := setField e.value (8 * (a.pos + n) - 1) (8 * a.pos) v, acq := none } else e
    Only s (finishAcc s i 0 a n v) i { s.ctx i with
      rb := (s.ctx i).rb.map one, acc := l
      fir := { (s.ctx i).fir with aside := (s.ctx i).fir.aside.map one } } := by
  intro one
  have e := modEntry_only s i a.num fun e => { e with value := setField e.value (8 * (a.pos + n) - 1) (8 * a.pos) v, acq := none }
  have d := dropAcc_first (s := modEntry s i a.num fun e => { e with value := setField e.value (8 * (a.pos + n) - 1) (8 * a.pos) v, acq := none })
    (i := i) (a := a) (l := l) (by rw [e.1]; exact h) hf
  have r := Only.trans e d
  rw [e.1] at r
  exact r

end Sys2Proof.Machine
end

