-- ==== Sys2Proof/Laws/Mem.lean ====
section
/-!
SUPPORT. Memory cells: every operation keeps the canonical form, and a read after a write.
-/
namespace Sys2Proof.Machine

/-- Every address of some cells is above `a`. -/
def Mem.above (a : Nat) : List Host.Cell → Prop
  | [] => True
  | (k, _) :: l => a < k ∧ Mem.above a l

theorem Mem.above_mono {a b : Nat} (h : b ≤ a) : ∀ {m : List Host.Cell}, Mem.above a m → Mem.above b m
  | [], _ => trivial
  | (_, _) :: _, ⟨h1, h2⟩ => ⟨by omega, Mem.above_mono h h2⟩

/-- The canonical form of a list with a first cell. -/
theorem Mem.wf_cons {k : Nat} {b : Byte} {m : List Host.Cell} :
    Mem.wf ((k, b) :: m) = true ↔ b ≠ 0 ∧ Mem.above k m ∧ Mem.wf m = true := by
  induction m generalizing k b with
  | nil => simp [Mem.wf, Mem.above]
  | cons c l ih =>
    obtain ⟨j, d⟩ := c
    simp only [Mem.wf, Bool.and_eq_true, bne_iff_ne, ne_eq, decide_eq_true_eq, Mem.above]
    constructor
    · rintro ⟨⟨h1, h2⟩, h3⟩
      exact ⟨h1, ⟨h2, Mem.above_mono (by omega) (ih.1 h3).2.1⟩, h3⟩
    · rintro ⟨h1, ⟨h2, _⟩, h3⟩
      exact ⟨⟨h1, h2⟩, h3⟩

theorem Mem.wf_nil : Mem.wf [] = true := rfl

theorem Mem.read_of_above {a : Nat} : ∀ {m : List Host.Cell}, Mem.above a m → Mem.read a m = 0
  | [], _ => rfl
  | (k, _) :: _, ⟨h, _⟩ => by
    have : k ≠ a := by omega
    simp [Mem.read, this, h]

theorem Mem.above_write {k a : Nat} (b : Byte) (h : k < a) : ∀ {m : List Host.Cell}, Mem.above k m → Mem.above k (Mem.write a b m)
  | [], _ => by
    simp only [Mem.write]
    split <;> simp [Mem.above, h]
  | (j, c) :: l, ⟨h1, h2⟩ => by
    simp only [Mem.write]
    split
    · split <;> simp [Mem.above, h, h1, h2]
    · split
      · split <;> simp [Mem.above, h, h2]
      · exact ⟨h1, Mem.above_write b h h2⟩

/-- A write keeps the canonical form. -/
theorem Mem.wf_write (a : Nat) (b : Byte) : ∀ {m : List Host.Cell}, Mem.wf m = true → Mem.wf (Mem.write a b m) = true
  | [], _ => by
    simp only [Mem.write]
    split
    · rfl
    · rename_i hb
      simpa [Mem.wf] using hb
  | (k, c) :: l, h => by
    obtain ⟨h1, h2, h3⟩ := Mem.wf_cons.1 h
    simp only [Mem.write]
    split
    · rename_i ha
      split
      · exact h
      · rename_i hb
        exact Mem.wf_cons.2 ⟨hb, ⟨ha, Mem.above_mono (by omega) h2⟩, h⟩
    · split
      · rename_i _ hk
        split
        · exact h3
        · rename_i hb
          exact Mem.wf_cons.2 ⟨hb, hk ▸ h2, h3⟩
      · rename_i n1 n2
        exact Mem.wf_cons.2 ⟨h1, Mem.above_write b (by omega) h2, Mem.wf_write a b h3⟩

/-- A read after a write to the same address. -/
theorem Mem.read_write_self (a : Nat) (b : Byte) : ∀ {m : List Host.Cell}, Mem.wf m = true → Mem.read a (Mem.write a b m) = b
  | [], _ => by
    simp only [Mem.write]
    split <;> simp [Mem.read, *]
  | (k, c) :: l, h => by
    obtain ⟨_, h2, h3⟩ := Mem.wf_cons.1 h
    simp only [Mem.write]
    split
    · rename_i ha
      have : k ≠ a := by omega
      split <;> simp [Mem.read, *]
    · split
      · rename_i _ hk
        split
        · rename_i hb
          rw [hb]
          exact Mem.read_of_above (hk ▸ h2)
        · simp [Mem.read]
      · rename_i n1 n2
        have e1 : k ≠ a := fun e => n2 e.symm
        have e2 : ¬ a < k := by omega
        simp [Mem.read, e1, e2, Mem.read_write_self a b h3]

/-- A write leaves every other address alone. -/
theorem Mem.read_write_of_ne {a a' : Nat} (hne : a' ≠ a) (b : Byte) :
    ∀ {m : List Host.Cell}, Mem.wf m = true → Mem.read a' (Mem.write a b m) = Mem.read a' m
  | [], _ => by
    simp only [Mem.write]
    split <;> simp [Mem.read, Ne.symm hne]
  | (k, c) :: l, h => by
    obtain ⟨_, h2, h3⟩ := Mem.wf_cons.1 h
    simp only [Mem.write]
    split
    · rename_i ha
      split
      · rfl
      · simp only [Mem.read, Ne.symm hne, if_false]
        split
        · have e1 : k ≠ a' := by omega
          have e2 : a' < k := by omega
          simp [e1, e2]
        · rfl
    · split
      · rename_i _ hk
        have e1 : k ≠ a' := fun e => hne (by omega)
        split
        · simp only [Mem.read, e1, if_false]
          split
          · rename_i hlt
            exact Mem.read_of_above (Mem.above_mono (by omega) h2)
          · rfl
        · simp [Mem.read, hk, e1]
      · simp only [Mem.read, Mem.read_write_of_ne hne b h3]

/-- Equal reads and the canonical form make equal cells. -/
theorem Mem.ext {m n : List Host.Cell} (hm : Mem.wf m = true) (hn : Mem.wf n = true) (h : ∀ a, Mem.read a m = Mem.read a n) : m = n := by
  induction m generalizing n with
  | nil =>
    cases n with
    | nil => rfl
    | cons d l =>
      obtain ⟨j, e⟩ := d
      have := h j
      simp [Mem.read] at this
      exact absurd this.symm (Mem.wf_cons.1 hn).1
  | cons c l ih =>
    obtain ⟨k, b⟩ := c
    obtain ⟨h1, h2, h3⟩ := Mem.wf_cons.1 hm
    cases n with
    | nil =>
      have := h k
      simp [Mem.read] at this
      exact absurd this h1
    | cons d l' =>
      obtain ⟨j, e⟩ := d
      obtain ⟨g1, g2, g3⟩ := Mem.wf_cons.1 hn
      have hk : k = j := by
        rcases Nat.lt_trichotomy k j with hlt | heq | hgt
        · have q := h k
          have : j ≠ k := by omega
          simp [Mem.read, hlt, this] at q
          exact absurd q h1
        · exact heq
        · have q := h j
          have : k ≠ j := by omega
          simp [Mem.read, hgt, this] at q
          exact absurd q.symm g1
      subst hk
      have hb : b = e := by simpa [Mem.read] using h k
      subst hb
      congr 1
      refine ih h3 g3 fun a => ?_
      by_cases ha : k = a
      · subst ha
        rw [Mem.read_of_above h2, Mem.read_of_above g2]
      · have q := h a
        simp only [Mem.read, ha, if_false] at q
        by_cases hlt : a < k
        · rw [Mem.read_of_above (Mem.above_mono (by omega) h2), Mem.read_of_above (Mem.above_mono (by omega) g2)]
        · simpa [hlt] using q

/-- A write of several bytes keeps the canonical form. -/
theorem Mem.wf_writeLE : ∀ (n : Nat) {m : List Host.Cell} (a v : Nat), Mem.wf m = true → Mem.wf (Mem.writeLE m a n v) = true
  | 0, _, _, _, h => h
  | n + 1, _, a, v, h => Mem.wf_writeLE n (a + 1) (v / 256) (Mem.wf_write a _ h)

/-- A write of several bytes leaves every address outside them alone. -/
theorem Mem.read_writeLE_outside {x : Nat} : ∀ (n : Nat) {m : List Host.Cell} (a v : Nat), Mem.wf m = true → x < a ∨ a + n ≤ x →
    Mem.read x (Mem.writeLE m a n v) = Mem.read x m
  | 0, _, _, _, _, _ => rfl
  | n + 1, m, a, v, h, hx => by
    simp only [Mem.writeLE]
    rw [Mem.read_writeLE_outside n (a + 1) (v / 256) (Mem.wf_write a _ h) (by omega), Mem.read_write_of_ne (by omega) _ h]

/-- A read of the bytes just written. -/
theorem Mem.readLE_writeLE : ∀ (n : Nat) {m : List Host.Cell} (a v : Nat), Mem.wf m = true →
    Mem.readLE (Mem.writeLE m a n v) a n = v % 256 ^ n
  | 0, _, _, _, _ => by simp [Mem.readLE, Nat.mod_one]
  | n + 1, m, a, v, h => by
    simp only [Mem.readLE, Mem.writeLE]
    rw [Mem.readLE_writeLE n (a + 1) (v / 256) (Mem.wf_write a _ h),
      Mem.read_writeLE_outside n (a + 1) (v / 256) (Mem.wf_write a _ h) (by omega), Mem.read_write_self a _ h]
    have : (BitVec.ofNat 8 (v % 256)).toNat = v % 256 := by simp
    rw [this, Nat.pow_succ, Nat.mul_comm (256 ^ n) 256, Nat.mod_mul]

/-- A read of bytes that a write does not touch. -/
theorem Mem.readLE_writeLE_outside {x k : Nat} (n : Nat) {m : List Host.Cell} (a v : Nat) (h : Mem.wf m = true) (hx : x + k ≤ a ∨ a + n ≤ x) :
    Mem.readLE (Mem.writeLE m a n v) x k = Mem.readLE m x k := by
  induction k generalizing x with
  | zero => rfl
  | succ k ih =>
    simp only [Mem.readLE]
    rw [Mem.read_writeLE_outside n a v h (by omega), ih (by omega)]

end Sys2Proof.Machine
end

