-- ==== Sys2Proof/Laws/Canonical.lean ====
section
/-!
SUPPORT. Each operation that changes memory keeps its canonical form: the writes, the clears, and the loader's and the round's stores.
-/
namespace Sys2Proof.Machine

theorem Mem.above_filter {a : Nat} (p : Host.Cell → Bool) : ∀ {m : List Host.Cell}, Mem.above a m → Mem.above a (m.filter p)
  | [], _ => trivial
  | (k, b) :: l, ⟨h1, h2⟩ => by
    rw [List.filter_cons]
    split
    · exact ⟨h1, Mem.above_filter p h2⟩
    · exact Mem.above_filter p h2

theorem Mem.wf_filter (p : Host.Cell → Bool) : ∀ {m : List Host.Cell}, Mem.wf m = true → Mem.wf (m.filter p) = true
  | [], _ => rfl
  | (k, b) :: l, h => by
    obtain ⟨h1, h2, h3⟩ := Mem.wf_cons.1 h
    rw [List.filter_cons]
    split
    · exact Mem.wf_cons.2 ⟨h1, Mem.above_filter p h2, Mem.wf_filter p h3⟩
    · exact Mem.wf_filter p h3

theorem reset_memWf : State.reset.memWf := rfl

theorem setLog_mem (s : State) (a : ErrArray) (l : ErrLog) : (setLog s a l).mem = s.mem := by
  unfold setLog
  split <;> rfl

theorem logError_mem (s : State) (a : ErrArray) (kind address tag part : Nat) : (logError s a kind address tag part).mem = s.mem := by
  simp only [logError]
  split
  · exact setLog_mem _ _ _
  · split <;> exact setLog_mem _ _ _

/-- An injected error changes no byte (R335). -/
theorem injectOn_mem (s : State) (tag pa n : Nat) : (injectOn s tag pa n).mem = s.mem := by
  unfold injectOn
  split
  · rfl
  · dsimp only
    split
    · split
      · rw [logError_mem, setLog_mem]
      · split
        · rw [logError_mem]; exact setLog_mem _ _ _
        · split
          · split
            · rw [logError_mem]; exact setLog_mem _ _ _
            · exact setLog_mem _ _ _
          · exact setLog_mem _ _ _
    · rfl

theorem writeMemBy_mem (s : State) (tag pa n v : Nat) : (writeMemBy s tag pa n v).mem = Mem.writeLE s.mem pa n v := injectOn_mem _ _ _ _
theorem writeMem_mem (s : State) (pa n v : Nat) : (writeMem s pa n v).mem = Mem.writeLE s.mem pa n v := writeMemBy_mem _ _ _ _ _
theorem writeMemBy_memWf {s : State} (h : s.memWf) (tag pa n v : Nat) : (writeMemBy s tag pa n v).memWf := by
  unfold State.memWf
  rw [writeMemBy_mem]
  exact Mem.wf_writeLE n pa v h

theorem writeMem_memWf {s : State} (h : s.memWf) (pa n v : Nat) : (writeMem s pa n v).memWf := writeMemBy_memWf h _ _ _ _

/-- A byte outside the bytes written reads as before. -/
theorem writeMem_outside {s : State} (h : s.memWf) {pa n v x : Nat} (hx : x < pa ∨ pa + n ≤ x) :
    Mem.read x (writeMem s pa n v).mem = Mem.read x s.mem := by
  rw [writeMem_mem]
  exact Mem.read_writeLE_outside n pa v h hx

/-- The bytes written read back. -/
theorem readMem_writeMem {s : State} (h : s.memWf) (pa n v : Nat) : readMem (writeMem s pa n v) pa n = v % 256 ^ n := by
  unfold readMem
  rw [writeMem_mem]
  exact Mem.readLE_writeLE n pa v h

theorem writePoison_memWf {s : State} (h : s.memWf) (tag pa n v : Nat) : (writePoison s tag pa n v).memWf := writeMemBy_memWf h tag pa n v

theorem dequeWrite_memWf {s : State} (h : s.memWf) (n i : Nat) (r : Range) : (dequeWrite s n i r).memWf := writeMem_memWf h _ _ _

theorem clearMemory_memWf (s : State) : (clearMemory s).memWf := rfl

theorem clearMem_memWf {s : State} (h : s.memWf) (lo n : Nat) : (clearMem s lo n).memWf := Mem.wf_filter _ h

theorem writeBytes_memWf {s : State} (h : s.memWf) (pa : Nat) (b : Bytes) : (writeBytes s pa b).memWf := writeMem_memWf h _ _ _

theorem placeWords_memWf (n : Nat) : ∀ (l : List Nat) {s : State} (a : Nat), s.memWf → (placeWords s n a l).memWf
  | [], _, _, h => h
  | w :: l, _, a, h => placeWords_memWf n l (a + 4) (Mem.wf_writeLE 4 _ w h)

/-- Mapping a page writes one entry, after entries that lead to new tables. -/
theorem mapPage_memWf {p va pa : Nat} {wr : Bool} {area : Nat × Nat} : ∀ (l : List Nat) {tbl spare : Nat} {s : State} {r : Nat × Nat × State},
    s.memWf → mapPage p va pa wr area l tbl spare s = .ok r → r.2.2.memWf
  | [], _, _, _, _, h, e => by
    simp only [mapPage] at e
    split at e
    · exact absurd e (by simp)
    · simp only [Except.ok.injEq] at e
      subst e
      exact writeMem_memWf h _ _ _
  | l :: ls, _, _, _, _, h, e => by
    simp only [mapPage] at e
    split at e
    · exact absurd e (by simp)
    · split at e
      · split at e
        · exact mapPage_memWf ls h e
        · exact absurd e (by simp)
      · split at e
        · exact absurd e (by simp)
        · exact mapPage_memWf ls (writeMem_memWf (s := State.modPart (clearMem _ _ _) _ _) (clearMem_memWf h _ _) _ _ _) e

end Sys2Proof.Machine
end

