-- ==== Sys2Proof/Laws/Encoding.lean ====
section
/-!
SUPPORT. The fields of encoded words: what the decoder reads of the words that the encoder writes, for each format.
-/
namespace Sys2Proof

/-! ### Fields of the encoder's words -/

theorem word0_len {len m f : Nat} {w : Bool} (h : len < 4) : word0 len w m f % 4 = len := by
  cases w <;> simp [word0, boolNat] <;> omega
theorem word0_mark {len m f : Nat} {w : Bool} (h : len < 4) : bitOf (word0 len w m f) 2 = w := by
  cases w <;> simp [word0, bitOf, boolNat] <;> omega
theorem word0_major {len m f : Nat} {w : Bool} (h : len < 4) (hm : m < 64) : bitsOf (word0 len w m f) 8 3 = m := by
  cases w <;> simp [word0, bitsOf, boolNat] <;> omega
theorem word0_rest {len m f : Nat} {w : Bool} (h : len < 4) (hm : m < 64) : word0 len w m f / 512 = f := by
  cases w <;> simp [word0, boolNat] <;> omega
theorem word0_field {len m f : Nat} {w : Bool} (hi lo : Nat) (h : len < 4) (hm : m < 64) (hl : 9 ≤ lo) (hh : lo ≤ hi) :
    bitsOf (word0 len w m f) hi lo = bitsOf f (hi - 9) (lo - 9) := by
  obtain ⟨lo, rfl⟩ : ∃ k, lo = k + 9 := ⟨lo - 9, by omega⟩
  obtain ⟨hi, rfl⟩ : ∃ k, hi = k + 9 := ⟨hi - 9, by omega⟩
  have e : word0 len w m f / 2 ^ (lo + 9) = f / 2 ^ lo := by
    rw [Nat.pow_add, Nat.mul_comm, ← Nat.div_div_eq_div_mul]
    exact congrArg (· / 2 ^ lo) (word0_rest h hm)
  simp only [bitsOf, e, Nat.add_sub_cancel]
  congr 2
  omega
theorem word0_loop {len m f : Nat} {w : Bool} (h : len < 4) (hm : m < 64) : bitOf (word0 len w m f) 18 = bitOf f 9 := by
  have e : word0 len w m f / 2 ^ 18 = f / 2 ^ 9 := by
    rw [show 2 ^ 18 = 512 * 2 ^ 9 from rfl, ← Nat.div_div_eq_div_mul, word0_rest h hm]
  simp only [bitOf, e]

section
variable {a b d e f c s m x y n : Nat} {w p z : Bool}
theorem fA_d (h : d < 32) : bitsOf (fA e b a d) 4 0 = d := by simp [bitsOf, fA]; omega
theorem fA_a (h : d < 32) (h1 : a < 32) : bitsOf (fA e b a d) 9 5 = a := by simp [bitsOf, fA]; omega
theorem fA_b (h : d < 32) (h1 : a < 32) (h2 : b < 32) : bitsOf (fA e b a d) 14 10 = b := by simp [bitsOf, fA]; omega
theorem fA_e (h : d < 32) (h1 : a < 32) (h2 : b < 32) (h3 : e < 256) : bitsOf (fA e b a d) 22 15 = e := by simp [bitsOf, fA]; omega
theorem fI_d (h : d < 32) : bitsOf (fI e a d) 4 0 = d := by simp [bitsOf, fI]; omega
theorem fI_a (h : d < 32) (h1 : a < 32) : bitsOf (fI e a d) 9 5 = a := by simp [bitsOf, fI]; omega
theorem fI_e (h : d < 32) (h1 : a < 32) (h3 : e < 8192) : bitsOf (fI e a d) 22 10 = e := by simp [bitsOf, fI]; omega
theorem fM_d (h : d < 32) : bitsOf (fM e f a d) 4 0 = d := by simp [bitsOf, fM]; omega
theorem fM_a (h : d < 32) (h1 : a < 32) : bitsOf (fM e f a d) 9 5 = a := by simp [bitsOf, fM]; omega
theorem fM_f (h : d < 32) (h1 : a < 32) (h2 : f < 8) : bitsOf (fM e f a d) 12 10 = f := by simp [bitsOf, fM]; omega
theorem fM_e (h : d < 32) (h1 : a < 32) (h2 : f < 8) (h3 : e < 1024) : bitsOf (fM e f a d) 22 13 = e := by simp [bitsOf, fM]; omega
theorem fB_c (h : c < 8) : bitsOf (fB e b a c) 2 0 = c := by simp [bitsOf, fB]; omega
theorem fB_a (h : c < 8) (h1 : a < 32) : bitsOf (fB e b a c) 7 3 = a := by simp [bitsOf, fB]; omega
theorem fB_b (h : c < 8) (h1 : a < 32) (h2 : b < 32) : bitsOf (fB e b a c) 12 8 = b := by simp [bitsOf, fB]; omega
theorem fB_e (h : c < 8) (h1 : a < 32) (h2 : b < 32) (h3 : e < 1024) : bitsOf (fB e b a c) 22 13 = e := by simp [bitsOf, fB]; omega
theorem fU_d (h : d < 32) : bitsOf (fU e d) 4 0 = d := by simp [bitsOf, fU]; omega
theorem fU_e (h : d < 32) (h3 : e < 262144) : bitsOf (fU e d) 22 5 = e := by simp [bitsOf, fU]; omega
theorem fV_d (h : d < 32) : bitsOf (fV e f b a d) 4 0 = d := by simp [bitsOf, fV]; omega
theorem fV_a (h : d < 32) (h1 : a < 32) : bitsOf (fV e f b a d) 9 5 = a := by simp [bitsOf, fV]; omega
theorem fV_b (h : d < 32) (h1 : a < 32) (h2 : b < 32) : bitsOf (fV e f b a d) 14 10 = b := by simp [bitsOf, fV]; omega
theorem fV_f (h : d < 32) (h1 : a < 32) (h2 : b < 32) (h3 : f < 8) : bitsOf (fV e f b a d) 17 15 = f := by simp [bitsOf, fV]; omega
theorem fV_e (h : d < 32) (h1 : a < 32) (h2 : b < 32) (h3 : f < 8) (h4 : e < 32) : bitsOf (fV e f b a d) 22 18 = e := by
  simp [bitsOf, fV]; omega

/-- The fields of word 1, and what is left of it without them. -/
theorem word1_fields (hc : c < 32) (hx : x < 8) (hs : s < 8) (hm : m < 8) (hy : y < 256) (hn : n < 256) :
    let v := word1 c x s p m z y n
    bitsOf v 4 0 = c ∧ bitsOf v 7 5 = x ∧ bitsOf v 10 8 = s ∧ bitOf v 11 = p ∧ bitsOf v 11 11 = boolNat p ∧ bitsOf v 14 12 = m ∧
      bitOf v 15 = z ∧ bitsOf v 15 15 = boolNat z ∧ bitsOf v 23 16 = y ∧ bitsOf v 31 24 = n ∧ bitsOf v 31 16 = y + 256 * n := by
  cases p <;> cases z <;> simp [word1, bitsOf, bitOf, boolNat] <;> omega

theorem word1_c (hc : c < 32) : bitsOf (word1 c x s p m z y n) 4 0 = c := by
  simp [word1, bitsOf]; omega
theorem word1_rm (hc : c < 32) (hx : x < 8) : bitsOf (word1 c x s p m z y n) 7 5 = x := by
  simp [word1, bitsOf]; omega
theorem word1_scope (hc : c < 32) (hx : x < 8) (hs : s < 8) : bitsOf (word1 c x s p m z y n) 10 8 = s := by
  simp [word1, bitsOf]; omega
theorem word1_pk (hc : c < 32) (hx : x < 8) (hs : s < 8) : bitOf (word1 c x s p m z y n) 11 = p := by
  cases p <;> cases z <;> simp [word1, bitOf, boolNat] <;> omega
theorem word1_m (hc : c < 32) (hx : x < 8) (hs : s < 8) (hm : m < 8) : bitsOf (word1 c x s p m z y n) 14 12 = m := by
  cases p <;> cases z <;> simp [word1, bitsOf, boolNat] <;> omega
theorem word1_mz (hc : c < 32) (hx : x < 8) (hs : s < 8) (hm : m < 8) : bitOf (word1 c x s p m z y n) 15 = z := by
  cases p <;> cases z <;> simp [word1, bitOf, boolNat] <;> omega
theorem word1_dx (hc : c < 32) (hx : x < 8) (hs : s < 8) (hm : m < 8) (hy : y < 256) : bitsOf (word1 c x s p m z y n) 23 16 = y := by
  cases p <;> cases z <;> simp [word1, bitsOf, boolNat] <;> omega
theorem word1_dy (hc : c < 32) (hx : x < 8) (hs : s < 8) (hm : m < 8) (hy : y < 256) (hn : n < 256) :
    bitsOf (word1 c x s p m z y n) 31 24 = n := by
  cases p <;> cases z <;> simp [word1, bitsOf, boolNat] <;> omega
/-- Word 1 holds nothing but the fields that an instruction uses. -/
theorem w1less_word1 {r : Raw} (hr : r.w1 = word1 c x s p m z y n) {fc fx fs fp fm fz fy : Bool}
    (hc : c < 32) (hx : x < 8) (hs : s < 8) (hm : m < 8) (hy : y < 256) (hn : n < 256)
    (gc : fc = false → c = 0) (gx : fx = false → x = 0) (gs : fs = false → s = 0) (gp : fp = false → p = false) (gm : fm = false → m = 0)
    (gz : fz = false → z = false) (gy : fy = false → y = 0 ∧ n = 0) :
    r.w1less fc fx fs fp fm fz fy = 0 := by
  have h := word1_fields (p := p) (z := z) hc hx hs hm hy hn
  simp only at h
  obtain ⟨h1, h2, h3, -, h5, h6, -, h8, -, -, h11⟩ := h
  have k1 : (if fc = true then c else 0) = c := by cases fc <;> simp_all
  have k2 : (if fx = true then 2 ^ 5 * x else 0) = 32 * x := by cases fx <;> simp_all
  have k3 : (if fs = true then 2 ^ 8 * s else 0) = 256 * s := by cases fs <;> simp_all
  have k5 : (if fp = true then 2 ^ 11 * boolNat p else 0) = 2048 * boolNat p := by cases fp <;> simp_all [boolNat]
  have k6 : (if fm = true then 2 ^ 12 * m else 0) = 4096 * m := by cases fm <;> simp_all
  have k8 : (if fz = true then 2 ^ 15 * boolNat z else 0) = 32768 * boolNat z := by cases fz <;> simp_all [boolNat]
  have k11 : (if fy = true then 2 ^ 16 * (y + 256 * n) else 0) = 65536 * (y + 256 * n) := by cases fy <;> simp_all
  simp only [Raw.w1less, hr, h1, h2, h3, h5, h6, h8, h11, k1, k2, k3, k5, k6, k8, k11]
  simp only [word1]
  omega

end

theorem bitsOf_zero (hi lo : Nat) : bitsOf 0 hi lo = 0 := by simp [bitsOf]
theorem shift0_fields (v : BitVec 6) : v.toNat < 8192 ∧ v.toNat < 256 ∧ v.toNat / 64 % 4 = 0 ∧ v.toNat % 64 = v.toNat := by
  have := v.isLt
  omega
theorem shift1_fields (v : BitVec 6) :
    v.toNat + 64 < 8192 ∧ v.toNat + 64 < 256 ∧ (v.toNat / 64 + 1) % 4 = 1 ∧ (v.toNat + 64) % 64 = v.toNat := by
  have := v.isLt
  omega
theorem shift2_fields (v : BitVec 6) :
    v.toNat + 128 < 8192 ∧ v.toNat + 128 < 256 ∧ (v.toNat + 128) / 64 % 4 = 2 ∧ (v.toNat + 128) % 64 = v.toNat := by
  have := v.isLt
  omega
theorem xinv_fields (k : Fin 3) (q : Scope) :
    k.val + 4 * scopeNum q < 256 ∧ (k.val + 4 * scopeNum q) / 32 = 0 ∧ (k.val + 4 * scopeNum q) % 4 = k.val ∧
      (k.val + 4 * scopeNum q) / 4 % 8 = scopeNum q := by
  have := k.isLt
  cases q <;> simp only [scopeNum] <;> omega
theorem fence_fields (k : FenceKind) (q : Scope) :
    fenceNum k + 4 * scopeNum q < 256 ∧ (fenceNum k + 4 * scopeNum q) / 32 = 0 ∧ fenceOf (fenceNum k % 4) = some k ∧
      (fenceNum k + 4 * scopeNum q) / 4 % 8 = scopeNum q := by
  cases k <;> cases q <;> decide
theorem loop_fields (a : Reg) (v : BitVec 13) :
    bitOf (a.val + 1024 * v.toNat) 9 = false ∧ bitsOf (a.val + 1024 * v.toNat) 4 0 = a.val ∧ bitsOf (a.val + 1024 * v.toNat) 8 5 = 0 ∧
      bitsOf (a.val + 1024 * v.toNat) 22 10 = v.toNat := by
  have := v.isLt
  have := a.isLt
  simp [bitOf, bitsOf]
  omega
theorem loopi_fields (n : BitVec 9) (v : BitVec 13) :
    bitOf (n.toNat + 512 + 1024 * v.toNat) 9 = true ∧ bitsOf (n.toNat + 512 + 1024 * v.toNat) 8 0 = n.toNat ∧
      bitsOf (n.toNat + 512 + 1024 * v.toNat) 22 10 = v.toNat := by
  have := v.isLt
  have := n.isLt
  simp [bitOf, bitsOf]
  omega
theorem slot_fields (n : Fin 64) :
    n.val / 32 < 32 ∧ n.val / 32 % 32 < 2 ∧ n.val % 32 < 32 ∧ n.val % 32 + 32 * (n.val / 32 % 32) = n.val := by
  omega
theorem msg_fields {g n c : Nat} {x : Ctx} (hg : g < 64) (hn : n < 128) (hc : c < 32) :
    bitsOf (msgWord g n x c) 4 0 = c ∧ ctxOf (bitOf (msgWord g n x c) 5) = x ∧ bitsOf (msgWord g n x c) 12 6 = n ∧
      bitsOf (msgWord g n x c) 18 13 = g ∧ msgWord g n x c / 2 ^ 19 = 0 := by
  cases x <;> simp [bitsOf, bitOf, msgWord, ctxNum, ctxOf] <;> omega
theorem arm_fields (g : Fin 64) (t : BitVec 24) (y i : Bool) :
    let v := g.val + 64 * boolNat y + 128 * boolNat i + 256 * t.toNat
    bitsOf v 5 0 = g.val ∧ bitOf v 6 = y ∧ bitOf v 7 = i ∧ bitsOf v 31 8 = t.toNat := by
  have := t.isLt
  have := g.isLt
  cases y <;> cases i <;> simp [bitsOf, bitOf, boolNat] <;> omega
theorem conv_fields (a b : CFmt) :
    bitsOf (fmtWord a b) 15 8 = cfmtNum a ∧ bitsOf (fmtWord a b) 7 0 = cfmtNum b ∧ fmtWord a b / 2 ^ 16 = 0 := by
  cases a <;> cases b <;> decide
theorem gid_fields (g : Fin 64) : bitsOf g.val 5 0 = g.val ∧ g.val / 64 = 0 := by
  have := g.isLt
  simp only [bitsOf]
  omega
theorem bv6_lt (v : BitVec 6) : v.toNat < 64 := v.isLt
theorem bv7_lt (v : BitVec 7) : v.toNat < 128 := v.isLt
theorem bv8_lt (v : BitVec 8) : v.toNat < 256 := v.isLt
theorem bv9_lt (v : BitVec 9) : v.toNat < 512 := v.isLt
theorem bv10_lt (v : BitVec 10) : v.toNat < 1024 := v.isLt
theorem bv13_lt (v : BitVec 13) : v.toNat < 8192 := v.isLt
theorem bv18_lt (v : BitVec 18) : v.toNat < 262144 := v.isLt
theorem bv24_lt (v : BitVec 24) : v.toNat < 16777216 := v.isLt
theorem entry_lt (m : Fin 8) : m.val < 256 := Nat.lt_trans m.isLt (by decide)
theorem mask_lt (m : MReg) : m.val < 32 := Nat.lt_trans m.isLt (by decide)
theorem rmOf_zero : rmOf 0 = some .rne := rfl
theorem scopeOf_zero : scopeOf 0 = some .core := rfl
theorem ofNat_val (n : Nat) [NeZero n] (x : Fin n) : Fin.ofNat n x.val = x := by ext; simp
theorem rmOf_rmNum (q : RM) : rmOf (rmNum q) = some q := by cases q <;> rfl
theorem rmNum_lt (q : RM) : rmNum q < 8 := by cases q <;> decide
theorem scopeOf_scopeNum (q : Scope) : scopeOf (scopeNum q) = some q := by cases q <;> rfl
theorem scopeNum_lt (q : Scope) : scopeNum q < 8 := by cases q <;> decide
theorem ffmtOf_ffmtNum (q : FFmt) : ffmtOf (ffmtNum q) = some q := by cases q <;> rfl
theorem ffmtNum_lt (q : FFmt) : ffmtNum q < 8 := by cases q <;> decide
theorem ifmtOf_ifmtNum (q : IFmt) : ifmtOf (ifmtNum q) = some q := by cases q <;> rfl
theorem ifmtNum_lt (q : IFmt) : ifmtNum q < 8 := by cases q <;> decide
theorem vfmtOf_vfmtNum (q : VFmt) : vfmtOf (vfmtNum q) = some q := by cases q <;> rfl
theorem vfmtNum_lt (q : VFmt) : vfmtNum q < 8 := by cases q <;> decide
theorem cfmtOf_cfmtNum (q : CFmt) : cfmtOf (cfmtNum q) = some q := by cases q <;> rfl
theorem cfmtNum_lt (q : CFmt) : cfmtNum q < 256 := by cases q <;> decide
theorem maskOf_val (m : MReg) : maskOf (Fin.ofNat 32 m.val) = some m := by
  revert m; decide

/-! ### What the decoder of a major sees -/

theorem decode_of {ws : List Nat} {r : Raw} {i : Instr} (hs : splitWords ws = some r) (hd : decodeRaw r = .ok i) (hw : i.wf = true) :
    decode ws = .ok i := by
  have : i.illegal = none := by simpa [Instr.wf] using hw
  simp [decode, hs, hd, this]

/-- The parts that do not come from the format's fields. -/
structure Parts (r : Raw) (w : Bool) (m : Nat) (long : Bool) (lit : Option Word) (w1 w2 : Nat) : Prop where
  w : r.w = w
  major : r.major = m
  long : r.long = long
  lit : r.lit = lit
  w1 : r.w1 = w1
  w2 : r.w2 = w2

/-- Word 0 of each format. -/
inductive Fields where
  | A (e b a d : Nat)
  | I (e a d : Nat)
  | M (e f a d : Nat)
  | B (e b a c : Nat)
  | U (e d : Nat)
  | V (e f b a d : Nat)

def Fields.num : Fields → Nat
  | .A e b a d => fA e b a d
  | .I e a d => fI e a d
  | .M e f a d => fM e f a d
  | .B e b a c => fB e b a c
  | .U e d => fU e d
  | .V e f b a d => fV e f b a d

/-- Each field lies in its range. -/
def Fields.fits : Fields → Prop
  | .A e b a d => e < 256 ∧ b < 32 ∧ a < 32 ∧ d < 32
  | .I e a d => e < 8192 ∧ a < 32 ∧ d < 32
  | .M e f a d => e < 1024 ∧ f < 8 ∧ a < 32 ∧ d < 32
  | .B e b a c => e < 1024 ∧ b < 32 ∧ a < 32 ∧ c < 8
  | .U e d => e < 262144 ∧ d < 32
  | .V e f b a d => e < 32 ∧ f < 8 ∧ b < 32 ∧ a < 32 ∧ d < 32

/-- What the decoder reads of them. -/
def Fields.read (r : Raw) : Fields → Prop
  | .A e b a d => r.func8 = e ∧ r.func5 = b ∧ r.b = Fin.ofNat 32 b ∧ r.a = Fin.ofNat 32 a ∧ r.d = Fin.ofNat 32 d
  | .I e a d => r.imm13 = e ∧ r.a = Fin.ofNat 32 a ∧ r.d = Fin.ofNat 32 d
  | .M e f a d => r.imm10 = e ∧ r.func3 = f ∧ r.a = Fin.ofNat 32 a ∧ r.d = Fin.ofNat 32 d
  | .B e b a c => r.imm10 = e ∧ bitsOf r.w0 21 17 = b ∧ bitsOf r.w0 16 12 = a ∧ bitsOf r.w0 11 9 = c
  | .U e d => bitsOf r.w0 31 14 = e ∧ r.d = Fin.ofNat 32 d
  | .V e f b a d => r.vfunc = e ∧ r.vfmt = f ∧ r.b = Fin.ofNat 32 b ∧ r.a = Fin.ofNat 32 a ∧ r.d = Fin.ofNat 32 d

theorem parts_of {len m f w1 w2 : Nat} {w long : Bool} {lit : Option Word} (hl : len < 4) (hm : m < 64) :
    Parts ⟨word0 len w m f, long, lit, w1, w2⟩ w m long lit w1 w2 :=
  ⟨word0_mark hl, word0_major hl hm, rfl, rfl, rfl, rfl⟩
theorem read_of {len m w1 w2 : Nat} {w long : Bool} {lit : Option Word} {q : Fields} (hl : len < 4) (hm : m < 64) (hq : q.fits) :
    q.read ⟨word0 len w m q.num, long, lit, w1, w2⟩ := by
  cases q <;> simp only [Fields.fits] at hq <;>
    simp [Fields.read, Fields.num, Raw.func8, Raw.func5, Raw.b, Raw.a, Raw.d, Raw.imm13, Raw.imm10, Raw.func3, Raw.vfunc, Raw.vfmt,
      word0_field, hl, hm, fA_d, fA_a, fA_b, fA_e, fI_d, fI_a, fI_e, fM_d, fM_a, fM_f, fM_e, fB_c, fB_a, fB_b, fB_e, fU_d, fU_e,
      fV_d, fV_a, fV_b, fV_f, fV_e, hq]

/-- One word. -/
theorem decode_1 {w : Bool} {m : Nat} {i : Instr} (q : Fields) (hm : m < 64) (hq : q.fits) (hw : i.wf = true)
    (h : ∀ r, Parts r w m false none 0 0 → q.read r → decodeRaw r = .ok i) : decode (enc1 w m q.num) = .ok i :=
  decode_of (by simp [splitWords, enc1, word0_len]) (h _ (parts_of (len := 0) (by decide) hm) (read_of (len := 0) (by decide) hm hq)) hw
/-- Three words. -/
theorem decode_3 {w : Bool} {m w1 w2 : Nat} {i : Instr} (q : Fields) (hm : m < 64) (hq : q.fits) (hw : i.wf = true)
    (h : ∀ r, Parts r w m true none w1 w2 → q.read r → decodeRaw r = .ok i) : decode (enc3 w m q.num w1 w2) = .ok i :=
  decode_of (by simp [splitWords, enc3, word0_len]) (h _ (parts_of (len := 1) (by decide) hm) (read_of (len := 1) (by decide) hm hq)) hw
theorem litWords_join (v : Word) : BitVec.ofNat 64 (v.toNat % 2 ^ 32 + 2 ^ 32 * (v.toNat / 2 ^ 32)) = v := by
  rw [Nat.mod_add_div]; simp
/-- One word and a literal. -/
theorem decode_L {w : Bool} {m : Nat} {v : Word} {i : Instr} (q : Fields) (hm : m < 64) (hq : q.fits) (hw : i.wf = true)
    (h : ∀ r, Parts r w m false (some v) 0 0 → q.read r → decodeRaw r = .ok i) : decode (word0 2 w m q.num :: litWords v) = .ok i :=
  decode_of (by simp only [splitWords, litWords, litWords_join]; simp [word0_len])
    (h _ (parts_of (len := 2) (by decide) hm) (read_of (len := 2) (by decide) hm hq)) hw
/-- Three words and a literal. -/
theorem decode_3L {w : Bool} {m w1 w2 : Nat} {v : Word} {i : Instr} (q : Fields) (hm : m < 64) (hq : q.fits) (hw : i.wf = true)
    (h : ∀ r, Parts r w m true (some v) w1 w2 → q.read r → decodeRaw r = .ok i) :
    decode (word0 3 w m q.num :: w1 :: w2 :: litWords v) = .ok i :=
  decode_of (by simp only [splitWords, litWords, litWords_join]; simp [word0_len])
    (h _ (parts_of (len := 3) (by decide) hm) (read_of (len := 3) (by decide) hm hq)) hw

theorem w1less_of_zero {r : Raw} (h : r.w1 = 0) (fc fx fs fp fm fz fy : Bool) : r.w1less fc fx fs fp fm fz fy = 0 := by
  simp [Raw.w1less, h]
theorem rm_of_zero {r : Raw} (h : r.w1 = 0) : r.rm = 0 := by simp [Raw.rm, h, bitsOf_zero]
theorem scope_of_zero {r : Raw} (h : r.w1 = 0) : r.scope = 0 := by simp [Raw.scope, h, bitsOf_zero]
/-- What the decoder reads of word 1. -/
theorem word1_read {r : Raw} {c x s m y n : Nat} {p z : Bool} (h : r.w1 = word1 c x s p m z y n)
    (hc : c < 32) (hx : x < 8) (hs : s < 8) (hm : m < 8) (hy : y < 256) (hn : n < 256) :
    r.c = Fin.ofNat 32 c ∧ r.rm = x ∧ r.scope = s ∧ r.pk = p ∧ r.m = Fin.ofNat 8 m ∧ r.mz = z ∧ r.dx = y ∧ r.dy = n := by
  simp only [Raw.c, Raw.rm, Raw.scope, Raw.pk, Raw.m, Raw.mz, Raw.dx, Raw.dy, h, word1_c hc, word1_rm hc hx, word1_scope hc hx hs,
    word1_pk hc hx hs, word1_m hc hx hs hm, word1_mz hc hx hs hm, word1_dx hc hx hs hm hy, word1_dy hc hx hs hm hy hn, and_self]

end Sys2Proof
end

