-- ==== Sys2Proof/Laws/Floating.lean ====
section
/-!
SUPPORT. One lemma for each shared form of the scalar floating instructions: a ready one issues, and this is all that it does.
-/
namespace Sys2Proof.Machine

theorem Only.fpctlOf {s t : State} {i : CtxId} {k : Context} (h : Only s t i k) : Machine.fpctlOf t i = k.fpctl := by
  rw [Machine.fpctlOf, h.1]

theorem Only.writeFp {s t : State} {i : CtxId} {k : Context} (h : Only s t i k) (d : Reg) (r : Nat × Flags) :
    Sends s (Machine.writeFp t i d r) i ((k.putX d (BitVec.ofNat 64 r.1)).flag r.2) d ⟨false, (BitVec.ofNat 64 r.1).setWidth 1024⟩ :=
  (h.writeDest d (BitVec.ofNat 64 r.1)).addFlags r.2

theorem float1_ready {s : State} {ins : Instr} {f : FpFmt} {d a : Reg} (op : BitVec 13 → Nat → Nat × Flags)
    (hp : planOf ins = regPlan [a] [d]) (h : Ready s ins [a] [d] 0) :
    let k := (s.ctx s.slot).counted
    let r := op k.fpctl (lowBits f (k.srcX a))
    Sends s (float1 ins f d a op s) s.slot ((((k.pop a).putX d (BitVec.ofNat 64 r.1)).flag r.2).goesOn (byteLen ins)) d
      ⟨false, (BitVec.ofNat 64 r.1).setWidth 1024⟩ := by
  intro k r
  have h0 := only_countIssue s s.slot
  have h1 := h0.takeX a
  rw [float1, issue_go (h.gateRegs hp)]
  simp only [h0.fst_takeX, h1.fpctlOf, Context.fpctl_pop]
  exact (h1.writeFp d r).finishOp ins

theorem float2_ready {s : State} {ins : Instr} {f : FpFmt} {d a b : Reg} (op : BitVec 13 → Nat → Nat → Nat × Flags)
    (hp : planOf ins = regPlan [a, b] [d]) (h : Ready s ins [a, b] [d] 0) :
    let k := (s.ctx s.slot).counted
    let r := op k.fpctl (lowBits f (k.srcX a)) (lowBits f ((k.pop a).srcX b))
    Sends s (float2 ins f d a b op s) s.slot (((((k.pop a).pop b).putX d (BitVec.ofNat 64 r.1)).flag r.2).goesOn (byteLen ins)) d
      ⟨false, (BitVec.ofNat 64 r.1).setWidth 1024⟩ := by
  intro k r
  have h0 := only_countIssue s s.slot
  have h1 := h0.takeX a
  have h2 := h1.takeX b
  rw [float2, issue_go (h.gateRegs hp)]
  simp only [h0.fst_takeX, h1.fst_takeX, h2.fpctlOf, Context.fpctl_pop]
  exact (h2.writeFp d r).finishOp ins

theorem float3_ready {s : State} {ins : Instr} {o : OpsF3} (np nz : Bool)
    (hp : planOf ins = regPlan [o.a, o.b, o.c] [o.d]) (h : Ready s ins [o.a, o.b, o.c] [o.d] 0) :
    let k := (s.ctx s.slot).counted
    let f := fpOf o.fmt
    let r := fpFma f (envOf k.fpctl f o.rm) np nz (lowBits f (k.srcX o.a)) (lowBits f ((k.pop o.a).srcX o.b))
      (lowBits f (((k.pop o.a).pop o.b).srcX o.c))
    Sends s (float3 ins o np nz s) s.slot
      ((((((k.pop o.a).pop o.b).pop o.c).putX o.d (BitVec.ofNat 64 r.1)).flag r.2).goesOn (byteLen ins)) o.d
      ⟨false, (BitVec.ofNat 64 r.1).setWidth 1024⟩ := by
  intro k f r
  have h0 := only_countIssue s s.slot
  have h1 := h0.takeX o.a
  have h2 := h1.takeX o.b
  have h3 := h2.takeX o.c
  rw [float3, issue_go (h.gateRegs hp)]
  simp only [h0.fst_takeX, h1.fst_takeX, h2.fst_takeX, h3.fpctlOf, Context.fpctl_pop]
  exact (h3.writeFp o.d r).finishOp ins

theorem narrow_ready {s : State} {ins : Instr} {dst : FpFmt} {d a : Reg} (rm : RM) (pk : Bool)
    (hp : planOf ins = regPlan [a] [d]) (h : Ready s ins [a] [d] 0) :
    let k := (s.ctx s.slot).counted
    let env := convEnv k.fpctl fp32 dst rm
    let x := lowBits fp32 (k.srcX a)
    let r := fpConvert fp32 dst env.daz env x
    let k1 := k.pop a
    let k2 := if pk then { k1 with peak := peakOf k1.peak (operand fp32 env.daz x) } else k1
    Sends s (narrow ins dst d a rm pk s) s.slot (((k2.putX d (BitVec.ofNat 64 r.1)).flag r.2).goesOn (byteLen ins)) d
      ⟨false, (BitVec.ofNat 64 r.1).setWidth 1024⟩ := by
  intro k env x r k1 k2
  have h0 := only_countIssue s s.slot
  have h1 := h0.takeX a
  rw [narrow, issue_go (h.gateRegs hp)]
  simp only [h0.fst_takeX, h1.fpctlOf, Context.fpctl_pop]
  have h2 : Only s (if pk then addPeak (takeX (countIssue s s.slot) s.slot a).2 s.slot [operand fp32 env.daz x]
      else (takeX (countIssue s s.slot) s.slot a).2) s.slot k2 := by
    cases pk
    · exact h1
    · exact h1.then fun k => { k with peak := [operand fp32 env.daz x].foldl peakOf k.peak }
  exact (h2.writeFp d r).finishOp ins

end Sys2Proof.Machine
end

