-- ==== Sys2Proof/Laws/Length.lean ====
section
/-!
SUPPORT. How many words the encoder gives an instruction, by the helper that encodes its form (R38, R45).
-/
namespace Sys2Proof

/-- Words of format M: a literal and an extension each add two (R45). -/
def memWords (off : Off) (ext : Bool) : Nat := (match off with | .short _ => 1 | .lit _ => 3) + (if ext then 2 else 0)
/-- Words of format I. -/
def immWords : Imm → Nat
  | .short _ => 1
  | .lit _ => 3

@[simp] theorem length_enc1 (w m f) : (enc1 w m f).length = 1 := rfl
@[simp] theorem length_enc3 (w m f a b) : (enc3 w m f a b).length = 3 := rfl
@[simp] theorem length_encL (w l m f) : (encL w l m f).length = if l then 3 else 1 := by cases l <;> rfl
@[simp] theorem length_encE (w m f) (e : Option Nat) : (encE w m f e).length = if e.isSome then 3 else 1 := by cases e <;> rfl
@[simp] theorem length_encI (m) (o : OpsI) : (encI m o).length = immWords o.imm := by
  rw [encI]; cases o.imm <;> rfl
@[simp] theorem length_encM (w m f a d off) (e : Option Nat) : (encM w m f a d off e).length = memWords off e.isSome := by
  cases off <;> cases e <;> rfl
@[simp] theorem length_encDA (m f o) : (encDA m f o).length = 1 := rfl
@[simp] theorem length_encDAB (m f o) : (encDAB m f o).length = 1 := rfl
@[simp] theorem length_encShift (n o) : (encShift n o).length = 1 := rfl
@[simp] theorem length_encB (n o) : (encB n o).length = 1 := rfl
@[simp] theorem length_encAmo (n o) : (encAmo n o).length = 1 := rfl
@[simp] theorem length_encF3 (n o) : (encF3 n o).length = 3 := rfl
@[simp] theorem length_encVF3 (n o) : (encVF3 n o).length = 3 := rfl
@[simp] theorem length_encF2R (n) (o : OpsF2R) : (encF2R n o).length = if o.ext.isSome then 3 else 1 := by simp [encF2R]
@[simp] theorem length_encF2 (n) (o : OpsF2) : (encF2 n o).length = if o.long then 3 else 1 := by simp [encF2]
@[simp] theorem length_encF1 (n) (o : OpsF1) : (encF1 n o).length = if o.long then 3 else 1 := by simp [encF1]
@[simp] theorem length_encCvtR (n) (o : OpsCvtR) : (encCvtR n o).length = if o.ext.isSome then 3 else 1 := by simp [encCvtR]
@[simp] theorem length_encCvt (n) (o : OpsCvt) : (encCvt n o).length = if o.long then 3 else 1 := by simp [encCvt]
@[simp] theorem length_encCvtP (n) (o : OpsCvtP) : (encCvtP n o).length = if o.ext.isSome then 3 else 1 := by simp [encCvtP]
@[simp] theorem length_encLS (m n) (o : OpsM) : (encLS m n o).length = memWords o.off o.long := by
  cases h : o.long <;> simp [encLS, h]
@[simp] theorem length_encLSS (m n) (o : OpsMS) : (encLSS m n o).length = memWords o.off o.scope.isSome := by simp [encLSS]
@[simp] theorem length_encVR (n) (o : OpsVR) : (encVR n o).length = if o.ext.isSome then 3 else 1 := by simp [encVR]
@[simp] theorem length_encVF2 (n) (o : OpsVF2) : (encVF2 n o).length = if o.ext.isSome then 3 else 1 := by simp [encVF2]
@[simp] theorem length_encVF1 (n) (o : OpsVF1) : (encVF1 n o).length = if o.ext.isSome then 3 else 1 := by simp [encVF1]
@[simp] theorem length_encVFC (n) (o : OpsVFC) : (encVFC n o).length = if o.ext.isSome then 3 else 1 := by simp [encVFC]
@[simp] theorem length_encVI (n) (o : OpsVI) : (encVI n o).length = if o.ext.isSome then 3 else 1 := by simp [encVI]
@[simp] theorem length_encVIC (n) (o : OpsVIC) : (encVIC n o).length = if o.ext.isSome then 3 else 1 := by simp [encVIC]
@[simp] theorem length_encVRed (n) (o : OpsVRed) : (encVRed n o).length = if o.ext.isSome then 3 else 1 := by simp [encVRed]
@[simp] theorem length_encV1 (m n) (o : OpsV1) : (encV1 m n o).length = if o.ext.isSome then 3 else 1 := by simp [encV1]
@[simp] theorem length_encV2 (n) (o : OpsV2) : (encV2 n o).length = if o.ext.isSome then 3 else 1 := by simp [encV2]
@[simp] theorem length_encMM (n) (o : OpsMM) : (encMM n o).length = if o.long then 3 else 1 := by simp [encMM]
@[simp] theorem length_encXM (n) (o : OpsXM) : (encXM n o).length = if o.long then 3 else 1 := by simp [encXM]
@[simp] theorem length_encVL (n) (o : OpsVL) : (encVL n o).length = memWords o.off o.ext.isSome := by simp [encVL]
@[simp] theorem length_encVS (n) (o : OpsVS) : (encVS n o).length = memWords o.off o.ext.isSome := by simp [encVS]

end Sys2Proof
end

