-- ==== Sys2Proof/Laws/Over.lean ====
section
/-!
SUPPORT. Operations that neither read nor change a core, and operations that change no context: what one context's instruction does beside
them may be seen as coming after them.
-/
namespace Sys2Proof.Machine

/-- An operation that neither reads nor changes a core. -/
def CoreFree (f : State → State) : Prop := ∀ (s : State) (c : List (Nat × Core)), f { s with cores := c } = { f s with cores := c }

theorem CoreFree.cores {f : State → State} (hf : CoreFree f) (s : State) : (f s).cores = s.cores := by
  have h := hf s s.cores
  rw [show ({ s with cores := s.cores } : State) = s from rfl] at h
  rw [h]
theorem CoreFree.coreAt {f : State → State} (hf : CoreFree f) (s : State) (n : Nat) : (f s).coreAt n = s.coreAt n := by
  rw [State.coreAt, State.coreAt, hf.cores]
theorem CoreFree.ctx {f : State → State} (hf : CoreFree f) (s : State) (i : CtxId) : (f s).ctx i = s.ctx i := by
  rw [State.ctx, State.ctx, hf.coreAt]
theorem CoreFree.comp {f g : State → State} (hf : CoreFree f) (hg : CoreFree g) : CoreFree fun s => g (f s) := by
  intro s c
  show g (f { s with cores := c }) = _
  rw [hf, hg]
theorem CoreFree.id : CoreFree fun s => s := fun _ _ => rfl

theorem SameRest.eq_cores {s t : State} (h : SameRest s t) : t = { s with cores := t.cores } := by
  obtain ⟨h1, h2, _, h4, h5, h6, h7, h8, h9, h10, h11, h12, h13⟩ := h
  cases s
  cases t
  simp only at h1 h2 h4 h5 h6 h7 h8 h9 h10 h11 h12 h13
  simp only [h1, h2, h4, h5, h6, h7, h8, h9, h10, h11, h12, h13]

/-- Such an operation may be seen as coming first. -/
theorem Only.overFree {s t : State} {i : CtxId} {k : Context} (h : Only s t i k) {f : State → State} (hf : CoreFree f) :
    Only (f s) (f t) i k := by
  refine ⟨by rw [hf.ctx, h.1], fun j hj => by rw [hf.ctx, hf.ctx, h.2.1 j hj], ?_⟩
  have e : f t = { f s with cores := t.cores } := by
    have e1 := h.2.2.eq_cores
    rw [e1, hf]
  have ec : (f s).cores = s.cores := hf.cores s
  rw [e]
  refine ⟨rfl, rfl, ?_, rfl, rfl, rfl, rfl, rfl, rfl, rfl, rfl, rfl, rfl⟩
  intro n
  have g := h.2.2.shell n
  simp only [State.coreAt, ec] at g ⊢
  exact g

theorem coreFree_modPart (p : Nat) (f : Partition → Partition) : CoreFree fun s => s.modPart p f := fun _ _ => rfl
theorem coreFree_modPkg (f : Package → Package) : CoreFree fun s => s.modPkg f := fun _ _ => rfl
theorem coreFree_modDie (d : Nat) (f : Die → Die) : CoreFree fun s => s.modDie d f := fun _ _ => rfl
theorem coreFree_modCluster (c : Nat) (f : Cluster → Cluster) : CoreFree fun s => s.modCluster c f := fun _ _ => rfl
theorem coreFree_postEngine (src : EngSrc) (d : Nat) (m : Msg) : CoreFree fun s => postEngine s src d m := fun _ _ => rfl
theorem coreFree_raiseMsix (v : Nat) : CoreFree fun s => raiseMsix s v := fun _ _ => rfl
theorem coreFree_modGroup (g : Nat) (f : Group → Group) : CoreFree fun s => modGroup s g f := fun _ _ => rfl

theorem coreFree_partEvent (p bit : Nat) : CoreFree fun s => partEvent s p bit := by
  intro s c
  have e1 : State.partAt { s with cores := c } p = s.partAt p := rfl
  simp only [partEvent, e1]
  cases bitAt (s.partAt p).pevpend bit
  · by_cases h : (s.partAt p).pevpend = 0
    · simp only [h, if_true]
      cases bitAt (s.partAt p).pevcfg 19 <;> cases bitAt (s.partAt p).pevcfg 26 <;> rfl
    · simp only [h, if_false]; rfl
  · rfl

theorem coreFree_faultEvent (p : Nat) (r : BitVec 256) : CoreFree fun s => faultEvent s p r := by
  intro s c
  have h := coreFree_partEvent p 0 (s.modPart p fun q => { q with faultEvents := q.faultEvents ++ [r] }) c
  simp only [faultEvent]
  by_cases hl : (s.partAt p).faultEvents.length < queueMax
  · have hl' : (State.partAt { s with cores := c } p).faultEvents.length < queueMax := hl
    simp only [hl, hl', if_true]
    exact h
  · have hl' : ¬ (State.partAt { s with cores := c } p).faultEvents.length < queueMax := hl
    simp only [hl, hl', if_false]
    rfl

theorem coreFree_countEnd (p h g : Nat) (start : Bool) (how : EndKind) : CoreFree fun s => countEnd s p h g start how := by
  intro s c
  have e1 : ∀ f, modGroup { s with cores := c } g f = { modGroup s g f with cores := c } := fun _ => rfl
  have e2 : groupOf { s with cores := c } p h g = groupOf s p h g := rfl
  have e3 : ∀ u : State, State.launchAt { u with cores := c } p h = u.launchAt p h := fun _ => rfl
  simp only [countEnd, e1, e2]
  cases (groupOf s p h g).isSome <;> simp only [if_true, if_false, Bool.false_eq_true, e3] <;> split <;> rfl

theorem coreFree_armGroup (p core : Nat) (a : ArmArgs) : CoreFree fun s => (armGroup s p core a).2 := by
  intro s c
  have e1 : armRefused { s with cores := c } p core a = armRefused s p core a := rfl
  have e2 : State.rgroupAt { s with cores := c } p a.gid = s.rgroupAt p a.gid := rfl
  simp only [armGroup, e1, e2]
  cases armRefused s p core a
  · cases (s.rgroupAt p a.gid).state != .free <;> rfl
  · rfl

end Sys2Proof.Machine
end

