-- ==== Sys2Proof/Laws/PerInstr.lean ====
section
/-!
SUPPORT. The family RoundTrip of statements made for each instruction: what the decoder reads from the words that the encoder writes is the
instruction itself, for every one that the encoding admits. The steps of the other agents have no encoding.
-/
namespace Sys2Proof.Laws.RoundTrip

/-- Decoding undoes encoding. -/
def Statement (i : Instr) : Prop := i.wf = true → i.isStep = false → decode (encode i) = .ok i

theorem nop (o : OpsW) : Statement (.nop o) := by
  intro hw _
  refine decode_1 (.A 0 0 0 0) (by decide) (by simp [Fields.fits]) hw fun r hp hq => ?_
  obtain ⟨he, hf, hb, ha, hd⟩ := hq
  simp [decodeRaw, dec00, Raw.one, Raw.opsW, Raw.zd, Raw.za, Raw.zc, ck, hp.w, hp.major, hp.long, hp.lit, he, hf, ha, hd]
theorem trap (o : OpsTrap) : Statement (.trap o) := by
  intro hw _
  refine decode_1 (.A o.code.toNat 1 0 0) (by decide) (by simp [Fields.fits, bv8_lt]) hw fun r hp hq => ?_
  obtain ⟨he, hf, hb, ha, hd⟩ := hq
  simp [decodeRaw, dec00, Raw.one, Raw.zd, Raw.za, ck, hp.w, hp.major, hp.long, hp.lit, he, hf, ha, hd]
theorem eret (o : OpsW) : Statement (.eret o) := by
  intro hw _
  refine decode_1 (.A 0 2 0 0) (by decide) (by simp [Fields.fits]) hw fun r hp hq => ?_
  obtain ⟨he, hf, hb, ha, hd⟩ := hq
  simp [decodeRaw, dec00, Raw.one, Raw.opsW, Raw.zd, Raw.za, Raw.zc, ck, hp.w, hp.major, hp.long, hp.lit, he, hf, ha, hd]
theorem getc (o : OpsGetc) : Statement (.getc o) := by
  intro hw _
  refine decode_1 (.A o.creg.toNat 3 0 o.d.val) (by decide) (by simp [Fields.fits, bv8_lt]) hw fun r hp hq => ?_
  obtain ⟨he, hf, hb, ha, hd⟩ := hq
  simp [decodeRaw, dec00, Raw.one, Raw.za, ck, hp.w, hp.major, hp.long, hp.lit, he, hf, ha, hd]
theorem setc (o : OpsSetc) : Statement (.setc o) := by
  intro hw _
  refine decode_1 (.A o.creg.toNat 4 o.a.val 0) (by decide) (by simp [Fields.fits, bv8_lt]) hw fun r hp hq => ?_
  obtain ⟨he, hf, hb, ha, hd⟩ := hq
  simp [decodeRaw, dec00, Raw.one, Raw.zd, ck, hp.w, hp.major, hp.long, hp.lit, he, hf, ha, hd]
theorem park (o : OpsDA) : Statement (.park o) := by
  intro hw _
  refine decode_1 (.A 0 5 o.a.val o.d.val) (by decide) (by simp [Fields.fits]) hw fun r hp hq => ?_
  obtain ⟨he, hf, hb, ha, hd⟩ := hq
  simp [decodeRaw, dec00, Raw.one, Raw.opsDA, Raw.zc, ck, hp.w, hp.major, hp.long, hp.lit, he, hf, ha, hd]
theorem bkpt (o : OpsW) : Statement (.bkpt o) := by
  intro hw _
  refine decode_1 (.A 0 6 0 0) (by decide) (by simp [Fields.fits]) hw fun r hp hq => ?_
  obtain ⟨he, hf, hb, ha, hd⟩ := hq
  simp [decodeRaw, dec00, Raw.one, Raw.opsW, Raw.zd, Raw.za, Raw.zc, ck, hp.w, hp.major, hp.long, hp.lit, he, hf, ha, hd]
theorem xinv (o : OpsXinv) : Statement (.xinv o) := by
  intro hw _
  have hf0 := xinv_fields o.kind o.scope
  refine decode_1 (.A (o.kind.val + 4 * scopeNum o.scope) 7 o.a.val o.d.val) (by decide) (by simp [Fields.fits, hf0]) hw fun r hp hq => ?_
  obtain ⟨he, hf, hb, ha, hd⟩ := hq
  simp [decodeRaw, dec00, Raw.one, ck, ckSome, hp.w, hp.major, hp.long, hp.lit, he, hf, ha, hd, scopeOf_scopeNum, hf0]
theorem add (o : OpsDAB) : Statement (.add o) := by
  intro hw _
  refine decode_1 (.A 0 o.b.val o.a.val o.d.val) (by decide) (by simp [Fields.fits]) hw fun r hp hq => ?_
  obtain ⟨he, hf, hb, ha, hd⟩ := hq
  simp [decodeRaw, dec01, Raw.one, Raw.opsDAB, ck, hp.w, hp.major, hp.long, hp.lit, he, hb, ha, hd]
theorem sub (o : OpsDAB) : Statement (.sub o) := by
  intro hw _
  refine decode_1 (.A 1 o.b.val o.a.val o.d.val) (by decide) (by simp [Fields.fits]) hw fun r hp hq => ?_
  obtain ⟨he, hf, hb, ha, hd⟩ := hq
  simp [decodeRaw, dec01, Raw.one, Raw.opsDAB, ck, hp.w, hp.major, hp.long, hp.lit, he, hb, ha, hd]
theorem and (o : OpsDAB) : Statement (.and o) := by
  intro hw _
  refine decode_1 (.A 2 o.b.val o.a.val o.d.val) (by decide) (by simp [Fields.fits]) hw fun r hp hq => ?_
  obtain ⟨he, hf, hb, ha, hd⟩ := hq
  simp [decodeRaw, dec01, Raw.one, Raw.opsDAB, ck, hp.w, hp.major, hp.long, hp.lit, he, hb, ha, hd]
theorem or (o : OpsDAB) : Statement (.or o) := by
  intro hw _
  refine decode_1 (.A 3 o.b.val o.a.val o.d.val) (by decide) (by simp [Fields.fits]) hw fun r hp hq => ?_
  obtain ⟨he, hf, hb, ha, hd⟩ := hq
  simp [decodeRaw, dec01, Raw.one, Raw.opsDAB, ck, hp.w, hp.major, hp.long, hp.lit, he, hb, ha, hd]
theorem xor (o : OpsDAB) : Statement (.xor o) := by
  intro hw _
  refine decode_1 (.A 4 o.b.val o.a.val o.d.val) (by decide) (by simp [Fields.fits]) hw fun r hp hq => ?_
  obtain ⟨he, hf, hb, ha, hd⟩ := hq
  simp [decodeRaw, dec01, Raw.one, Raw.opsDAB, ck, hp.w, hp.major, hp.long, hp.lit, he, hb, ha, hd]
theorem andn (o : OpsDAB) : Statement (.andn o) := by
  intro hw _
  refine decode_1 (.A 5 o.b.val o.a.val o.d.val) (by decide) (by simp [Fields.fits]) hw fun r hp hq => ?_
  obtain ⟨he, hf, hb, ha, hd⟩ := hq
  simp [decodeRaw, dec01, Raw.one, Raw.opsDAB, ck, hp.w, hp.major, hp.long, hp.lit, he, hb, ha, hd]
theorem sll (o : OpsDAB) : Statement (.sll o) := by
  intro hw _
  refine decode_1 (.A 6 o.b.val o.a.val o.d.val) (by decide) (by simp [Fields.fits]) hw fun r hp hq => ?_
  obtain ⟨he, hf, hb, ha, hd⟩ := hq
  simp [decodeRaw, dec01, Raw.one, Raw.opsDAB, ck, hp.w, hp.major, hp.long, hp.lit, he, hb, ha, hd]
theorem srl (o : OpsDAB) : Statement (.srl o) := by
  intro hw _
  refine decode_1 (.A 7 o.b.val o.a.val o.d.val) (by decide) (by simp [Fields.fits]) hw fun r hp hq => ?_
  obtain ⟨he, hf, hb, ha, hd⟩ := hq
  simp [decodeRaw, dec01, Raw.one, Raw.opsDAB, ck, hp.w, hp.major, hp.long, hp.lit, he, hb, ha, hd]
theorem sra (o : OpsDAB) : Statement (.sra o) := by
  intro hw _
  refine decode_1 (.A 8 o.b.val o.a.val o.d.val) (by decide) (by simp [Fields.fits]) hw fun r hp hq => ?_
  obtain ⟨he, hf, hb, ha, hd⟩ := hq
  simp [decodeRaw, dec01, Raw.one, Raw.opsDAB, ck, hp.w, hp.major, hp.long, hp.lit, he, hb, ha, hd]
theorem slt (o : OpsDAB) : Statement (.slt o) := by
  intro hw _
  refine decode_1 (.A 9 o.b.val o.a.val o.d.val) (by decide) (by simp [Fields.fits]) hw fun r hp hq => ?_
  obtain ⟨he, hf, hb, ha, hd⟩ := hq
  simp [decodeRaw, dec01, Raw.one, Raw.opsDAB, ck, hp.w, hp.major, hp.long, hp.lit, he, hb, ha, hd]
theorem sltu (o : OpsDAB) : Statement (.sltu o) := by
  intro hw _
  refine decode_1 (.A 10 o.b.val o.a.val o.d.val) (by decide) (by simp [Fields.fits]) hw fun r hp hq => ?_
  obtain ⟨he, hf, hb, ha, hd⟩ := hq
  simp [decodeRaw, dec01, Raw.one, Raw.opsDAB, ck, hp.w, hp.major, hp.long, hp.lit, he, hb, ha, hd]
theorem min (o : OpsDAB) : Statement (.min o) := by
  intro hw _
  refine decode_1 (.A 11 o.b.val o.a.val o.d.val) (by decide) (by simp [Fields.fits]) hw fun r hp hq => ?_
  obtain ⟨he, hf, hb, ha, hd⟩ := hq
  simp [decodeRaw, dec01, Raw.one, Raw.opsDAB, ck, hp.w, hp.major, hp.long, hp.lit, he, hb, ha, hd]
theorem max (o : OpsDAB) : Statement (.max o) := by
  intro hw _
  refine decode_1 (.A 12 o.b.val o.a.val o.d.val) (by decide) (by simp [Fields.fits]) hw fun r hp hq => ?_
  obtain ⟨he, hf, hb, ha, hd⟩ := hq
  simp [decodeRaw, dec01, Raw.one, Raw.opsDAB, ck, hp.w, hp.major, hp.long, hp.lit, he, hb, ha, hd]
theorem minu (o : OpsDAB) : Statement (.minu o) := by
  intro hw _
  refine decode_1 (.A 13 o.b.val o.a.val o.d.val) (by decide) (by simp [Fields.fits]) hw fun r hp hq => ?_
  obtain ⟨he, hf, hb, ha, hd⟩ := hq
  simp [decodeRaw, dec01, Raw.one, Raw.opsDAB, ck, hp.w, hp.major, hp.long, hp.lit, he, hb, ha, hd]
theorem maxu (o : OpsDAB) : Statement (.maxu o) := by
  intro hw _
  refine decode_1 (.A 14 o.b.val o.a.val o.d.val) (by decide) (by simp [Fields.fits]) hw fun r hp hq => ?_
  obtain ⟨he, hf, hb, ha, hd⟩ := hq
  simp [decodeRaw, dec01, Raw.one, Raw.opsDAB, ck, hp.w, hp.major, hp.long, hp.lit, he, hb, ha, hd]
theorem clz (o : OpsDA) : Statement (.clz o) := by
  intro hw _
  refine decode_1 (.A 15 0 o.a.val o.d.val) (by decide) (by simp [Fields.fits]) hw fun r hp hq => ?_
  obtain ⟨he, hf, hb, ha, hd⟩ := hq
  simp [decodeRaw, dec01, Raw.one, Raw.opsDA, Raw.zb, ck, hp.w, hp.major, hp.long, hp.lit, he, hb, ha, hd]
theorem ctz (o : OpsDA) : Statement (.ctz o) := by
  intro hw _
  refine decode_1 (.A 16 0 o.a.val o.d.val) (by decide) (by simp [Fields.fits]) hw fun r hp hq => ?_
  obtain ⟨he, hf, hb, ha, hd⟩ := hq
  simp [decodeRaw, dec01, Raw.one, Raw.opsDA, Raw.zb, ck, hp.w, hp.major, hp.long, hp.lit, he, hb, ha, hd]
theorem popc (o : OpsDA) : Statement (.popc o) := by
  intro hw _
  refine decode_1 (.A 17 0 o.a.val o.d.val) (by decide) (by simp [Fields.fits]) hw fun r hp hq => ?_
  obtain ⟨he, hf, hb, ha, hd⟩ := hq
  simp [decodeRaw, dec01, Raw.one, Raw.opsDA, Raw.zb, ck, hp.w, hp.major, hp.long, hp.lit, he, hb, ha, hd]
theorem sextW (o : OpsDA) : Statement (.sextW o) := by
  intro hw _
  refine decode_1 (.A 18 0 o.a.val o.d.val) (by decide) (by simp [Fields.fits]) hw fun r hp hq => ?_
  obtain ⟨he, hf, hb, ha, hd⟩ := hq
  simp [decodeRaw, dec01, Raw.one, Raw.opsDA, Raw.zb, ck, hp.w, hp.major, hp.long, hp.lit, he, hb, ha, hd]
theorem zextW (o : OpsDA) : Statement (.zextW o) := by
  intro hw _
  refine decode_1 (.A 19 0 o.a.val o.d.val) (by decide) (by simp [Fields.fits]) hw fun r hp hq => ?_
  obtain ⟨he, hf, hb, ha, hd⟩ := hq
  simp [decodeRaw, dec01, Raw.one, Raw.opsDA, Raw.zb, ck, hp.w, hp.major, hp.long, hp.lit, he, hb, ha, hd]
theorem bext (o : OpsDAB) : Statement (.bext o) := by
  intro hw _
  refine decode_1 (.A 20 o.b.val o.a.val o.d.val) (by decide) (by simp [Fields.fits]) hw fun r hp hq => ?_
  obtain ⟨he, hf, hb, ha, hd⟩ := hq
  simp [decodeRaw, dec01, Raw.one, Raw.opsDAB, ck, hp.w, hp.major, hp.long, hp.lit, he, hb, ha, hd]
theorem addi (o : OpsI) : Statement (.addi o) := by
  intro hw _
  obtain ⟨w, d, a, v | v⟩ := o
  · refine decode_1 (.I v.toNat a.val d.val) (by decide) (by simp [Fields.fits, bv13_lt]) hw fun r hp hq => ?_
    obtain ⟨he, ha, hd⟩ := hq
    simp [decodeRaw, decI, Raw.imm, ck, hp.w, hp.major, hp.long, hp.lit, he, ha, hd]
  · refine decode_L (.I 0 a.val d.val) (by decide) (by simp [Fields.fits]) hw fun r hp hq => ?_
    obtain ⟨he, ha, hd⟩ := hq
    simp [decodeRaw, decI, Raw.imm, ck, hp.w, hp.major, hp.long, hp.lit, he, ha, hd]
theorem andi (o : OpsI) : Statement (.andi o) := by
  intro hw _
  obtain ⟨w, d, a, v | v⟩ := o
  · refine decode_1 (.I v.toNat a.val d.val) (by decide) (by simp [Fields.fits, bv13_lt]) hw fun r hp hq => ?_
    obtain ⟨he, ha, hd⟩ := hq
    simp [decodeRaw, decI, Raw.imm, ck, hp.w, hp.major, hp.long, hp.lit, he, ha, hd]
  · refine decode_L (.I 0 a.val d.val) (by decide) (by simp [Fields.fits]) hw fun r hp hq => ?_
    obtain ⟨he, ha, hd⟩ := hq
    simp [decodeRaw, decI, Raw.imm, ck, hp.w, hp.major, hp.long, hp.lit, he, ha, hd]
theorem ori (o : OpsI) : Statement (.ori o) := by
  intro hw _
  obtain ⟨w, d, a, v | v⟩ := o
  · refine decode_1 (.I v.toNat a.val d.val) (by decide) (by simp [Fields.fits, bv13_lt]) hw fun r hp hq => ?_
    obtain ⟨he, ha, hd⟩ := hq
    simp [decodeRaw, decI, Raw.imm, ck, hp.w, hp.major, hp.long, hp.lit, he, ha, hd]
  · refine decode_L (.I 0 a.val d.val) (by decide) (by simp [Fields.fits]) hw fun r hp hq => ?_
    obtain ⟨he, ha, hd⟩ := hq
    simp [decodeRaw, decI, Raw.imm, ck, hp.w, hp.major, hp.long, hp.lit, he, ha, hd]
theorem xori (o : OpsI) : Statement (.xori o) := by
  intro hw _
  obtain ⟨w, d, a, v | v⟩ := o
  · refine decode_1 (.I v.toNat a.val d.val) (by decide) (by simp [Fields.fits, bv13_lt]) hw fun r hp hq => ?_
    obtain ⟨he, ha, hd⟩ := hq
    simp [decodeRaw, decI, Raw.imm, ck, hp.w, hp.major, hp.long, hp.lit, he, ha, hd]
  · refine decode_L (.I 0 a.val d.val) (by decide) (by simp [Fields.fits]) hw fun r hp hq => ?_
    obtain ⟨he, ha, hd⟩ := hq
    simp [decodeRaw, decI, Raw.imm, ck, hp.w, hp.major, hp.long, hp.lit, he, ha, hd]
theorem slti (o : OpsI) : Statement (.slti o) := by
  intro hw _
  obtain ⟨w, d, a, v | v⟩ := o
  · refine decode_1 (.I v.toNat a.val d.val) (by decide) (by simp [Fields.fits, bv13_lt]) hw fun r hp hq => ?_
    obtain ⟨he, ha, hd⟩ := hq
    simp [decodeRaw, decI, Raw.imm, ck, hp.w, hp.major, hp.long, hp.lit, he, ha, hd]
  · refine decode_L (.I 0 a.val d.val) (by decide) (by simp [Fields.fits]) hw fun r hp hq => ?_
    obtain ⟨he, ha, hd⟩ := hq
    simp [decodeRaw, decI, Raw.imm, ck, hp.w, hp.major, hp.long, hp.lit, he, ha, hd]
theorem sltiu (o : OpsI) : Statement (.sltiu o) := by
  intro hw _
  obtain ⟨w, d, a, v | v⟩ := o
  · refine decode_1 (.I v.toNat a.val d.val) (by decide) (by simp [Fields.fits, bv13_lt]) hw fun r hp hq => ?_
    obtain ⟨he, ha, hd⟩ := hq
    simp [decodeRaw, decI, Raw.imm, ck, hp.w, hp.major, hp.long, hp.lit, he, ha, hd]
  · refine decode_L (.I 0 a.val d.val) (by decide) (by simp [Fields.fits]) hw fun r hp hq => ?_
    obtain ⟨he, ha, hd⟩ := hq
    simp [decodeRaw, decI, Raw.imm, ck, hp.w, hp.major, hp.long, hp.lit, he, ha, hd]
theorem slli (o : OpsShift) : Statement (.slli o) := by
  intro hw _
  have hf0 := shift0_fields o.sh
  refine decode_1 (.I (o.sh.toNat) o.a.val o.d.val) (by decide) (by simp [Fields.fits, hf0]) hw fun r hp hq => ?_
  obtain ⟨he, ha, hd⟩ := hq
  simp [decodeRaw, dec08, Raw.one, ck, hp.w, hp.major, hp.long, hp.lit, he, ha, hd, hf0]
theorem srli (o : OpsShift) : Statement (.srli o) := by
  intro hw _
  have hf0 := shift1_fields o.sh
  refine decode_1 (.I (o.sh.toNat + 64) o.a.val o.d.val) (by decide) (by simp [Fields.fits, hf0]) hw fun r hp hq => ?_
  obtain ⟨he, ha, hd⟩ := hq
  simp [decodeRaw, dec08, Raw.one, ck, hp.w, hp.major, hp.long, hp.lit, he, ha, hd, hf0]
theorem srai (o : OpsShift) : Statement (.srai o) := by
  intro hw _
  have hf0 := shift2_fields o.sh
  refine decode_1 (.I (o.sh.toNat + 128) o.a.val o.d.val) (by decide) (by simp [Fields.fits, hf0]) hw fun r hp hq => ?_
  obtain ⟨he, ha, hd⟩ := hq
  simp [decodeRaw, dec08, Raw.one, ck, hp.w, hp.major, hp.long, hp.lit, he, ha, hd, hf0]
theorem lih (o : OpsU) : Statement (.lih o) := by
  intro hw _
  refine decode_1 (.U o.imm.toNat o.d.val) (by decide) (by simp [Fields.fits, bv18_lt]) hw fun r hp hq => ?_
  obtain ⟨he, hd⟩ := hq
  simp [decodeRaw, dec09, Raw.one, ck, hp.w, hp.major, hp.long, hp.lit, he, hd]
theorem mul (o : OpsDAB) : Statement (.mul o) := by
  intro hw _
  refine decode_1 (.A 0 o.b.val o.a.val o.d.val) (by decide) (by simp [Fields.fits]) hw fun r hp hq => ?_
  obtain ⟨he, hf, hb, ha, hd⟩ := hq
  simp [decodeRaw, dec0A, Raw.one, Raw.opsDAB, ck, hp.w, hp.major, hp.long, hp.lit, he, hb, ha, hd]
theorem mulh (o : OpsDAB) : Statement (.mulh o) := by
  intro hw _
  refine decode_1 (.A 1 o.b.val o.a.val o.d.val) (by decide) (by simp [Fields.fits]) hw fun r hp hq => ?_
  obtain ⟨he, hf, hb, ha, hd⟩ := hq
  simp [decodeRaw, dec0A, Raw.one, Raw.opsDAB, ck, hp.w, hp.major, hp.long, hp.lit, he, hb, ha, hd]
theorem mulhu (o : OpsDAB) : Statement (.mulhu o) := by
  intro hw _
  refine decode_1 (.A 2 o.b.val o.a.val o.d.val) (by decide) (by simp [Fields.fits]) hw fun r hp hq => ?_
  obtain ⟨he, hf, hb, ha, hd⟩ := hq
  simp [decodeRaw, dec0A, Raw.one, Raw.opsDAB, ck, hp.w, hp.major, hp.long, hp.lit, he, hb, ha, hd]
theorem mulhsu (o : OpsDAB) : Statement (.mulhsu o) := by
  intro hw _
  refine decode_1 (.A 3 o.b.val o.a.val o.d.val) (by decide) (by simp [Fields.fits]) hw fun r hp hq => ?_
  obtain ⟨he, hf, hb, ha, hd⟩ := hq
  simp [decodeRaw, dec0A, Raw.one, Raw.opsDAB, ck, hp.w, hp.major, hp.long, hp.lit, he, hb, ha, hd]
theorem div (o : OpsDAB) : Statement (.div o) := by
  intro hw _
  refine decode_1 (.A 4 o.b.val o.a.val o.d.val) (by decide) (by simp [Fields.fits]) hw fun r hp hq => ?_
  obtain ⟨he, hf, hb, ha, hd⟩ := hq
  simp [decodeRaw, dec0A, Raw.one, Raw.opsDAB, ck, hp.w, hp.major, hp.long, hp.lit, he, hb, ha, hd]
theorem divu (o : OpsDAB) : Statement (.divu o) := by
  intro hw _
  refine decode_1 (.A 5 o.b.val o.a.val o.d.val) (by decide) (by simp [Fields.fits]) hw fun r hp hq => ?_
  obtain ⟨he, hf, hb, ha, hd⟩ := hq
  simp [decodeRaw, dec0A, Raw.one, Raw.opsDAB, ck, hp.w, hp.major, hp.long, hp.lit, he, hb, ha, hd]
theorem rem (o : OpsDAB) : Statement (.rem o) := by
  intro hw _
  refine decode_1 (.A 6 o.b.val o.a.val o.d.val) (by decide) (by simp [Fields.fits]) hw fun r hp hq => ?_
  obtain ⟨he, hf, hb, ha, hd⟩ := hq
  simp [decodeRaw, dec0A, Raw.one, Raw.opsDAB, ck, hp.w, hp.major, hp.long, hp.lit, he, hb, ha, hd]
theorem remu (o : OpsDAB) : Statement (.remu o) := by
  intro hw _
  refine decode_1 (.A 7 o.b.val o.a.val o.d.val) (by decide) (by simp [Fields.fits]) hw fun r hp hq => ?_
  obtain ⟨he, hf, hb, ha, hd⟩ := hq
  simp [decodeRaw, dec0A, Raw.one, Raw.opsDAB, ck, hp.w, hp.major, hp.long, hp.lit, he, hb, ha, hd]
theorem beq (o : OpsB) : Statement (.beq o) := by
  intro hw _
  refine decode_1 (.B o.off.toNat o.b.val o.a.val 0) (by decide) (by simp [Fields.fits, bv10_lt]) hw fun r hp hq => ?_
  obtain ⟨he, hb, ha, hc⟩ := hq
  simp [decodeRaw, dec0B, Raw.one, ck, hp.w, hp.major, hp.long, hp.lit, he, hb, ha, hc]
theorem bne (o : OpsB) : Statement (.bne o) := by
  intro hw _
  refine decode_1 (.B o.off.toNat o.b.val o.a.val 1) (by decide) (by simp [Fields.fits, bv10_lt]) hw fun r hp hq => ?_
  obtain ⟨he, hb, ha, hc⟩ := hq
  simp [decodeRaw, dec0B, Raw.one, ck, hp.w, hp.major, hp.long, hp.lit, he, hb, ha, hc]
theorem blt (o : OpsB) : Statement (.blt o) := by
  intro hw _
  refine decode_1 (.B o.off.toNat o.b.val o.a.val 2) (by decide) (by simp [Fields.fits, bv10_lt]) hw fun r hp hq => ?_
  obtain ⟨he, hb, ha, hc⟩ := hq
  simp [decodeRaw, dec0B, Raw.one, ck, hp.w, hp.major, hp.long, hp.lit, he, hb, ha, hc]
theorem bge (o : OpsB) : Statement (.bge o) := by
  intro hw _
  refine decode_1 (.B o.off.toNat o.b.val o.a.val 3) (by decide) (by simp [Fields.fits, bv10_lt]) hw fun r hp hq => ?_
  obtain ⟨he, hb, ha, hc⟩ := hq
  simp [decodeRaw, dec0B, Raw.one, ck, hp.w, hp.major, hp.long, hp.lit, he, hb, ha, hc]
theorem bltu (o : OpsB) : Statement (.bltu o) := by
  intro hw _
  refine decode_1 (.B o.off.toNat o.b.val o.a.val 4) (by decide) (by simp [Fields.fits, bv10_lt]) hw fun r hp hq => ?_
  obtain ⟨he, hb, ha, hc⟩ := hq
  simp [decodeRaw, dec0B, Raw.one, ck, hp.w, hp.major, hp.long, hp.lit, he, hb, ha, hc]
theorem bgeu (o : OpsB) : Statement (.bgeu o) := by
  intro hw _
  refine decode_1 (.B o.off.toNat o.b.val o.a.val 5) (by decide) (by simp [Fields.fits, bv10_lt]) hw fun r hp hq => ?_
  obtain ⟨he, hb, ha, hc⟩ := hq
  simp [decodeRaw, dec0B, Raw.one, ck, hp.w, hp.major, hp.long, hp.lit, he, hb, ha, hc]
theorem bbs (o : OpsB) : Statement (.bbs o) := by
  intro hw _
  refine decode_1 (.B o.off.toNat o.b.val o.a.val 6) (by decide) (by simp [Fields.fits, bv10_lt]) hw fun r hp hq => ?_
  obtain ⟨he, hb, ha, hc⟩ := hq
  simp [decodeRaw, dec0B, Raw.one, ck, hp.w, hp.major, hp.long, hp.lit, he, hb, ha, hc]
theorem bbc (o : OpsB) : Statement (.bbc o) := by
  intro hw _
  refine decode_1 (.B o.off.toNat o.b.val o.a.val 7) (by decide) (by simp [Fields.fits, bv10_lt]) hw fun r hp hq => ?_
  obtain ⟨he, hb, ha, hc⟩ := hq
  simp [decodeRaw, dec0B, Raw.one, ck, hp.w, hp.major, hp.long, hp.lit, he, hb, ha, hc]
theorem jal (o : OpsJ) : Statement (.jal o) := by
  intro hw _
  refine decode_1 (.U o.off.toNat o.d.val) (by decide) (by simp [Fields.fits, bv18_lt]) hw fun r hp hq => ?_
  obtain ⟨he, hd⟩ := hq
  simp [decodeRaw, dec0C, Raw.one, ck, hp.w, hp.major, hp.long, hp.lit, he, hd]
theorem jalr (o : OpsI) : Statement (.jalr o) := by
  intro hw _
  obtain ⟨w, d, a, v | v⟩ := o
  · refine decode_1 (.I v.toNat a.val d.val) (by decide) (by simp [Fields.fits, bv13_lt]) hw fun r hp hq => ?_
    obtain ⟨he, ha, hd⟩ := hq
    simp [decodeRaw, decI, Raw.imm, ck, hp.w, hp.major, hp.long, hp.lit, he, ha, hd]
  · refine decode_L (.I 0 a.val d.val) (by decide) (by simp [Fields.fits]) hw fun r hp hq => ?_
    obtain ⟨he, ha, hd⟩ := hq
    simp [decodeRaw, decI, Raw.imm, ck, hp.w, hp.major, hp.long, hp.lit, he, ha, hd]
theorem loop (o : OpsLoop) : Statement (.loop o) := by
  intro hw _
  obtain ⟨h1, h2, h3, h4⟩ := loop_fields o.a o.dist
  refine decode_of (r := ⟨word0 0 o.w 0x0E (o.a.val + 1024 * o.dist.toNat), false, none, 0, 0⟩) ?_ ?_ hw
  · simp [encode, enc1, splitWords, word0_len]
  · rw [decodeRaw, Raw.major, word0_major (by decide) (by decide)]
    simp [dec0E, Raw.one, ck, word0_loop, Raw.d, Raw.w, word0_mark, word0_field, Raw.imm13, h1, h2, h3, h4]
theorem loopi (o : OpsLoopi) : Statement (.loopi o) := by
  intro hw _
  obtain ⟨h1, h2, h3⟩ := loopi_fields o.cnt o.dist
  refine decode_of (r := ⟨word0 0 o.w 0x0E (o.cnt.toNat + 512 + 1024 * o.dist.toNat), false, none, 0, 0⟩) ?_ ?_ hw
  · simp [encode, enc1, splitWords, word0_len]
  · rw [decodeRaw, Raw.major, word0_major (by decide) (by decide)]
    simp [dec0E, Raw.one, ck, word0_loop, Raw.w, word0_mark, word0_field, Raw.imm13, h1, h2, h3]
theorem fadd (o : OpsF2R) : Statement (.fadd o) := by
  intro hw _
  obtain ⟨w, _ | _, d, a, b, _ | e⟩ := o
  · refine decode_1 (.A 0 b.val a.val d.val) (by decide) (by simp [Fields.fits]) hw fun r hp hq => ?_
    obtain ⟨he, hf, hb, ha, hd⟩ := hq
    simp [decodeRaw, dec0F, Raw.noLit, Raw.onlyRm, Raw.extRm, ck, ckSome, hp.w, hp.major, hp.long, hp.lit, hp.w1, hp.w2, he, hb, ha, hd, w1less_of_zero, rm_of_zero, rmOf_zero, ffmtOf]
  · refine decode_3 (.A 0 b.val a.val d.val) (by decide) (by simp [Fields.fits]) hw fun r hp hq => ?_
    obtain ⟨he, hf, hb, ha, hd⟩ := hq
    obtain ⟨k1, k2, k3, k4, k5, k6, k7, k8⟩ := word1_read hp.w1 (by simp) (by simp [rmNum_lt]) (by simp) (by simp) (by simp) (by simp)
    have k9 : r.w1less false true false false false false false = 0 := by
      refine w1less_word1 hp.w1 ?_ ?_ ?_ ?_ ?_ ?_ ?_ ?_ ?_ ?_ ?_ ?_ ?_ <;> simp [rmNum_lt]
    simp [decodeRaw, dec0F, Raw.noLit, Raw.onlyRm, Raw.extRm, ck, ckSome, hp.w, hp.major, hp.long, hp.lit, hp.w2, he, hb, ha, hd, k2, k9, rmOf_rmNum, ffmtOf]
  · refine decode_1 (.A 32 b.val a.val d.val) (by decide) (by simp [Fields.fits]) hw fun r hp hq => ?_
    obtain ⟨he, hf, hb, ha, hd⟩ := hq
    simp [decodeRaw, dec0F, Raw.noLit, Raw.onlyRm, Raw.extRm, ck, ckSome, hp.w, hp.major, hp.long, hp.lit, hp.w1, hp.w2, he, hb, ha, hd, w1less_of_zero, rm_of_zero, rmOf_zero, ffmtOf]
  · refine decode_3 (.A 32 b.val a.val d.val) (by decide) (by simp [Fields.fits]) hw fun r hp hq => ?_
    obtain ⟨he, hf, hb, ha, hd⟩ := hq
    obtain ⟨k1, k2, k3, k4, k5, k6, k7, k8⟩ := word1_read hp.w1 (by simp) (by simp [rmNum_lt]) (by simp) (by simp) (by simp) (by simp)
    have k9 : r.w1less false true false false false false false = 0 := by
      refine w1less_word1 hp.w1 ?_ ?_ ?_ ?_ ?_ ?_ ?_ ?_ ?_ ?_ ?_ ?_ ?_ <;> simp [rmNum_lt]
    simp [decodeRaw, dec0F, Raw.noLit, Raw.onlyRm, Raw.extRm, ck, ckSome, hp.w, hp.major, hp.long, hp.lit, hp.w2, he, hb, ha, hd, k2, k9, rmOf_rmNum, ffmtOf]
theorem fsub (o : OpsF2R) : Statement (.fsub o) := by
  intro hw _
  obtain ⟨w, _ | _, d, a, b, _ | e⟩ := o
  · refine decode_1 (.A 1 b.val a.val d.val) (by decide) (by simp [Fields.fits]) hw fun r hp hq => ?_
    obtain ⟨he, hf, hb, ha, hd⟩ := hq
    simp [decodeRaw, dec0F, Raw.noLit, Raw.onlyRm, Raw.extRm, ck, ckSome, hp.w, hp.major, hp.long, hp.lit, hp.w1, hp.w2, he, hb, ha, hd, w1less_of_zero, rm_of_zero, rmOf_zero, ffmtOf]
  · refine decode_3 (.A 1 b.val a.val d.val) (by decide) (by simp [Fields.fits]) hw fun r hp hq => ?_
    obtain ⟨he, hf, hb, ha, hd⟩ := hq
    obtain ⟨k1, k2, k3, k4, k5, k6, k7, k8⟩ := word1_read hp.w1 (by simp) (by simp [rmNum_lt]) (by simp) (by simp) (by simp) (by simp)
    have k9 : r.w1less false true false false false false false = 0 := by
      refine w1less_word1 hp.w1 ?_ ?_ ?_ ?_ ?_ ?_ ?_ ?_ ?_ ?_ ?_ ?_ ?_ <;> simp [rmNum_lt]
    simp [decodeRaw, dec0F, Raw.noLit, Raw.onlyRm, Raw.extRm, ck, ckSome, hp.w, hp.major, hp.long, hp.lit, hp.w2, he, hb, ha, hd, k2, k9, rmOf_rmNum, ffmtOf]
  · refine decode_1 (.A 33 b.val a.val d.val) (by decide) (by simp [Fields.fits]) hw fun r hp hq => ?_
    obtain ⟨he, hf, hb, ha, hd⟩ := hq
    simp [decodeRaw, dec0F, Raw.noLit, Raw.onlyRm, Raw.extRm, ck, ckSome, hp.w, hp.major, hp.long, hp.lit, hp.w1, hp.w2, he, hb, ha, hd, w1less_of_zero, rm_of_zero, rmOf_zero, ffmtOf]
  · refine decode_3 (.A 33 b.val a.val d.val) (by decide) (by simp [Fields.fits]) hw fun r hp hq => ?_
    obtain ⟨he, hf, hb, ha, hd⟩ := hq
    obtain ⟨k1, k2, k3, k4, k5, k6, k7, k8⟩ := word1_read hp.w1 (by simp) (by simp [rmNum_lt]) (by simp) (by simp) (by simp) (by simp)
    have k9 : r.w1less false true false false false false false = 0 := by
      refine w1less_word1 hp.w1 ?_ ?_ ?_ ?_ ?_ ?_ ?_ ?_ ?_ ?_ ?_ ?_ ?_ <;> simp [rmNum_lt]
    simp [decodeRaw, dec0F, Raw.noLit, Raw.onlyRm, Raw.extRm, ck, ckSome, hp.w, hp.major, hp.long, hp.lit, hp.w2, he, hb, ha, hd, k2, k9, rmOf_rmNum, ffmtOf]
theorem fmul (o : OpsF2R) : Statement (.fmul o) := by
  intro hw _
  obtain ⟨w, _ | _, d, a, b, _ | e⟩ := o
  · refine decode_1 (.A 2 b.val a.val d.val) (by decide) (by simp [Fields.fits]) hw fun r hp hq => ?_
    obtain ⟨he, hf, hb, ha, hd⟩ := hq
    simp [decodeRaw, dec0F, Raw.noLit, Raw.onlyRm, Raw.extRm, ck, ckSome, hp.w, hp.major, hp.long, hp.lit, hp.w1, hp.w2, he, hb, ha, hd, w1less_of_zero, rm_of_zero, rmOf_zero, ffmtOf]
  · refine decode_3 (.A 2 b.val a.val d.val) (by decide) (by simp [Fields.fits]) hw fun r hp hq => ?_
    obtain ⟨he, hf, hb, ha, hd⟩ := hq
    obtain ⟨k1, k2, k3, k4, k5, k6, k7, k8⟩ := word1_read hp.w1 (by simp) (by simp [rmNum_lt]) (by simp) (by simp) (by simp) (by simp)
    have k9 : r.w1less false true false false false false false = 0 := by
      refine w1less_word1 hp.w1 ?_ ?_ ?_ ?_ ?_ ?_ ?_ ?_ ?_ ?_ ?_ ?_ ?_ <;> simp [rmNum_lt]
    simp [decodeRaw, dec0F, Raw.noLit, Raw.onlyRm, Raw.extRm, ck, ckSome, hp.w, hp.major, hp.long, hp.lit, hp.w2, he, hb, ha, hd, k2, k9, rmOf_rmNum, ffmtOf]
  · refine decode_1 (.A 34 b.val a.val d.val) (by decide) (by simp [Fields.fits]) hw fun r hp hq => ?_
    obtain ⟨he, hf, hb, ha, hd⟩ := hq
    simp [decodeRaw, dec0F, Raw.noLit, Raw.onlyRm, Raw.extRm, ck, ckSome, hp.w, hp.major, hp.long, hp.lit, hp.w1, hp.w2, he, hb, ha, hd, w1less_of_zero, rm_of_zero, rmOf_zero, ffmtOf]
  · refine decode_3 (.A 34 b.val a.val d.val) (by decide) (by simp [Fields.fits]) hw fun r hp hq => ?_
    obtain ⟨he, hf, hb, ha, hd⟩ := hq
    obtain ⟨k1, k2, k3, k4, k5, k6, k7, k8⟩ := word1_read hp.w1 (by simp) (by simp [rmNum_lt]) (by simp) (by simp) (by simp) (by simp)
    have k9 : r.w1less false true false false false false false = 0 := by
      refine w1less_word1 hp.w1 ?_ ?_ ?_ ?_ ?_ ?_ ?_ ?_ ?_ ?_ ?_ ?_ ?_ <;> simp [rmNum_lt]
    simp [decodeRaw, dec0F, Raw.noLit, Raw.onlyRm, Raw.extRm, ck, ckSome, hp.w, hp.major, hp.long, hp.lit, hp.w2, he, hb, ha, hd, k2, k9, rmOf_rmNum, ffmtOf]
theorem fdiv (o : OpsF2R) : Statement (.fdiv o) := by
  intro hw _
  obtain ⟨w, _ | _, d, a, b, _ | e⟩ := o
  · refine decode_1 (.A 3 b.val a.val d.val) (by decide) (by simp [Fields.fits]) hw fun r hp hq => ?_
    obtain ⟨he, hf, hb, ha, hd⟩ := hq
    simp [decodeRaw, dec0F, Raw.noLit, Raw.onlyRm, Raw.extRm, ck, ckSome, hp.w, hp.major, hp.long, hp.lit, hp.w1, hp.w2, he, hb, ha, hd, w1less_of_zero, rm_of_zero, rmOf_zero, ffmtOf]
  · refine decode_3 (.A 3 b.val a.val d.val) (by decide) (by simp [Fields.fits]) hw fun r hp hq => ?_
    obtain ⟨he, hf, hb, ha, hd⟩ := hq
    obtain ⟨k1, k2, k3, k4, k5, k6, k7, k8⟩ := word1_read hp.w1 (by simp) (by simp [rmNum_lt]) (by simp) (by simp) (by simp) (by simp)
    have k9 : r.w1less false true false false false false false = 0 := by
      refine w1less_word1 hp.w1 ?_ ?_ ?_ ?_ ?_ ?_ ?_ ?_ ?_ ?_ ?_ ?_ ?_ <;> simp [rmNum_lt]
    simp [decodeRaw, dec0F, Raw.noLit, Raw.onlyRm, Raw.extRm, ck, ckSome, hp.w, hp.major, hp.long, hp.lit, hp.w2, he, hb, ha, hd, k2, k9, rmOf_rmNum, ffmtOf]
  · refine decode_1 (.A 35 b.val a.val d.val) (by decide) (by simp [Fields.fits]) hw fun r hp hq => ?_
    obtain ⟨he, hf, hb, ha, hd⟩ := hq
    simp [decodeRaw, dec0F, Raw.noLit, Raw.onlyRm, Raw.extRm, ck, ckSome, hp.w, hp.major, hp.long, hp.lit, hp.w1, hp.w2, he, hb, ha, hd, w1less_of_zero, rm_of_zero, rmOf_zero, ffmtOf]
  · refine decode_3 (.A 35 b.val a.val d.val) (by decide) (by simp [Fields.fits]) hw fun r hp hq => ?_
    obtain ⟨he, hf, hb, ha, hd⟩ := hq
    obtain ⟨k1, k2, k3, k4, k5, k6, k7, k8⟩ := word1_read hp.w1 (by simp) (by simp [rmNum_lt]) (by simp) (by simp) (by simp) (by simp)
    have k9 : r.w1less false true false false false false false = 0 := by
      refine w1less_word1 hp.w1 ?_ ?_ ?_ ?_ ?_ ?_ ?_ ?_ ?_ ?_ ?_ ?_ ?_ <;> simp [rmNum_lt]
    simp [decodeRaw, dec0F, Raw.noLit, Raw.onlyRm, Raw.extRm, ck, ckSome, hp.w, hp.major, hp.long, hp.lit, hp.w2, he, hb, ha, hd, k2, k9, rmOf_rmNum, ffmtOf]
theorem fsqrt (o : OpsF1R) : Statement (.fsqrt o) := by
  intro hw _
  obtain ⟨w, _ | _, d, a, _ | e⟩ := o
  · refine decode_1 (.A 4 0 a.val d.val) (by decide) (by simp [Fields.fits]) hw fun r hp hq => ?_
    obtain ⟨he, hf, hb, ha, hd⟩ := hq
    simp [decodeRaw, dec0F, Raw.noLit, Raw.onlyRm, Raw.extRm, Raw.zb, ck, ckSome, hp.w, hp.major, hp.long, hp.lit, hp.w1, hp.w2, he, hb, ha, hd, w1less_of_zero, rm_of_zero, rmOf_zero, ffmtOf]
  · refine decode_3 (.A 4 0 a.val d.val) (by decide) (by simp [Fields.fits]) hw fun r hp hq => ?_
    obtain ⟨he, hf, hb, ha, hd⟩ := hq
    obtain ⟨k1, k2, k3, k4, k5, k6, k7, k8⟩ := word1_read hp.w1 (by simp) (by simp [rmNum_lt]) (by simp) (by simp) (by simp) (by simp)
    have k9 : r.w1less false true false false false false false = 0 := by
      refine w1less_word1 hp.w1 ?_ ?_ ?_ ?_ ?_ ?_ ?_ ?_ ?_ ?_ ?_ ?_ ?_ <;> simp [rmNum_lt]
    simp [decodeRaw, dec0F, Raw.noLit, Raw.onlyRm, Raw.extRm, Raw.zb, ck, ckSome, hp.w, hp.major, hp.long, hp.lit, hp.w2, he, hb, ha, hd, k2, k9, rmOf_rmNum, ffmtOf]
  · refine decode_1 (.A 36 0 a.val d.val) (by decide) (by simp [Fields.fits]) hw fun r hp hq => ?_
    obtain ⟨he, hf, hb, ha, hd⟩ := hq
    simp [decodeRaw, dec0F, Raw.noLit, Raw.onlyRm, Raw.extRm, Raw.zb, ck, ckSome, hp.w, hp.major, hp.long, hp.lit, hp.w1, hp.w2, he, hb, ha, hd, w1less_of_zero, rm_of_zero, rmOf_zero, ffmtOf]
  · refine decode_3 (.A 36 0 a.val d.val) (by decide) (by simp [Fields.fits]) hw fun r hp hq => ?_
    obtain ⟨he, hf, hb, ha, hd⟩ := hq
    obtain ⟨k1, k2, k3, k4, k5, k6, k7, k8⟩ := word1_read hp.w1 (by simp) (by simp [rmNum_lt]) (by simp) (by simp) (by simp) (by simp)
    have k9 : r.w1less false true false false false false false = 0 := by
      refine w1less_word1 hp.w1 ?_ ?_ ?_ ?_ ?_ ?_ ?_ ?_ ?_ ?_ ?_ ?_ ?_ <;> simp [rmNum_lt]
    simp [decodeRaw, dec0F, Raw.noLit, Raw.onlyRm, Raw.extRm, Raw.zb, ck, ckSome, hp.w, hp.major, hp.long, hp.lit, hp.w2, he, hb, ha, hd, k2, k9, rmOf_rmNum, ffmtOf]
theorem fmin (o : OpsF2) : Statement (.fmin o) := by
  intro hw _
  obtain ⟨w, _ | _, d, a, b, _ | _⟩ := o
  · refine decode_1 (.A 5 b.val a.val d.val) (by decide) (by simp [Fields.fits]) hw fun r hp hq => ?_
    obtain ⟨he, hf, hb, ha, hd⟩ := hq
    simp [decodeRaw, dec0F, Raw.noLit, Raw.noExt, ck, ckSome, hp.w, hp.major, hp.long, hp.lit, hp.w1, hp.w2, he, hb, ha, hd, ffmtOf]
  · refine decode_3 (.A 5 b.val a.val d.val) (by decide) (by simp [Fields.fits]) hw fun r hp hq => ?_
    obtain ⟨he, hf, hb, ha, hd⟩ := hq
    simp [decodeRaw, dec0F, Raw.noLit, Raw.noExt, ck, ckSome, hp.w, hp.major, hp.long, hp.lit, hp.w1, hp.w2, he, hb, ha, hd, ffmtOf]
  · refine decode_1 (.A 37 b.val a.val d.val) (by decide) (by simp [Fields.fits]) hw fun r hp hq => ?_
    obtain ⟨he, hf, hb, ha, hd⟩ := hq
    simp [decodeRaw, dec0F, Raw.noLit, Raw.noExt, ck, ckSome, hp.w, hp.major, hp.long, hp.lit, hp.w1, hp.w2, he, hb, ha, hd, ffmtOf]
  · refine decode_3 (.A 37 b.val a.val d.val) (by decide) (by simp [Fields.fits]) hw fun r hp hq => ?_
    obtain ⟨he, hf, hb, ha, hd⟩ := hq
    simp [decodeRaw, dec0F, Raw.noLit, Raw.noExt, ck, ckSome, hp.w, hp.major, hp.long, hp.lit, hp.w1, hp.w2, he, hb, ha, hd, ffmtOf]
theorem fmax (o : OpsF2) : Statement (.fmax o) := by
  intro hw _
  obtain ⟨w, _ | _, d, a, b, _ | _⟩ := o
  · refine decode_1 (.A 6 b.val a.val d.val) (by decide) (by simp [Fields.fits]) hw fun r hp hq => ?_
    obtain ⟨he, hf, hb, ha, hd⟩ := hq
    simp [decodeRaw, dec0F, Raw.noLit, Raw.noExt, ck, ckSome, hp.w, hp.major, hp.long, hp.lit, hp.w1, hp.w2, he, hb, ha, hd, ffmtOf]
  · refine decode_3 (.A 6 b.val a.val d.val) (by decide) (by simp [Fields.fits]) hw fun r hp hq => ?_
    obtain ⟨he, hf, hb, ha, hd⟩ := hq
    simp [decodeRaw, dec0F, Raw.noLit, Raw.noExt, ck, ckSome, hp.w, hp.major, hp.long, hp.lit, hp.w1, hp.w2, he, hb, ha, hd, ffmtOf]
  · refine decode_1 (.A 38 b.val a.val d.val) (by decide) (by simp [Fields.fits]) hw fun r hp hq => ?_
    obtain ⟨he, hf, hb, ha, hd⟩ := hq
    simp [decodeRaw, dec0F, Raw.noLit, Raw.noExt, ck, ckSome, hp.w, hp.major, hp.long, hp.lit, hp.w1, hp.w2, he, hb, ha, hd, ffmtOf]
  · refine decode_3 (.A 38 b.val a.val d.val) (by decide) (by simp [Fields.fits]) hw fun r hp hq => ?_
    obtain ⟨he, hf, hb, ha, hd⟩ := hq
    simp [decodeRaw, dec0F, Raw.noLit, Raw.noExt, ck, ckSome, hp.w, hp.major, hp.long, hp.lit, hp.w1, hp.w2, he, hb, ha, hd, ffmtOf]
theorem feq (o : OpsF2) : Statement (.feq o) := by
  intro hw _
  obtain ⟨w, _ | _, d, a, b, _ | _⟩ := o
  · refine decode_1 (.A 7 b.val a.val d.val) (by decide) (by simp [Fields.fits]) hw fun r hp hq => ?_
    obtain ⟨he, hf, hb, ha, hd⟩ := hq
    simp [decodeRaw, dec0F, Raw.noLit, Raw.noExt, ck, ckSome, hp.w, hp.major, hp.long, hp.lit, hp.w1, hp.w2, he, hb, ha, hd, ffmtOf]
  · refine decode_3 (.A 7 b.val a.val d.val) (by decide) (by simp [Fields.fits]) hw fun r hp hq => ?_
    obtain ⟨he, hf, hb, ha, hd⟩ := hq
    simp [decodeRaw, dec0F, Raw.noLit, Raw.noExt, ck, ckSome, hp.w, hp.major, hp.long, hp.lit, hp.w1, hp.w2, he, hb, ha, hd, ffmtOf]
  · refine decode_1 (.A 39 b.val a.val d.val) (by decide) (by simp [Fields.fits]) hw fun r hp hq => ?_
    obtain ⟨he, hf, hb, ha, hd⟩ := hq
    simp [decodeRaw, dec0F, Raw.noLit, Raw.noExt, ck, ckSome, hp.w, hp.major, hp.long, hp.lit, hp.w1, hp.w2, he, hb, ha, hd, ffmtOf]
  · refine decode_3 (.A 39 b.val a.val d.val) (by decide) (by simp [Fields.fits]) hw fun r hp hq => ?_
    obtain ⟨he, hf, hb, ha, hd⟩ := hq
    simp [decodeRaw, dec0F, Raw.noLit, Raw.noExt, ck, ckSome, hp.w, hp.major, hp.long, hp.lit, hp.w1, hp.w2, he, hb, ha, hd, ffmtOf]
theorem flt (o : OpsF2) : Statement (.flt o) := by
  intro hw _
  obtain ⟨w, _ | _, d, a, b, _ | _⟩ := o
  · refine decode_1 (.A 8 b.val a.val d.val) (by decide) (by simp [Fields.fits]) hw fun r hp hq => ?_
    obtain ⟨he, hf, hb, ha, hd⟩ := hq
    simp [decodeRaw, dec0F, Raw.noLit, Raw.noExt, ck, ckSome, hp.w, hp.major, hp.long, hp.lit, hp.w1, hp.w2, he, hb, ha, hd, ffmtOf]
  · refine decode_3 (.A 8 b.val a.val d.val) (by decide) (by simp [Fields.fits]) hw fun r hp hq => ?_
    obtain ⟨he, hf, hb, ha, hd⟩ := hq
    simp [decodeRaw, dec0F, Raw.noLit, Raw.noExt, ck, ckSome, hp.w, hp.major, hp.long, hp.lit, hp.w1, hp.w2, he, hb, ha, hd, ffmtOf]
  · refine decode_1 (.A 40 b.val a.val d.val) (by decide) (by simp [Fields.fits]) hw fun r hp hq => ?_
    obtain ⟨he, hf, hb, ha, hd⟩ := hq
    simp [decodeRaw, dec0F, Raw.noLit, Raw.noExt, ck, ckSome, hp.w, hp.major, hp.long, hp.lit, hp.w1, hp.w2, he, hb, ha, hd, ffmtOf]
  · refine decode_3 (.A 40 b.val a.val d.val) (by decide) (by simp [Fields.fits]) hw fun r hp hq => ?_
    obtain ⟨he, hf, hb, ha, hd⟩ := hq
    simp [decodeRaw, dec0F, Raw.noLit, Raw.noExt, ck, ckSome, hp.w, hp.major, hp.long, hp.lit, hp.w1, hp.w2, he, hb, ha, hd, ffmtOf]
theorem fle (o : OpsF2) : Statement (.fle o) := by
  intro hw _
  obtain ⟨w, _ | _, d, a, b, _ | _⟩ := o
  · refine decode_1 (.A 9 b.val a.val d.val) (by decide) (by simp [Fields.fits]) hw fun r hp hq => ?_
    obtain ⟨he, hf, hb, ha, hd⟩ := hq
    simp [decodeRaw, dec0F, Raw.noLit, Raw.noExt, ck, ckSome, hp.w, hp.major, hp.long, hp.lit, hp.w1, hp.w2, he, hb, ha, hd, ffmtOf]
  · refine decode_3 (.A 9 b.val a.val d.val) (by decide) (by simp [Fields.fits]) hw fun r hp hq => ?_
    obtain ⟨he, hf, hb, ha, hd⟩ := hq
    simp [decodeRaw, dec0F, Raw.noLit, Raw.noExt, ck, ckSome, hp.w, hp.major, hp.long, hp.lit, hp.w1, hp.w2, he, hb, ha, hd, ffmtOf]
  · refine decode_1 (.A 41 b.val a.val d.val) (by decide) (by simp [Fields.fits]) hw fun r hp hq => ?_
    obtain ⟨he, hf, hb, ha, hd⟩ := hq
    simp [decodeRaw, dec0F, Raw.noLit, Raw.noExt, ck, ckSome, hp.w, hp.major, hp.long, hp.lit, hp.w1, hp.w2, he, hb, ha, hd, ffmtOf]
  · refine decode_3 (.A 41 b.val a.val d.val) (by decide) (by simp [Fields.fits]) hw fun r hp hq => ?_
    obtain ⟨he, hf, hb, ha, hd⟩ := hq
    simp [decodeRaw, dec0F, Raw.noLit, Raw.noExt, ck, ckSome, hp.w, hp.major, hp.long, hp.lit, hp.w1, hp.w2, he, hb, ha, hd, ffmtOf]
theorem fclass (o : OpsF1) : Statement (.fclass o) := by
  intro hw _
  obtain ⟨w, _ | _, d, a, _ | _⟩ := o
  · refine decode_1 (.A 10 0 a.val d.val) (by decide) (by simp [Fields.fits]) hw fun r hp hq => ?_
    obtain ⟨he, hf, hb, ha, hd⟩ := hq
    simp [decodeRaw, dec0F, Raw.noLit, Raw.noExt, Raw.zb, ck, ckSome, hp.w, hp.major, hp.long, hp.lit, hp.w1, hp.w2, he, hb, ha, hd, ffmtOf]
  · refine decode_3 (.A 10 0 a.val d.val) (by decide) (by simp [Fields.fits]) hw fun r hp hq => ?_
    obtain ⟨he, hf, hb, ha, hd⟩ := hq
    simp [decodeRaw, dec0F, Raw.noLit, Raw.noExt, Raw.zb, ck, ckSome, hp.w, hp.major, hp.long, hp.lit, hp.w1, hp.w2, he, hb, ha, hd, ffmtOf]
  · refine decode_1 (.A 42 0 a.val d.val) (by decide) (by simp [Fields.fits]) hw fun r hp hq => ?_
    obtain ⟨he, hf, hb, ha, hd⟩ := hq
    simp [decodeRaw, dec0F, Raw.noLit, Raw.noExt, Raw.zb, ck, ckSome, hp.w, hp.major, hp.long, hp.lit, hp.w1, hp.w2, he, hb, ha, hd, ffmtOf]
  · refine decode_3 (.A 42 0 a.val d.val) (by decide) (by simp [Fields.fits]) hw fun r hp hq => ?_
    obtain ⟨he, hf, hb, ha, hd⟩ := hq
    simp [decodeRaw, dec0F, Raw.noLit, Raw.noExt, Raw.zb, ck, ckSome, hp.w, hp.major, hp.long, hp.lit, hp.w1, hp.w2, he, hb, ha, hd, ffmtOf]
theorem fsgnj (o : OpsF2) : Statement (.fsgnj o) := by
  intro hw _
  obtain ⟨w, _ | _, d, a, b, _ | _⟩ := o
  · refine decode_1 (.A 11 b.val a.val d.val) (by decide) (by simp [Fields.fits]) hw fun r hp hq => ?_
    obtain ⟨he, hf, hb, ha, hd⟩ := hq
    simp [decodeRaw, dec0F, Raw.noLit, Raw.noExt, ck, ckSome, hp.w, hp.major, hp.long, hp.lit, hp.w1, hp.w2, he, hb, ha, hd, ffmtOf]
  · refine decode_3 (.A 11 b.val a.val d.val) (by decide) (by simp [Fields.fits]) hw fun r hp hq => ?_
    obtain ⟨he, hf, hb, ha, hd⟩ := hq
    simp [decodeRaw, dec0F, Raw.noLit, Raw.noExt, ck, ckSome, hp.w, hp.major, hp.long, hp.lit, hp.w1, hp.w2, he, hb, ha, hd, ffmtOf]
  · refine decode_1 (.A 43 b.val a.val d.val) (by decide) (by simp [Fields.fits]) hw fun r hp hq => ?_
    obtain ⟨he, hf, hb, ha, hd⟩ := hq
    simp [decodeRaw, dec0F, Raw.noLit, Raw.noExt, ck, ckSome, hp.w, hp.major, hp.long, hp.lit, hp.w1, hp.w2, he, hb, ha, hd, ffmtOf]
  · refine decode_3 (.A 43 b.val a.val d.val) (by decide) (by simp [Fields.fits]) hw fun r hp hq => ?_
    obtain ⟨he, hf, hb, ha, hd⟩ := hq
    simp [decodeRaw, dec0F, Raw.noLit, Raw.noExt, ck, ckSome, hp.w, hp.major, hp.long, hp.lit, hp.w1, hp.w2, he, hb, ha, hd, ffmtOf]
theorem fsgnjn (o : OpsF2) : Statement (.fsgnjn o) := by
  intro hw _
  obtain ⟨w, _ | _, d, a, b, _ | _⟩ := o
  · refine decode_1 (.A 12 b.val a.val d.val) (by decide) (by simp [Fields.fits]) hw fun r hp hq => ?_
    obtain ⟨he, hf, hb, ha, hd⟩ := hq
    simp [decodeRaw, dec0F, Raw.noLit, Raw.noExt, ck, ckSome, hp.w, hp.major, hp.long, hp.lit, hp.w1, hp.w2, he, hb, ha, hd, ffmtOf]
  · refine decode_3 (.A 12 b.val a.val d.val) (by decide) (by simp [Fields.fits]) hw fun r hp hq => ?_
    obtain ⟨he, hf, hb, ha, hd⟩ := hq
    simp [decodeRaw, dec0F, Raw.noLit, Raw.noExt, ck, ckSome, hp.w, hp.major, hp.long, hp.lit, hp.w1, hp.w2, he, hb, ha, hd, ffmtOf]
  · refine decode_1 (.A 44 b.val a.val d.val) (by decide) (by simp [Fields.fits]) hw fun r hp hq => ?_
    obtain ⟨he, hf, hb, ha, hd⟩ := hq
    simp [decodeRaw, dec0F, Raw.noLit, Raw.noExt, ck, ckSome, hp.w, hp.major, hp.long, hp.lit, hp.w1, hp.w2, he, hb, ha, hd, ffmtOf]
  · refine decode_3 (.A 44 b.val a.val d.val) (by decide) (by simp [Fields.fits]) hw fun r hp hq => ?_
    obtain ⟨he, hf, hb, ha, hd⟩ := hq
    simp [decodeRaw, dec0F, Raw.noLit, Raw.noExt, ck, ckSome, hp.w, hp.major, hp.long, hp.lit, hp.w1, hp.w2, he, hb, ha, hd, ffmtOf]
theorem fcvtF32I64 (o : OpsCvtR) : Statement (.fcvtF32I64 o) := by
  intro hw _
  obtain ⟨w, d, a, _ | e⟩ := o
  · refine decode_1 (.A 13 0 a.val d.val) (by decide) (by simp [Fields.fits]) hw fun r hp hq => ?_
    obtain ⟨he, hf, hb, ha, hd⟩ := hq
    simp [decodeRaw, dec0F, Raw.noLit, Raw.onlyRm, Raw.extRm, Raw.zb, ck, ckSome, hp.w, hp.major, hp.long, hp.lit, hp.w1, hp.w2, he, hb, ha, hd, w1less_of_zero, rm_of_zero, rmOf_zero, ffmtOf]
  · refine decode_3 (.A 13 0 a.val d.val) (by decide) (by simp [Fields.fits]) hw fun r hp hq => ?_
    obtain ⟨he, hf, hb, ha, hd⟩ := hq
    obtain ⟨k1, k2, k3, k4, k5, k6, k7, k8⟩ := word1_read hp.w1 (by simp) (by simp [rmNum_lt]) (by simp) (by simp) (by simp) (by simp)
    have k9 : r.w1less false true false false false false false = 0 := by
      refine w1less_word1 hp.w1 ?_ ?_ ?_ ?_ ?_ ?_ ?_ ?_ ?_ ?_ ?_ ?_ ?_ <;> simp [rmNum_lt]
    simp [decodeRaw, dec0F, Raw.noLit, Raw.onlyRm, Raw.extRm, Raw.zb, ck, ckSome, hp.w, hp.major, hp.long, hp.lit, hp.w2, he, hb, ha, hd, k2, k9, rmOf_rmNum, ffmtOf]
theorem fcvtI64F32 (o : OpsCvtR) : Statement (.fcvtI64F32 o) := by
  intro hw _
  obtain ⟨w, d, a, _ | e⟩ := o
  · refine decode_1 (.A 14 0 a.val d.val) (by decide) (by simp [Fields.fits]) hw fun r hp hq => ?_
    obtain ⟨he, hf, hb, ha, hd⟩ := hq
    simp [decodeRaw, dec0F, Raw.noLit, Raw.onlyRm, Raw.extRm, Raw.zb, ck, ckSome, hp.w, hp.major, hp.long, hp.lit, hp.w1, hp.w2, he, hb, ha, hd, w1less_of_zero, rm_of_zero, rmOf_zero, ffmtOf]
  · refine decode_3 (.A 14 0 a.val d.val) (by decide) (by simp [Fields.fits]) hw fun r hp hq => ?_
    obtain ⟨he, hf, hb, ha, hd⟩ := hq
    obtain ⟨k1, k2, k3, k4, k5, k6, k7, k8⟩ := word1_read hp.w1 (by simp) (by simp [rmNum_lt]) (by simp) (by simp) (by simp) (by simp)
    have k9 : r.w1less false true false false false false false = 0 := by
      refine w1less_word1 hp.w1 ?_ ?_ ?_ ?_ ?_ ?_ ?_ ?_ ?_ ?_ ?_ ?_ ?_ <;> simp [rmNum_lt]
    simp [decodeRaw, dec0F, Raw.noLit, Raw.onlyRm, Raw.extRm, Raw.zb, ck, ckSome, hp.w, hp.major, hp.long, hp.lit, hp.w2, he, hb, ha, hd, k2, k9, rmOf_rmNum, ffmtOf]
theorem fcvtF32Bf16 (o : OpsCvt) : Statement (.fcvtF32Bf16 o) := by
  intro hw _
  obtain ⟨w, d, a, _ | _⟩ := o
  · refine decode_1 (.A 15 0 a.val d.val) (by decide) (by simp [Fields.fits]) hw fun r hp hq => ?_
    obtain ⟨he, hf, hb, ha, hd⟩ := hq
    simp [decodeRaw, dec0F, Raw.noLit, Raw.noExt, Raw.zb, ck, ckSome, hp.w, hp.major, hp.long, hp.lit, hp.w1, hp.w2, he, hb, ha, hd, ffmtOf]
  · refine decode_3 (.A 15 0 a.val d.val) (by decide) (by simp [Fields.fits]) hw fun r hp hq => ?_
    obtain ⟨he, hf, hb, ha, hd⟩ := hq
    simp [decodeRaw, dec0F, Raw.noLit, Raw.noExt, Raw.zb, ck, ckSome, hp.w, hp.major, hp.long, hp.lit, hp.w1, hp.w2, he, hb, ha, hd, ffmtOf]
theorem fcvtBf16F32 (o : OpsCvtP) : Statement (.fcvtBf16F32 o) := by
  intro hw _
  obtain ⟨w, d, a, _ | e⟩ := o
  · refine decode_1 (.A 16 0 a.val d.val) (by decide) (by simp [Fields.fits]) hw fun r hp hq => ?_
    obtain ⟨he, hf, hb, ha, hd⟩ := hq
    simp [decodeRaw, dec0F, Raw.noLit, Raw.zb, ck, ckSome, hp.w, hp.major, hp.long, hp.lit, hp.w1, hp.w2, he, hb, ha, hd, w1less_of_zero, rm_of_zero, rmOf_zero, ffmtOf]
  · refine decode_3 (.A 16 0 a.val d.val) (by decide) (by simp [Fields.fits]) hw fun r hp hq => ?_
    obtain ⟨he, hf, hb, ha, hd⟩ := hq
    obtain ⟨k1, k2, k3, k4, k5, k6, k7, k8⟩ := word1_read hp.w1 (by simp) (by simp [rmNum_lt]) (by simp) (by simp) (by simp) (by simp)
    have k9 : r.w1less false true false true false false false = 0 := by
      refine w1less_word1 hp.w1 ?_ ?_ ?_ ?_ ?_ ?_ ?_ ?_ ?_ ?_ ?_ ?_ ?_ <;> simp [rmNum_lt]
    simp [decodeRaw, dec0F, Raw.noLit, Raw.zb, ck, ckSome, hp.w, hp.major, hp.long, hp.lit, hp.w2, he, hb, ha, hd, k2, k4, k9, rmOf_rmNum, ffmtOf]
theorem fcvtF32F16 (o : OpsCvt) : Statement (.fcvtF32F16 o) := by
  intro hw _
  obtain ⟨w, d, a, _ | _⟩ := o
  · refine decode_1 (.A 17 0 a.val d.val) (by decide) (by simp [Fields.fits]) hw fun r hp hq => ?_
    obtain ⟨he, hf, hb, ha, hd⟩ := hq
    simp [decodeRaw, dec0F, Raw.noLit, Raw.noExt, Raw.zb, ck, ckSome, hp.w, hp.major, hp.long, hp.lit, hp.w1, hp.w2, he, hb, ha, hd, ffmtOf]
  · refine decode_3 (.A 17 0 a.val d.val) (by decide) (by simp [Fields.fits]) hw fun r hp hq => ?_
    obtain ⟨he, hf, hb, ha, hd⟩ := hq
    simp [decodeRaw, dec0F, Raw.noLit, Raw.noExt, Raw.zb, ck, ckSome, hp.w, hp.major, hp.long, hp.lit, hp.w1, hp.w2, he, hb, ha, hd, ffmtOf]
theorem fcvtF16F32 (o : OpsCvtP) : Statement (.fcvtF16F32 o) := by
  intro hw _
  obtain ⟨w, d, a, _ | e⟩ := o
  · refine decode_1 (.A 18 0 a.val d.val) (by decide) (by simp [Fields.fits]) hw fun r hp hq => ?_
    obtain ⟨he, hf, hb, ha, hd⟩ := hq
    simp [decodeRaw, dec0F, Raw.noLit, Raw.zb, ck, ckSome, hp.w, hp.major, hp.long, hp.lit, hp.w1, hp.w2, he, hb, ha, hd, w1less_of_zero, rm_of_zero, rmOf_zero, ffmtOf]
  · refine decode_3 (.A 18 0 a.val d.val) (by decide) (by simp [Fields.fits]) hw fun r hp hq => ?_
    obtain ⟨he, hf, hb, ha, hd⟩ := hq
    obtain ⟨k1, k2, k3, k4, k5, k6, k7, k8⟩ := word1_read hp.w1 (by simp) (by simp [rmNum_lt]) (by simp) (by simp) (by simp) (by simp)
    have k9 : r.w1less false true false true false false false = 0 := by
      refine w1less_word1 hp.w1 ?_ ?_ ?_ ?_ ?_ ?_ ?_ ?_ ?_ ?_ ?_ ?_ ?_ <;> simp [rmNum_lt]
    simp [decodeRaw, dec0F, Raw.noLit, Raw.zb, ck, ckSome, hp.w, hp.major, hp.long, hp.lit, hp.w2, he, hb, ha, hd, k2, k4, k9, rmOf_rmNum, ffmtOf]
theorem frsqe (o : OpsF1) : Statement (.frsqe o) := by
  intro hw _
  obtain ⟨w, _ | _, d, a, _ | _⟩ := o
  · refine decode_1 (.A 19 0 a.val d.val) (by decide) (by simp [Fields.fits]) hw fun r hp hq => ?_
    obtain ⟨he, hf, hb, ha, hd⟩ := hq
    simp [decodeRaw, dec0F, Raw.noLit, Raw.noExt, Raw.zb, ck, ckSome, hp.w, hp.major, hp.long, hp.lit, hp.w1, hp.w2, he, hb, ha, hd, ffmtOf]
  · refine decode_3 (.A 19 0 a.val d.val) (by decide) (by simp [Fields.fits]) hw fun r hp hq => ?_
    obtain ⟨he, hf, hb, ha, hd⟩ := hq
    simp [decodeRaw, dec0F, Raw.noLit, Raw.noExt, Raw.zb, ck, ckSome, hp.w, hp.major, hp.long, hp.lit, hp.w1, hp.w2, he, hb, ha, hd, ffmtOf]
  · refine decode_1 (.A 51 0 a.val d.val) (by decide) (by simp [Fields.fits]) hw fun r hp hq => ?_
    obtain ⟨he, hf, hb, ha, hd⟩ := hq
    simp [decodeRaw, dec0F, Raw.noLit, Raw.noExt, Raw.zb, ck, ckSome, hp.w, hp.major, hp.long, hp.lit, hp.w1, hp.w2, he, hb, ha, hd, ffmtOf]
  · refine decode_3 (.A 51 0 a.val d.val) (by decide) (by simp [Fields.fits]) hw fun r hp hq => ?_
    obtain ⟨he, hf, hb, ha, hd⟩ := hq
    simp [decodeRaw, dec0F, Raw.noLit, Raw.noExt, Raw.zb, ck, ckSome, hp.w, hp.major, hp.long, hp.lit, hp.w1, hp.w2, he, hb, ha, hd, ffmtOf]
theorem frcpe (o : OpsF1) : Statement (.frcpe o) := by
  intro hw _
  obtain ⟨w, _ | _, d, a, _ | _⟩ := o
  · refine decode_1 (.A 20 0 a.val d.val) (by decide) (by simp [Fields.fits]) hw fun r hp hq => ?_
    obtain ⟨he, hf, hb, ha, hd⟩ := hq
    simp [decodeRaw, dec0F, Raw.noLit, Raw.noExt, Raw.zb, ck, ckSome, hp.w, hp.major, hp.long, hp.lit, hp.w1, hp.w2, he, hb, ha, hd, ffmtOf]
  · refine decode_3 (.A 20 0 a.val d.val) (by decide) (by simp [Fields.fits]) hw fun r hp hq => ?_
    obtain ⟨he, hf, hb, ha, hd⟩ := hq
    simp [decodeRaw, dec0F, Raw.noLit, Raw.noExt, Raw.zb, ck, ckSome, hp.w, hp.major, hp.long, hp.lit, hp.w1, hp.w2, he, hb, ha, hd, ffmtOf]
  · refine decode_1 (.A 52 0 a.val d.val) (by decide) (by simp [Fields.fits]) hw fun r hp hq => ?_
    obtain ⟨he, hf, hb, ha, hd⟩ := hq
    simp [decodeRaw, dec0F, Raw.noLit, Raw.noExt, Raw.zb, ck, ckSome, hp.w, hp.major, hp.long, hp.lit, hp.w1, hp.w2, he, hb, ha, hd, ffmtOf]
  · refine decode_3 (.A 52 0 a.val d.val) (by decide) (by simp [Fields.fits]) hw fun r hp hq => ?_
    obtain ⟨he, hf, hb, ha, hd⟩ := hq
    simp [decodeRaw, dec0F, Raw.noLit, Raw.noExt, Raw.zb, ck, ckSome, hp.w, hp.major, hp.long, hp.lit, hp.w1, hp.w2, he, hb, ha, hd, ffmtOf]
theorem fmadd (o : OpsF3) : Statement (.fmadd o) := by
  intro hw _
  obtain ⟨w, _ | _, d, a, b, c, rm⟩ := o
  · refine decode_3 (.A 0 b.val a.val d.val) (by decide) (by simp [Fields.fits]) hw fun r hp hq => ?_
    obtain ⟨he, hf, hb, ha, hd⟩ := hq
    obtain ⟨k1, k2, k3, k4, k5, k6, k7, k8⟩ := word1_read hp.w1 (by simp) (by simp [rmNum_lt]) (by simp) (by simp) (by simp) (by simp)
    have k9 : r.w1less true true false false false false false = 0 := by
      refine w1less_word1 hp.w1 ?_ ?_ ?_ ?_ ?_ ?_ ?_ ?_ ?_ ?_ ?_ ?_ ?_ <;> simp [rmNum_lt]
    simp [decodeRaw, dec10, Raw.three, ck, ckSome, hp.w, hp.major, hp.long, hp.lit, hp.w2, he, hb, ha, hd, k1, k2, k9, rmOf_rmNum, ffmtOf]
  · refine decode_3 (.A 32 b.val a.val d.val) (by decide) (by simp [Fields.fits]) hw fun r hp hq => ?_
    obtain ⟨he, hf, hb, ha, hd⟩ := hq
    obtain ⟨k1, k2, k3, k4, k5, k6, k7, k8⟩ := word1_read hp.w1 (by simp) (by simp [rmNum_lt]) (by simp) (by simp) (by simp) (by simp)
    have k9 : r.w1less true true false false false false false = 0 := by
      refine w1less_word1 hp.w1 ?_ ?_ ?_ ?_ ?_ ?_ ?_ ?_ ?_ ?_ ?_ ?_ ?_ <;> simp [rmNum_lt]
    simp [decodeRaw, dec10, Raw.three, ck, ckSome, hp.w, hp.major, hp.long, hp.lit, hp.w2, he, hb, ha, hd, k1, k2, k9, rmOf_rmNum, ffmtOf]
theorem fmsub (o : OpsF3) : Statement (.fmsub o) := by
  intro hw _
  obtain ⟨w, _ | _, d, a, b, c, rm⟩ := o
  · refine decode_3 (.A 1 b.val a.val d.val) (by decide) (by simp [Fields.fits]) hw fun r hp hq => ?_
    obtain ⟨he, hf, hb, ha, hd⟩ := hq
    obtain ⟨k1, k2, k3, k4, k5, k6, k7, k8⟩ := word1_read hp.w1 (by simp) (by simp [rmNum_lt]) (by simp) (by simp) (by simp) (by simp)
    have k9 : r.w1less true true false false false false false = 0 := by
      refine w1less_word1 hp.w1 ?_ ?_ ?_ ?_ ?_ ?_ ?_ ?_ ?_ ?_ ?_ ?_ ?_ <;> simp [rmNum_lt]
    simp [decodeRaw, dec10, Raw.three, ck, ckSome, hp.w, hp.major, hp.long, hp.lit, hp.w2, he, hb, ha, hd, k1, k2, k9, rmOf_rmNum, ffmtOf]
  · refine decode_3 (.A 33 b.val a.val d.val) (by decide) (by simp [Fields.fits]) hw fun r hp hq => ?_
    obtain ⟨he, hf, hb, ha, hd⟩ := hq
    obtain ⟨k1, k2, k3, k4, k5, k6, k7, k8⟩ := word1_read hp.w1 (by simp) (by simp [rmNum_lt]) (by simp) (by simp) (by simp) (by simp)
    have k9 : r.w1less true true false false false false false = 0 := by
      refine w1less_word1 hp.w1 ?_ ?_ ?_ ?_ ?_ ?_ ?_ ?_ ?_ ?_ ?_ ?_ ?_ <;> simp [rmNum_lt]
    simp [decodeRaw, dec10, Raw.three, ck, ckSome, hp.w, hp.major, hp.long, hp.lit, hp.w2, he, hb, ha, hd, k1, k2, k9, rmOf_rmNum, ffmtOf]
theorem fnmadd (o : OpsF3) : Statement (.fnmadd o) := by
  intro hw _
  obtain ⟨w, _ | _, d, a, b, c, rm⟩ := o
  · refine decode_3 (.A 2 b.val a.val d.val) (by decide) (by simp [Fields.fits]) hw fun r hp hq => ?_
    obtain ⟨he, hf, hb, ha, hd⟩ := hq
    obtain ⟨k1, k2, k3, k4, k5, k6, k7, k8⟩ := word1_read hp.w1 (by simp) (by simp [rmNum_lt]) (by simp) (by simp) (by simp) (by simp)
    have k9 : r.w1less true true false false false false false = 0 := by
      refine w1less_word1 hp.w1 ?_ ?_ ?_ ?_ ?_ ?_ ?_ ?_ ?_ ?_ ?_ ?_ ?_ <;> simp [rmNum_lt]
    simp [decodeRaw, dec10, Raw.three, ck, ckSome, hp.w, hp.major, hp.long, hp.lit, hp.w2, he, hb, ha, hd, k1, k2, k9, rmOf_rmNum, ffmtOf]
  · refine decode_3 (.A 34 b.val a.val d.val) (by decide) (by simp [Fields.fits]) hw fun r hp hq => ?_
    obtain ⟨he, hf, hb, ha, hd⟩ := hq
    obtain ⟨k1, k2, k3, k4, k5, k6, k7, k8⟩ := word1_read hp.w1 (by simp) (by simp [rmNum_lt]) (by simp) (by simp) (by simp) (by simp)
    have k9 : r.w1less true true false false false false false = 0 := by
      refine w1less_word1 hp.w1 ?_ ?_ ?_ ?_ ?_ ?_ ?_ ?_ ?_ ?_ ?_ ?_ ?_ <;> simp [rmNum_lt]
    simp [decodeRaw, dec10, Raw.three, ck, ckSome, hp.w, hp.major, hp.long, hp.lit, hp.w2, he, hb, ha, hd, k1, k2, k9, rmOf_rmNum, ffmtOf]
theorem fnmsub (o : OpsF3) : Statement (.fnmsub o) := by
  intro hw _
  obtain ⟨w, _ | _, d, a, b, c, rm⟩ := o
  · refine decode_3 (.A 3 b.val a.val d.val) (by decide) (by simp [Fields.fits]) hw fun r hp hq => ?_
    obtain ⟨he, hf, hb, ha, hd⟩ := hq
    obtain ⟨k1, k2, k3, k4, k5, k6, k7, k8⟩ := word1_read hp.w1 (by simp) (by simp [rmNum_lt]) (by simp) (by simp) (by simp) (by simp)
    have k9 : r.w1less true true false false false false false = 0 := by
      refine w1less_word1 hp.w1 ?_ ?_ ?_ ?_ ?_ ?_ ?_ ?_ ?_ ?_ ?_ ?_ ?_ <;> simp [rmNum_lt]
    simp [decodeRaw, dec10, Raw.three, ck, ckSome, hp.w, hp.major, hp.long, hp.lit, hp.w2, he, hb, ha, hd, k1, k2, k9, rmOf_rmNum, ffmtOf]
  · refine decode_3 (.A 35 b.val a.val d.val) (by decide) (by simp [Fields.fits]) hw fun r hp hq => ?_
    obtain ⟨he, hf, hb, ha, hd⟩ := hq
    obtain ⟨k1, k2, k3, k4, k5, k6, k7, k8⟩ := word1_read hp.w1 (by simp) (by simp [rmNum_lt]) (by simp) (by simp) (by simp) (by simp)
    have k9 : r.w1less true true false false false false false = 0 := by
      refine w1less_word1 hp.w1 ?_ ?_ ?_ ?_ ?_ ?_ ?_ ?_ ?_ ?_ ?_ ?_ ?_ <;> simp [rmNum_lt]
    simp [decodeRaw, dec10, Raw.three, ck, ckSome, hp.w, hp.major, hp.long, hp.lit, hp.w2, he, hb, ha, hd, k1, k2, k9, rmOf_rmNum, ffmtOf]
theorem ldB (o : OpsM) : Statement (.ldB o) := by
  intro hw _
  obtain ⟨w, d, a, v | v, _ | _⟩ := o
  · refine decode_1 (.M v.toNat 0 a.val d.val) (by decide) (by simp [Fields.fits, bv10_lt]) hw fun r hp hq => ?_
    obtain ⟨he, hf, ha, hd⟩ := hq
    simp [decodeRaw, dec11, Raw.noExt, Raw.off, ck, hp.w, hp.major, hp.long, hp.lit, hp.w1, hp.w2, he, hf, ha, hd]
  · refine decode_3 (.M v.toNat 0 a.val d.val) (by decide) (by simp [Fields.fits, bv10_lt]) hw fun r hp hq => ?_
    obtain ⟨he, hf, ha, hd⟩ := hq
    simp [decodeRaw, dec11, Raw.noExt, Raw.off, ck, hp.w, hp.major, hp.long, hp.lit, hp.w1, hp.w2, he, hf, ha, hd]
  · refine decode_L (.M 0 0 a.val d.val) (by decide) (by simp [Fields.fits]) hw fun r hp hq => ?_
    obtain ⟨he, hf, ha, hd⟩ := hq
    simp [decodeRaw, dec11, Raw.noExt, Raw.off, ck, hp.w, hp.major, hp.long, hp.lit, hp.w1, hp.w2, he, hf, ha, hd]
  · refine decode_3L (.M 0 0 a.val d.val) (by decide) (by simp [Fields.fits]) hw fun r hp hq => ?_
    obtain ⟨he, hf, ha, hd⟩ := hq
    simp [decodeRaw, dec11, Raw.noExt, Raw.off, ck, hp.w, hp.major, hp.long, hp.lit, hp.w1, hp.w2, he, hf, ha, hd]
theorem ldBu (o : OpsM) : Statement (.ldBu o) := by
  intro hw _
  obtain ⟨w, d, a, v | v, _ | _⟩ := o
  · refine decode_1 (.M v.toNat 1 a.val d.val) (by decide) (by simp [Fields.fits, bv10_lt]) hw fun r hp hq => ?_
    obtain ⟨he, hf, ha, hd⟩ := hq
    simp [decodeRaw, dec11, Raw.noExt, Raw.off, ck, hp.w, hp.major, hp.long, hp.lit, hp.w1, hp.w2, he, hf, ha, hd]
  · refine decode_3 (.M v.toNat 1 a.val d.val) (by decide) (by simp [Fields.fits, bv10_lt]) hw fun r hp hq => ?_
    obtain ⟨he, hf, ha, hd⟩ := hq
    simp [decodeRaw, dec11, Raw.noExt, Raw.off, ck, hp.w, hp.major, hp.long, hp.lit, hp.w1, hp.w2, he, hf, ha, hd]
  · refine decode_L (.M 0 1 a.val d.val) (by decide) (by simp [Fields.fits]) hw fun r hp hq => ?_
    obtain ⟨he, hf, ha, hd⟩ := hq
    simp [decodeRaw, dec11, Raw.noExt, Raw.off, ck, hp.w, hp.major, hp.long, hp.lit, hp.w1, hp.w2, he, hf, ha, hd]
  · refine decode_3L (.M 0 1 a.val d.val) (by decide) (by simp [Fields.fits]) hw fun r hp hq => ?_
    obtain ⟨he, hf, ha, hd⟩ := hq
    simp [decodeRaw, dec11, Raw.noExt, Raw.off, ck, hp.w, hp.major, hp.long, hp.lit, hp.w1, hp.w2, he, hf, ha, hd]
theorem ldH (o : OpsM) : Statement (.ldH o) := by
  intro hw _
  obtain ⟨w, d, a, v | v, _ | _⟩ := o
  · refine decode_1 (.M v.toNat 2 a.val d.val) (by decide) (by simp [Fields.fits, bv10_lt]) hw fun r hp hq => ?_
    obtain ⟨he, hf, ha, hd⟩ := hq
    simp [decodeRaw, dec11, Raw.noExt, Raw.off, ck, hp.w, hp.major, hp.long, hp.lit, hp.w1, hp.w2, he, hf, ha, hd]
  · refine decode_3 (.M v.toNat 2 a.val d.val) (by decide) (by simp [Fields.fits, bv10_lt]) hw fun r hp hq => ?_
    obtain ⟨he, hf, ha, hd⟩ := hq
    simp [decodeRaw, dec11, Raw.noExt, Raw.off, ck, hp.w, hp.major, hp.long, hp.lit, hp.w1, hp.w2, he, hf, ha, hd]
  · refine decode_L (.M 0 2 a.val d.val) (by decide) (by simp [Fields.fits]) hw fun r hp hq => ?_
    obtain ⟨he, hf, ha, hd⟩ := hq
    simp [decodeRaw, dec11, Raw.noExt, Raw.off, ck, hp.w, hp.major, hp.long, hp.lit, hp.w1, hp.w2, he, hf, ha, hd]
  · refine decode_3L (.M 0 2 a.val d.val) (by decide) (by simp [Fields.fits]) hw fun r hp hq => ?_
    obtain ⟨he, hf, ha, hd⟩ := hq
    simp [decodeRaw, dec11, Raw.noExt, Raw.off, ck, hp.w, hp.major, hp.long, hp.lit, hp.w1, hp.w2, he, hf, ha, hd]
theorem ldHu (o : OpsM) : Statement (.ldHu o) := by
  intro hw _
  obtain ⟨w, d, a, v | v, _ | _⟩ := o
  · refine decode_1 (.M v.toNat 3 a.val d.val) (by decide) (by simp [Fields.fits, bv10_lt]) hw fun r hp hq => ?_
    obtain ⟨he, hf, ha, hd⟩ := hq
    simp [decodeRaw, dec11, Raw.noExt, Raw.off, ck, hp.w, hp.major, hp.long, hp.lit, hp.w1, hp.w2, he, hf, ha, hd]
  · refine decode_3 (.M v.toNat 3 a.val d.val) (by decide) (by simp [Fields.fits, bv10_lt]) hw fun r hp hq => ?_
    obtain ⟨he, hf, ha, hd⟩ := hq
    simp [decodeRaw, dec11, Raw.noExt, Raw.off, ck, hp.w, hp.major, hp.long, hp.lit, hp.w1, hp.w2, he, hf, ha, hd]
  · refine decode_L (.M 0 3 a.val d.val) (by decide) (by simp [Fields.fits]) hw fun r hp hq => ?_
    obtain ⟨he, hf, ha, hd⟩ := hq
    simp [decodeRaw, dec11, Raw.noExt, Raw.off, ck, hp.w, hp.major, hp.long, hp.lit, hp.w1, hp.w2, he, hf, ha, hd]
  · refine decode_3L (.M 0 3 a.val d.val) (by decide) (by simp [Fields.fits]) hw fun r hp hq => ?_
    obtain ⟨he, hf, ha, hd⟩ := hq
    simp [decodeRaw, dec11, Raw.noExt, Raw.off, ck, hp.w, hp.major, hp.long, hp.lit, hp.w1, hp.w2, he, hf, ha, hd]
theorem ldW (o : OpsM) : Statement (.ldW o) := by
  intro hw _
  obtain ⟨w, d, a, v | v, _ | _⟩ := o
  · refine decode_1 (.M v.toNat 4 a.val d.val) (by decide) (by simp [Fields.fits, bv10_lt]) hw fun r hp hq => ?_
    obtain ⟨he, hf, ha, hd⟩ := hq
    simp [decodeRaw, dec11, Raw.noExt, Raw.off, ck, hp.w, hp.major, hp.long, hp.lit, hp.w1, hp.w2, he, hf, ha, hd]
  · refine decode_3 (.M v.toNat 4 a.val d.val) (by decide) (by simp [Fields.fits, bv10_lt]) hw fun r hp hq => ?_
    obtain ⟨he, hf, ha, hd⟩ := hq
    simp [decodeRaw, dec11, Raw.noExt, Raw.off, ck, hp.w, hp.major, hp.long, hp.lit, hp.w1, hp.w2, he, hf, ha, hd]
  · refine decode_L (.M 0 4 a.val d.val) (by decide) (by simp [Fields.fits]) hw fun r hp hq => ?_
    obtain ⟨he, hf, ha, hd⟩ := hq
    simp [decodeRaw, dec11, Raw.noExt, Raw.off, ck, hp.w, hp.major, hp.long, hp.lit, hp.w1, hp.w2, he, hf, ha, hd]
  · refine decode_3L (.M 0 4 a.val d.val) (by decide) (by simp [Fields.fits]) hw fun r hp hq => ?_
    obtain ⟨he, hf, ha, hd⟩ := hq
    simp [decodeRaw, dec11, Raw.noExt, Raw.off, ck, hp.w, hp.major, hp.long, hp.lit, hp.w1, hp.w2, he, hf, ha, hd]
theorem ldWu (o : OpsM) : Statement (.ldWu o) := by
  intro hw _
  obtain ⟨w, d, a, v | v, _ | _⟩ := o
  · refine decode_1 (.M v.toNat 5 a.val d.val) (by decide) (by simp [Fields.fits, bv10_lt]) hw fun r hp hq => ?_
    obtain ⟨he, hf, ha, hd⟩ := hq
    simp [decodeRaw, dec11, Raw.noExt, Raw.off, ck, hp.w, hp.major, hp.long, hp.lit, hp.w1, hp.w2, he, hf, ha, hd]
  · refine decode_3 (.M v.toNat 5 a.val d.val) (by decide) (by simp [Fields.fits, bv10_lt]) hw fun r hp hq => ?_
    obtain ⟨he, hf, ha, hd⟩ := hq
    simp [decodeRaw, dec11, Raw.noExt, Raw.off, ck, hp.w, hp.major, hp.long, hp.lit, hp.w1, hp.w2, he, hf, ha, hd]
  · refine decode_L (.M 0 5 a.val d.val) (by decide) (by simp [Fields.fits]) hw fun r hp hq => ?_
    obtain ⟨he, hf, ha, hd⟩ := hq
    simp [decodeRaw, dec11, Raw.noExt, Raw.off, ck, hp.w, hp.major, hp.long, hp.lit, hp.w1, hp.w2, he, hf, ha, hd]
  · refine decode_3L (.M 0 5 a.val d.val) (by decide) (by simp [Fields.fits]) hw fun r hp hq => ?_
    obtain ⟨he, hf, ha, hd⟩ := hq
    simp [decodeRaw, dec11, Raw.noExt, Raw.off, ck, hp.w, hp.major, hp.long, hp.lit, hp.w1, hp.w2, he, hf, ha, hd]
theorem ldD (o : OpsM) : Statement (.ldD o) := by
  intro hw _
  obtain ⟨w, d, a, v | v, _ | _⟩ := o
  · refine decode_1 (.M v.toNat 6 a.val d.val) (by decide) (by simp [Fields.fits, bv10_lt]) hw fun r hp hq => ?_
    obtain ⟨he, hf, ha, hd⟩ := hq
    simp [decodeRaw, dec11, Raw.noExt, Raw.off, ck, hp.w, hp.major, hp.long, hp.lit, hp.w1, hp.w2, he, hf, ha, hd]
  · refine decode_3 (.M v.toNat 6 a.val d.val) (by decide) (by simp [Fields.fits, bv10_lt]) hw fun r hp hq => ?_
    obtain ⟨he, hf, ha, hd⟩ := hq
    simp [decodeRaw, dec11, Raw.noExt, Raw.off, ck, hp.w, hp.major, hp.long, hp.lit, hp.w1, hp.w2, he, hf, ha, hd]
  · refine decode_L (.M 0 6 a.val d.val) (by decide) (by simp [Fields.fits]) hw fun r hp hq => ?_
    obtain ⟨he, hf, ha, hd⟩ := hq
    simp [decodeRaw, dec11, Raw.noExt, Raw.off, ck, hp.w, hp.major, hp.long, hp.lit, hp.w1, hp.w2, he, hf, ha, hd]
  · refine decode_3L (.M 0 6 a.val d.val) (by decide) (by simp [Fields.fits]) hw fun r hp hq => ?_
    obtain ⟨he, hf, ha, hd⟩ := hq
    simp [decodeRaw, dec11, Raw.noExt, Raw.off, ck, hp.w, hp.major, hp.long, hp.lit, hp.w1, hp.w2, he, hf, ha, hd]
theorem ldAcq (o : OpsMS) : Statement (.ldAcq o) := by
  intro hw _
  obtain ⟨w, d, a, v | v, _ | e⟩ := o
  · refine decode_1 (.M v.toNat 7 a.val d.val) (by decide) (by simp [Fields.fits, bv10_lt]) hw fun r hp hq => ?_
    obtain ⟨he, hf, ha, hd⟩ := hq
    simp [decodeRaw, dec11, Raw.off, Raw.scoped, ck, ckSome, hp.w, hp.major, hp.long, hp.lit, hp.w1, hp.w2, he, hf, ha, hd, w1less_of_zero, scope_of_zero, scopeOf_zero]
  · refine decode_3 (.M v.toNat 7 a.val d.val) (by decide) (by simp [Fields.fits, bv10_lt]) hw fun r hp hq => ?_
    obtain ⟨he, hf, ha, hd⟩ := hq
    obtain ⟨k1, k2, k3, k4, k5, k6, k7, k8⟩ := word1_read hp.w1 (by simp) (by simp) (by simp [scopeNum_lt]) (by simp) (by simp) (by simp)
    have k9 : r.w1less false false true false false false false = 0 := by
      refine w1less_word1 hp.w1 ?_ ?_ ?_ ?_ ?_ ?_ ?_ ?_ ?_ ?_ ?_ ?_ ?_ <;> simp [scopeNum_lt]
    simp [decodeRaw, dec11, Raw.off, Raw.scoped, ck, ckSome, hp.w, hp.major, hp.long, hp.lit, hp.w2, he, hf, ha, hd, k3, k9, scopeOf_scopeNum]
  · refine decode_L (.M 0 7 a.val d.val) (by decide) (by simp [Fields.fits]) hw fun r hp hq => ?_
    obtain ⟨he, hf, ha, hd⟩ := hq
    simp [decodeRaw, dec11, Raw.off, Raw.scoped, ck, ckSome, hp.w, hp.major, hp.long, hp.lit, hp.w1, hp.w2, he, hf, ha, hd, w1less_of_zero, scope_of_zero, scopeOf_zero]
  · refine decode_3L (.M 0 7 a.val d.val) (by decide) (by simp [Fields.fits]) hw fun r hp hq => ?_
    obtain ⟨he, hf, ha, hd⟩ := hq
    obtain ⟨k1, k2, k3, k4, k5, k6, k7, k8⟩ := word1_read hp.w1 (by simp) (by simp) (by simp [scopeNum_lt]) (by simp) (by simp) (by simp)
    have k9 : r.w1less false false true false false false false = 0 := by
      refine w1less_word1 hp.w1 ?_ ?_ ?_ ?_ ?_ ?_ ?_ ?_ ?_ ?_ ?_ ?_ ?_ <;> simp [scopeNum_lt]
    simp [decodeRaw, dec11, Raw.off, Raw.scoped, ck, ckSome, hp.w, hp.major, hp.long, hp.lit, hp.w2, he, hf, ha, hd, k3, k9, scopeOf_scopeNum]
theorem stB (o : OpsM) : Statement (.stB o) := by
  intro hw _
  obtain ⟨w, d, a, v | v, _ | _⟩ := o
  · refine decode_1 (.M v.toNat 0 a.val d.val) (by decide) (by simp [Fields.fits, bv10_lt]) hw fun r hp hq => ?_
    obtain ⟨he, hf, ha, hd⟩ := hq
    simp [decodeRaw, dec12, Raw.noExt, Raw.off, ck, hp.w, hp.major, hp.long, hp.lit, hp.w1, hp.w2, he, hf, ha, hd]
  · refine decode_3 (.M v.toNat 0 a.val d.val) (by decide) (by simp [Fields.fits, bv10_lt]) hw fun r hp hq => ?_
    obtain ⟨he, hf, ha, hd⟩ := hq
    simp [decodeRaw, dec12, Raw.noExt, Raw.off, ck, hp.w, hp.major, hp.long, hp.lit, hp.w1, hp.w2, he, hf, ha, hd]
  · refine decode_L (.M 0 0 a.val d.val) (by decide) (by simp [Fields.fits]) hw fun r hp hq => ?_
    obtain ⟨he, hf, ha, hd⟩ := hq
    simp [decodeRaw, dec12, Raw.noExt, Raw.off, ck, hp.w, hp.major, hp.long, hp.lit, hp.w1, hp.w2, he, hf, ha, hd]
  · refine decode_3L (.M 0 0 a.val d.val) (by decide) (by simp [Fields.fits]) hw fun r hp hq => ?_
    obtain ⟨he, hf, ha, hd⟩ := hq
    simp [decodeRaw, dec12, Raw.noExt, Raw.off, ck, hp.w, hp.major, hp.long, hp.lit, hp.w1, hp.w2, he, hf, ha, hd]
theorem stH (o : OpsM) : Statement (.stH o) := by
  intro hw _
  obtain ⟨w, d, a, v | v, _ | _⟩ := o
  · refine decode_1 (.M v.toNat 1 a.val d.val) (by decide) (by simp [Fields.fits, bv10_lt]) hw fun r hp hq => ?_
    obtain ⟨he, hf, ha, hd⟩ := hq
    simp [decodeRaw, dec12, Raw.noExt, Raw.off, ck, hp.w, hp.major, hp.long, hp.lit, hp.w1, hp.w2, he, hf, ha, hd]
  · refine decode_3 (.M v.toNat 1 a.val d.val) (by decide) (by simp [Fields.fits, bv10_lt]) hw fun r hp hq => ?_
    obtain ⟨he, hf, ha, hd⟩ := hq
    simp [decodeRaw, dec12, Raw.noExt, Raw.off, ck, hp.w, hp.major, hp.long, hp.lit, hp.w1, hp.w2, he, hf, ha, hd]
  · refine decode_L (.M 0 1 a.val d.val) (by decide) (by simp [Fields.fits]) hw fun r hp hq => ?_
    obtain ⟨he, hf, ha, hd⟩ := hq
    simp [decodeRaw, dec12, Raw.noExt, Raw.off, ck, hp.w, hp.major, hp.long, hp.lit, hp.w1, hp.w2, he, hf, ha, hd]
  · refine decode_3L (.M 0 1 a.val d.val) (by decide) (by simp [Fields.fits]) hw fun r hp hq => ?_
    obtain ⟨he, hf, ha, hd⟩ := hq
    simp [decodeRaw, dec12, Raw.noExt, Raw.off, ck, hp.w, hp.major, hp.long, hp.lit, hp.w1, hp.w2, he, hf, ha, hd]
theorem stW (o : OpsM) : Statement (.stW o) := by
  intro hw _
  obtain ⟨w, d, a, v | v, _ | _⟩ := o
  · refine decode_1 (.M v.toNat 2 a.val d.val) (by decide) (by simp [Fields.fits, bv10_lt]) hw fun r hp hq => ?_
    obtain ⟨he, hf, ha, hd⟩ := hq
    simp [decodeRaw, dec12, Raw.noExt, Raw.off, ck, hp.w, hp.major, hp.long, hp.lit, hp.w1, hp.w2, he, hf, ha, hd]
  · refine decode_3 (.M v.toNat 2 a.val d.val) (by decide) (by simp [Fields.fits, bv10_lt]) hw fun r hp hq => ?_
    obtain ⟨he, hf, ha, hd⟩ := hq
    simp [decodeRaw, dec12, Raw.noExt, Raw.off, ck, hp.w, hp.major, hp.long, hp.lit, hp.w1, hp.w2, he, hf, ha, hd]
  · refine decode_L (.M 0 2 a.val d.val) (by decide) (by simp [Fields.fits]) hw fun r hp hq => ?_
    obtain ⟨he, hf, ha, hd⟩ := hq
    simp [decodeRaw, dec12, Raw.noExt, Raw.off, ck, hp.w, hp.major, hp.long, hp.lit, hp.w1, hp.w2, he, hf, ha, hd]
  · refine decode_3L (.M 0 2 a.val d.val) (by decide) (by simp [Fields.fits]) hw fun r hp hq => ?_
    obtain ⟨he, hf, ha, hd⟩ := hq
    simp [decodeRaw, dec12, Raw.noExt, Raw.off, ck, hp.w, hp.major, hp.long, hp.lit, hp.w1, hp.w2, he, hf, ha, hd]
theorem stD (o : OpsM) : Statement (.stD o) := by
  intro hw _
  obtain ⟨w, d, a, v | v, _ | _⟩ := o
  · refine decode_1 (.M v.toNat 3 a.val d.val) (by decide) (by simp [Fields.fits, bv10_lt]) hw fun r hp hq => ?_
    obtain ⟨he, hf, ha, hd⟩ := hq
    simp [decodeRaw, dec12, Raw.noExt, Raw.off, ck, hp.w, hp.major, hp.long, hp.lit, hp.w1, hp.w2, he, hf, ha, hd]
  · refine decode_3 (.M v.toNat 3 a.val d.val) (by decide) (by simp [Fields.fits, bv10_lt]) hw fun r hp hq => ?_
    obtain ⟨he, hf, ha, hd⟩ := hq
    simp [decodeRaw, dec12, Raw.noExt, Raw.off, ck, hp.w, hp.major, hp.long, hp.lit, hp.w1, hp.w2, he, hf, ha, hd]
  · refine decode_L (.M 0 3 a.val d.val) (by decide) (by simp [Fields.fits]) hw fun r hp hq => ?_
    obtain ⟨he, hf, ha, hd⟩ := hq
    simp [decodeRaw, dec12, Raw.noExt, Raw.off, ck, hp.w, hp.major, hp.long, hp.lit, hp.w1, hp.w2, he, hf, ha, hd]
  · refine decode_3L (.M 0 3 a.val d.val) (by decide) (by simp [Fields.fits]) hw fun r hp hq => ?_
    obtain ⟨he, hf, ha, hd⟩ := hq
    simp [decodeRaw, dec12, Raw.noExt, Raw.off, ck, hp.w, hp.major, hp.long, hp.lit, hp.w1, hp.w2, he, hf, ha, hd]
theorem stRel (o : OpsMS) : Statement (.stRel o) := by
  intro hw _
  obtain ⟨w, d, a, v | v, _ | e⟩ := o
  · refine decode_1 (.M v.toNat 4 a.val d.val) (by decide) (by simp [Fields.fits, bv10_lt]) hw fun r hp hq => ?_
    obtain ⟨he, hf, ha, hd⟩ := hq
    simp [decodeRaw, dec12, Raw.off, Raw.scoped, ck, ckSome, hp.w, hp.major, hp.long, hp.lit, hp.w1, hp.w2, he, hf, ha, hd, w1less_of_zero, scope_of_zero, scopeOf_zero]
  · refine decode_3 (.M v.toNat 4 a.val d.val) (by decide) (by simp [Fields.fits, bv10_lt]) hw fun r hp hq => ?_
    obtain ⟨he, hf, ha, hd⟩ := hq
    obtain ⟨k1, k2, k3, k4, k5, k6, k7, k8⟩ := word1_read hp.w1 (by simp) (by simp) (by simp [scopeNum_lt]) (by simp) (by simp) (by simp)
    have k9 : r.w1less false false true false false false false = 0 := by
      refine w1less_word1 hp.w1 ?_ ?_ ?_ ?_ ?_ ?_ ?_ ?_ ?_ ?_ ?_ ?_ ?_ <;> simp [scopeNum_lt]
    simp [decodeRaw, dec12, Raw.off, Raw.scoped, ck, ckSome, hp.w, hp.major, hp.long, hp.lit, hp.w2, he, hf, ha, hd, k3, k9, scopeOf_scopeNum]
  · refine decode_L (.M 0 4 a.val d.val) (by decide) (by simp [Fields.fits]) hw fun r hp hq => ?_
    obtain ⟨he, hf, ha, hd⟩ := hq
    simp [decodeRaw, dec12, Raw.off, Raw.scoped, ck, ckSome, hp.w, hp.major, hp.long, hp.lit, hp.w1, hp.w2, he, hf, ha, hd, w1less_of_zero, scope_of_zero, scopeOf_zero]
  · refine decode_3L (.M 0 4 a.val d.val) (by decide) (by simp [Fields.fits]) hw fun r hp hq => ?_
    obtain ⟨he, hf, ha, hd⟩ := hq
    obtain ⟨k1, k2, k3, k4, k5, k6, k7, k8⟩ := word1_read hp.w1 (by simp) (by simp) (by simp [scopeNum_lt]) (by simp) (by simp) (by simp)
    have k9 : r.w1less false false true false false false false = 0 := by
      refine w1less_word1 hp.w1 ?_ ?_ ?_ ?_ ?_ ?_ ?_ ?_ ?_ ?_ ?_ ?_ ?_ <;> simp [scopeNum_lt]
    simp [decodeRaw, dec12, Raw.off, Raw.scoped, ck, ckSome, hp.w, hp.major, hp.long, hp.lit, hp.w2, he, hf, ha, hd, k3, k9, scopeOf_scopeNum]
theorem stf (o : OpsM) : Statement (.stf o) := by
  intro hw _
  obtain ⟨w, d, a, v | v, _ | _⟩ := o
  · refine decode_1 (.M v.toNat 5 a.val d.val) (by decide) (by simp [Fields.fits, bv10_lt]) hw fun r hp hq => ?_
    obtain ⟨he, hf, ha, hd⟩ := hq
    simp [decodeRaw, dec12, Raw.noExt, Raw.off, ck, hp.w, hp.major, hp.long, hp.lit, hp.w1, hp.w2, he, hf, ha, hd]
  · refine decode_3 (.M v.toNat 5 a.val d.val) (by decide) (by simp [Fields.fits, bv10_lt]) hw fun r hp hq => ?_
    obtain ⟨he, hf, ha, hd⟩ := hq
    simp [decodeRaw, dec12, Raw.noExt, Raw.off, ck, hp.w, hp.major, hp.long, hp.lit, hp.w1, hp.w2, he, hf, ha, hd]
  · refine decode_L (.M 0 5 a.val d.val) (by decide) (by simp [Fields.fits]) hw fun r hp hq => ?_
    obtain ⟨he, hf, ha, hd⟩ := hq
    simp [decodeRaw, dec12, Raw.noExt, Raw.off, ck, hp.w, hp.major, hp.long, hp.lit, hp.w1, hp.w2, he, hf, ha, hd]
  · refine decode_3L (.M 0 5 a.val d.val) (by decide) (by simp [Fields.fits]) hw fun r hp hq => ?_
    obtain ⟨he, hf, ha, hd⟩ := hq
    simp [decodeRaw, dec12, Raw.noExt, Raw.off, ck, hp.w, hp.major, hp.long, hp.lit, hp.w1, hp.w2, he, hf, ha, hd]
theorem amoAdd (o : OpsAmo) : Statement (.amoAdd o) := by
  intro hw _
  obtain ⟨w, d, a, b, _ | _⟩ := o
  · refine decode_1 (.A 0 b.val a.val d.val) (by decide) (by simp [Fields.fits]) hw fun r hp hq => ?_
    obtain ⟨he, hf, hb, ha, hd⟩ := hq
    simp [decodeRaw, dec13, Raw.one, ck, hp.w, hp.major, hp.long, hp.lit, he, hb, ha, hd]
  · refine decode_1 (.A 16 b.val a.val d.val) (by decide) (by simp [Fields.fits]) hw fun r hp hq => ?_
    obtain ⟨he, hf, hb, ha, hd⟩ := hq
    simp [decodeRaw, dec13, Raw.one, ck, hp.w, hp.major, hp.long, hp.lit, he, hb, ha, hd]
theorem amoAnd (o : OpsAmo) : Statement (.amoAnd o) := by
  intro hw _
  obtain ⟨w, d, a, b, _ | _⟩ := o
  · refine decode_1 (.A 1 b.val a.val d.val) (by decide) (by simp [Fields.fits]) hw fun r hp hq => ?_
    obtain ⟨he, hf, hb, ha, hd⟩ := hq
    simp [decodeRaw, dec13, Raw.one, ck, hp.w, hp.major, hp.long, hp.lit, he, hb, ha, hd]
  · refine decode_1 (.A 17 b.val a.val d.val) (by decide) (by simp [Fields.fits]) hw fun r hp hq => ?_
    obtain ⟨he, hf, hb, ha, hd⟩ := hq
    simp [decodeRaw, dec13, Raw.one, ck, hp.w, hp.major, hp.long, hp.lit, he, hb, ha, hd]
theorem amoOr (o : OpsAmo) : Statement (.amoOr o) := by
  intro hw _
  obtain ⟨w, d, a, b, _ | _⟩ := o
  · refine decode_1 (.A 2 b.val a.val d.val) (by decide) (by simp [Fields.fits]) hw fun r hp hq => ?_
    obtain ⟨he, hf, hb, ha, hd⟩ := hq
    simp [decodeRaw, dec13, Raw.one, ck, hp.w, hp.major, hp.long, hp.lit, he, hb, ha, hd]
  · refine decode_1 (.A 18 b.val a.val d.val) (by decide) (by simp [Fields.fits]) hw fun r hp hq => ?_
    obtain ⟨he, hf, hb, ha, hd⟩ := hq
    simp [decodeRaw, dec13, Raw.one, ck, hp.w, hp.major, hp.long, hp.lit, he, hb, ha, hd]
theorem amoXor (o : OpsAmo) : Statement (.amoXor o) := by
  intro hw _
  obtain ⟨w, d, a, b, _ | _⟩ := o
  · refine decode_1 (.A 3 b.val a.val d.val) (by decide) (by simp [Fields.fits]) hw fun r hp hq => ?_
    obtain ⟨he, hf, hb, ha, hd⟩ := hq
    simp [decodeRaw, dec13, Raw.one, ck, hp.w, hp.major, hp.long, hp.lit, he, hb, ha, hd]
  · refine decode_1 (.A 19 b.val a.val d.val) (by decide) (by simp [Fields.fits]) hw fun r hp hq => ?_
    obtain ⟨he, hf, hb, ha, hd⟩ := hq
    simp [decodeRaw, dec13, Raw.one, ck, hp.w, hp.major, hp.long, hp.lit, he, hb, ha, hd]
theorem amoMin (o : OpsAmo) : Statement (.amoMin o) := by
  intro hw _
  obtain ⟨w, d, a, b, _ | _⟩ := o
  · refine decode_1 (.A 4 b.val a.val d.val) (by decide) (by simp [Fields.fits]) hw fun r hp hq => ?_
    obtain ⟨he, hf, hb, ha, hd⟩ := hq
    simp [decodeRaw, dec13, Raw.one, ck, hp.w, hp.major, hp.long, hp.lit, he, hb, ha, hd]
  · refine decode_1 (.A 20 b.val a.val d.val) (by decide) (by simp [Fields.fits]) hw fun r hp hq => ?_
    obtain ⟨he, hf, hb, ha, hd⟩ := hq
    simp [decodeRaw, dec13, Raw.one, ck, hp.w, hp.major, hp.long, hp.lit, he, hb, ha, hd]
theorem amoMax (o : OpsAmo) : Statement (.amoMax o) := by
  intro hw _
  obtain ⟨w, d, a, b, _ | _⟩ := o
  · refine decode_1 (.A 5 b.val a.val d.val) (by decide) (by simp [Fields.fits]) hw fun r hp hq => ?_
    obtain ⟨he, hf, hb, ha, hd⟩ := hq
    simp [decodeRaw, dec13, Raw.one, ck, hp.w, hp.major, hp.long, hp.lit, he, hb, ha, hd]
  · refine decode_1 (.A 21 b.val a.val d.val) (by decide) (by simp [Fields.fits]) hw fun r hp hq => ?_
    obtain ⟨he, hf, hb, ha, hd⟩ := hq
    simp [decodeRaw, dec13, Raw.one, ck, hp.w, hp.major, hp.long, hp.lit, he, hb, ha, hd]
theorem amoMinu (o : OpsAmo) : Statement (.amoMinu o) := by
  intro hw _
  obtain ⟨w, d, a, b, _ | _⟩ := o
  · refine decode_1 (.A 6 b.val a.val d.val) (by decide) (by simp [Fields.fits]) hw fun r hp hq => ?_
    obtain ⟨he, hf, hb, ha, hd⟩ := hq
    simp [decodeRaw, dec13, Raw.one, ck, hp.w, hp.major, hp.long, hp.lit, he, hb, ha, hd]
  · refine decode_1 (.A 22 b.val a.val d.val) (by decide) (by simp [Fields.fits]) hw fun r hp hq => ?_
    obtain ⟨he, hf, hb, ha, hd⟩ := hq
    simp [decodeRaw, dec13, Raw.one, ck, hp.w, hp.major, hp.long, hp.lit, he, hb, ha, hd]
theorem amoMaxu (o : OpsAmo) : Statement (.amoMaxu o) := by
  intro hw _
  obtain ⟨w, d, a, b, _ | _⟩ := o
  · refine decode_1 (.A 7 b.val a.val d.val) (by decide) (by simp [Fields.fits]) hw fun r hp hq => ?_
    obtain ⟨he, hf, hb, ha, hd⟩ := hq
    simp [decodeRaw, dec13, Raw.one, ck, hp.w, hp.major, hp.long, hp.lit, he, hb, ha, hd]
  · refine decode_1 (.A 23 b.val a.val d.val) (by decide) (by simp [Fields.fits]) hw fun r hp hq => ?_
    obtain ⟨he, hf, hb, ha, hd⟩ := hq
    simp [decodeRaw, dec13, Raw.one, ck, hp.w, hp.major, hp.long, hp.lit, he, hb, ha, hd]
theorem amoSwap (o : OpsAmo) : Statement (.amoSwap o) := by
  intro hw _
  obtain ⟨w, d, a, b, _ | _⟩ := o
  · refine decode_1 (.A 8 b.val a.val d.val) (by decide) (by simp [Fields.fits]) hw fun r hp hq => ?_
    obtain ⟨he, hf, hb, ha, hd⟩ := hq
    simp [decodeRaw, dec13, Raw.one, ck, hp.w, hp.major, hp.long, hp.lit, he, hb, ha, hd]
  · refine decode_1 (.A 24 b.val a.val d.val) (by decide) (by simp [Fields.fits]) hw fun r hp hq => ?_
    obtain ⟨he, hf, hb, ha, hd⟩ := hq
    simp [decodeRaw, dec13, Raw.one, ck, hp.w, hp.major, hp.long, hp.lit, he, hb, ha, hd]
theorem amoCas (o : OpsAmo) : Statement (.amoCas o) := by
  intro hw _
  obtain ⟨w, d, a, b, _ | _⟩ := o
  · refine decode_1 (.A 9 b.val a.val d.val) (by decide) (by simp [Fields.fits]) hw fun r hp hq => ?_
    obtain ⟨he, hf, hb, ha, hd⟩ := hq
    simp [decodeRaw, dec13, Raw.one, ck, hp.w, hp.major, hp.long, hp.lit, he, hb, ha, hd]
  · refine decode_1 (.A 25 b.val a.val d.val) (by decide) (by simp [Fields.fits]) hw fun r hp hq => ?_
    obtain ⟨he, hf, hb, ha, hd⟩ := hq
    simp [decodeRaw, dec13, Raw.one, ck, hp.w, hp.major, hp.long, hp.lit, he, hb, ha, hd]
theorem amoFaddF32 (o : OpsDAB) : Statement (.amoFaddF32 o) := by
  intro hw _
  refine decode_1 (.A 10 o.b.val o.a.val o.d.val) (by decide) (by simp [Fields.fits]) hw fun r hp hq => ?_
  obtain ⟨he, hf, hb, ha, hd⟩ := hq
  simp [decodeRaw, dec13, Raw.one, Raw.opsDAB, ck, hp.w, hp.major, hp.long, hp.lit, he, hb, ha, hd]
theorem amoFaddBf16x2 (o : OpsDAB) : Statement (.amoFaddBf16x2 o) := by
  intro hw _
  refine decode_1 (.A 11 o.b.val o.a.val o.d.val) (by decide) (by simp [Fields.fits]) hw fun r hp hq => ?_
  obtain ⟨he, hf, hb, ha, hd⟩ := hq
  simp [decodeRaw, dec13, Raw.one, Raw.opsDAB, ck, hp.w, hp.major, hp.long, hp.lit, he, hb, ha, hd]
theorem fence (o : OpsFence) : Statement (.fence o) := by
  intro hw _
  have hf0 := fence_fields o.kind o.scope
  refine decode_1 (.A (fenceNum o.kind + 4 * scopeNum o.scope) 0 0 0) (by decide) (by simp [Fields.fits, hf0]) hw fun r hp hq => ?_
  obtain ⟨he, hf, hb, ha, hd⟩ := hq
  simp [decodeRaw, dec14, Raw.one, Raw.zd, Raw.za, ck, ckSome, hp.w, hp.major, hp.long, hp.lit, he, hf, ha, hd, scopeOf_scopeNum, hf0]
theorem drain (o : OpsW) : Statement (.drain o) := by
  intro hw _
  refine decode_1 (.A 0 1 0 0) (by decide) (by simp [Fields.fits]) hw fun r hp hq => ?_
  obtain ⟨he, hf, hb, ha, hd⟩ := hq
  simp [decodeRaw, dec14, Raw.one, Raw.opsW, Raw.zd, Raw.za, Raw.zc, ck, hp.w, hp.major, hp.long, hp.lit, he, hf, ha, hd]
theorem feClr (o : OpsFe) : Statement (.feClr o) := by
  intro hw _
  refine decode_1 (.A o.n1.toNat 0 o.a.val 0) (by decide) (by simp [Fields.fits, bv8_lt]) hw fun r hp hq => ?_
  obtain ⟨he, hf, hb, ha, hd⟩ := hq
  simp [decodeRaw, dec15, Raw.one, Raw.zd, ck, hp.w, hp.major, hp.long, hp.lit, he, hf, ha, hd]
theorem feSet (o : OpsFe) : Statement (.feSet o) := by
  intro hw _
  refine decode_1 (.A o.n1.toNat 1 o.a.val 0) (by decide) (by simp [Fields.fits, bv8_lt]) hw fun r hp hq => ?_
  obtain ⟨he, hf, hb, ha, hd⟩ := hq
  simp [decodeRaw, dec15, Raw.one, Raw.zd, ck, hp.w, hp.major, hp.long, hp.lit, he, hf, ha, hd]
theorem feTest (o : OpsDA) : Statement (.feTest o) := by
  intro hw _
  refine decode_1 (.A 0 2 o.a.val o.d.val) (by decide) (by simp [Fields.fits]) hw fun r hp hq => ?_
  obtain ⟨he, hf, hb, ha, hd⟩ := hq
  simp [decodeRaw, dec15, Raw.one, Raw.opsDA, Raw.zc, ck, hp.w, hp.major, hp.long, hp.lit, he, hf, ha, hd]
theorem fePeek (o : OpsDA) : Statement (.fePeek o) := by
  intro hw _
  refine decode_1 (.A 0 3 o.a.val o.d.val) (by decide) (by simp [Fields.fits]) hw fun r hp hq => ?_
  obtain ⟨he, hf, hb, ha, hd⟩ := hq
  simp [decodeRaw, dec15, Raw.one, Raw.opsDA, Raw.zc, ck, hp.w, hp.major, hp.long, hp.lit, he, hf, ha, hd]
theorem winSet (o : OpsWinSet) : Statement (.winSet o) := by
  intro hw _
  refine decode_1 (.A o.e.val 0 o.a.val o.d.val) (by decide) (by simp [Fields.fits, entry_lt]) hw fun r hp hq => ?_
  obtain ⟨he, hf, hb, ha, hd⟩ := hq
  simp [decodeRaw, dec16, Raw.one, ck, hp.w, hp.major, hp.long, hp.lit, he, hf, ha, hd]
theorem winDrop (o : OpsWin) : Statement (.winDrop o) := by
  intro hw _
  refine decode_1 (.A o.e.val 1 0 0) (by decide) (by simp [Fields.fits, entry_lt]) hw fun r hp hq => ?_
  obtain ⟨he, hf, hb, ha, hd⟩ := hq
  simp [decodeRaw, dec16, Raw.one, Raw.zd, Raw.za, ck, hp.w, hp.major, hp.long, hp.lit, he, hf, ha, hd]
theorem winTouch (o : OpsWin) : Statement (.winTouch o) := by
  intro hw _
  refine decode_1 (.A o.e.val 2 0 0) (by decide) (by simp [Fields.fits, entry_lt]) hw fun r hp hq => ?_
  obtain ⟨he, hf, hb, ha, hd⟩ := hq
  simp [decodeRaw, dec16, Raw.one, Raw.zd, Raw.za, ck, hp.w, hp.major, hp.long, hp.lit, he, hf, ha, hd]
theorem winState (o : OpsWinState) : Statement (.winState o) := by
  intro hw _
  refine decode_1 (.A o.e.val 3 0 o.d.val) (by decide) (by simp [Fields.fits, entry_lt]) hw fun r hp hq => ?_
  obtain ⟨he, hf, hb, ha, hd⟩ := hq
  simp [decodeRaw, dec16, Raw.one, Raw.za, ck, hp.w, hp.major, hp.long, hp.lit, he, hf, ha, hd]
theorem copy (o : OpsA) : Statement (.copy o) := by
  intro hw _
  refine decode_1 (.A 0 0 o.a.val 0) (by decide) (by simp [Fields.fits]) hw fun r hp hq => ?_
  obtain ⟨he, hf, hb, ha, hd⟩ := hq
  simp [decodeRaw, dec17, Raw.one, Raw.opsA, Raw.zd, Raw.zc, ck, hp.w, hp.major, hp.long, hp.lit, he, hf, ha, hd]
theorem copySt (o : OpsDA) : Statement (.copySt o) := by
  intro hw _
  refine decode_1 (.A 0 1 o.a.val o.d.val) (by decide) (by simp [Fields.fits]) hw fun r hp hq => ?_
  obtain ⟨he, hf, hb, ha, hd⟩ := hq
  simp [decodeRaw, dec17, Raw.one, Raw.opsDA, Raw.zc, ck, hp.w, hp.major, hp.long, hp.lit, he, hf, ha, hd]
theorem send (o : OpsSend) : Statement (.send o) := by
  intro hw _
  have hf0 := msg_fields (g := 0) (x := o.ctx) (by decide) (bv7_lt o.bytes) o.cls.isLt
  refine decode_3 (.A 0 o.b.val o.a.val 0) (by decide) (by simp [Fields.fits]) hw fun r hp hq => ?_
  obtain ⟨he, hf, hb, ha, hd⟩ := hq
  obtain ⟨k1, k2, k3, k4, k5, k6, k7, k8⟩ := word1_read hp.w1 (by simp) (by simp) (by simp) (by simp) (by simp [bv8_lt]) (by simp [bv8_lt])
  have k9 : r.w1less false false false false false false true = 0 := by
    refine w1less_word1 hp.w1 ?_ ?_ ?_ ?_ ?_ ?_ ?_ ?_ ?_ ?_ ?_ ?_ ?_ <;> simp [bv8_lt]
  simp [decodeRaw, dec18, Raw.three, Raw.zd, Raw.msgCls, Raw.msgCtx, Raw.msgBytes, Raw.msgGid, ck, hp.w, hp.major, hp.long, hp.lit, hp.w2, he, hb, ha, hd, k7, k8, k9, hf0]
  omega
theorem sendv (o : OpsSendv) : Statement (.sendv o) := by
  intro hw _
  have hf0 := msg_fields (g := 0) (n := 0) (x := o.ctx) (by decide) (by decide) o.cls.isLt
  refine decode_3 (.A 1 o.b.val o.a.val 0) (by decide) (by simp [Fields.fits]) hw fun r hp hq => ?_
  obtain ⟨he, hf, hb, ha, hd⟩ := hq
  obtain ⟨k1, k2, k3, k4, k5, k6, k7, k8⟩ := word1_read hp.w1 (by simp) (by simp) (by simp) (by simp) (by simp [bv8_lt]) (by simp [bv8_lt])
  have k9 : r.w1less false false false false false false true = 0 := by
    refine w1less_word1 hp.w1 ?_ ?_ ?_ ?_ ?_ ?_ ?_ ?_ ?_ ?_ ?_ ?_ ?_ <;> simp [bv8_lt]
  simp [decodeRaw, dec18, Raw.three, Raw.zd, Raw.msgCls, Raw.msgCtx, Raw.msgBytes, Raw.msgGid, ck, hp.w, hp.major, hp.long, hp.lit, hp.w2, he, hb, ha, hd, k7, k8, k9, hf0]
  omega
theorem mcast (o : OpsMcast) : Statement (.mcast o) := by
  intro hw _
  have hf0 := msg_fields (x := o.ctx) o.gid.isLt (bv7_lt o.bytes) o.cls.isLt
  refine decode_3 (.A 2 0 o.a.val 0) (by decide) (by simp [Fields.fits]) hw fun r hp hq => ?_
  obtain ⟨he, hf, hb, ha, hd⟩ := hq
  simp [decodeRaw, dec18, Raw.three, Raw.zd, Raw.zb, Raw.msgCls, Raw.msgCtx, Raw.msgBytes, Raw.msgGid, ck, hp.w, hp.major, hp.long, hp.lit, hp.w1, hp.w2, he, hb, ha, hd, hf0]
  omega
theorem grpArm (o : OpsArm) : Statement (.grpArm o) := by
  intro hw _
  have hf0 := arm_fields o.gid o.timeout o.yfirst o.i64
  refine decode_3 (.A 0 o.b.val o.a.val o.d.val) (by decide) (by simp [Fields.fits]) hw fun r hp hq => ?_
  obtain ⟨he, hf, hb, ha, hd⟩ := hq
  obtain ⟨k1, k2, k3, k4, k5, k6, k7, k8⟩ := word1_read hp.w1 (by simp) (by simp) (by simp) (by simp) (by simp [bv8_lt]) (by simp [bv8_lt])
  have k9 : r.w1less false false false false false false true = 0 := by
    refine w1less_word1 hp.w1 ?_ ?_ ?_ ?_ ?_ ?_ ?_ ?_ ?_ ?_ ?_ ?_ ?_ <;> simp [bv8_lt]
  simp [decodeRaw, dec19, Raw.three, ck, hp.w, hp.major, hp.long, hp.lit, hp.w2, he, hb, ha, hd, k7, k8, k9, hf0]
theorem redF32 (o : OpsRed) : Statement (.redF32 o) := by
  intro hw _
  have hf0 := gid_fields o.gid
  refine decode_3 (.A 1 0 o.a.val 0) (by decide) (by simp [Fields.fits]) hw fun r hp hq => ?_
  obtain ⟨he, hf, hb, ha, hd⟩ := hq
  simp [decodeRaw, dec19, Raw.three, Raw.zd, Raw.zb, ck, hp.w, hp.major, hp.long, hp.lit, hp.w1, hp.w2, he, hb, ha, hd, hf0]
theorem redI64 (o : OpsRed) : Statement (.redI64 o) := by
  intro hw _
  have hf0 := gid_fields o.gid
  refine decode_3 (.A 2 0 o.a.val 0) (by decide) (by simp [Fields.fits]) hw fun r hp hq => ?_
  obtain ⟨he, hf, hb, ha, hd⟩ := hq
  simp [decodeRaw, dec19, Raw.three, Raw.zd, Raw.zb, ck, hp.w, hp.major, hp.long, hp.lit, hp.w1, hp.w2, he, hb, ha, hd, hf0]
theorem grpWait (o : OpsGrp) : Statement (.grpWait o) := by
  intro hw _
  have hf0 := gid_fields o.gid
  refine decode_3 (.A 3 0 0 o.d.val) (by decide) (by simp [Fields.fits]) hw fun r hp hq => ?_
  obtain ⟨he, hf, hb, ha, hd⟩ := hq
  simp [decodeRaw, dec19, Raw.three, Raw.za, Raw.zb, ck, hp.w, hp.major, hp.long, hp.lit, hp.w1, hp.w2, he, hb, ha, hd, hf0]
theorem grpFree (o : OpsGrp) : Statement (.grpFree o) := by
  intro hw _
  have hf0 := gid_fields o.gid
  refine decode_3 (.A 4 0 0 o.d.val) (by decide) (by simp [Fields.fits]) hw fun r hp hq => ?_
  obtain ⟨he, hf, hb, ha, hd⟩ := hq
  simp [decodeRaw, dec19, Raw.three, Raw.za, Raw.zb, ck, hp.w, hp.major, hp.long, hp.lit, hp.w1, hp.w2, he, hb, ha, hd, hf0]
theorem done (o : OpsW) : Statement (.done o) := by
  intro hw _
  refine decode_1 (.A 0 0 0 0) (by decide) (by simp [Fields.fits]) hw fun r hp hq => ?_
  obtain ⟨he, hf, hb, ha, hd⟩ := hq
  simp [decodeRaw, dec1A, Raw.one, Raw.opsW, Raw.zd, Raw.za, Raw.zc, ck, hp.w, hp.major, hp.long, hp.lit, he, hf, ha, hd]
theorem yield (o : OpsW) : Statement (.yield o) := by
  intro hw _
  refine decode_1 (.A 0 1 0 0) (by decide) (by simp [Fields.fits]) hw fun r hp hq => ?_
  obtain ⟨he, hf, hb, ha, hd⟩ := hq
  simp [decodeRaw, dec1A, Raw.one, Raw.opsW, Raw.zd, Raw.za, Raw.zc, ck, hp.w, hp.major, hp.long, hp.lit, he, hf, ha, hd]
theorem rngPush (o : OpsPush) : Statement (.rngPush o) := by
  intro hw _
  refine decode_1 (.A o.cls.toNat 2 o.a.val o.d.val) (by decide) (by simp [Fields.fits, bv8_lt]) hw fun r hp hq => ?_
  obtain ⟨he, hf, hb, ha, hd⟩ := hq
  simp [decodeRaw, dec1A, Raw.one, ck, hp.w, hp.major, hp.long, hp.lit, he, hf, ha, hd]
theorem rngTake (o : OpsDA) : Statement (.rngTake o) := by
  intro hw _
  refine decode_1 (.A 0 3 o.a.val o.d.val) (by decide) (by simp [Fields.fits]) hw fun r hp hq => ?_
  obtain ⟨he, hf, hb, ha, hd⟩ := hq
  simp [decodeRaw, dec1A, Raw.one, Raw.opsDA, Raw.zc, ck, hp.w, hp.major, hp.long, hp.lit, he, hf, ha, hd]
theorem launch (o : OpsLaunch) : Statement (.launch o) := by
  intro hw _
  obtain ⟨w, d, a, _ | _⟩ := o
  · refine decode_1 (.A 0 0 a.val d.val) (by decide) (by simp [Fields.fits]) hw fun r hp hq => ?_
    obtain ⟨he, hf, hb, ha, hd⟩ := hq
    simp [decodeRaw, dec1B, Raw.one, ck, hp.w, hp.major, hp.long, hp.lit, he, hf, ha, hd]
  · refine decode_1 (.A 1 0 a.val d.val) (by decide) (by simp [Fields.fits]) hw fun r hp hq => ?_
    obtain ⟨he, hf, hb, ha, hd⟩ := hq
    simp [decodeRaw, dec1B, Raw.one, ck, hp.w, hp.major, hp.long, hp.lit, he, hf, ha, hd]
theorem join (o : OpsD) : Statement (.join o) := by
  intro hw _
  refine decode_1 (.A 0 1 0 o.d.val) (by decide) (by simp [Fields.fits]) hw fun r hp hq => ?_
  obtain ⟨he, hf, hb, ha, hd⟩ := hq
  simp [decodeRaw, dec1B, Raw.one, Raw.opsD, Raw.za, Raw.zc, ck, hp.w, hp.major, hp.long, hp.lit, he, hf, ha, hd]
theorem replay (o : OpsReplay) : Statement (.replay o) := by
  intro hw _
  refine decode_1 (.A o.n.toNat 2 o.a.val o.d.val) (by decide) (by simp [Fields.fits, bv8_lt]) hw fun r hp hq => ?_
  obtain ⟨he, hf, hb, ha, hd⟩ := hq
  simp [decodeRaw, dec1B, Raw.one, ck, hp.w, hp.major, hp.long, hp.lit, he, hf, ha, hd]
theorem lnstat (o : OpsLnstat) : Statement (.lnstat o) := by
  intro hw _
  obtain ⟨w, d, a, _ | _⟩ := o
  · refine decode_1 (.A 0 3 a.val d.val) (by decide) (by simp [Fields.fits]) hw fun r hp hq => ?_
    obtain ⟨he, hf, hb, ha, hd⟩ := hq
    simp [decodeRaw, dec1B, Raw.one, ck, hp.w, hp.major, hp.long, hp.lit, he, hf, ha, hd]
  · refine decode_1 (.A 1 3 a.val d.val) (by decide) (by simp [Fields.fits]) hw fun r hp hq => ?_
    obtain ⟨he, hf, hb, ha, hd⟩ := hq
    simp [decodeRaw, dec1B, Raw.one, ck, hp.w, hp.major, hp.long, hp.lit, he, hf, ha, hd]
theorem chOpen (o : OpsDA) : Statement (.chOpen o) := by
  intro hw _
  refine decode_1 (.A 0 0 o.a.val o.d.val) (by decide) (by simp [Fields.fits]) hw fun r hp hq => ?_
  obtain ⟨he, hf, hb, ha, hd⟩ := hq
  simp [decodeRaw, dec1C, Raw.one, Raw.opsDA, Raw.zc, ck, hp.w, hp.major, hp.long, hp.lit, he, hf, ha, hd]
theorem chW (o : OpsDA) : Statement (.chW o) := by
  intro hw _
  refine decode_1 (.A 0 1 o.a.val o.d.val) (by decide) (by simp [Fields.fits]) hw fun r hp hq => ?_
  obtain ⟨he, hf, hb, ha, hd⟩ := hq
  simp [decodeRaw, dec1C, Raw.one, Raw.opsDA, Raw.zc, ck, hp.w, hp.major, hp.long, hp.lit, he, hf, ha, hd]
theorem chWv (o : OpsDA) : Statement (.chWv o) := by
  intro hw _
  refine decode_1 (.A 0 2 o.a.val o.d.val) (by decide) (by simp [Fields.fits]) hw fun r hp hq => ?_
  obtain ⟨he, hf, hb, ha, hd⟩ := hq
  simp [decodeRaw, dec1C, Raw.one, Raw.opsDA, Raw.zc, ck, hp.w, hp.major, hp.long, hp.lit, he, hf, ha, hd]
theorem chR (o : OpsDA) : Statement (.chR o) := by
  intro hw _
  refine decode_1 (.A 0 3 o.a.val o.d.val) (by decide) (by simp [Fields.fits]) hw fun r hp hq => ?_
  obtain ⟨he, hf, hb, ha, hd⟩ := hq
  simp [decodeRaw, dec1C, Raw.one, Raw.opsDA, Raw.zc, ck, hp.w, hp.major, hp.long, hp.lit, he, hf, ha, hd]
theorem chRv (o : OpsDA) : Statement (.chRv o) := by
  intro hw _
  refine decode_1 (.A 0 4 o.a.val o.d.val) (by decide) (by simp [Fields.fits]) hw fun r hp hq => ?_
  obtain ⟨he, hf, hb, ha, hd⟩ := hq
  simp [decodeRaw, dec1C, Raw.one, Raw.opsDA, Raw.zc, ck, hp.w, hp.major, hp.long, hp.lit, he, hf, ha, hd]
theorem chAvail (o : OpsDA) : Statement (.chAvail o) := by
  intro hw _
  refine decode_1 (.A 0 5 o.a.val o.d.val) (by decide) (by simp [Fields.fits]) hw fun r hp hq => ?_
  obtain ⟨he, hf, hb, ha, hd⟩ := hq
  simp [decodeRaw, dec1C, Raw.one, Raw.opsDA, Raw.zc, ck, hp.w, hp.major, hp.long, hp.lit, he, hf, ha, hd]
theorem chSpace (o : OpsDA) : Statement (.chSpace o) := by
  intro hw _
  refine decode_1 (.A 0 6 o.a.val o.d.val) (by decide) (by simp [Fields.fits]) hw fun r hp hq => ?_
  obtain ⟨he, hf, hb, ha, hd⟩ := hq
  simp [decodeRaw, dec1C, Raw.one, Raw.opsDA, Raw.zc, ck, hp.w, hp.major, hp.long, hp.lit, he, hf, ha, hd]
theorem chRes (o : OpsRes) : Statement (.chRes o) := by
  intro hw _
  refine decode_1 (.A o.n1.toNat 7 o.a.val o.d.val) (by decide) (by simp [Fields.fits, bv8_lt]) hw fun r hp hq => ?_
  obtain ⟨he, hf, hb, ha, hd⟩ := hq
  simp [decodeRaw, dec1C, Raw.one, ck, hp.w, hp.major, hp.long, hp.lit, he, hf, ha, hd]
theorem chPub (o : OpsPub) : Statement (.chPub o) := by
  intro hw _
  obtain ⟨w, d, a, _ | _⟩ := o
  · refine decode_1 (.A 0 8 a.val d.val) (by decide) (by simp [Fields.fits]) hw fun r hp hq => ?_
    obtain ⟨he, hf, hb, ha, hd⟩ := hq
    simp [decodeRaw, dec1C, Raw.one, ck, hp.w, hp.major, hp.long, hp.lit, he, hf, ha, hd]
  · refine decode_1 (.A 1 8 a.val d.val) (by decide) (by simp [Fields.fits]) hw fun r hp hq => ?_
    obtain ⟨he, hf, hb, ha, hd⟩ := hq
    simp [decodeRaw, dec1C, Raw.one, ck, hp.w, hp.major, hp.long, hp.lit, he, hf, ha, hd]
theorem chClose (o : OpsA) : Statement (.chClose o) := by
  intro hw _
  refine decode_1 (.A 0 9 o.a.val 0) (by decide) (by simp [Fields.fits]) hw fun r hp hq => ?_
  obtain ⟨he, hf, hb, ha, hd⟩ := hq
  simp [decodeRaw, dec1C, Raw.one, Raw.opsA, Raw.zd, Raw.zc, ck, hp.w, hp.major, hp.long, hp.lit, he, hf, ha, hd]
theorem dqEmit (o : OpsDA) : Statement (.dqEmit o) := by
  intro hw _
  refine decode_1 (.A 0 0 o.a.val o.d.val) (by decide) (by simp [Fields.fits]) hw fun r hp hq => ?_
  obtain ⟨he, hf, hb, ha, hd⟩ := hq
  simp [decodeRaw, dec1D, Raw.one, Raw.opsDA, Raw.zc, ck, hp.w, hp.major, hp.long, hp.lit, he, hf, ha, hd]
theorem dqRead (o : OpsDA) : Statement (.dqRead o) := by
  intro hw _
  refine decode_1 (.A 0 1 o.a.val o.d.val) (by decide) (by simp [Fields.fits]) hw fun r hp hq => ?_
  obtain ⟨he, hf, hb, ha, hd⟩ := hq
  simp [decodeRaw, dec1D, Raw.one, Raw.opsDA, Raw.zc, ck, hp.w, hp.major, hp.long, hp.lit, he, hf, ha, hd]
theorem dqCork (o : OpsA) : Statement (.dqCork o) := by
  intro hw _
  refine decode_1 (.A 0 2 o.a.val 0) (by decide) (by simp [Fields.fits]) hw fun r hp hq => ?_
  obtain ⟨he, hf, hb, ha, hd⟩ := hq
  simp [decodeRaw, dec1D, Raw.one, Raw.opsA, Raw.zd, Raw.zc, ck, hp.w, hp.major, hp.long, hp.lit, he, hf, ha, hd]
theorem dqCons (o : OpsDA) : Statement (.dqCons o) := by
  intro hw _
  refine decode_1 (.A 0 3 o.a.val o.d.val) (by decide) (by simp [Fields.fits]) hw fun r hp hq => ?_
  obtain ⟨he, hf, hb, ha, hd⟩ := hq
  simp [decodeRaw, dec1D, Raw.one, Raw.opsDA, Raw.zc, ck, hp.w, hp.major, hp.long, hp.lit, he, hf, ha, hd]
theorem dqQuiet (o : OpsD) : Statement (.dqQuiet o) := by
  intro hw _
  refine decode_1 (.A 0 4 0 o.d.val) (by decide) (by simp [Fields.fits]) hw fun r hp hq => ?_
  obtain ⟨he, hf, hb, ha, hd⟩ := hq
  simp [decodeRaw, dec1D, Raw.one, Raw.opsD, Raw.za, Raw.zc, ck, hp.w, hp.major, hp.long, hp.lit, he, hf, ha, hd]
theorem ixUpd (o : OpsDA) : Statement (.ixUpd o) := by
  intro hw _
  refine decode_1 (.A 0 0 o.a.val o.d.val) (by decide) (by simp [Fields.fits]) hw fun r hp hq => ?_
  obtain ⟨he, hf, hb, ha, hd⟩ := hq
  simp [decodeRaw, dec1E, Raw.one, Raw.opsDA, Raw.zc, ck, hp.w, hp.major, hp.long, hp.lit, he, hf, ha, hd]
theorem ixLook (o : OpsDA) : Statement (.ixLook o) := by
  intro hw _
  refine decode_1 (.A 0 1 o.a.val o.d.val) (by decide) (by simp [Fields.fits]) hw fun r hp hq => ?_
  obtain ⟨he, hf, hb, ha, hd⟩ := hq
  simp [decodeRaw, dec1E, Raw.one, Raw.opsDA, Raw.zc, ck, hp.w, hp.major, hp.long, hp.lit, he, hf, ha, hd]
theorem ixNext (o : OpsDA) : Statement (.ixNext o) := by
  intro hw _
  refine decode_1 (.A 0 2 o.a.val o.d.val) (by decide) (by simp [Fields.fits]) hw fun r hp hq => ?_
  obtain ⟨he, hf, hb, ha, hd⟩ := hq
  simp [decodeRaw, dec1E, Raw.one, Raw.opsDA, Raw.zc, ck, hp.w, hp.major, hp.long, hp.lit, he, hf, ha, hd]
theorem ixClear (o : OpsDA) : Statement (.ixClear o) := by
  intro hw _
  refine decode_1 (.A 0 3 o.a.val o.d.val) (by decide) (by simp [Fields.fits]) hw fun r hp hq => ?_
  obtain ⟨he, hf, hb, ha, hd⟩ := hq
  simp [decodeRaw, dec1E, Raw.one, Raw.opsDA, Raw.zc, ck, hp.w, hp.major, hp.long, hp.lit, he, hf, ha, hd]
theorem vadd (o : OpsVR) : Statement (.vadd o) := by
  intro hw _
  obtain ⟨w, fmt, d, a, b, _ | e⟩ := o
  · refine decode_1 (.V 0 (ffmtNum fmt) b.val a.val d.val) (by decide) (by simp [Fields.fits, ffmtNum_lt]) hw fun r hp hq => ?_
    obtain ⟨he, hf, hb, ha, hd⟩ := hq
    simp [decodeRaw, dec20, Raw.noLit, ck, ckSome, hp.w, hp.major, hp.long, hp.lit, hp.w1, hp.w2, he, hf, hb, ha, hd, w1less_of_zero, rm_of_zero, rmOf_zero, ffmtOf_ffmtNum]
  · refine decode_3 (.V 0 (ffmtNum fmt) b.val a.val d.val) (by decide) (by simp [Fields.fits, ffmtNum_lt]) hw fun r hp hq => ?_
    obtain ⟨he, hf, hb, ha, hd⟩ := hq
    obtain ⟨k1, k2, k3, k4, k5, k6, k7, k8⟩ := word1_read hp.w1 (by simp) (by simp [rmNum_lt]) (by simp) (by simp) (by simp) (by simp)
    have k9 : r.w1less false true false false true true false = 0 := by
      refine w1less_word1 hp.w1 ?_ ?_ ?_ ?_ ?_ ?_ ?_ ?_ ?_ ?_ ?_ ?_ ?_ <;> simp [rmNum_lt]
    simp [decodeRaw, dec20, Raw.noLit, ck, ckSome, hp.w, hp.major, hp.long, hp.lit, hp.w2, he, hf, hb, ha, hd, k2, k5, k6, k9, rmOf_rmNum, ffmtOf_ffmtNum]
theorem vsub (o : OpsVR) : Statement (.vsub o) := by
  intro hw _
  obtain ⟨w, fmt, d, a, b, _ | e⟩ := o
  · refine decode_1 (.V 1 (ffmtNum fmt) b.val a.val d.val) (by decide) (by simp [Fields.fits, ffmtNum_lt]) hw fun r hp hq => ?_
    obtain ⟨he, hf, hb, ha, hd⟩ := hq
    simp [decodeRaw, dec20, Raw.noLit, ck, ckSome, hp.w, hp.major, hp.long, hp.lit, hp.w1, hp.w2, he, hf, hb, ha, hd, w1less_of_zero, rm_of_zero, rmOf_zero, ffmtOf_ffmtNum]
  · refine decode_3 (.V 1 (ffmtNum fmt) b.val a.val d.val) (by decide) (by simp [Fields.fits, ffmtNum_lt]) hw fun r hp hq => ?_
    obtain ⟨he, hf, hb, ha, hd⟩ := hq
    obtain ⟨k1, k2, k3, k4, k5, k6, k7, k8⟩ := word1_read hp.w1 (by simp) (by simp [rmNum_lt]) (by simp) (by simp) (by simp) (by simp)
    have k9 : r.w1less false true false false true true false = 0 := by
      refine w1less_word1 hp.w1 ?_ ?_ ?_ ?_ ?_ ?_ ?_ ?_ ?_ ?_ ?_ ?_ ?_ <;> simp [rmNum_lt]
    simp [decodeRaw, dec20, Raw.noLit, ck, ckSome, hp.w, hp.major, hp.long, hp.lit, hp.w2, he, hf, hb, ha, hd, k2, k5, k6, k9, rmOf_rmNum, ffmtOf_ffmtNum]
theorem vmul (o : OpsVR) : Statement (.vmul o) := by
  intro hw _
  obtain ⟨w, fmt, d, a, b, _ | e⟩ := o
  · refine decode_1 (.V 2 (ffmtNum fmt) b.val a.val d.val) (by decide) (by simp [Fields.fits, ffmtNum_lt]) hw fun r hp hq => ?_
    obtain ⟨he, hf, hb, ha, hd⟩ := hq
    simp [decodeRaw, dec20, Raw.noLit, ck, ckSome, hp.w, hp.major, hp.long, hp.lit, hp.w1, hp.w2, he, hf, hb, ha, hd, w1less_of_zero, rm_of_zero, rmOf_zero, ffmtOf_ffmtNum]
  · refine decode_3 (.V 2 (ffmtNum fmt) b.val a.val d.val) (by decide) (by simp [Fields.fits, ffmtNum_lt]) hw fun r hp hq => ?_
    obtain ⟨he, hf, hb, ha, hd⟩ := hq
    obtain ⟨k1, k2, k3, k4, k5, k6, k7, k8⟩ := word1_read hp.w1 (by simp) (by simp [rmNum_lt]) (by simp) (by simp) (by simp) (by simp)
    have k9 : r.w1less false true false false true true false = 0 := by
      refine w1less_word1 hp.w1 ?_ ?_ ?_ ?_ ?_ ?_ ?_ ?_ ?_ ?_ ?_ ?_ ?_ <;> simp [rmNum_lt]
    simp [decodeRaw, dec20, Raw.noLit, ck, ckSome, hp.w, hp.major, hp.long, hp.lit, hp.w2, he, hf, hb, ha, hd, k2, k5, k6, k9, rmOf_rmNum, ffmtOf_ffmtNum]
theorem vmin (o : OpsVF2) : Statement (.vmin o) := by
  intro hw _
  obtain ⟨w, fmt, d, a, b, _ | e⟩ := o
  · refine decode_1 (.V 3 (ffmtNum fmt) b.val a.val d.val) (by decide) (by simp [Fields.fits, ffmtNum_lt]) hw fun r hp hq => ?_
    obtain ⟨he, hf, hb, ha, hd⟩ := hq
    simp [decodeRaw, dec20, Raw.noLit, Raw.onlyMask, Raw.extM, ck, ckSome, hp.w, hp.major, hp.long, hp.lit, hp.w1, hp.w2, he, hf, hb, ha, hd, w1less_of_zero, ffmtOf_ffmtNum]
  · refine decode_3 (.V 3 (ffmtNum fmt) b.val a.val d.val) (by decide) (by simp [Fields.fits, ffmtNum_lt]) hw fun r hp hq => ?_
    obtain ⟨he, hf, hb, ha, hd⟩ := hq
    obtain ⟨k1, k2, k3, k4, k5, k6, k7, k8⟩ := word1_read hp.w1 (by simp) (by simp) (by simp) (by simp) (by simp) (by simp)
    have k9 : r.w1less false false false false true true false = 0 := by
      refine w1less_word1 hp.w1 ?_ ?_ ?_ ?_ ?_ ?_ ?_ ?_ ?_ ?_ ?_ ?_ ?_ <;> simp
    simp [decodeRaw, dec20, Raw.noLit, Raw.onlyMask, Raw.extM, ck, ckSome, hp.w, hp.major, hp.long, hp.lit, hp.w2, he, hf, hb, ha, hd, k5, k6, k9, ffmtOf_ffmtNum]
theorem vmax (o : OpsVF2) : Statement (.vmax o) := by
  intro hw _
  obtain ⟨w, fmt, d, a, b, _ | e⟩ := o
  · refine decode_1 (.V 4 (ffmtNum fmt) b.val a.val d.val) (by decide) (by simp [Fields.fits, ffmtNum_lt]) hw fun r hp hq => ?_
    obtain ⟨he, hf, hb, ha, hd⟩ := hq
    simp [decodeRaw, dec20, Raw.noLit, Raw.onlyMask, Raw.extM, ck, ckSome, hp.w, hp.major, hp.long, hp.lit, hp.w1, hp.w2, he, hf, hb, ha, hd, w1less_of_zero, ffmtOf_ffmtNum]
  · refine decode_3 (.V 4 (ffmtNum fmt) b.val a.val d.val) (by decide) (by simp [Fields.fits, ffmtNum_lt]) hw fun r hp hq => ?_
    obtain ⟨he, hf, hb, ha, hd⟩ := hq
    obtain ⟨k1, k2, k3, k4, k5, k6, k7, k8⟩ := word1_read hp.w1 (by simp) (by simp) (by simp) (by simp) (by simp) (by simp)
    have k9 : r.w1less false false false false true true false = 0 := by
      refine w1less_word1 hp.w1 ?_ ?_ ?_ ?_ ?_ ?_ ?_ ?_ ?_ ?_ ?_ ?_ ?_ <;> simp
    simp [decodeRaw, dec20, Raw.noLit, Raw.onlyMask, Raw.extM, ck, ckSome, hp.w, hp.major, hp.long, hp.lit, hp.w2, he, hf, hb, ha, hd, k5, k6, k9, ffmtOf_ffmtNum]
theorem vabs (o : OpsVF1) : Statement (.vabs o) := by
  intro hw _
  obtain ⟨w, fmt, d, a, _ | e⟩ := o
  · refine decode_1 (.V 5 (ffmtNum fmt) 0 a.val d.val) (by decide) (by simp [Fields.fits, ffmtNum_lt]) hw fun r hp hq => ?_
    obtain ⟨he, hf, hb, ha, hd⟩ := hq
    simp [decodeRaw, dec20, Raw.noLit, Raw.onlyMask, Raw.extM, Raw.zb, ck, ckSome, hp.w, hp.major, hp.long, hp.lit, hp.w1, hp.w2, he, hf, hb, ha, hd, w1less_of_zero, ffmtOf_ffmtNum]
  · refine decode_3 (.V 5 (ffmtNum fmt) 0 a.val d.val) (by decide) (by simp [Fields.fits, ffmtNum_lt]) hw fun r hp hq => ?_
    obtain ⟨he, hf, hb, ha, hd⟩ := hq
    obtain ⟨k1, k2, k3, k4, k5, k6, k7, k8⟩ := word1_read hp.w1 (by simp) (by simp) (by simp) (by simp) (by simp) (by simp)
    have k9 : r.w1less false false false false true true false = 0 := by
      refine w1less_word1 hp.w1 ?_ ?_ ?_ ?_ ?_ ?_ ?_ ?_ ?_ ?_ ?_ ?_ ?_ <;> simp
    simp [decodeRaw, dec20, Raw.noLit, Raw.onlyMask, Raw.extM, Raw.zb, ck, ckSome, hp.w, hp.major, hp.long, hp.lit, hp.w2, he, hf, hb, ha, hd, k5, k6, k9, ffmtOf_ffmtNum]
theorem vneg (o : OpsVF1) : Statement (.vneg o) := by
  intro hw _
  obtain ⟨w, fmt, d, a, _ | e⟩ := o
  · refine decode_1 (.V 6 (ffmtNum fmt) 0 a.val d.val) (by decide) (by simp [Fields.fits, ffmtNum_lt]) hw fun r hp hq => ?_
    obtain ⟨he, hf, hb, ha, hd⟩ := hq
    simp [decodeRaw, dec20, Raw.noLit, Raw.onlyMask, Raw.extM, Raw.zb, ck, ckSome, hp.w, hp.major, hp.long, hp.lit, hp.w1, hp.w2, he, hf, hb, ha, hd, w1less_of_zero, ffmtOf_ffmtNum]
  · refine decode_3 (.V 6 (ffmtNum fmt) 0 a.val d.val) (by decide) (by simp [Fields.fits, ffmtNum_lt]) hw fun r hp hq => ?_
    obtain ⟨he, hf, hb, ha, hd⟩ := hq
    obtain ⟨k1, k2, k3, k4, k5, k6, k7, k8⟩ := word1_read hp.w1 (by simp) (by simp) (by simp) (by simp) (by simp) (by simp)
    have k9 : r.w1less false false false false true true false = 0 := by
      refine w1less_word1 hp.w1 ?_ ?_ ?_ ?_ ?_ ?_ ?_ ?_ ?_ ?_ ?_ ?_ ?_ <;> simp
    simp [decodeRaw, dec20, Raw.noLit, Raw.onlyMask, Raw.extM, Raw.zb, ck, ckSome, hp.w, hp.major, hp.long, hp.lit, hp.w2, he, hf, hb, ha, hd, k5, k6, k9, ffmtOf_ffmtNum]
theorem vrsqe (o : OpsVF1) : Statement (.vrsqe o) := by
  intro hw _
  obtain ⟨w, fmt, d, a, _ | e⟩ := o
  · refine decode_1 (.V 7 (ffmtNum fmt) 0 a.val d.val) (by decide) (by simp [Fields.fits, ffmtNum_lt]) hw fun r hp hq => ?_
    obtain ⟨he, hf, hb, ha, hd⟩ := hq
    simp [decodeRaw, dec20, Raw.noLit, Raw.onlyMask, Raw.extM, Raw.zb, ck, ckSome, hp.w, hp.major, hp.long, hp.lit, hp.w1, hp.w2, he, hf, hb, ha, hd, w1less_of_zero, ffmtOf_ffmtNum]
  · refine decode_3 (.V 7 (ffmtNum fmt) 0 a.val d.val) (by decide) (by simp [Fields.fits, ffmtNum_lt]) hw fun r hp hq => ?_
    obtain ⟨he, hf, hb, ha, hd⟩ := hq
    obtain ⟨k1, k2, k3, k4, k5, k6, k7, k8⟩ := word1_read hp.w1 (by simp) (by simp) (by simp) (by simp) (by simp) (by simp)
    have k9 : r.w1less false false false false true true false = 0 := by
      refine w1less_word1 hp.w1 ?_ ?_ ?_ ?_ ?_ ?_ ?_ ?_ ?_ ?_ ?_ ?_ ?_ <;> simp
    simp [decodeRaw, dec20, Raw.noLit, Raw.onlyMask, Raw.extM, Raw.zb, ck, ckSome, hp.w, hp.major, hp.long, hp.lit, hp.w2, he, hf, hb, ha, hd, k5, k6, k9, ffmtOf_ffmtNum]
theorem vrcpe (o : OpsVF1) : Statement (.vrcpe o) := by
  intro hw _
  obtain ⟨w, fmt, d, a, _ | e⟩ := o
  · refine decode_1 (.V 8 (ffmtNum fmt) 0 a.val d.val) (by decide) (by simp [Fields.fits, ffmtNum_lt]) hw fun r hp hq => ?_
    obtain ⟨he, hf, hb, ha, hd⟩ := hq
    simp [decodeRaw, dec20, Raw.noLit, Raw.onlyMask, Raw.extM, Raw.zb, ck, ckSome, hp.w, hp.major, hp.long, hp.lit, hp.w1, hp.w2, he, hf, hb, ha, hd, w1less_of_zero, ffmtOf_ffmtNum]
  · refine decode_3 (.V 8 (ffmtNum fmt) 0 a.val d.val) (by decide) (by simp [Fields.fits, ffmtNum_lt]) hw fun r hp hq => ?_
    obtain ⟨he, hf, hb, ha, hd⟩ := hq
    obtain ⟨k1, k2, k3, k4, k5, k6, k7, k8⟩ := word1_read hp.w1 (by simp) (by simp) (by simp) (by simp) (by simp) (by simp)
    have k9 : r.w1less false false false false true true false = 0 := by
      refine w1less_word1 hp.w1 ?_ ?_ ?_ ?_ ?_ ?_ ?_ ?_ ?_ ?_ ?_ ?_ ?_ <;> simp
    simp [decodeRaw, dec20, Raw.noLit, Raw.onlyMask, Raw.extM, Raw.zb, ck, ckSome, hp.w, hp.major, hp.long, hp.lit, hp.w2, he, hf, hb, ha, hd, k5, k6, k9, ffmtOf_ffmtNum]
theorem vexp2 (o : OpsVF1) : Statement (.vexp2 o) := by
  intro hw _
  obtain ⟨w, fmt, d, a, _ | e⟩ := o
  · refine decode_1 (.V 9 (ffmtNum fmt) 0 a.val d.val) (by decide) (by simp [Fields.fits, ffmtNum_lt]) hw fun r hp hq => ?_
    obtain ⟨he, hf, hb, ha, hd⟩ := hq
    simp [decodeRaw, dec20, Raw.noLit, Raw.onlyMask, Raw.extM, Raw.zb, ck, ckSome, hp.w, hp.major, hp.long, hp.lit, hp.w1, hp.w2, he, hf, hb, ha, hd, w1less_of_zero, ffmtOf_ffmtNum]
  · refine decode_3 (.V 9 (ffmtNum fmt) 0 a.val d.val) (by decide) (by simp [Fields.fits, ffmtNum_lt]) hw fun r hp hq => ?_
    obtain ⟨he, hf, hb, ha, hd⟩ := hq
    obtain ⟨k1, k2, k3, k4, k5, k6, k7, k8⟩ := word1_read hp.w1 (by simp) (by simp) (by simp) (by simp) (by simp) (by simp)
    have k9 : r.w1less false false false false true true false = 0 := by
      refine w1less_word1 hp.w1 ?_ ?_ ?_ ?_ ?_ ?_ ?_ ?_ ?_ ?_ ?_ ?_ ?_ <;> simp
    simp [decodeRaw, dec20, Raw.noLit, Raw.onlyMask, Raw.extM, Raw.zb, ck, ckSome, hp.w, hp.major, hp.long, hp.lit, hp.w2, he, hf, hb, ha, hd, k5, k6, k9, ffmtOf_ffmtNum]
theorem vfeq (o : OpsVFC) : Statement (.vfeq o) := by
  intro hw _
  obtain ⟨w, fmt, d, a, b, _ | e⟩ := o
  · refine decode_1 (.V 10 (ffmtNum fmt) b.val a.val d.val) (by decide) (by simp [Fields.fits, ffmtNum_lt, mask_lt]) hw fun r hp hq => ?_
    obtain ⟨he, hf, hb, ha, hd⟩ := hq
    simp [decodeRaw, dec20, Raw.noLit, Raw.onlyMask, Raw.extM, ck, ckSome, hp.w, hp.major, hp.long, hp.lit, hp.w1, hp.w2, he, hf, hb, ha, hd, w1less_of_zero, ffmtOf_ffmtNum, maskOf_val, -Fin.ofNat_eq_cast]
  · refine decode_3 (.V 10 (ffmtNum fmt) b.val a.val d.val) (by decide) (by simp [Fields.fits, ffmtNum_lt, mask_lt]) hw fun r hp hq => ?_
    obtain ⟨he, hf, hb, ha, hd⟩ := hq
    obtain ⟨k1, k2, k3, k4, k5, k6, k7, k8⟩ := word1_read hp.w1 (by simp) (by simp) (by simp) (by simp) (by simp) (by simp)
    have k9 : r.w1less false false false false true true false = 0 := by
      refine w1less_word1 hp.w1 ?_ ?_ ?_ ?_ ?_ ?_ ?_ ?_ ?_ ?_ ?_ ?_ ?_ <;> simp
    simp [decodeRaw, dec20, Raw.noLit, Raw.onlyMask, Raw.extM, ck, ckSome, hp.w, hp.major, hp.long, hp.lit, hp.w2, he, hf, hb, ha, hd, k5, k6, k9, ffmtOf_ffmtNum, maskOf_val, -Fin.ofNat_eq_cast]
theorem vflt (o : OpsVFC) : Statement (.vflt o) := by
  intro hw _
  obtain ⟨w, fmt, d, a, b, _ | e⟩ := o
  · refine decode_1 (.V 11 (ffmtNum fmt) b.val a.val d.val) (by decide) (by simp [Fields.fits, ffmtNum_lt, mask_lt]) hw fun r hp hq => ?_
    obtain ⟨he, hf, hb, ha, hd⟩ := hq
    simp [decodeRaw, dec20, Raw.noLit, Raw.onlyMask, Raw.extM, ck, ckSome, hp.w, hp.major, hp.long, hp.lit, hp.w1, hp.w2, he, hf, hb, ha, hd, w1less_of_zero, ffmtOf_ffmtNum, maskOf_val, -Fin.ofNat_eq_cast]
  · refine decode_3 (.V 11 (ffmtNum fmt) b.val a.val d.val) (by decide) (by simp [Fields.fits, ffmtNum_lt, mask_lt]) hw fun r hp hq => ?_
    obtain ⟨he, hf, hb, ha, hd⟩ := hq
    obtain ⟨k1, k2, k3, k4, k5, k6, k7, k8⟩ := word1_read hp.w1 (by simp) (by simp) (by simp) (by simp) (by simp) (by simp)
    have k9 : r.w1less false false false false true true false = 0 := by
      refine w1less_word1 hp.w1 ?_ ?_ ?_ ?_ ?_ ?_ ?_ ?_ ?_ ?_ ?_ ?_ ?_ <;> simp
    simp [decodeRaw, dec20, Raw.noLit, Raw.onlyMask, Raw.extM, ck, ckSome, hp.w, hp.major, hp.long, hp.lit, hp.w2, he, hf, hb, ha, hd, k5, k6, k9, ffmtOf_ffmtNum, maskOf_val, -Fin.ofNat_eq_cast]
theorem vfle (o : OpsVFC) : Statement (.vfle o) := by
  intro hw _
  obtain ⟨w, fmt, d, a, b, _ | e⟩ := o
  · refine decode_1 (.V 12 (ffmtNum fmt) b.val a.val d.val) (by decide) (by simp [Fields.fits, ffmtNum_lt, mask_lt]) hw fun r hp hq => ?_
    obtain ⟨he, hf, hb, ha, hd⟩ := hq
    simp [decodeRaw, dec20, Raw.noLit, Raw.onlyMask, Raw.extM, ck, ckSome, hp.w, hp.major, hp.long, hp.lit, hp.w1, hp.w2, he, hf, hb, ha, hd, w1less_of_zero, ffmtOf_ffmtNum, maskOf_val, -Fin.ofNat_eq_cast]
  · refine decode_3 (.V 12 (ffmtNum fmt) b.val a.val d.val) (by decide) (by simp [Fields.fits, ffmtNum_lt, mask_lt]) hw fun r hp hq => ?_
    obtain ⟨he, hf, hb, ha, hd⟩ := hq
    obtain ⟨k1, k2, k3, k4, k5, k6, k7, k8⟩ := word1_read hp.w1 (by simp) (by simp) (by simp) (by simp) (by simp) (by simp)
    have k9 : r.w1less false false false false true true false = 0 := by
      refine w1less_word1 hp.w1 ?_ ?_ ?_ ?_ ?_ ?_ ?_ ?_ ?_ ?_ ?_ ?_ ?_ <;> simp
    simp [decodeRaw, dec20, Raw.noLit, Raw.onlyMask, Raw.extM, ck, ckSome, hp.w, hp.major, hp.long, hp.lit, hp.w2, he, hf, hb, ha, hd, k5, k6, k9, ffmtOf_ffmtNum, maskOf_val, -Fin.ofNat_eq_cast]
theorem vfmadd (o : OpsVF3) : Statement (.vfmadd o) := by
  intro hw _
  refine decode_3 (.V 0 (ffmtNum o.fmt) o.b.val o.a.val o.d.val) (by decide) (by simp [Fields.fits, ffmtNum_lt]) hw fun r hp hq => ?_
  obtain ⟨he, hf, hb, ha, hd⟩ := hq
  obtain ⟨k1, k2, k3, k4, k5, k6, k7, k8⟩ := word1_read hp.w1 (by simp) (by simp [rmNum_lt]) (by simp) (by simp) (by simp) (by simp)
  have k9 : r.w1less true true false false true true false = 0 := by
    refine w1less_word1 hp.w1 ?_ ?_ ?_ ?_ ?_ ?_ ?_ ?_ ?_ ?_ ?_ ?_ ?_ <;> simp [rmNum_lt]
  simp [decodeRaw, dec21, Raw.three, ck, ckSome, hp.w, hp.major, hp.long, hp.lit, hp.w2, he, hf, hb, ha, hd, k1, k2, k5, k6, k9, rmOf_rmNum, ffmtOf_ffmtNum]
theorem vfmsub (o : OpsVF3) : Statement (.vfmsub o) := by
  intro hw _
  refine decode_3 (.V 1 (ffmtNum o.fmt) o.b.val o.a.val o.d.val) (by decide) (by simp [Fields.fits, ffmtNum_lt]) hw fun r hp hq => ?_
  obtain ⟨he, hf, hb, ha, hd⟩ := hq
  obtain ⟨k1, k2, k3, k4, k5, k6, k7, k8⟩ := word1_read hp.w1 (by simp) (by simp [rmNum_lt]) (by simp) (by simp) (by simp) (by simp)
  have k9 : r.w1less true true false false true true false = 0 := by
    refine w1less_word1 hp.w1 ?_ ?_ ?_ ?_ ?_ ?_ ?_ ?_ ?_ ?_ ?_ ?_ ?_ <;> simp [rmNum_lt]
  simp [decodeRaw, dec21, Raw.three, ck, ckSome, hp.w, hp.major, hp.long, hp.lit, hp.w2, he, hf, hb, ha, hd, k1, k2, k5, k6, k9, rmOf_rmNum, ffmtOf_ffmtNum]
theorem vfnmadd (o : OpsVF3) : Statement (.vfnmadd o) := by
  intro hw _
  refine decode_3 (.V 2 (ffmtNum o.fmt) o.b.val o.a.val o.d.val) (by decide) (by simp [Fields.fits, ffmtNum_lt]) hw fun r hp hq => ?_
  obtain ⟨he, hf, hb, ha, hd⟩ := hq
  obtain ⟨k1, k2, k3, k4, k5, k6, k7, k8⟩ := word1_read hp.w1 (by simp) (by simp [rmNum_lt]) (by simp) (by simp) (by simp) (by simp)
  have k9 : r.w1less true true false false true true false = 0 := by
    refine w1less_word1 hp.w1 ?_ ?_ ?_ ?_ ?_ ?_ ?_ ?_ ?_ ?_ ?_ ?_ ?_ <;> simp [rmNum_lt]
  simp [decodeRaw, dec21, Raw.three, ck, ckSome, hp.w, hp.major, hp.long, hp.lit, hp.w2, he, hf, hb, ha, hd, k1, k2, k5, k6, k9, rmOf_rmNum, ffmtOf_ffmtNum]
theorem vfnmsub (o : OpsVF3) : Statement (.vfnmsub o) := by
  intro hw _
  refine decode_3 (.V 3 (ffmtNum o.fmt) o.b.val o.a.val o.d.val) (by decide) (by simp [Fields.fits, ffmtNum_lt]) hw fun r hp hq => ?_
  obtain ⟨he, hf, hb, ha, hd⟩ := hq
  obtain ⟨k1, k2, k3, k4, k5, k6, k7, k8⟩ := word1_read hp.w1 (by simp) (by simp [rmNum_lt]) (by simp) (by simp) (by simp) (by simp)
  have k9 : r.w1less true true false false true true false = 0 := by
    refine w1less_word1 hp.w1 ?_ ?_ ?_ ?_ ?_ ?_ ?_ ?_ ?_ ?_ ?_ ?_ ?_ <;> simp [rmNum_lt]
  simp [decodeRaw, dec21, Raw.three, ck, ckSome, hp.w, hp.major, hp.long, hp.lit, hp.w2, he, hf, hb, ha, hd, k1, k2, k5, k6, k9, rmOf_rmNum, ffmtOf_ffmtNum]
theorem vaddI (o : OpsVI) : Statement (.vaddI o) := by
  intro hw _
  obtain ⟨w, fmt, d, a, b, _ | e⟩ := o
  · refine decode_1 (.V 0 (ifmtNum fmt) b.val a.val d.val) (by decide) (by simp [Fields.fits, ifmtNum_lt]) hw fun r hp hq => ?_
    obtain ⟨he, hf, hb, ha, hd⟩ := hq
    simp [decodeRaw, dec22, Raw.noLit, Raw.onlyMask, Raw.extM, ck, ckSome, hp.w, hp.major, hp.long, hp.lit, hp.w1, hp.w2, he, hf, hb, ha, hd, w1less_of_zero, ifmtOf_ifmtNum]
  · refine decode_3 (.V 0 (ifmtNum fmt) b.val a.val d.val) (by decide) (by simp [Fields.fits, ifmtNum_lt]) hw fun r hp hq => ?_
    obtain ⟨he, hf, hb, ha, hd⟩ := hq
    obtain ⟨k1, k2, k3, k4, k5, k6, k7, k8⟩ := word1_read hp.w1 (by simp) (by simp) (by simp) (by simp) (by simp) (by simp)
    have k9 : r.w1less false false false false true true false = 0 := by
      refine w1less_word1 hp.w1 ?_ ?_ ?_ ?_ ?_ ?_ ?_ ?_ ?_ ?_ ?_ ?_ ?_ <;> simp
    simp [decodeRaw, dec22, Raw.noLit, Raw.onlyMask, Raw.extM, ck, ckSome, hp.w, hp.major, hp.long, hp.lit, hp.w2, he, hf, hb, ha, hd, k5, k6, k9, ifmtOf_ifmtNum]
theorem vsubI (o : OpsVI) : Statement (.vsubI o) := by
  intro hw _
  obtain ⟨w, fmt, d, a, b, _ | e⟩ := o
  · refine decode_1 (.V 1 (ifmtNum fmt) b.val a.val d.val) (by decide) (by simp [Fields.fits, ifmtNum_lt]) hw fun r hp hq => ?_
    obtain ⟨he, hf, hb, ha, hd⟩ := hq
    simp [decodeRaw, dec22, Raw.noLit, Raw.onlyMask, Raw.extM, ck, ckSome, hp.w, hp.major, hp.long, hp.lit, hp.w1, hp.w2, he, hf, hb, ha, hd, w1less_of_zero, ifmtOf_ifmtNum]
  · refine decode_3 (.V 1 (ifmtNum fmt) b.val a.val d.val) (by decide) (by simp [Fields.fits, ifmtNum_lt]) hw fun r hp hq => ?_
    obtain ⟨he, hf, hb, ha, hd⟩ := hq
    obtain ⟨k1, k2, k3, k4, k5, k6, k7, k8⟩ := word1_read hp.w1 (by simp) (by simp) (by simp) (by simp) (by simp) (by simp)
    have k9 : r.w1less false false false false true true false = 0 := by
      refine w1less_word1 hp.w1 ?_ ?_ ?_ ?_ ?_ ?_ ?_ ?_ ?_ ?_ ?_ ?_ ?_ <;> simp
    simp [decodeRaw, dec22, Raw.noLit, Raw.onlyMask, Raw.extM, ck, ckSome, hp.w, hp.major, hp.long, hp.lit, hp.w2, he, hf, hb, ha, hd, k5, k6, k9, ifmtOf_ifmtNum]
theorem vmulI (o : OpsVI) : Statement (.vmulI o) := by
  intro hw _
  obtain ⟨w, fmt, d, a, b, _ | e⟩ := o
  · refine decode_1 (.V 2 (ifmtNum fmt) b.val a.val d.val) (by decide) (by simp [Fields.fits, ifmtNum_lt]) hw fun r hp hq => ?_
    obtain ⟨he, hf, hb, ha, hd⟩ := hq
    simp [decodeRaw, dec22, Raw.noLit, Raw.onlyMask, Raw.extM, ck, ckSome, hp.w, hp.major, hp.long, hp.lit, hp.w1, hp.w2, he, hf, hb, ha, hd, w1less_of_zero, ifmtOf_ifmtNum]
  · refine decode_3 (.V 2 (ifmtNum fmt) b.val a.val d.val) (by decide) (by simp [Fields.fits, ifmtNum_lt]) hw fun r hp hq => ?_
    obtain ⟨he, hf, hb, ha, hd⟩ := hq
    obtain ⟨k1, k2, k3, k4, k5, k6, k7, k8⟩ := word1_read hp.w1 (by simp) (by simp) (by simp) (by simp) (by simp) (by simp)
    have k9 : r.w1less false false false false true true false = 0 := by
      refine w1less_word1 hp.w1 ?_ ?_ ?_ ?_ ?_ ?_ ?_ ?_ ?_ ?_ ?_ ?_ ?_ <;> simp
    simp [decodeRaw, dec22, Raw.noLit, Raw.onlyMask, Raw.extM, ck, ckSome, hp.w, hp.major, hp.long, hp.lit, hp.w2, he, hf, hb, ha, hd, k5, k6, k9, ifmtOf_ifmtNum]
theorem vand (o : OpsVI) : Statement (.vand o) := by
  intro hw _
  obtain ⟨w, fmt, d, a, b, _ | e⟩ := o
  · refine decode_1 (.V 3 (ifmtNum fmt) b.val a.val d.val) (by decide) (by simp [Fields.fits, ifmtNum_lt]) hw fun r hp hq => ?_
    obtain ⟨he, hf, hb, ha, hd⟩ := hq
    simp [decodeRaw, dec22, Raw.noLit, Raw.onlyMask, Raw.extM, ck, ckSome, hp.w, hp.major, hp.long, hp.lit, hp.w1, hp.w2, he, hf, hb, ha, hd, w1less_of_zero, ifmtOf_ifmtNum]
  · refine decode_3 (.V 3 (ifmtNum fmt) b.val a.val d.val) (by decide) (by simp [Fields.fits, ifmtNum_lt]) hw fun r hp hq => ?_
    obtain ⟨he, hf, hb, ha, hd⟩ := hq
    obtain ⟨k1, k2, k3, k4, k5, k6, k7, k8⟩ := word1_read hp.w1 (by simp) (by simp) (by simp) (by simp) (by simp) (by simp)
    have k9 : r.w1less false false false false true true false = 0 := by
      refine w1less_word1 hp.w1 ?_ ?_ ?_ ?_ ?_ ?_ ?_ ?_ ?_ ?_ ?_ ?_ ?_ <;> simp
    simp [decodeRaw, dec22, Raw.noLit, Raw.onlyMask, Raw.extM, ck, ckSome, hp.w, hp.major, hp.long, hp.lit, hp.w2, he, hf, hb, ha, hd, k5, k6, k9, ifmtOf_ifmtNum]
theorem vor (o : OpsVI) : Statement (.vor o) := by
  intro hw _
  obtain ⟨w, fmt, d, a, b, _ | e⟩ := o
  · refine decode_1 (.V 4 (ifmtNum fmt) b.val a.val d.val) (by decide) (by simp [Fields.fits, ifmtNum_lt]) hw fun r hp hq => ?_
    obtain ⟨he, hf, hb, ha, hd⟩ := hq
    simp [decodeRaw, dec22, Raw.noLit, Raw.onlyMask, Raw.extM, ck, ckSome, hp.w, hp.major, hp.long, hp.lit, hp.w1, hp.w2, he, hf, hb, ha, hd, w1less_of_zero, ifmtOf_ifmtNum]
  · refine decode_3 (.V 4 (ifmtNum fmt) b.val a.val d.val) (by decide) (by simp [Fields.fits, ifmtNum_lt]) hw fun r hp hq => ?_
    obtain ⟨he, hf, hb, ha, hd⟩ := hq
    obtain ⟨k1, k2, k3, k4, k5, k6, k7, k8⟩ := word1_read hp.w1 (by simp) (by simp) (by simp) (by simp) (by simp) (by simp)
    have k9 : r.w1less false false false false true true false = 0 := by
      refine w1less_word1 hp.w1 ?_ ?_ ?_ ?_ ?_ ?_ ?_ ?_ ?_ ?_ ?_ ?_ ?_ <;> simp
    simp [decodeRaw, dec22, Raw.noLit, Raw.onlyMask, Raw.extM, ck, ckSome, hp.w, hp.major, hp.long, hp.lit, hp.w2, he, hf, hb, ha, hd, k5, k6, k9, ifmtOf_ifmtNum]
theorem vxor (o : OpsVI) : Statement (.vxor o) := by
  intro hw _
  obtain ⟨w, fmt, d, a, b, _ | e⟩ := o
  · refine decode_1 (.V 5 (ifmtNum fmt) b.val a.val d.val) (by decide) (by simp [Fields.fits, ifmtNum_lt]) hw fun r hp hq => ?_
    obtain ⟨he, hf, hb, ha, hd⟩ := hq
    simp [decodeRaw, dec22, Raw.noLit, Raw.onlyMask, Raw.extM, ck, ckSome, hp.w, hp.major, hp.long, hp.lit, hp.w1, hp.w2, he, hf, hb, ha, hd, w1less_of_zero, ifmtOf_ifmtNum]
  · refine decode_3 (.V 5 (ifmtNum fmt) b.val a.val d.val) (by decide) (by simp [Fields.fits, ifmtNum_lt]) hw fun r hp hq => ?_
    obtain ⟨he, hf, hb, ha, hd⟩ := hq
    obtain ⟨k1, k2, k3, k4, k5, k6, k7, k8⟩ := word1_read hp.w1 (by simp) (by simp) (by simp) (by simp) (by simp) (by simp)
    have k9 : r.w1less false false false false true true false = 0 := by
      refine w1less_word1 hp.w1 ?_ ?_ ?_ ?_ ?_ ?_ ?_ ?_ ?_ ?_ ?_ ?_ ?_ <;> simp
    simp [decodeRaw, dec22, Raw.noLit, Raw.onlyMask, Raw.extM, ck, ckSome, hp.w, hp.major, hp.long, hp.lit, hp.w2, he, hf, hb, ha, hd, k5, k6, k9, ifmtOf_ifmtNum]
theorem vsll (o : OpsVI) : Statement (.vsll o) := by
  intro hw _
  obtain ⟨w, fmt, d, a, b, _ | e⟩ := o
  · refine decode_1 (.V 6 (ifmtNum fmt) b.val a.val d.val) (by decide) (by simp [Fields.fits, ifmtNum_lt]) hw fun r hp hq => ?_
    obtain ⟨he, hf, hb, ha, hd⟩ := hq
    simp [decodeRaw, dec22, Raw.noLit, Raw.onlyMask, Raw.extM, ck, ckSome, hp.w, hp.major, hp.long, hp.lit, hp.w1, hp.w2, he, hf, hb, ha, hd, w1less_of_zero, ifmtOf_ifmtNum]
  · refine decode_3 (.V 6 (ifmtNum fmt) b.val a.val d.val) (by decide) (by simp [Fields.fits, ifmtNum_lt]) hw fun r hp hq => ?_
    obtain ⟨he, hf, hb, ha, hd⟩ := hq
    obtain ⟨k1, k2, k3, k4, k5, k6, k7, k8⟩ := word1_read hp.w1 (by simp) (by simp) (by simp) (by simp) (by simp) (by simp)
    have k9 : r.w1less false false false false true true false = 0 := by
      refine w1less_word1 hp.w1 ?_ ?_ ?_ ?_ ?_ ?_ ?_ ?_ ?_ ?_ ?_ ?_ ?_ <;> simp
    simp [decodeRaw, dec22, Raw.noLit, Raw.onlyMask, Raw.extM, ck, ckSome, hp.w, hp.major, hp.long, hp.lit, hp.w2, he, hf, hb, ha, hd, k5, k6, k9, ifmtOf_ifmtNum]
theorem vsrl (o : OpsVI) : Statement (.vsrl o) := by
  intro hw _
  obtain ⟨w, fmt, d, a, b, _ | e⟩ := o
  · refine decode_1 (.V 7 (ifmtNum fmt) b.val a.val d.val) (by decide) (by simp [Fields.fits, ifmtNum_lt]) hw fun r hp hq => ?_
    obtain ⟨he, hf, hb, ha, hd⟩ := hq
    simp [decodeRaw, dec22, Raw.noLit, Raw.onlyMask, Raw.extM, ck, ckSome, hp.w, hp.major, hp.long, hp.lit, hp.w1, hp.w2, he, hf, hb, ha, hd, w1less_of_zero, ifmtOf_ifmtNum]
  · refine decode_3 (.V 7 (ifmtNum fmt) b.val a.val d.val) (by decide) (by simp [Fields.fits, ifmtNum_lt]) hw fun r hp hq => ?_
    obtain ⟨he, hf, hb, ha, hd⟩ := hq
    obtain ⟨k1, k2, k3, k4, k5, k6, k7, k8⟩ := word1_read hp.w1 (by simp) (by simp) (by simp) (by simp) (by simp) (by simp)
    have k9 : r.w1less false false false false true true false = 0 := by
      refine w1less_word1 hp.w1 ?_ ?_ ?_ ?_ ?_ ?_ ?_ ?_ ?_ ?_ ?_ ?_ ?_ <;> simp
    simp [decodeRaw, dec22, Raw.noLit, Raw.onlyMask, Raw.extM, ck, ckSome, hp.w, hp.major, hp.long, hp.lit, hp.w2, he, hf, hb, ha, hd, k5, k6, k9, ifmtOf_ifmtNum]
theorem vsra (o : OpsVI) : Statement (.vsra o) := by
  intro hw _
  obtain ⟨w, fmt, d, a, b, _ | e⟩ := o
  · refine decode_1 (.V 8 (ifmtNum fmt) b.val a.val d.val) (by decide) (by simp [Fields.fits, ifmtNum_lt]) hw fun r hp hq => ?_
    obtain ⟨he, hf, hb, ha, hd⟩ := hq
    simp [decodeRaw, dec22, Raw.noLit, Raw.onlyMask, Raw.extM, ck, ckSome, hp.w, hp.major, hp.long, hp.lit, hp.w1, hp.w2, he, hf, hb, ha, hd, w1less_of_zero, ifmtOf_ifmtNum]
  · refine decode_3 (.V 8 (ifmtNum fmt) b.val a.val d.val) (by decide) (by simp [Fields.fits, ifmtNum_lt]) hw fun r hp hq => ?_
    obtain ⟨he, hf, hb, ha, hd⟩ := hq
    obtain ⟨k1, k2, k3, k4, k5, k6, k7, k8⟩ := word1_read hp.w1 (by simp) (by simp) (by simp) (by simp) (by simp) (by simp)
    have k9 : r.w1less false false false false true true false = 0 := by
      refine w1less_word1 hp.w1 ?_ ?_ ?_ ?_ ?_ ?_ ?_ ?_ ?_ ?_ ?_ ?_ ?_ <;> simp
    simp [decodeRaw, dec22, Raw.noLit, Raw.onlyMask, Raw.extM, ck, ckSome, hp.w, hp.major, hp.long, hp.lit, hp.w2, he, hf, hb, ha, hd, k5, k6, k9, ifmtOf_ifmtNum]
theorem vminI (o : OpsVI) : Statement (.vminI o) := by
  intro hw _
  obtain ⟨w, fmt, d, a, b, _ | e⟩ := o
  · refine decode_1 (.V 9 (ifmtNum fmt) b.val a.val d.val) (by decide) (by simp [Fields.fits, ifmtNum_lt]) hw fun r hp hq => ?_
    obtain ⟨he, hf, hb, ha, hd⟩ := hq
    simp [decodeRaw, dec22, Raw.noLit, Raw.onlyMask, Raw.extM, ck, ckSome, hp.w, hp.major, hp.long, hp.lit, hp.w1, hp.w2, he, hf, hb, ha, hd, w1less_of_zero, ifmtOf_ifmtNum]
  · refine decode_3 (.V 9 (ifmtNum fmt) b.val a.val d.val) (by decide) (by simp [Fields.fits, ifmtNum_lt]) hw fun r hp hq => ?_
    obtain ⟨he, hf, hb, ha, hd⟩ := hq
    obtain ⟨k1, k2, k3, k4, k5, k6, k7, k8⟩ := word1_read hp.w1 (by simp) (by simp) (by simp) (by simp) (by simp) (by simp)
    have k9 : r.w1less false false false false true true false = 0 := by
      refine w1less_word1 hp.w1 ?_ ?_ ?_ ?_ ?_ ?_ ?_ ?_ ?_ ?_ ?_ ?_ ?_ <;> simp
    simp [decodeRaw, dec22, Raw.noLit, Raw.onlyMask, Raw.extM, ck, ckSome, hp.w, hp.major, hp.long, hp.lit, hp.w2, he, hf, hb, ha, hd, k5, k6, k9, ifmtOf_ifmtNum]
theorem vmaxI (o : OpsVI) : Statement (.vmaxI o) := by
  intro hw _
  obtain ⟨w, fmt, d, a, b, _ | e⟩ := o
  · refine decode_1 (.V 10 (ifmtNum fmt) b.val a.val d.val) (by decide) (by simp [Fields.fits, ifmtNum_lt]) hw fun r hp hq => ?_
    obtain ⟨he, hf, hb, ha, hd⟩ := hq
    simp [decodeRaw, dec22, Raw.noLit, Raw.onlyMask, Raw.extM, ck, ckSome, hp.w, hp.major, hp.long, hp.lit, hp.w1, hp.w2, he, hf, hb, ha, hd, w1less_of_zero, ifmtOf_ifmtNum]
  · refine decode_3 (.V 10 (ifmtNum fmt) b.val a.val d.val) (by decide) (by simp [Fields.fits, ifmtNum_lt]) hw fun r hp hq => ?_
    obtain ⟨he, hf, hb, ha, hd⟩ := hq
    obtain ⟨k1, k2, k3, k4, k5, k6, k7, k8⟩ := word1_read hp.w1 (by simp) (by simp) (by simp) (by simp) (by simp) (by simp)
    have k9 : r.w1less false false false false true true false = 0 := by
      refine w1less_word1 hp.w1 ?_ ?_ ?_ ?_ ?_ ?_ ?_ ?_ ?_ ?_ ?_ ?_ ?_ <;> simp
    simp [decodeRaw, dec22, Raw.noLit, Raw.onlyMask, Raw.extM, ck, ckSome, hp.w, hp.major, hp.long, hp.lit, hp.w2, he, hf, hb, ha, hd, k5, k6, k9, ifmtOf_ifmtNum]
theorem vminu (o : OpsVI) : Statement (.vminu o) := by
  intro hw _
  obtain ⟨w, fmt, d, a, b, _ | e⟩ := o
  · refine decode_1 (.V 11 (ifmtNum fmt) b.val a.val d.val) (by decide) (by simp [Fields.fits, ifmtNum_lt]) hw fun r hp hq => ?_
    obtain ⟨he, hf, hb, ha, hd⟩ := hq
    simp [decodeRaw, dec22, Raw.noLit, Raw.onlyMask, Raw.extM, ck, ckSome, hp.w, hp.major, hp.long, hp.lit, hp.w1, hp.w2, he, hf, hb, ha, hd, w1less_of_zero, ifmtOf_ifmtNum]
  · refine decode_3 (.V 11 (ifmtNum fmt) b.val a.val d.val) (by decide) (by simp [Fields.fits, ifmtNum_lt]) hw fun r hp hq => ?_
    obtain ⟨he, hf, hb, ha, hd⟩ := hq
    obtain ⟨k1, k2, k3, k4, k5, k6, k7, k8⟩ := word1_read hp.w1 (by simp) (by simp) (by simp) (by simp) (by simp) (by simp)
    have k9 : r.w1less false false false false true true false = 0 := by
      refine w1less_word1 hp.w1 ?_ ?_ ?_ ?_ ?_ ?_ ?_ ?_ ?_ ?_ ?_ ?_ ?_ <;> simp
    simp [decodeRaw, dec22, Raw.noLit, Raw.onlyMask, Raw.extM, ck, ckSome, hp.w, hp.major, hp.long, hp.lit, hp.w2, he, hf, hb, ha, hd, k5, k6, k9, ifmtOf_ifmtNum]
theorem vmaxu (o : OpsVI) : Statement (.vmaxu o) := by
  intro hw _
  obtain ⟨w, fmt, d, a, b, _ | e⟩ := o
  · refine decode_1 (.V 12 (ifmtNum fmt) b.val a.val d.val) (by decide) (by simp [Fields.fits, ifmtNum_lt]) hw fun r hp hq => ?_
    obtain ⟨he, hf, hb, ha, hd⟩ := hq
    simp [decodeRaw, dec22, Raw.noLit, Raw.onlyMask, Raw.extM, ck, ckSome, hp.w, hp.major, hp.long, hp.lit, hp.w1, hp.w2, he, hf, hb, ha, hd, w1less_of_zero, ifmtOf_ifmtNum]
  · refine decode_3 (.V 12 (ifmtNum fmt) b.val a.val d.val) (by decide) (by simp [Fields.fits, ifmtNum_lt]) hw fun r hp hq => ?_
    obtain ⟨he, hf, hb, ha, hd⟩ := hq
    obtain ⟨k1, k2, k3, k4, k5, k6, k7, k8⟩ := word1_read hp.w1 (by simp) (by simp) (by simp) (by simp) (by simp) (by simp)
    have k9 : r.w1less false false false false true true false = 0 := by
      refine w1less_word1 hp.w1 ?_ ?_ ?_ ?_ ?_ ?_ ?_ ?_ ?_ ?_ ?_ ?_ ?_ <;> simp
    simp [decodeRaw, dec22, Raw.noLit, Raw.onlyMask, Raw.extM, ck, ckSome, hp.w, hp.major, hp.long, hp.lit, hp.w2, he, hf, hb, ha, hd, k5, k6, k9, ifmtOf_ifmtNum]
theorem vieq (o : OpsVIC) : Statement (.vieq o) := by
  intro hw _
  obtain ⟨w, fmt, d, a, b, _ | e⟩ := o
  · refine decode_1 (.V 13 (ifmtNum fmt) b.val a.val d.val) (by decide) (by simp [Fields.fits, ifmtNum_lt, mask_lt]) hw fun r hp hq => ?_
    obtain ⟨he, hf, hb, ha, hd⟩ := hq
    simp [decodeRaw, dec22, Raw.noLit, Raw.onlyMask, Raw.extM, ck, ckSome, hp.w, hp.major, hp.long, hp.lit, hp.w1, hp.w2, he, hf, hb, ha, hd, w1less_of_zero, ifmtOf_ifmtNum, maskOf_val, -Fin.ofNat_eq_cast]
  · refine decode_3 (.V 13 (ifmtNum fmt) b.val a.val d.val) (by decide) (by simp [Fields.fits, ifmtNum_lt, mask_lt]) hw fun r hp hq => ?_
    obtain ⟨he, hf, hb, ha, hd⟩ := hq
    obtain ⟨k1, k2, k3, k4, k5, k6, k7, k8⟩ := word1_read hp.w1 (by simp) (by simp) (by simp) (by simp) (by simp) (by simp)
    have k9 : r.w1less false false false false true true false = 0 := by
      refine w1less_word1 hp.w1 ?_ ?_ ?_ ?_ ?_ ?_ ?_ ?_ ?_ ?_ ?_ ?_ ?_ <;> simp
    simp [decodeRaw, dec22, Raw.noLit, Raw.onlyMask, Raw.extM, ck, ckSome, hp.w, hp.major, hp.long, hp.lit, hp.w2, he, hf, hb, ha, hd, k5, k6, k9, ifmtOf_ifmtNum, maskOf_val, -Fin.ofNat_eq_cast]
theorem vilt (o : OpsVIC) : Statement (.vilt o) := by
  intro hw _
  obtain ⟨w, fmt, d, a, b, _ | e⟩ := o
  · refine decode_1 (.V 14 (ifmtNum fmt) b.val a.val d.val) (by decide) (by simp [Fields.fits, ifmtNum_lt, mask_lt]) hw fun r hp hq => ?_
    obtain ⟨he, hf, hb, ha, hd⟩ := hq
    simp [decodeRaw, dec22, Raw.noLit, Raw.onlyMask, Raw.extM, ck, ckSome, hp.w, hp.major, hp.long, hp.lit, hp.w1, hp.w2, he, hf, hb, ha, hd, w1less_of_zero, ifmtOf_ifmtNum, maskOf_val, -Fin.ofNat_eq_cast]
  · refine decode_3 (.V 14 (ifmtNum fmt) b.val a.val d.val) (by decide) (by simp [Fields.fits, ifmtNum_lt, mask_lt]) hw fun r hp hq => ?_
    obtain ⟨he, hf, hb, ha, hd⟩ := hq
    obtain ⟨k1, k2, k3, k4, k5, k6, k7, k8⟩ := word1_read hp.w1 (by simp) (by simp) (by simp) (by simp) (by simp) (by simp)
    have k9 : r.w1less false false false false true true false = 0 := by
      refine w1less_word1 hp.w1 ?_ ?_ ?_ ?_ ?_ ?_ ?_ ?_ ?_ ?_ ?_ ?_ ?_ <;> simp
    simp [decodeRaw, dec22, Raw.noLit, Raw.onlyMask, Raw.extM, ck, ckSome, hp.w, hp.major, hp.long, hp.lit, hp.w2, he, hf, hb, ha, hd, k5, k6, k9, ifmtOf_ifmtNum, maskOf_val, -Fin.ofNat_eq_cast]
theorem viltu (o : OpsVIC) : Statement (.viltu o) := by
  intro hw _
  obtain ⟨w, fmt, d, a, b, _ | e⟩ := o
  · refine decode_1 (.V 15 (ifmtNum fmt) b.val a.val d.val) (by decide) (by simp [Fields.fits, ifmtNum_lt, mask_lt]) hw fun r hp hq => ?_
    obtain ⟨he, hf, hb, ha, hd⟩ := hq
    simp [decodeRaw, dec22, Raw.noLit, Raw.onlyMask, Raw.extM, ck, ckSome, hp.w, hp.major, hp.long, hp.lit, hp.w1, hp.w2, he, hf, hb, ha, hd, w1less_of_zero, ifmtOf_ifmtNum, maskOf_val, -Fin.ofNat_eq_cast]
  · refine decode_3 (.V 15 (ifmtNum fmt) b.val a.val d.val) (by decide) (by simp [Fields.fits, ifmtNum_lt, mask_lt]) hw fun r hp hq => ?_
    obtain ⟨he, hf, hb, ha, hd⟩ := hq
    obtain ⟨k1, k2, k3, k4, k5, k6, k7, k8⟩ := word1_read hp.w1 (by simp) (by simp) (by simp) (by simp) (by simp) (by simp)
    have k9 : r.w1less false false false false true true false = 0 := by
      refine w1less_word1 hp.w1 ?_ ?_ ?_ ?_ ?_ ?_ ?_ ?_ ?_ ?_ ?_ ?_ ?_ <;> simp
    simp [decodeRaw, dec22, Raw.noLit, Raw.onlyMask, Raw.extM, ck, ckSome, hp.w, hp.major, hp.long, hp.lit, hp.w2, he, hf, hb, ha, hd, k5, k6, k9, ifmtOf_ifmtNum, maskOf_val, -Fin.ofNat_eq_cast]
theorem vcvt (o : OpsVcvt) : Statement (.vcvt o) := by
  intro hw _
  have hf0 := conv_fields o.sfmt o.dfmt
  refine decode_3 (.V 0 0 0 o.a.val o.d.val) (by decide) (by simp [Fields.fits]) hw fun r hp hq => ?_
  obtain ⟨he, hf, hb, ha, hd⟩ := hq
  obtain ⟨k1, k2, k3, k4, k5, k6, k7, k8⟩ := word1_read hp.w1 (by simp) (by simp [rmNum_lt]) (by simp) (by simp) (by simp) (by simp)
  have k9 : r.w1less false true false true true true false = 0 := by
    refine w1less_word1 hp.w1 ?_ ?_ ?_ ?_ ?_ ?_ ?_ ?_ ?_ ?_ ?_ ?_ ?_ <;> simp [rmNum_lt]
  simp [decodeRaw, dec23, Raw.three, Raw.zb, ck, ckSome, hp.w, hp.major, hp.long, hp.lit, hp.w2, he, hf, hb, ha, hd, k2, k4, k5, k6, k9, rmOf_rmNum, cfmtOf_cfmtNum, hf0]
  omega
theorem vquant (o : OpsVquant) : Statement (.vquant o) := by
  intro hw _
  have hf0 := conv_fields o.sfmt o.dfmt
  refine decode_3 (.V 1 0 0 o.a.val o.d.val) (by decide) (by simp [Fields.fits]) hw fun r hp hq => ?_
  obtain ⟨he, hf, hb, ha, hd⟩ := hq
  obtain ⟨k1, k2, k3, k4, k5, k6, k7, k8⟩ := word1_read hp.w1 (by simp) (by simp [rmNum_lt]) (by simp) (by simp) (by simp) (by simp)
  have k9 : r.w1less true true false true true true false = 0 := by
    refine w1less_word1 hp.w1 ?_ ?_ ?_ ?_ ?_ ?_ ?_ ?_ ?_ ?_ ?_ ?_ ?_ <;> simp [rmNum_lt]
  simp [decodeRaw, dec23, Raw.three, Raw.zb, ck, ckSome, hp.w, hp.major, hp.long, hp.lit, hp.w2, he, hf, hb, ha, hd, k1, k2, k4, k5, k6, k9, rmOf_rmNum, cfmtOf_cfmtNum, hf0]
  omega
theorem vdequant (o : OpsVdequant) : Statement (.vdequant o) := by
  intro hw _
  have hf0 := conv_fields o.sfmt o.dfmt
  refine decode_3 (.V 2 0 0 o.a.val o.d.val) (by decide) (by simp [Fields.fits]) hw fun r hp hq => ?_
  obtain ⟨he, hf, hb, ha, hd⟩ := hq
  obtain ⟨k1, k2, k3, k4, k5, k6, k7, k8⟩ := word1_read hp.w1 (by simp) (by simp) (by simp) (by simp) (by simp) (by simp)
  have k9 : r.w1less true false false false true true false = 0 := by
    refine w1less_word1 hp.w1 ?_ ?_ ?_ ?_ ?_ ?_ ?_ ?_ ?_ ?_ ?_ ?_ ?_ <;> simp
  simp [decodeRaw, dec23, Raw.three, Raw.zb, ck, ckSome, hp.w, hp.major, hp.long, hp.lit, hp.w2, he, hf, hb, ha, hd, k1, k5, k6, k9, cfmtOf_cfmtNum, hf0]
  omega
theorem vredsum (o : OpsVRed) : Statement (.vredsum o) := by
  intro hw _
  obtain ⟨w, fmt, d, a, _ | e⟩ := o
  · refine decode_1 (.V 0 (vfmtNum fmt) 0 a.val d.val) (by decide) (by simp [Fields.fits, vfmtNum_lt]) hw fun r hp hq => ?_
    obtain ⟨he, hf, hb, ha, hd⟩ := hq
    simp [decodeRaw, dec24, Raw.noLit, Raw.onlyM, Raw.extMask, Raw.zb, ck, ckSome, hp.w, hp.major, hp.long, hp.lit, hp.w1, hp.w2, he, hf, hb, ha, hd, w1less_of_zero, vfmtOf_vfmtNum]
  · refine decode_3 (.V 0 (vfmtNum fmt) 0 a.val d.val) (by decide) (by simp [Fields.fits, vfmtNum_lt]) hw fun r hp hq => ?_
    obtain ⟨he, hf, hb, ha, hd⟩ := hq
    obtain ⟨k1, k2, k3, k4, k5, k6, k7, k8⟩ := word1_read hp.w1 (by simp) (by simp) (by simp) (by simp) (by simp) (by simp)
    have k9 : r.w1less false false false false true false false = 0 := by
      refine w1less_word1 hp.w1 ?_ ?_ ?_ ?_ ?_ ?_ ?_ ?_ ?_ ?_ ?_ ?_ ?_ <;> simp
    simp [decodeRaw, dec24, Raw.noLit, Raw.onlyM, Raw.extMask, Raw.zb, ck, ckSome, hp.w, hp.major, hp.long, hp.lit, hp.w2, he, hf, hb, ha, hd, k5, k9, vfmtOf_vfmtNum]
theorem vredmax (o : OpsVRed) : Statement (.vredmax o) := by
  intro hw _
  obtain ⟨w, fmt, d, a, _ | e⟩ := o
  · refine decode_1 (.V 1 (vfmtNum fmt) 0 a.val d.val) (by decide) (by simp [Fields.fits, vfmtNum_lt]) hw fun r hp hq => ?_
    obtain ⟨he, hf, hb, ha, hd⟩ := hq
    simp [decodeRaw, dec24, Raw.noLit, Raw.onlyM, Raw.extMask, Raw.zb, ck, ckSome, hp.w, hp.major, hp.long, hp.lit, hp.w1, hp.w2, he, hf, hb, ha, hd, w1less_of_zero, vfmtOf_vfmtNum]
  · refine decode_3 (.V 1 (vfmtNum fmt) 0 a.val d.val) (by decide) (by simp [Fields.fits, vfmtNum_lt]) hw fun r hp hq => ?_
    obtain ⟨he, hf, hb, ha, hd⟩ := hq
    obtain ⟨k1, k2, k3, k4, k5, k6, k7, k8⟩ := word1_read hp.w1 (by simp) (by simp) (by simp) (by simp) (by simp) (by simp)
    have k9 : r.w1less false false false false true false false = 0 := by
      refine w1less_word1 hp.w1 ?_ ?_ ?_ ?_ ?_ ?_ ?_ ?_ ?_ ?_ ?_ ?_ ?_ <;> simp
    simp [decodeRaw, dec24, Raw.noLit, Raw.onlyM, Raw.extMask, Raw.zb, ck, ckSome, hp.w, hp.major, hp.long, hp.lit, hp.w2, he, hf, hb, ha, hd, k5, k9, vfmtOf_vfmtNum]
theorem vredmin (o : OpsVRed) : Statement (.vredmin o) := by
  intro hw _
  obtain ⟨w, fmt, d, a, _ | e⟩ := o
  · refine decode_1 (.V 2 (vfmtNum fmt) 0 a.val d.val) (by decide) (by simp [Fields.fits, vfmtNum_lt]) hw fun r hp hq => ?_
    obtain ⟨he, hf, hb, ha, hd⟩ := hq
    simp [decodeRaw, dec24, Raw.noLit, Raw.onlyM, Raw.extMask, Raw.zb, ck, ckSome, hp.w, hp.major, hp.long, hp.lit, hp.w1, hp.w2, he, hf, hb, ha, hd, w1less_of_zero, vfmtOf_vfmtNum]
  · refine decode_3 (.V 2 (vfmtNum fmt) 0 a.val d.val) (by decide) (by simp [Fields.fits, vfmtNum_lt]) hw fun r hp hq => ?_
    obtain ⟨he, hf, hb, ha, hd⟩ := hq
    obtain ⟨k1, k2, k3, k4, k5, k6, k7, k8⟩ := word1_read hp.w1 (by simp) (by simp) (by simp) (by simp) (by simp) (by simp)
    have k9 : r.w1less false false false false true false false = 0 := by
      refine w1less_word1 hp.w1 ?_ ?_ ?_ ?_ ?_ ?_ ?_ ?_ ?_ ?_ ?_ ?_ ?_ <;> simp
    simp [decodeRaw, dec24, Raw.noLit, Raw.onlyM, Raw.extMask, Raw.zb, ck, ckSome, hp.w, hp.major, hp.long, hp.lit, hp.w2, he, hf, hb, ha, hd, k5, k9, vfmtOf_vfmtNum]
theorem vscan (o : OpsV1) : Statement (.vscan o) := by
  intro hw _
  obtain ⟨w, fmt, d, a, _ | e⟩ := o
  · refine decode_1 (.V 3 (vfmtNum fmt) 0 a.val d.val) (by decide) (by simp [Fields.fits, vfmtNum_lt]) hw fun r hp hq => ?_
    obtain ⟨he, hf, hb, ha, hd⟩ := hq
    simp [decodeRaw, dec24, Raw.noLit, Raw.onlyMask, Raw.extM, Raw.zb, ck, ckSome, hp.w, hp.major, hp.long, hp.lit, hp.w1, hp.w2, he, hf, hb, ha, hd, w1less_of_zero, vfmtOf_vfmtNum]
  · refine decode_3 (.V 3 (vfmtNum fmt) 0 a.val d.val) (by decide) (by simp [Fields.fits, vfmtNum_lt]) hw fun r hp hq => ?_
    obtain ⟨he, hf, hb, ha, hd⟩ := hq
    obtain ⟨k1, k2, k3, k4, k5, k6, k7, k8⟩ := word1_read hp.w1 (by simp) (by simp) (by simp) (by simp) (by simp) (by simp)
    have k9 : r.w1less false false false false true true false = 0 := by
      refine w1less_word1 hp.w1 ?_ ?_ ?_ ?_ ?_ ?_ ?_ ?_ ?_ ?_ ?_ ?_ ?_ <;> simp
    simp [decodeRaw, dec24, Raw.noLit, Raw.onlyMask, Raw.extM, Raw.zb, ck, ckSome, hp.w, hp.major, hp.long, hp.lit, hp.w2, he, hf, hb, ha, hd, k5, k6, k9, vfmtOf_vfmtNum]
theorem vbcast (o : OpsV1) : Statement (.vbcast o) := by
  intro hw _
  obtain ⟨w, fmt, d, a, _ | e⟩ := o
  · refine decode_1 (.V 0 (vfmtNum fmt) 0 a.val d.val) (by decide) (by simp [Fields.fits, vfmtNum_lt]) hw fun r hp hq => ?_
    obtain ⟨he, hf, hb, ha, hd⟩ := hq
    simp [decodeRaw, dec25, Raw.noLit, Raw.onlyMask, Raw.extM, Raw.zb, ck, ckSome, hp.w, hp.major, hp.long, hp.lit, hp.w1, hp.w2, he, hf, hb, ha, hd, w1less_of_zero, vfmtOf_vfmtNum]
  · refine decode_3 (.V 0 (vfmtNum fmt) 0 a.val d.val) (by decide) (by simp [Fields.fits, vfmtNum_lt]) hw fun r hp hq => ?_
    obtain ⟨he, hf, hb, ha, hd⟩ := hq
    obtain ⟨k1, k2, k3, k4, k5, k6, k7, k8⟩ := word1_read hp.w1 (by simp) (by simp) (by simp) (by simp) (by simp) (by simp)
    have k9 : r.w1less false false false false true true false = 0 := by
      refine w1less_word1 hp.w1 ?_ ?_ ?_ ?_ ?_ ?_ ?_ ?_ ?_ ?_ ?_ ?_ ?_ <;> simp
    simp [decodeRaw, dec25, Raw.noLit, Raw.onlyMask, Raw.extM, Raw.zb, ck, ckSome, hp.w, hp.major, hp.long, hp.lit, hp.w2, he, hf, hb, ha, hd, k5, k6, k9, vfmtOf_vfmtNum]
theorem vperm (o : OpsV2) : Statement (.vperm o) := by
  intro hw _
  obtain ⟨w, fmt, d, a, b, _ | e⟩ := o
  · refine decode_1 (.V 1 (vfmtNum fmt) b.val a.val d.val) (by decide) (by simp [Fields.fits, vfmtNum_lt]) hw fun r hp hq => ?_
    obtain ⟨he, hf, hb, ha, hd⟩ := hq
    simp [decodeRaw, dec25, Raw.noLit, Raw.onlyMask, Raw.extM, ck, ckSome, hp.w, hp.major, hp.long, hp.lit, hp.w1, hp.w2, he, hf, hb, ha, hd, w1less_of_zero, vfmtOf_vfmtNum]
  · refine decode_3 (.V 1 (vfmtNum fmt) b.val a.val d.val) (by decide) (by simp [Fields.fits, vfmtNum_lt]) hw fun r hp hq => ?_
    obtain ⟨he, hf, hb, ha, hd⟩ := hq
    obtain ⟨k1, k2, k3, k4, k5, k6, k7, k8⟩ := word1_read hp.w1 (by simp) (by simp) (by simp) (by simp) (by simp) (by simp)
    have k9 : r.w1less false false false false true true false = 0 := by
      refine w1less_word1 hp.w1 ?_ ?_ ?_ ?_ ?_ ?_ ?_ ?_ ?_ ?_ ?_ ?_ ?_ <;> simp
    simp [decodeRaw, dec25, Raw.noLit, Raw.onlyMask, Raw.extM, ck, ckSome, hp.w, hp.major, hp.long, hp.lit, hp.w2, he, hf, hb, ha, hd, k5, k6, k9, vfmtOf_vfmtNum]
theorem vslup (o : OpsV2) : Statement (.vslup o) := by
  intro hw _
  obtain ⟨w, fmt, d, a, b, _ | e⟩ := o
  · refine decode_1 (.V 2 (vfmtNum fmt) b.val a.val d.val) (by decide) (by simp [Fields.fits, vfmtNum_lt]) hw fun r hp hq => ?_
    obtain ⟨he, hf, hb, ha, hd⟩ := hq
    simp [decodeRaw, dec25, Raw.noLit, Raw.onlyMask, Raw.extM, ck, ckSome, hp.w, hp.major, hp.long, hp.lit, hp.w1, hp.w2, he, hf, hb, ha, hd, w1less_of_zero, vfmtOf_vfmtNum]
  · refine decode_3 (.V 2 (vfmtNum fmt) b.val a.val d.val) (by decide) (by simp [Fields.fits, vfmtNum_lt]) hw fun r hp hq => ?_
    obtain ⟨he, hf, hb, ha, hd⟩ := hq
    obtain ⟨k1, k2, k3, k4, k5, k6, k7, k8⟩ := word1_read hp.w1 (by simp) (by simp) (by simp) (by simp) (by simp) (by simp)
    have k9 : r.w1less false false false false true true false = 0 := by
      refine w1less_word1 hp.w1 ?_ ?_ ?_ ?_ ?_ ?_ ?_ ?_ ?_ ?_ ?_ ?_ ?_ <;> simp
    simp [decodeRaw, dec25, Raw.noLit, Raw.onlyMask, Raw.extM, ck, ckSome, hp.w, hp.major, hp.long, hp.lit, hp.w2, he, hf, hb, ha, hd, k5, k6, k9, vfmtOf_vfmtNum]
theorem vsldn (o : OpsV2) : Statement (.vsldn o) := by
  intro hw _
  obtain ⟨w, fmt, d, a, b, _ | e⟩ := o
  · refine decode_1 (.V 3 (vfmtNum fmt) b.val a.val d.val) (by decide) (by simp [Fields.fits, vfmtNum_lt]) hw fun r hp hq => ?_
    obtain ⟨he, hf, hb, ha, hd⟩ := hq
    simp [decodeRaw, dec25, Raw.noLit, Raw.onlyMask, Raw.extM, ck, ckSome, hp.w, hp.major, hp.long, hp.lit, hp.w1, hp.w2, he, hf, hb, ha, hd, w1less_of_zero, vfmtOf_vfmtNum]
  · refine decode_3 (.V 3 (vfmtNum fmt) b.val a.val d.val) (by decide) (by simp [Fields.fits, vfmtNum_lt]) hw fun r hp hq => ?_
    obtain ⟨he, hf, hb, ha, hd⟩ := hq
    obtain ⟨k1, k2, k3, k4, k5, k6, k7, k8⟩ := word1_read hp.w1 (by simp) (by simp) (by simp) (by simp) (by simp) (by simp)
    have k9 : r.w1less false false false false true true false = 0 := by
      refine w1less_word1 hp.w1 ?_ ?_ ?_ ?_ ?_ ?_ ?_ ?_ ?_ ?_ ?_ ?_ ?_ <;> simp
    simp [decodeRaw, dec25, Raw.noLit, Raw.onlyMask, Raw.extM, ck, ckSome, hp.w, hp.major, hp.long, hp.lit, hp.w2, he, hf, hb, ha, hd, k5, k6, k9, vfmtOf_vfmtNum]
theorem vcompress (o : OpsV1) : Statement (.vcompress o) := by
  intro hw _
  obtain ⟨w, fmt, d, a, _ | e⟩ := o
  · refine decode_1 (.V 4 (vfmtNum fmt) 0 a.val d.val) (by decide) (by simp [Fields.fits, vfmtNum_lt]) hw fun r hp hq => ?_
    obtain ⟨he, hf, hb, ha, hd⟩ := hq
    simp [decodeRaw, dec25, Raw.noLit, Raw.onlyMask, Raw.extM, Raw.zb, ck, ckSome, hp.w, hp.major, hp.long, hp.lit, hp.w1, hp.w2, he, hf, hb, ha, hd, w1less_of_zero, vfmtOf_vfmtNum]
  · refine decode_3 (.V 4 (vfmtNum fmt) 0 a.val d.val) (by decide) (by simp [Fields.fits, vfmtNum_lt]) hw fun r hp hq => ?_
    obtain ⟨he, hf, hb, ha, hd⟩ := hq
    obtain ⟨k1, k2, k3, k4, k5, k6, k7, k8⟩ := word1_read hp.w1 (by simp) (by simp) (by simp) (by simp) (by simp) (by simp)
    have k9 : r.w1less false false false false true true false = 0 := by
      refine w1less_word1 hp.w1 ?_ ?_ ?_ ?_ ?_ ?_ ?_ ?_ ?_ ?_ ?_ ?_ ?_ <;> simp
    simp [decodeRaw, dec25, Raw.noLit, Raw.onlyMask, Raw.extM, Raw.zb, ck, ckSome, hp.w, hp.major, hp.long, hp.lit, hp.w2, he, hf, hb, ha, hd, k5, k6, k9, vfmtOf_vfmtNum]
theorem vins (o : OpsV2) : Statement (.vins o) := by
  intro hw _
  obtain ⟨w, fmt, d, a, b, _ | e⟩ := o
  · refine decode_1 (.V 5 (vfmtNum fmt) b.val a.val d.val) (by decide) (by simp [Fields.fits, vfmtNum_lt]) hw fun r hp hq => ?_
    obtain ⟨he, hf, hb, ha, hd⟩ := hq
    simp [decodeRaw, dec25, Raw.noLit, Raw.onlyMask, Raw.extM, ck, ckSome, hp.w, hp.major, hp.long, hp.lit, hp.w1, hp.w2, he, hf, hb, ha, hd, w1less_of_zero, vfmtOf_vfmtNum]
  · refine decode_3 (.V 5 (vfmtNum fmt) b.val a.val d.val) (by decide) (by simp [Fields.fits, vfmtNum_lt]) hw fun r hp hq => ?_
    obtain ⟨he, hf, hb, ha, hd⟩ := hq
    obtain ⟨k1, k2, k3, k4, k5, k6, k7, k8⟩ := word1_read hp.w1 (by simp) (by simp) (by simp) (by simp) (by simp) (by simp)
    have k9 : r.w1less false false false false true true false = 0 := by
      refine w1less_word1 hp.w1 ?_ ?_ ?_ ?_ ?_ ?_ ?_ ?_ ?_ ?_ ?_ ?_ ?_ <;> simp
    simp [decodeRaw, dec25, Raw.noLit, Raw.onlyMask, Raw.extM, ck, ckSome, hp.w, hp.major, hp.long, hp.lit, hp.w2, he, hf, hb, ha, hd, k5, k6, k9, vfmtOf_vfmtNum]
theorem vext (o : OpsV2) : Statement (.vext o) := by
  intro hw _
  obtain ⟨w, fmt, d, a, b, _ | e⟩ := o
  · refine decode_1 (.V 6 (vfmtNum fmt) b.val a.val d.val) (by decide) (by simp [Fields.fits, vfmtNum_lt]) hw fun r hp hq => ?_
    obtain ⟨he, hf, hb, ha, hd⟩ := hq
    simp [decodeRaw, dec25, Raw.noLit, Raw.onlyMask, Raw.extM, ck, ckSome, hp.w, hp.major, hp.long, hp.lit, hp.w1, hp.w2, he, hf, hb, ha, hd, w1less_of_zero, vfmtOf_vfmtNum]
  · refine decode_3 (.V 6 (vfmtNum fmt) b.val a.val d.val) (by decide) (by simp [Fields.fits, vfmtNum_lt]) hw fun r hp hq => ?_
    obtain ⟨he, hf, hb, ha, hd⟩ := hq
    obtain ⟨k1, k2, k3, k4, k5, k6, k7, k8⟩ := word1_read hp.w1 (by simp) (by simp) (by simp) (by simp) (by simp) (by simp)
    have k9 : r.w1less false false false false true true false = 0 := by
      refine w1less_word1 hp.w1 ?_ ?_ ?_ ?_ ?_ ?_ ?_ ?_ ?_ ?_ ?_ ?_ ?_ <;> simp
    simp [decodeRaw, dec25, Raw.noLit, Raw.onlyMask, Raw.extM, ck, ckSome, hp.w, hp.major, hp.long, hp.lit, hp.w2, he, hf, hb, ha, hd, k5, k6, k9, vfmtOf_vfmtNum]
theorem viota (o : OpsV0) : Statement (.viota o) := by
  intro hw _
  obtain ⟨w, fmt, d, _ | e⟩ := o
  · refine decode_1 (.V 7 (vfmtNum fmt) 0 0 d.val) (by decide) (by simp [Fields.fits, vfmtNum_lt]) hw fun r hp hq => ?_
    obtain ⟨he, hf, hb, ha, hd⟩ := hq
    simp [decodeRaw, dec25, Raw.noLit, Raw.onlyMask, Raw.extM, Raw.za, Raw.zb, ck, ckSome, hp.w, hp.major, hp.long, hp.lit, hp.w1, hp.w2, he, hf, hb, ha, hd, w1less_of_zero, vfmtOf_vfmtNum]
  · refine decode_3 (.V 7 (vfmtNum fmt) 0 0 d.val) (by decide) (by simp [Fields.fits, vfmtNum_lt]) hw fun r hp hq => ?_
    obtain ⟨he, hf, hb, ha, hd⟩ := hq
    obtain ⟨k1, k2, k3, k4, k5, k6, k7, k8⟩ := word1_read hp.w1 (by simp) (by simp) (by simp) (by simp) (by simp) (by simp)
    have k9 : r.w1less false false false false true true false = 0 := by
      refine w1less_word1 hp.w1 ?_ ?_ ?_ ?_ ?_ ?_ ?_ ?_ ?_ ?_ ?_ ?_ ?_ <;> simp
    simp [decodeRaw, dec25, Raw.noLit, Raw.onlyMask, Raw.extM, Raw.za, Raw.zb, ck, ckSome, hp.w, hp.major, hp.long, hp.lit, hp.w2, he, hf, hb, ha, hd, k5, k6, k9, vfmtOf_vfmtNum]
theorem vmov (o : OpsV1) : Statement (.vmov o) := by
  intro hw _
  obtain ⟨w, fmt, d, a, _ | e⟩ := o
  · refine decode_1 (.V 8 (vfmtNum fmt) 0 a.val d.val) (by decide) (by simp [Fields.fits, vfmtNum_lt]) hw fun r hp hq => ?_
    obtain ⟨he, hf, hb, ha, hd⟩ := hq
    simp [decodeRaw, dec25, Raw.noLit, Raw.onlyMask, Raw.extM, Raw.zb, ck, ckSome, hp.w, hp.major, hp.long, hp.lit, hp.w1, hp.w2, he, hf, hb, ha, hd, w1less_of_zero, vfmtOf_vfmtNum]
  · refine decode_3 (.V 8 (vfmtNum fmt) 0 a.val d.val) (by decide) (by simp [Fields.fits, vfmtNum_lt]) hw fun r hp hq => ?_
    obtain ⟨he, hf, hb, ha, hd⟩ := hq
    obtain ⟨k1, k2, k3, k4, k5, k6, k7, k8⟩ := word1_read hp.w1 (by simp) (by simp) (by simp) (by simp) (by simp) (by simp)
    have k9 : r.w1less false false false false true true false = 0 := by
      refine w1less_word1 hp.w1 ?_ ?_ ?_ ?_ ?_ ?_ ?_ ?_ ?_ ?_ ?_ ?_ ?_ <;> simp
    simp [decodeRaw, dec25, Raw.noLit, Raw.onlyMask, Raw.extM, Raw.zb, ck, ckSome, hp.w, hp.major, hp.long, hp.lit, hp.w2, he, hf, hb, ha, hd, k5, k6, k9, vfmtOf_vfmtNum]
theorem vsel (o : OpsVsel) : Statement (.vsel o) := by
  intro hw _
  obtain ⟨w, fmt, d, a, b, _ | e⟩ := o
  · refine decode_1 (.V 0 (vfmtNum fmt) b.val a.val d.val) (by decide) (by simp [Fields.fits, vfmtNum_lt]) hw fun r hp hq => ?_
    obtain ⟨he, hf, hb, ha, hd⟩ := hq
    simp [decodeRaw, dec26, Raw.noLit, Raw.onlyM, Raw.extMask, ck, ckSome, hp.w, hp.major, hp.long, hp.lit, hp.w1, hp.w2, he, hf, hb, ha, hd, w1less_of_zero, vfmtOf_vfmtNum]
  · refine decode_3 (.V 0 (vfmtNum fmt) b.val a.val d.val) (by decide) (by simp [Fields.fits, vfmtNum_lt]) hw fun r hp hq => ?_
    obtain ⟨he, hf, hb, ha, hd⟩ := hq
    obtain ⟨k1, k2, k3, k4, k5, k6, k7, k8⟩ := word1_read hp.w1 (by simp) (by simp) (by simp) (by simp) (by simp) (by simp)
    have k9 : r.w1less false false false false true false false = 0 := by
      refine w1less_word1 hp.w1 ?_ ?_ ?_ ?_ ?_ ?_ ?_ ?_ ?_ ?_ ?_ ?_ ?_ <;> simp
    simp [decodeRaw, dec26, Raw.noLit, Raw.onlyM, Raw.extMask, ck, ckSome, hp.w, hp.major, hp.long, hp.lit, hp.w2, he, hf, hb, ha, hd, k5, k9, vfmtOf_vfmtNum]
theorem mand (o : OpsMM) : Statement (.mand o) := by
  intro hw _
  obtain ⟨w, d, a, b, _ | _⟩ := o
  · refine decode_1 (.V 1 0 b.val a.val d.val) (by decide) (by simp [Fields.fits, mask_lt]) hw fun r hp hq => ?_
    obtain ⟨he, hf, hb, ha, hd⟩ := hq
    simp [decodeRaw, dec26, Raw.noLit, Raw.noExt, ck, ckSome, hp.w, hp.major, hp.long, hp.lit, hp.w1, hp.w2, he, hf, hb, ha, hd, maskOf_val, -Fin.ofNat_eq_cast]
  · refine decode_3 (.V 1 0 b.val a.val d.val) (by decide) (by simp [Fields.fits, mask_lt]) hw fun r hp hq => ?_
    obtain ⟨he, hf, hb, ha, hd⟩ := hq
    simp [decodeRaw, dec26, Raw.noLit, Raw.noExt, ck, ckSome, hp.w, hp.major, hp.long, hp.lit, hp.w1, hp.w2, he, hf, hb, ha, hd, maskOf_val, -Fin.ofNat_eq_cast]
theorem mor (o : OpsMM) : Statement (.mor o) := by
  intro hw _
  obtain ⟨w, d, a, b, _ | _⟩ := o
  · refine decode_1 (.V 2 0 b.val a.val d.val) (by decide) (by simp [Fields.fits, mask_lt]) hw fun r hp hq => ?_
    obtain ⟨he, hf, hb, ha, hd⟩ := hq
    simp [decodeRaw, dec26, Raw.noLit, Raw.noExt, ck, ckSome, hp.w, hp.major, hp.long, hp.lit, hp.w1, hp.w2, he, hf, hb, ha, hd, maskOf_val, -Fin.ofNat_eq_cast]
  · refine decode_3 (.V 2 0 b.val a.val d.val) (by decide) (by simp [Fields.fits, mask_lt]) hw fun r hp hq => ?_
    obtain ⟨he, hf, hb, ha, hd⟩ := hq
    simp [decodeRaw, dec26, Raw.noLit, Raw.noExt, ck, ckSome, hp.w, hp.major, hp.long, hp.lit, hp.w1, hp.w2, he, hf, hb, ha, hd, maskOf_val, -Fin.ofNat_eq_cast]
theorem mxor (o : OpsMM) : Statement (.mxor o) := by
  intro hw _
  obtain ⟨w, d, a, b, _ | _⟩ := o
  · refine decode_1 (.V 3 0 b.val a.val d.val) (by decide) (by simp [Fields.fits, mask_lt]) hw fun r hp hq => ?_
    obtain ⟨he, hf, hb, ha, hd⟩ := hq
    simp [decodeRaw, dec26, Raw.noLit, Raw.noExt, ck, ckSome, hp.w, hp.major, hp.long, hp.lit, hp.w1, hp.w2, he, hf, hb, ha, hd, maskOf_val, -Fin.ofNat_eq_cast]
  · refine decode_3 (.V 3 0 b.val a.val d.val) (by decide) (by simp [Fields.fits, mask_lt]) hw fun r hp hq => ?_
    obtain ⟨he, hf, hb, ha, hd⟩ := hq
    simp [decodeRaw, dec26, Raw.noLit, Raw.noExt, ck, ckSome, hp.w, hp.major, hp.long, hp.lit, hp.w1, hp.w2, he, hf, hb, ha, hd, maskOf_val, -Fin.ofNat_eq_cast]
theorem mnot (o : OpsMM1) : Statement (.mnot o) := by
  intro hw _
  obtain ⟨w, d, a, _ | _⟩ := o
  · refine decode_1 (.V 4 0 0 a.val d.val) (by decide) (by simp [Fields.fits, mask_lt]) hw fun r hp hq => ?_
    obtain ⟨he, hf, hb, ha, hd⟩ := hq
    simp [decodeRaw, dec26, Raw.noLit, Raw.noExt, Raw.zb, ck, ckSome, hp.w, hp.major, hp.long, hp.lit, hp.w1, hp.w2, he, hf, hb, ha, hd, maskOf_val, -Fin.ofNat_eq_cast]
  · refine decode_3 (.V 4 0 0 a.val d.val) (by decide) (by simp [Fields.fits, mask_lt]) hw fun r hp hq => ?_
    obtain ⟨he, hf, hb, ha, hd⟩ := hq
    simp [decodeRaw, dec26, Raw.noLit, Raw.noExt, Raw.zb, ck, ckSome, hp.w, hp.major, hp.long, hp.lit, hp.w1, hp.w2, he, hf, hb, ha, hd, maskOf_val, -Fin.ofNat_eq_cast]
theorem mpopc (o : OpsXM) : Statement (.mpopc o) := by
  intro hw _
  obtain ⟨w, d, a, _ | _⟩ := o
  · refine decode_1 (.V 5 0 0 a.val d.val) (by decide) (by simp [Fields.fits, mask_lt]) hw fun r hp hq => ?_
    obtain ⟨he, hf, hb, ha, hd⟩ := hq
    simp [decodeRaw, dec26, Raw.noLit, Raw.noExt, Raw.zb, ck, ckSome, hp.w, hp.major, hp.long, hp.lit, hp.w1, hp.w2, he, hf, hb, ha, hd, maskOf_val, -Fin.ofNat_eq_cast]
  · refine decode_3 (.V 5 0 0 a.val d.val) (by decide) (by simp [Fields.fits, mask_lt]) hw fun r hp hq => ?_
    obtain ⟨he, hf, hb, ha, hd⟩ := hq
    simp [decodeRaw, dec26, Raw.noLit, Raw.noExt, Raw.zb, ck, ckSome, hp.w, hp.major, hp.long, hp.lit, hp.w1, hp.w2, he, hf, hb, ha, hd, maskOf_val, -Fin.ofNat_eq_cast]
theorem mfirst (o : OpsXM) : Statement (.mfirst o) := by
  intro hw _
  obtain ⟨w, d, a, _ | _⟩ := o
  · refine decode_1 (.V 6 0 0 a.val d.val) (by decide) (by simp [Fields.fits, mask_lt]) hw fun r hp hq => ?_
    obtain ⟨he, hf, hb, ha, hd⟩ := hq
    simp [decodeRaw, dec26, Raw.noLit, Raw.noExt, Raw.zb, ck, ckSome, hp.w, hp.major, hp.long, hp.lit, hp.w1, hp.w2, he, hf, hb, ha, hd, maskOf_val, -Fin.ofNat_eq_cast]
  · refine decode_3 (.V 6 0 0 a.val d.val) (by decide) (by simp [Fields.fits, mask_lt]) hw fun r hp hq => ?_
    obtain ⟨he, hf, hb, ha, hd⟩ := hq
    simp [decodeRaw, dec26, Raw.noLit, Raw.noExt, Raw.zb, ck, ckSome, hp.w, hp.major, hp.long, hp.lit, hp.w1, hp.w2, he, hf, hb, ha, hd, maskOf_val, -Fin.ofNat_eq_cast]
theorem mset (o : OpsMX) : Statement (.mset o) := by
  intro hw _
  obtain ⟨w, d, a, _ | _⟩ := o
  · refine decode_1 (.V 7 0 0 a.val d.val) (by decide) (by simp [Fields.fits, mask_lt]) hw fun r hp hq => ?_
    obtain ⟨he, hf, hb, ha, hd⟩ := hq
    simp [decodeRaw, dec26, Raw.noLit, Raw.noExt, Raw.zb, ck, ckSome, hp.w, hp.major, hp.long, hp.lit, hp.w1, hp.w2, he, hf, hb, ha, hd, maskOf_val, -Fin.ofNat_eq_cast]
  · refine decode_3 (.V 7 0 0 a.val d.val) (by decide) (by simp [Fields.fits, mask_lt]) hw fun r hp hq => ?_
    obtain ⟨he, hf, hb, ha, hd⟩ := hq
    simp [decodeRaw, dec26, Raw.noLit, Raw.noExt, Raw.zb, ck, ckSome, hp.w, hp.major, hp.long, hp.lit, hp.w1, hp.w2, he, hf, hb, ha, hd, maskOf_val, -Fin.ofNat_eq_cast]
theorem mget (o : OpsXM) : Statement (.mget o) := by
  intro hw _
  obtain ⟨w, d, a, _ | _⟩ := o
  · refine decode_1 (.V 8 0 0 a.val d.val) (by decide) (by simp [Fields.fits, mask_lt]) hw fun r hp hq => ?_
    obtain ⟨he, hf, hb, ha, hd⟩ := hq
    simp [decodeRaw, dec26, Raw.noLit, Raw.noExt, Raw.zb, ck, ckSome, hp.w, hp.major, hp.long, hp.lit, hp.w1, hp.w2, he, hf, hb, ha, hd, maskOf_val, -Fin.ofNat_eq_cast]
  · refine decode_3 (.V 8 0 0 a.val d.val) (by decide) (by simp [Fields.fits, mask_lt]) hw fun r hp hq => ?_
    obtain ⟨he, hf, hb, ha, hd⟩ := hq
    simp [decodeRaw, dec26, Raw.noLit, Raw.noExt, Raw.zb, ck, ckSome, hp.w, hp.major, hp.long, hp.lit, hp.w1, hp.w2, he, hf, hb, ha, hd, maskOf_val, -Fin.ofNat_eq_cast]
theorem vld (o : OpsVL) : Statement (.vld o) := by
  intro hw _
  obtain ⟨w, d, a, v | v, _ | e⟩ := o
  · refine decode_1 (.M v.toNat 0 a.val d.val) (by decide) (by simp [Fields.fits, bv10_lt]) hw fun r hp hq => ?_
    obtain ⟨he, hf, ha, hd⟩ := hq
    simp [decodeRaw, dec27, Raw.onlyMask, Raw.extM, Raw.off, ck, hp.w, hp.major, hp.long, hp.lit, hp.w1, hp.w2, he, hf, ha, hd, w1less_of_zero]
  · refine decode_3 (.M v.toNat 0 a.val d.val) (by decide) (by simp [Fields.fits, bv10_lt]) hw fun r hp hq => ?_
    obtain ⟨he, hf, ha, hd⟩ := hq
    obtain ⟨k1, k2, k3, k4, k5, k6, k7, k8⟩ := word1_read hp.w1 (by simp) (by simp) (by simp) (by simp) (by simp) (by simp)
    have k9 : r.w1less false false false false true true false = 0 := by
      refine w1less_word1 hp.w1 ?_ ?_ ?_ ?_ ?_ ?_ ?_ ?_ ?_ ?_ ?_ ?_ ?_ <;> simp
    simp [decodeRaw, dec27, Raw.onlyMask, Raw.extM, Raw.off, ck, hp.w, hp.major, hp.long, hp.lit, hp.w2, he, hf, ha, hd, k5, k6, k9]
  · refine decode_L (.M 0 0 a.val d.val) (by decide) (by simp [Fields.fits]) hw fun r hp hq => ?_
    obtain ⟨he, hf, ha, hd⟩ := hq
    simp [decodeRaw, dec27, Raw.onlyMask, Raw.extM, Raw.off, ck, hp.w, hp.major, hp.long, hp.lit, hp.w1, hp.w2, he, hf, ha, hd, w1less_of_zero]
  · refine decode_3L (.M 0 0 a.val d.val) (by decide) (by simp [Fields.fits]) hw fun r hp hq => ?_
    obtain ⟨he, hf, ha, hd⟩ := hq
    obtain ⟨k1, k2, k3, k4, k5, k6, k7, k8⟩ := word1_read hp.w1 (by simp) (by simp) (by simp) (by simp) (by simp) (by simp)
    have k9 : r.w1less false false false false true true false = 0 := by
      refine w1less_word1 hp.w1 ?_ ?_ ?_ ?_ ?_ ?_ ?_ ?_ ?_ ?_ ?_ ?_ ?_ <;> simp
    simp [decodeRaw, dec27, Raw.onlyMask, Raw.extM, Raw.off, ck, hp.w, hp.major, hp.long, hp.lit, hp.w2, he, hf, ha, hd, k5, k6, k9]
theorem vst (o : OpsVS) : Statement (.vst o) := by
  intro hw _
  obtain ⟨w, d, a, v | v, _ | e⟩ := o
  · refine decode_1 (.M v.toNat 1 a.val d.val) (by decide) (by simp [Fields.fits, bv10_lt]) hw fun r hp hq => ?_
    obtain ⟨he, hf, ha, hd⟩ := hq
    simp [decodeRaw, dec27, Raw.onlyM, Raw.extMask, Raw.off, ck, hp.w, hp.major, hp.long, hp.lit, hp.w1, hp.w2, he, hf, ha, hd, w1less_of_zero]
  · refine decode_3 (.M v.toNat 1 a.val d.val) (by decide) (by simp [Fields.fits, bv10_lt]) hw fun r hp hq => ?_
    obtain ⟨he, hf, ha, hd⟩ := hq
    obtain ⟨k1, k2, k3, k4, k5, k6, k7, k8⟩ := word1_read hp.w1 (by simp) (by simp) (by simp) (by simp) (by simp) (by simp)
    have k9 : r.w1less false false false false true false false = 0 := by
      refine w1less_word1 hp.w1 ?_ ?_ ?_ ?_ ?_ ?_ ?_ ?_ ?_ ?_ ?_ ?_ ?_ <;> simp
    simp [decodeRaw, dec27, Raw.onlyM, Raw.extMask, Raw.off, ck, hp.w, hp.major, hp.long, hp.lit, hp.w2, he, hf, ha, hd, k5, k9]
  · refine decode_L (.M 0 1 a.val d.val) (by decide) (by simp [Fields.fits]) hw fun r hp hq => ?_
    obtain ⟨he, hf, ha, hd⟩ := hq
    simp [decodeRaw, dec27, Raw.onlyM, Raw.extMask, Raw.off, ck, hp.w, hp.major, hp.long, hp.lit, hp.w1, hp.w2, he, hf, ha, hd, w1less_of_zero]
  · refine decode_3L (.M 0 1 a.val d.val) (by decide) (by simp [Fields.fits]) hw fun r hp hq => ?_
    obtain ⟨he, hf, ha, hd⟩ := hq
    obtain ⟨k1, k2, k3, k4, k5, k6, k7, k8⟩ := word1_read hp.w1 (by simp) (by simp) (by simp) (by simp) (by simp) (by simp)
    have k9 : r.w1less false false false false true false false = 0 := by
      refine w1less_word1 hp.w1 ?_ ?_ ?_ ?_ ?_ ?_ ?_ ?_ ?_ ?_ ?_ ?_ ?_ <;> simp
    simp [decodeRaw, dec27, Raw.onlyM, Raw.extMask, Raw.off, ck, hp.w, hp.major, hp.long, hp.lit, hp.w2, he, hf, ha, hd, k5, k9]
theorem vgather (o : OpsVL) : Statement (.vgather o) := by
  intro hw _
  obtain ⟨w, d, a, v | v, _ | e⟩ := o
  · refine decode_1 (.M v.toNat 2 a.val d.val) (by decide) (by simp [Fields.fits, bv10_lt]) hw fun r hp hq => ?_
    obtain ⟨he, hf, ha, hd⟩ := hq
    simp [decodeRaw, dec27, Raw.onlyMask, Raw.extM, Raw.off, ck, hp.w, hp.major, hp.long, hp.lit, hp.w1, hp.w2, he, hf, ha, hd, w1less_of_zero]
  · refine decode_3 (.M v.toNat 2 a.val d.val) (by decide) (by simp [Fields.fits, bv10_lt]) hw fun r hp hq => ?_
    obtain ⟨he, hf, ha, hd⟩ := hq
    obtain ⟨k1, k2, k3, k4, k5, k6, k7, k8⟩ := word1_read hp.w1 (by simp) (by simp) (by simp) (by simp) (by simp) (by simp)
    have k9 : r.w1less false false false false true true false = 0 := by
      refine w1less_word1 hp.w1 ?_ ?_ ?_ ?_ ?_ ?_ ?_ ?_ ?_ ?_ ?_ ?_ ?_ <;> simp
    simp [decodeRaw, dec27, Raw.onlyMask, Raw.extM, Raw.off, ck, hp.w, hp.major, hp.long, hp.lit, hp.w2, he, hf, ha, hd, k5, k6, k9]
  · refine decode_L (.M 0 2 a.val d.val) (by decide) (by simp [Fields.fits]) hw fun r hp hq => ?_
    obtain ⟨he, hf, ha, hd⟩ := hq
    simp [decodeRaw, dec27, Raw.onlyMask, Raw.extM, Raw.off, ck, hp.w, hp.major, hp.long, hp.lit, hp.w1, hp.w2, he, hf, ha, hd, w1less_of_zero]
  · refine decode_3L (.M 0 2 a.val d.val) (by decide) (by simp [Fields.fits]) hw fun r hp hq => ?_
    obtain ⟨he, hf, ha, hd⟩ := hq
    obtain ⟨k1, k2, k3, k4, k5, k6, k7, k8⟩ := word1_read hp.w1 (by simp) (by simp) (by simp) (by simp) (by simp) (by simp)
    have k9 : r.w1less false false false false true true false = 0 := by
      refine w1less_word1 hp.w1 ?_ ?_ ?_ ?_ ?_ ?_ ?_ ?_ ?_ ?_ ?_ ?_ ?_ <;> simp
    simp [decodeRaw, dec27, Raw.onlyMask, Raw.extM, Raw.off, ck, hp.w, hp.major, hp.long, hp.lit, hp.w2, he, hf, ha, hd, k5, k6, k9]
theorem vscatter (o : OpsVS) : Statement (.vscatter o) := by
  intro hw _
  obtain ⟨w, d, a, v | v, _ | e⟩ := o
  · refine decode_1 (.M v.toNat 3 a.val d.val) (by decide) (by simp [Fields.fits, bv10_lt]) hw fun r hp hq => ?_
    obtain ⟨he, hf, ha, hd⟩ := hq
    simp [decodeRaw, dec27, Raw.onlyM, Raw.extMask, Raw.off, ck, hp.w, hp.major, hp.long, hp.lit, hp.w1, hp.w2, he, hf, ha, hd, w1less_of_zero]
  · refine decode_3 (.M v.toNat 3 a.val d.val) (by decide) (by simp [Fields.fits, bv10_lt]) hw fun r hp hq => ?_
    obtain ⟨he, hf, ha, hd⟩ := hq
    obtain ⟨k1, k2, k3, k4, k5, k6, k7, k8⟩ := word1_read hp.w1 (by simp) (by simp) (by simp) (by simp) (by simp) (by simp)
    have k9 : r.w1less false false false false true false false = 0 := by
      refine w1less_word1 hp.w1 ?_ ?_ ?_ ?_ ?_ ?_ ?_ ?_ ?_ ?_ ?_ ?_ ?_ <;> simp
    simp [decodeRaw, dec27, Raw.onlyM, Raw.extMask, Raw.off, ck, hp.w, hp.major, hp.long, hp.lit, hp.w2, he, hf, ha, hd, k5, k9]
  · refine decode_L (.M 0 3 a.val d.val) (by decide) (by simp [Fields.fits]) hw fun r hp hq => ?_
    obtain ⟨he, hf, ha, hd⟩ := hq
    simp [decodeRaw, dec27, Raw.onlyM, Raw.extMask, Raw.off, ck, hp.w, hp.major, hp.long, hp.lit, hp.w1, hp.w2, he, hf, ha, hd, w1less_of_zero]
  · refine decode_3L (.M 0 3 a.val d.val) (by decide) (by simp [Fields.fits]) hw fun r hp hq => ?_
    obtain ⟨he, hf, ha, hd⟩ := hq
    obtain ⟨k1, k2, k3, k4, k5, k6, k7, k8⟩ := word1_read hp.w1 (by simp) (by simp) (by simp) (by simp) (by simp) (by simp)
    have k9 : r.w1less false false false false true false false = 0 := by
      refine w1less_word1 hp.w1 ?_ ?_ ?_ ?_ ?_ ?_ ?_ ?_ ?_ ?_ ?_ ?_ ?_ <;> simp
    simp [decodeRaw, dec27, Raw.onlyM, Raw.extMask, Raw.off, ck, hp.w, hp.major, hp.long, hp.lit, hp.w2, he, hf, ha, hd, k5, k9]
theorem vldbc (o : OpsVL) : Statement (.vldbc o) := by
  intro hw _
  obtain ⟨w, d, a, v | v, _ | e⟩ := o
  · refine decode_1 (.M v.toNat 4 a.val d.val) (by decide) (by simp [Fields.fits, bv10_lt]) hw fun r hp hq => ?_
    obtain ⟨he, hf, ha, hd⟩ := hq
    simp [decodeRaw, dec27, Raw.onlyMask, Raw.extM, Raw.off, ck, hp.w, hp.major, hp.long, hp.lit, hp.w1, hp.w2, he, hf, ha, hd, w1less_of_zero]
  · refine decode_3 (.M v.toNat 4 a.val d.val) (by decide) (by simp [Fields.fits, bv10_lt]) hw fun r hp hq => ?_
    obtain ⟨he, hf, ha, hd⟩ := hq
    obtain ⟨k1, k2, k3, k4, k5, k6, k7, k8⟩ := word1_read hp.w1 (by simp) (by simp) (by simp) (by simp) (by simp) (by simp)
    have k9 : r.w1less false false false false true true false = 0 := by
      refine w1less_word1 hp.w1 ?_ ?_ ?_ ?_ ?_ ?_ ?_ ?_ ?_ ?_ ?_ ?_ ?_ <;> simp
    simp [decodeRaw, dec27, Raw.onlyMask, Raw.extM, Raw.off, ck, hp.w, hp.major, hp.long, hp.lit, hp.w2, he, hf, ha, hd, k5, k6, k9]
  · refine decode_L (.M 0 4 a.val d.val) (by decide) (by simp [Fields.fits]) hw fun r hp hq => ?_
    obtain ⟨he, hf, ha, hd⟩ := hq
    simp [decodeRaw, dec27, Raw.onlyMask, Raw.extM, Raw.off, ck, hp.w, hp.major, hp.long, hp.lit, hp.w1, hp.w2, he, hf, ha, hd, w1less_of_zero]
  · refine decode_3L (.M 0 4 a.val d.val) (by decide) (by simp [Fields.fits]) hw fun r hp hq => ?_
    obtain ⟨he, hf, ha, hd⟩ := hq
    obtain ⟨k1, k2, k3, k4, k5, k6, k7, k8⟩ := word1_read hp.w1 (by simp) (by simp) (by simp) (by simp) (by simp) (by simp)
    have k9 : r.w1less false false false false true true false = 0 := by
      refine w1less_word1 hp.w1 ?_ ?_ ?_ ?_ ?_ ?_ ?_ ?_ ?_ ?_ ?_ ?_ ?_ <;> simp
    simp [decodeRaw, dec27, Raw.onlyMask, Raw.extM, Raw.off, ck, hp.w, hp.major, hp.long, hp.lit, hp.w2, he, hf, ha, hd, k5, k6, k9]
theorem vanc (o : OpsVanc) : Statement (.vanc o) := by
  intro hw _
  refine decode_1 (.V 0 4 o.b.val o.a.val o.d.val) (by decide) (by simp [Fields.fits, mask_lt]) hw fun r hp hq => ?_
  obtain ⟨he, hf, hb, ha, hd⟩ := hq
  simp [decodeRaw, dec28, Raw.one, ck, ckSome, hp.w, hp.major, hp.long, hp.lit, he, hf, hb, ha, hd, maskOf_val, -Fin.ofNat_eq_cast]
theorem gang (o : OpsDA) : Statement (.gang o) := by
  intro hw _
  refine decode_1 (.A 0 0 o.a.val o.d.val) (by decide) (by simp [Fields.fits]) hw fun r hp hq => ?_
  obtain ⟨he, hf, hb, ha, hd⟩ := hq
  simp [decodeRaw, dec30, Raw.one, Raw.opsDA, Raw.zb, ck, hp.w, hp.major, hp.long, hp.lit, he, hb, ha, hd]
theorem gstat (o : OpsD) : Statement (.gstat o) := by
  intro hw _
  refine decode_1 (.A 1 0 0 o.d.val) (by decide) (by simp [Fields.fits]) hw fun r hp hq => ?_
  obtain ⟨he, hf, hb, ha, hd⟩ := hq
  simp [decodeRaw, dec30, Raw.one, Raw.opsD, Raw.za, Raw.zb, ck, hp.w, hp.major, hp.long, hp.lit, he, hb, ha, hd]
theorem accRd (o : OpsAcc) : Statement (.accRd o) := by
  intro hw _
  have hf0 := slot_fields o.slot
  refine decode_1 (.A 0 (o.slot.val / 32) (o.slot.val % 32) o.d.val) (by decide) (by simp [Fields.fits, hf0]) hw fun r hp hq => ?_
  obtain ⟨he, hf, hb, ha, hd⟩ := hq
  simp [decodeRaw, dec31, Raw.one, ck, hp.w, hp.major, hp.long, hp.lit, he, hb, ha, hd, hf0]
theorem accWr (o : OpsAcc) : Statement (.accWr o) := by
  intro hw _
  have hf0 := slot_fields o.slot
  refine decode_1 (.A 1 (o.slot.val / 32) (o.slot.val % 32) o.d.val) (by decide) (by simp [Fields.fits, hf0]) hw fun r hp hq => ?_
  obtain ⟨he, hf, hb, ha, hd⟩ := hq
  simp [decodeRaw, dec31, Raw.one, ck, hp.w, hp.major, hp.long, hp.lit, he, hb, ha, hd, hf0]
theorem accZero (o : OpsW) : Statement (.accZero o) := by
  intro hw _
  refine decode_1 (.A 2 0 0 0) (by decide) (by simp [Fields.fits]) hw fun r hp hq => ?_
  obtain ⟨he, hf, hb, ha, hd⟩ := hq
  simp [decodeRaw, dec31, Raw.one, Raw.opsW, Raw.zd, Raw.za, Raw.zb, ck, hp.w, hp.major, hp.long, hp.lit, he, hb, ha, hd]
theorem accSpill (o : OpsA) : Statement (.accSpill o) := by
  intro hw _
  refine decode_1 (.A 3 0 o.a.val 0) (by decide) (by simp [Fields.fits]) hw fun r hp hq => ?_
  obtain ⟨he, hf, hb, ha, hd⟩ := hq
  simp [decodeRaw, dec31, Raw.one, Raw.opsA, Raw.zd, Raw.zb, ck, hp.w, hp.major, hp.long, hp.lit, he, hb, ha, hd]
theorem accFill (o : OpsA) : Statement (.accFill o) := by
  intro hw _
  refine decode_1 (.A 4 0 o.a.val 0) (by decide) (by simp [Fields.fits]) hw fun r hp hq => ?_
  obtain ⟨he, hf, hb, ha, hd⟩ := hq
  simp [decodeRaw, dec31, Raw.one, Raw.opsA, Raw.zd, Raw.zb, ck, hp.w, hp.major, hp.long, hp.lit, he, hb, ha, hd]
theorem accTag (o : OpsDA) : Statement (.accTag o) := by
  intro hw _
  refine decode_1 (.A 5 0 o.a.val o.d.val) (by decide) (by simp [Fields.fits]) hw fun r hp hq => ?_
  obtain ⟨he, hf, hb, ha, hd⟩ := hq
  simp [decodeRaw, dec31, Raw.one, Raw.opsDA, Raw.zb, ck, hp.w, hp.major, hp.long, hp.lit, he, hb, ha, hd]
theorem hLd (o : OpsDA) : Statement (.hLd o) := by
  intro hw _
  refine decode_1 (.A 0 0 o.a.val o.d.val) (by decide) (by simp [Fields.fits]) hw fun r hp hq => ?_
  obtain ⟨he, hf, hb, ha, hd⟩ := hq
  simp [decodeRaw, dec32, Raw.one, Raw.opsDA, Raw.zb, ck, hp.w, hp.major, hp.long, hp.lit, he, hb, ha, hd]
theorem hSt (o : OpsDA) : Statement (.hSt o) := by
  intro hw _
  refine decode_1 (.A 1 0 o.a.val o.d.val) (by decide) (by simp [Fields.fits]) hw fun r hp hq => ?_
  obtain ⟨he, hf, hb, ha, hd⟩ := hq
  simp [decodeRaw, dec32, Raw.one, Raw.opsDA, Raw.zb, ck, hp.w, hp.major, hp.long, hp.lit, he, hb, ha, hd]
theorem hFill (o : OpsDAB) : Statement (.hFill o) := by
  intro hw _
  refine decode_1 (.A 2 o.b.val o.a.val o.d.val) (by decide) (by simp [Fields.fits]) hw fun r hp hq => ?_
  obtain ⟨he, hf, hb, ha, hd⟩ := hq
  simp [decodeRaw, dec32, Raw.one, Raw.opsDAB, ck, hp.w, hp.major, hp.long, hp.lit, he, hb, ha, hd]
theorem issueCycle (c : Nat) : Statement (.issueCycle c) := fun _ h => Bool.noConfusion h
theorem accessReturn (c : Nat) (x : Ctx) (k : Nat) : Statement (.accessReturn c x k) := fun _ h => Bool.noConfusion h
theorem accessPerform (c : Nat) (x : Ctx) (k : Nat) : Statement (.accessPerform c x k) := fun _ h => Bool.noConfusion h
theorem storeCheckComplete (c : Nat) (x : Ctx) (k : Nat) : Statement (.storeCheckComplete c x k) := fun _ h => Bool.noConfusion h
theorem storeFaultTrap (c : Nat) (x : Ctx) : Statement (.storeFaultTrap c x) := fun _ h => Bool.noConfusion h
theorem messageArrival (src : MsgSrc) (k : Nat) : Statement (.messageArrival src k) := fun _ h => Bool.noConfusion h
theorem messageResend (src : MsgSrc) (k : Nat) : Statement (.messageResend src k) := fun _ h => Bool.noConfusion h
theorem sendFailure (c : Nat) (x : Ctx) (k : Nat) : Statement (.sendFailure c x k) := fun _ h => Bool.noConfusion h
theorem firingStart (c : Nat) (x : Ctx) : Statement (.firingStart c x) := fun _ h => Bool.noConfusion h
theorem actorReady (c : Nat) (cls : Nat) : Statement (.actorReady c cls) := fun _ h => Bool.noConfusion h
theorem rangeRemainderPush (c : Nat) (x : Ctx) : Statement (.rangeRemainderPush c x) := fun _ h => Bool.noConfusion h
theorem stealRequest (c : Nat) : Statement (.stealRequest c) := fun _ h => Bool.noConfusion h
theorem stealServe (thief : Nat) : Statement (.stealServe thief) := fun _ h => Bool.noConfusion h
theorem stealReply (c : Nat) : Statement (.stealReply c) := fun _ h => Bool.noConfusion h
theorem stealRoundRetry (c : Nat) : Statement (.stealRoundRetry c) := fun _ h => Bool.noConfusion h
theorem donationRequest (cl : Nat) : Statement (.donationRequest cl) := fun _ h => Bool.noConfusion h
theorem donationServe (cl : Nat) : Statement (.donationServe cl) := fun _ h => Bool.noConfusion h
theorem parkWake (c : Nat) (x : Ctx) : Statement (.parkWake c x) := fun _ h => Bool.noConfusion h
theorem parkTimeout (c : Nat) (x : Ctx) : Statement (.parkTimeout c x) := fun _ h => Bool.noConfusion h
theorem hostDoorbell (p q : Nat) (total : BitVec 64) : Statement (.hostDoorbell p q total) := fun _ h => Bool.noConfusion h
theorem hostQueueRecord (p q : Nat) : Statement (.hostQueueRecord p q) := fun _ h => Bool.noConfusion h
theorem groupPlace (die p : Nat) : Statement (.groupPlace die p) := fun _ h => Bool.noConfusion h
theorem groupForward (die k : Nat) : Statement (.groupForward die k) := fun _ h => Bool.noConfusion h
theorem groupRetire (die : Nat) (gid : Nat) : Statement (.groupRetire die gid) := fun _ h => Bool.noConfusion h
theorem launchRetire (p handle : Nat) : Statement (.launchRetire p handle) := fun _ h => Bool.noConfusion h
theorem replayRequest (p k : Nat) : Statement (.replayRequest p k) := fun _ h => Bool.noConfusion h
theorem graphNodeRetire (p handle : Nat) : Statement (.graphNodeRetire p handle) := fun _ h => Bool.noConfusion h
theorem imageLoad (r : LoadReq) : Statement (.imageLoad r) := fun _ h => Bool.noConfusion h
theorem imageUnload (p load : Nat) : Statement (.imageUnload p load) := fun _ h => Bool.noConfusion h
theorem copyKick (c : Nat) (x : Ctx) (k : Nat) : Statement (.copyKick c x k) := fun _ h => Bool.noConfusion h
theorem serviceHartChunk (cl slot : Nat) : Statement (.serviceHartChunk cl slot) := fun _ h => Bool.noConfusion h
theorem shReplay (cl slot : Nat) : Statement (.shReplay cl slot) := fun _ h => Bool.noConfusion h
theorem shCancel (cl slot : Nat) : Statement (.shCancel cl slot) := fun _ h => Bool.noConfusion h
theorem copyFaultPop (p : Nat) : Statement (.copyFaultPop p) := fun _ h => Bool.noConfusion h
theorem translationWalk (cl p : Nat) (va : BitVec 64) : Statement (.translationWalk cl p va) := fun _ h => Bool.noConfusion h
theorem errorDetected (e : ErrorReport) : Statement (.errorDetected e) := fun _ h => Bool.noConfusion h
theorem errorLogFree (a : ErrArray) (i : Nat) : Statement (.errorLogFree a i) := fun _ h => Bool.noConfusion h
theorem errorOverflowClear (a : ErrArray) : Statement (.errorOverflowClear a) := fun _ h => Bool.noConfusion h
theorem errorInjectArm (a : ErrArray) (v : BitVec 64) : Statement (.errorInjectArm a v) := fun _ h => Bool.noConfusion h
theorem channelDescriptorWrite (p ch dw : Nat) (v : BitVec 64) (hyp : Bool) : Statement (.channelDescriptorWrite p ch dw v hyp) := fun _ h => Bool.noConfusion h
theorem channelRecordArrival (src : RecSrc) (k : Nat) : Statement (.channelRecordArrival src k) := fun _ h => Bool.noConfusion h
theorem spillRefill (p ch : Nat) : Statement (.spillRefill p ch) := fun _ h => Bool.noConfusion h
theorem spillResume (p : Nat) (v : BitVec 64) : Statement (.spillResume p v) := fun _ h => Bool.noConfusion h
theorem creditArrival (p ch writer : Nat) : Statement (.creditArrival p ch writer) := fun _ h => Bool.noConfusion h
theorem reservationGrant (c : Nat) (x : Ctx) (k : Nat) : Statement (.reservationGrant c x k) := fun _ h => Bool.noConfusion h
theorem sharedRingHang (p ch : Nat) : Statement (.sharedRingHang p ch) := fun _ h => Bool.noConfusion h
theorem slotVoid (p : Nat) (v : BitVec 64) : Statement (.slotVoid p v) := fun _ h => Bool.noConfusion h
theorem poolDescriptorWrite (p pool dw : Nat) (v : BitVec 64) : Statement (.poolDescriptorWrite p pool dw v) := fun _ h => Bool.noConfusion h
theorem channelDeadlock (p g : Nat) : Statement (.channelDeadlock p g) := fun _ h => Bool.noConfusion h
theorem channelEventPop (p : Nat) : Statement (.channelEventPop p) := fun _ h => Bool.noConfusion h
theorem xpRevoke (p ch : Nat) : Statement (.xpRevoke p ch) := fun _ h => Bool.noConfusion h
theorem churnRecord (c : Nat) (x : Ctx) (k : Nat) : Statement (.churnRecord c x k) := fun _ h => Bool.noConfusion h
theorem churnCork (c : Nat) (x : Ctx) (k : Nat) : Statement (.churnCork c x k) := fun _ h => Bool.noConfusion h
theorem indexOpPerform (c : Nat) (x : Ctx) (k : Nat) : Statement (.indexOpPerform c x k) := fun _ h => Bool.noConfusion h
theorem redContribution (c : Nat) (x : Ctx) (k : Nat) : Statement (.redContribution c x k) := fun _ h => Bool.noConfusion h
theorem redPacketArrival (p gid k : Nat) : Statement (.redPacketArrival p gid k) := fun _ h => Bool.noConfusion h
theorem redTimeout (p gid : Nat) : Statement (.redTimeout p gid) := fun _ h => Bool.noConfusion h
theorem redFlushArrival (p gid k : Nat) : Statement (.redFlushArrival p gid k) := fun _ h => Bool.noConfusion h
theorem groupDrainComplete (p gid : Nat) : Statement (.groupDrainComplete p gid) := fun _ h => Bool.noConfusion h
theorem gangFreeze (c : Nat) (x : Ctx) : Statement (.gangFreeze c x) := fun _ h => Bool.noConfusion h
theorem gangBarrierTimeout (c : Nat) (x : Ctx) : Statement (.gangBarrierTimeout c x) := fun _ h => Bool.noConfusion h
theorem gangPulse (c : Nat) : Statement (.gangPulse c) := fun _ h => Bool.noConfusion h
theorem gangThaw (c : Nat) : Statement (.gangThaw c) := fun _ h => Bool.noConfusion h
theorem preq (p : Nat) (v : BitVec 64) : Statement (.preq p v) := fun _ h => Bool.noConfusion h
theorem contextSave (c : Nat) (x : Ctx) : Statement (.contextSave c x) := fun _ h => Bool.noConfusion h
theorem presume (p : Nat) (v : BitVec 64) : Statement (.presume p v) := fun _ h => Bool.noConfusion h
theorem pdiscard (p : Nat) (v : BitVec 64) : Statement (.pdiscard p v) := fun _ h => Bool.noConfusion h
theorem gkill (p : Nat) (v : BitVec 64) : Statement (.gkill p v) := fun _ h => Bool.noConfusion h
theorem creset (p : Nat) (v : BitVec 64) : Statement (.creset p v) := fun _ h => Bool.noConfusion h
theorem resetTailTimeout (c : Nat) (x : Ctx) (k : Nat) : Statement (.resetTailTimeout c x k) := fun _ h => Bool.noConfusion h
theorem faultEventPop (p : Nat) : Statement (.faultEventPop p) := fun _ h => Bool.noConfusion h
theorem watchdogExpiry (p : Nat) : Statement (.watchdogExpiry p) := fun _ h => Bool.noConfusion h
theorem tbinfoWrite (c : Nat) (x : Ctx) (v : BitVec 64) : Statement (.tbinfoWrite c x v) := fun _ h => Bool.noConfusion h
theorem sfpopWrite (c : Nat) (x : Ctx) : Statement (.sfpopWrite c x) := fun _ h => Bool.noConfusion h
theorem accownerWrite (c : Nat) (v : BitVec 64) : Statement (.accownerWrite c v) := fun _ h => Bool.noConfusion h
theorem loopLevelWrite (c : Nat) (x : Ctx) (outer : Bool) (v : BitVec 64) : Statement (.loopLevelWrite c x outer v) := fun _ h => Bool.noConfusion h
theorem dequeBoundsWrite (c : Nat) (lim : Bool) (v : BitVec 64) : Statement (.dequeBoundsWrite c lim v) := fun _ h => Bool.noConfusion h
theorem pevpendClear (p : Nat) (v : BitVec 64) : Statement (.pevpendClear p v) := fun _ h => Bool.noConfusion h
theorem pcraRead (p : Nat) (v : BitVec 64) : Statement (.pcraRead p v) := fun _ h => Bool.noConfusion h
theorem pcraWrite (p : Nat) (v : BitVec 64) : Statement (.pcraWrite p v) := fun _ h => Bool.noConfusion h
theorem pcraComplete (p : Nat) : Statement (.pcraComplete p) := fun _ h => Bool.noConfusion h
theorem devctlColdStart (v : BitVec 64) : Statement (.devctlColdStart v) := fun _ h => Bool.noConfusion h
theorem devctlWarmStart (v : BitVec 64) : Statement (.devctlWarmStart v) := fun _ h => Bool.noConfusion h
theorem bootStage (err : BitVec 8) (detail : BitVec 16) : Statement (.bootStage err detail) := fun _ h => Bool.noConfusion h
theorem recoveryChunk (v : BitVec 64) : Statement (.recoveryChunk v) := fun _ h => Bool.noConfusion h
theorem recoveryGo : Statement (.recoveryGo) := fun _ h => Bool.noConfusion h
theorem hmboxSignal (v : BitVec 64) : Statement (.hmboxSignal v) := fun _ h => Bool.noConfusion h
theorem msixUnmask (vec : Nat) : Statement (.msixUnmask vec) := fun _ h => Bool.noConfusion h
theorem hostAccess (a : HostAcc) : Statement (.hostAccess a) := fun _ h => Bool.noConfusion h
theorem bar2baseWrite (v : BitVec 64) : Statement (.bar2baseWrite v) := fun _ h => Bool.noConfusion h
theorem linkReplay (l : Nat) : Statement (.linkReplay l) := fun _ h => Bool.noConfusion h
theorem linkDown (l : Nat) : Statement (.linkDown l) := fun _ h => Bool.noConfusion h
theorem linkRetrain (l : Nat) (trained : Bool) : Statement (.linkRetrain l trained) := fun _ h => Bool.noConfusion h
theorem peerAccess (a : PeerAcc) : Statement (.peerAccess a) := fun _ h => Bool.noConfusion h
theorem refusalCounterClear : Statement (.refusalCounterClear) := fun _ h => Bool.noConfusion h
theorem partitionDefine (p : Nat) : Statement (.partitionDefine p) := fun _ h => Bool.noConfusion h
theorem partitionStart (p : Nat) : Statement (.partitionStart p) := fun _ h => Bool.noConfusion h
theorem partitionStop (p : Nat) : Statement (.partitionStop p) := fun _ h => Bool.noConfusion h
theorem heventClear (d : Nat) (v : BitVec 64) : Statement (.heventClear d v) := fun _ h => Bool.noConfusion h
theorem monitorClear (d i : Nat) : Statement (.monitorClear d i) := fun _ h => Bool.noConfusion h
theorem monitorSample (d i : Nat) (v : BitVec 64) : Statement (.monitorSample d i v) := fun _ h => Bool.noConfusion h
theorem throttleEnter (d : Nat) (cause : GateCause) : Statement (.throttleEnter d cause) := fun _ h => Bool.noConfusion h
theorem throttleStep (d : Nat) : Statement (.throttleStep d) := fun _ h => Bool.noConfusion h
theorem throttleRelease (d : Nat) (cause : GateCause) : Statement (.throttleRelease d cause) := fun _ h => Bool.noConfusion h
theorem thermalShutdown : Statement (.thermalShutdown) := fun _ h => Bool.noConfusion h
theorem registerWrite (pa : Nat) (v : BitVec 64) : Statement (.registerWrite pa v) := fun _ h => Bool.noConfusion h
theorem portFlitArrival (c : Nat) (x : Ctx) (dir : Dir) : Statement (.portFlitArrival c x dir) := fun _ h => Bool.noConfusion h
theorem remoteRequestResend (c : Nat) (x : Ctx) (k : Nat) : Statement (.remoteRequestResend c x k) := fun _ h => Bool.noConfusion h
theorem clusterResetComplete (cl : Nat) : Statement (.clusterResetComplete cl) := fun _ h => Bool.noConfusion h
theorem tladeisFlitForward (f : LinkFlit) : Statement (.tladeisFlitForward f) := fun _ h => Bool.noConfusion h

end Sys2Proof.Laws.RoundTrip
end

