-- ==== Sys2Proof/Laws/Vector.lean ====
section
/-!
SUPPORT. One lemma for each shared form of the vector instructions: a ready one issues, and this is all that it does.
-/
namespace Sys2Proof.Machine

/-- What `vecOut` writes: the merged lanes and the flags of the active ones. -/
def Context.vecVal (k : Context) (d : VReg) (w : Nat) (m : MReg) (mz : Bool) (f : Nat → Nat × Flags) : Vec × Flags :=
  let act := laneActive k.fir m w
  (mergeLanes w act mz (if (portDir d).isSome then 0 else k.fir.readV d) fun j => (f j).1, laneFlags act (fun j => (f j).2) (laneCount w))

section
variable {s t : State} {i : CtxId} {k : Context}

theorem Only.oldVec (h : Only s t i k) (d : VReg) : Machine.oldVec t i d = if (portDir d).isSome then 0 else k.fir.readV d := by
  rw [Machine.oldVec, State.fir, h.1]
theorem Only.writeVecFlags (h : Only s t i k) (d : VReg) (v : Vec) (fl : Flags) :
    Sends s (Machine.addFlags (Machine.writeVecDest t i d v) i fl) i ((k.putV d v).flag fl) d ⟨true, v⟩ :=
  (h.writeVecDest d v).addFlags fl
theorem Only.vecOut (h : Only s t i k) (d : VReg) (w : Nat) (m : MReg) (mz : Bool) (f : Nat → Nat × Flags) :
    let r := k.vecVal d w m mz f
    Sends s (Machine.vecOut t i d w m mz f) i ((k.putV d r.1).flag r.2) d ⟨true, r.1⟩ := by
  intro r
  have e : Machine.vecOut t i d w m mz f = Machine.addFlags (Machine.writeVecDest t i d r.1) i r.2 := by
    simp only [Machine.vecOut, r, Context.vecVal, h.oldVec, State.fir, h.1]
  rw [e]
  exact h.writeVecFlags d r.1 r.2
end

theorem lanes1_ready {s : State} {ins : Instr} {d a : VReg} (w : Nat) (m : MReg) (mz : Bool) (op : BitVec 13 → Nat → Nat × Flags)
    (hp : planOf ins = regPlan [a] [d]) (h : Ready s ins [a] [d] 0) :
    let k := (s.ctx s.slot).counted
    let r := k.vecVal d w m mz fun j => op k.fpctl (laneN w (k.srcV a) j)
    Sends s (lanes1 ins d a w m mz op s) s.slot ((((k.pop a).putV d r.1).flag r.2).goesOn (byteLen ins)) d ⟨true, r.1⟩ := by
  intro k r
  have h0 := only_countIssue s s.slot
  have h1 := h0.takeV a
  rw [lanes1, issue_go (h.gateRegs hp)]
  simp only [h0.fst_takeV, h1.fpctlOf, Context.fpctl_pop]
  have g := h1.vecOut d w m mz fun j => op k.fpctl (laneN w (k.srcV a) j)
  have e : (k.pop a).vecVal d w m mz = k.vecVal d w m mz := by funext f; simp only [Context.vecVal, Context.fir_pop]
  rw [e] at g
  exact g.finishOp ins

theorem lanes2_ready {s : State} {ins : Instr} {d a b : VReg} (w : Nat) (m : MReg) (mz : Bool) (op : BitVec 13 → Nat → Nat → Nat × Flags)
    (hp : planOf ins = regPlan [a, b] [d]) (h : Ready s ins [a, b] [d] 0) :
    let k := (s.ctx s.slot).counted
    let r := k.vecVal d w m mz fun j => op k.fpctl (laneN w (k.srcV a) j) (laneN w ((k.pop a).srcV b) j)
    Sends s (lanes2 ins d a b w m mz op s) s.slot (((((k.pop a).pop b).putV d r.1).flag r.2).goesOn (byteLen ins)) d ⟨true, r.1⟩ := by
  intro k r
  have h0 := only_countIssue s s.slot
  have h1 := h0.takeV a
  have h2 := h1.takeV b
  rw [lanes2, issue_go (h.gateRegs hp)]
  simp only [h0.fst_takeV, h1.fst_takeV, h2.fpctlOf, Context.fpctl_pop]
  have g := h2.vecOut d w m mz fun j => op k.fpctl (laneN w (k.srcV a) j) (laneN w ((k.pop a).srcV b) j)
  have e : ((k.pop a).pop b).vecVal d w m mz = k.vecVal d w m mz := by funext f; simp only [Context.vecVal, Context.fir_pop]
  rw [e] at g
  exact g.finishOp ins

theorem lanes3_ready {s : State} {ins : Instr} {o : OpsVF3} (np nz : Bool)
    (hp : planOf ins = regPlan [o.a, o.b, o.c] [o.d]) (h : Ready s ins [o.a, o.b, o.c] [o.d] 0) :
    let k := (s.ctx s.slot).counted
    let w := fLane o.fmt
    let r := k.vecVal o.d w o.m o.mz fun j => fpFma (fpOf o.fmt) (envOf k.fpctl (fpOf o.fmt) o.rm) np nz (laneN w (k.srcV o.a) j)
      (laneN w ((k.pop o.a).srcV o.b) j) (laneN w (((k.pop o.a).pop o.b).srcV o.c) j)
    Sends s (lanes3 ins o np nz s) s.slot ((((((k.pop o.a).pop o.b).pop o.c).putV o.d r.1).flag r.2).goesOn (byteLen ins)) o.d ⟨true, r.1⟩ := by
  intro k w r
  have h0 := only_countIssue s s.slot
  have h1 := h0.takeV o.a
  have h2 := h1.takeV o.b
  have h3 := h2.takeV o.c
  rw [lanes3, issue_go (h.gateRegs hp)]
  simp only [h0.fst_takeV, h1.fst_takeV, h2.fst_takeV, h3.fpctlOf, Context.fpctl_pop]
  have g := h3.vecOut o.d w o.m o.mz fun j => fpFma (fpOf o.fmt) (envOf k.fpctl (fpOf o.fmt) o.rm) np nz (laneN w (k.srcV o.a) j)
      (laneN w ((k.pop o.a).srcV o.b) j) (laneN w (((k.pop o.a).pop o.b).srcV o.c) j)
  have e : (((k.pop o.a).pop o.b).pop o.c).vecVal o.d w o.m o.mz = k.vecVal o.d w o.m o.mz := by
    funext f; simp only [Context.vecVal, Context.fir_pop]
  rw [e] at g
  exact g.finishOp ins

theorem laneTest_ready {s : State} {ins : Instr} {d : MReg} {a b : VReg} (w : Nat) (e : Option MExt)
    (op : BitVec 13 → Nat → Nat → Bool × Flags) (hp : planOf ins = regPlan [a, b] []) (h : Ready s ins [a, b] [] 0) :
    let k := (s.ctx s.slot).counted
    let act := laneActive k.fir (mextMask e) w
    let f (j : Nat) := op k.fpctl (laneN w (k.srcV a) j) (laneN w ((k.pop a).srcV b) j)
    let v := maskResult w act (mextZero e) (k.fir.readM d) fun j => (f j).1
    Only s (laneTest ins d a b w e op s) s.slot
      (((((k.pop a).pop b).putM d v).flag (laneFlags act (fun j => (f j).2) (laneCount w))).goesOn (byteLen ins)) := by
  intro k act f v
  have h0 := only_countIssue s s.slot
  have h1 := h0.takeV a
  have h2 := h1.takeV b
  rw [laneTest, issue_go (h.gateRegs hp)]
  simp only [h0.fst_takeV, h1.fst_takeV, h2.fpctlOf, Context.fpctl_pop, maskOut, State.fir, h2.1, Context.fir_pop]
  exact ((h2.writeMask d v).addFlags _).finishOp ins

theorem reduce_ready {s : State} {ins : Instr} {o : OpsVRed} (op : BitVec 13 → Nat → Nat → Nat × Flags) (ident : Nat)
    (hp : planOf ins = regPlan [o.a] [o.d]) (h : Ready s ins [o.a] [o.d] 0) :
    let k := (s.ctx s.slot).counted
    let w := vLane o.fmt
    let r := treeReduce (op k.fpctl) (bitLen (laneCount w) - 1) ((List.range (laneCount w)).map fun j =>
      if laneActive k.fir (o.ext.getD 0) w j then laneN w (k.srcV o.a) j else ident)
    Sends s (reduce ins o op ident s) s.slot ((((k.pop o.a).putV o.d (BitVec.ofNat 1024 r.1)).flag r.2).goesOn (byteLen ins)) o.d
      ⟨true, BitVec.ofNat 1024 r.1⟩ := by
  intro k w r
  have h0 := only_countIssue s s.slot
  have h1 := h0.takeV o.a
  rw [reduce, issue_go (h.gateRegs hp)]
  simp only [h0.fst_takeV, h1.fpctlOf, Context.fpctl_pop, State.fir, h1.1, Context.fir_pop]
  exact (h1.writeVecFlags o.d _ _).finishOp ins

theorem mask2_ready {s : State} {ins : Instr} {d a b : MReg} (f : Word → Word → Word) (hp : planOf ins = ({} : Plan)) (h : Ready s ins [] [] 0) :
    let k := (s.ctx s.slot).counted
    Only s (mask2 ins d a b f s) s.slot ((k.putM d (f (k.fir.readM a) (k.fir.readM b))).goesOn (byteLen ins)) := by
  intro k
  have h0 := only_countIssue s s.slot
  rw [mask2, issue_go (h.gateRegs (hp.trans rfl))]
  simp only [State.fir, h0.1]
  exact (h0.writeMask d _).finishOp ins

theorem maskToX_ready {s : State} {ins : Instr} {o : OpsXM} (f : Word → Word) (hp : planOf ins = regPlan [] [o.d]) (h : Ready s ins [] [o.d] 0) :
    let k := (s.ctx s.slot).counted
    let v := f (k.fir.readM o.a)
    Sends s (maskToX ins o f s) s.slot ((k.putX o.d v).goesOn (byteLen ins)) o.d ⟨false, v.setWidth 1024⟩ := by
  intro k v
  have h0 := only_countIssue s s.slot
  rw [maskToX, issue_go (h.gateRegs hp)]
  simp only [State.fir, h0.1]
  exact (h0.writeDest o.d v).finishOp ins

end Sys2Proof.Machine
end

