-- ==== Sys2Proof/Tests/Slice0.lean ====
section
/-!
SUPPORT. Tests: an ill-formed term for each check of well-formedness, words written out from the encoding tables of spec/, results that the
spec states, and for each statement concrete states and operands that meet its hypotheses.
-/
namespace Sys2Proof.Tests
open Sys2Proof Sys2Proof.Machine

/-! ### States for tests -/

/-- A context that runs in supervisor mode at address 0x40. -/
def base : Context := { Context.reset with running := true, fir := { Firing.reset with pc := 0x40, sup := true } }
/-- The same in user mode. -/
def user : Context := { base with fir := { base.fir with sup := false } }
/-- Core 0 with `k` as its context N, which has the issue slot. -/
def on (k : Context) : State := { State.reset with cores := [(0, { Core.reset with n := k })], slot := ⟨0, .n⟩ }
/-- Core 50, with neighbours on all four sides, with `k` as its context N, which has the issue slot. -/
def mid (k : Context) : State := { State.reset with cores := [(50, { Core.reset with n := k })], slot := ⟨50, .n⟩ }

def freeCheck (s : State) (i : CtxId) : Bool :=
  let k := s.ctx i
  k.running && !k.halted && k.trapping.isNone && k.parked.isNone && k.barrier.isNone && k.readyAt ≤ s.now && !coreStopped s i.core &&
    !k.parity && k.skid.isNone && !skidWait k && (k.rb ++ k.fir.aside).all fun e => e.acq.isNone

theorem free_of_check {s : State} {i : CtxId} (h : freeCheck s i = true) : Free s i := by
  simp only [freeCheck, Bool.and_eq_true, Bool.not_eq_true', Option.isNone_iff_eq_none, decide_eq_true_eq, List.all_eq_true] at h
  obtain ⟨⟨⟨⟨⟨⟨⟨⟨⟨⟨h1, h2⟩, h3⟩, h4⟩, h5⟩, h6⟩, h7⟩, h8⟩, h9⟩, h10⟩, h11⟩ := h
  exact ⟨h1, h2, h3, h4, h5, h6, h7, h8, h9, h10, h11⟩

def readyCheck (s : State) (ins : Instr) (reads writes : List (Fin 32)) (n : Nat) : Bool :=
  let k := s.ctx s.slot
  freeCheck s s.slot && (k.rb.isEmpty || (!marked ins && k.rb.length + n ≤ 8)) && (edgePort s s.slot (reads ++ writes)).isNone &&
    flitsThere s s.slot reads && roomThere s s.slot writes

theorem ready_of_check {s : State} {ins : Instr} {reads writes : List (Fin 32)} {n : Nat}
    (h : readyCheck s ins reads writes n = true) : Ready s ins reads writes n := by
  simp [readyCheck] at h
  obtain ⟨⟨⟨⟨h1, h2⟩, h3⟩, h4⟩, h5⟩ := h
  exact ⟨free_of_check h1, h2, h3, h4, h5⟩

/-- At a marker with every result back. -/
theorem lands_of_check {s : State} {ins : Instr} {reads writes : List (Fin 32)} {n : Nat} (f : freeCheck s s.slot = true)
    (m : marked ins = true ∨ 8 < (s.ctx s.slot).rb.length + n)
    (b : ((s.ctx s.slot).rb.all fun e => e.state == .returned && e.dest != .slots) = true)
    (p : ((edgePort s s.slot (reads ++ writes)).isNone && flitsThere s s.slot reads && roomThere s s.slot writes) = true) :
    Lands s ins reads writes n := by
  simp only [Bool.and_eq_true, Option.isNone_iff_eq_none, List.all_eq_true, beq_iff_eq, bne_iff_ne] at b p
  exact ⟨⟨free_of_check f, m⟩, b, p.1.1, p.1.2, p.2⟩

def okIs (h : Home) (a : Nat) : Bool :=
  match h with
  | .ok b => b == a
  | .error _ => false
theorem ok_of_check {h : Home} {a : Nat} (e : okIs h a = true) : h = .ok a := by
  cases h with
  | ok b => simp [okIs] at e; rw [e]
  | error c => simp [okIs] at e

def errIs (h : Home) (c : Nat) : Bool :=
  match h with
  | .ok _ => false
  | .error e => e == c
theorem err_of_check {h : Home} {c : Nat} (e : errIs h c = true) : h = .error c := by
  cases h with
  | ok b => simp [errIs] at e
  | error d => simp [errIs] at e; rw [e]

/-! ### Witnesses -/

/-- Outside a handler, with no store check outstanding. -/
def Plain (s : State) : Prop := (s.fir s.slot).intrap = false ∧ uncheckedStores (s.ctx s.slot) = false
/-- A load into x3 in a state. -/
def entryOf (st : EntryState) (again : Bool) : Entry := { base.entry 0x9000 (.x 3) .whole with state := st, again := again, fault := some (0, 0x0F) }
/-- Core 50 with such a load in its return buffer. -/
def holds (st : EntryState) (again : Bool) : State := mid { base with rb := [entryOf st again] }
/-- Core 50 whose neighbour to the east has a full FIFO on its west side. -/
def crowded : State :=
  let k : Context := { base with ports := base.ports.set 3 { Port.reset with q := List.replicate 4 ⟨false, 0⟩ } }
  { mid base with cores := [(50, { Core.reset with n := base }), (51, { Core.reset with n := k })] }
/-- An addition in an empty buffer and one with its bit w set behind a returned load; a buffer to perform again, one that is pending, one that
is faulted; a port beyond the mesh; a port with no flit, and one with no room. -/
theorem witness_IntegerResults :
    let plain : Instr := .add ⟨false, 5, 6, 7⟩
    let waits : Instr := .add ⟨true, 5, 6, 7⟩
    (∃ q, Spec.scalar plain = some q ∧ Begins (on base) plain q.srcs [q.d] 0 base) ∧
    (∃ q, Spec.scalar waits = some q ∧ Begins (holds .returned true) waits q.srcs [q.d] 0
      ((holds .returned true).ctx (holds .returned true).slot).landed) ∧
    (AtMarker (holds .faulted false) waits 0 ∧ (entryOf .faulted false).Again ∧ AtMarker (holds .reissue true) waits 0 ∧
      (entryOf .reissue true).Again) ∧
    (AtMarker (holds .pending true) waits 0 ∧ ¬ (entryOf .pending true).Again) ∧
    (AtMarker (holds .faulted true) waits 0 ∧ ¬ (entryOf .faulted true).Again ∧ Plain (holds .faulted true)) ∧
    (Free (on base) ⟨0, .n⟩ ∧ edgePort (on base) ⟨0, .n⟩ ([28, 31] ++ [5]) = some 28 ∧ Plain (on base)) ∧
    (edgePort (mid base) ⟨50, .n⟩ ([28, 6] ++ [5]) = none ∧ Free (mid base) ⟨50, .n⟩ ∧ flitsThere (mid base) ⟨50, .n⟩ [28, 6] = false) ∧
    (edgePort crowded ⟨50, .n⟩ ([6, 7] ++ [29]) = none ∧ Free crowded ⟨50, .n⟩ ∧ roomThere crowded ⟨50, .n⟩ [29] = false) :=
  ⟨⟨_, rfl, .inl ⟨ready_of_check rfl, rfl⟩⟩, ⟨_, rfl, .inr ⟨lands_of_check (by decide) (.inl rfl) (by decide) (by decide), rfl⟩⟩,
    ⟨⟨free_of_check rfl, .inl rfl⟩, .inr ⟨rfl, rfl⟩, ⟨free_of_check rfl, .inl rfl⟩, .inl rfl⟩,
    ⟨⟨free_of_check rfl, .inl rfl⟩, by simp [Entry.Again, entryOf]⟩,
    ⟨⟨free_of_check rfl, .inl rfl⟩, by simp [Entry.Again, entryOf], rfl, rfl⟩,
    ⟨free_of_check rfl, by decide, rfl, rfl⟩, ⟨by decide +kernel, free_of_check rfl, by decide +kernel⟩, ⟨by decide +kernel, free_of_check rfl, by decide +kernel⟩⟩
/-- A division with one entry in the return buffer, and the two floating ones. -/
theorem witness_QuotientsAreOutstanding :
    (∃ s ins o f, Spec.division ins = some (o, f) ∧ Ready s ins [o.a, o.b] [] 1) ∧
    (∃ s, ∃ o : OpsF2R, Ready s (.fdiv o) [o.a, o.b] [] 1) ∧ (∃ s, ∃ o : OpsF1R, Ready s (.fsqrt o) [o.a] [] 1) :=
  ⟨⟨on { base with rb := [base.entry 0 (.x 3) .whole] }, .div ⟨false, 5, 6, 7⟩, _, _, rfl, ready_of_check rfl⟩,
    ⟨on base, ⟨false, .f32, 5, 6, 7, none⟩, ready_of_check rfl⟩, ⟨on base, ⟨false, .f32, 5, 6, none⟩, ready_of_check rfl⟩⟩
/-- A context at the end of its inner level, and one with both levels active. -/
def ending : Context := { base with fir := { base.fir with inner := Spec.level 0x20 0x40 3 } }
def nested : Context := { base with fir := { base.fir with inner := Spec.level 0x20 0x60 3, outer := Spec.level 0x10 0x80 3 } }
/-- x6 = x7 in `base`, so `beq` is taken and `bne` is not; x0 + 8 is a multiple of 4 and x0 + 6 is not; a loop at an active end, with both
levels active, with a zero count whose body ends behind the code region, or in a poisoned word, or in a sound one; one that is entered. -/
theorem witness_BranchesJumpsAndLoops :
    (Ready (on base) (.beq ⟨false, 6, 7, 0⟩) [6, 7] [] 0 ∧ base.counted.srcX 6 = (base.counted.pop 6).srcX 7) ∧
    Ready (on base) (.bne ⟨false, 6, 7, 0⟩) [6, 7] [] 0 ∧ Ready (on base) (.jal ⟨false, 1, 64⟩) [] [1] 0 ∧
    (Ready (on base) (.jalr ⟨false, 1, 0, .short 8⟩) [0] [1] 0 ∧ (base.counted.srcX 0 + Spec.immOf (.short 8)).toNat % 4 = 0) ∧
    (Ready (on base) (.jalr ⟨false, 1, 0, .short 6⟩) [0] [1] 0 ∧ (base.counted.srcX 0 + Spec.immOf (.short 6)).toNat % 4 ≠ 0 ∧ Plain (on base)) ∧
    (Ready (on ending) (.loopi ⟨false, 24, 5⟩) [] [] 0 ∧ Spec.atEnd ending.counted.fir ∧ Plain (on ending)) ∧
    (Ready (on nested) (.loopi ⟨false, 24, 5⟩) [] [] 0 ∧ ¬ Spec.atEnd nested.counted.fir ∧ nested.fir.inner.act = true ∧
      nested.fir.outer.act = true ∧ Plain (on nested)) ∧
    (Ready (on base) (.loop ⟨false, 6, 5⟩) [6] [] 0 ∧ ¬ Spec.atEnd base.counted.fir ∧ (base.counted.srcX 6).toNat % 2 ^ 32 = 0 ∧
      (Spec.wordsOn 0x40 5).toNat < 0x18000 ∧ poisonedIn (on base) (scratchPa 0 (Spec.wordsOn 0x40 5).toNat) 4 = none ∧
      poisonedIn { on base with poison := [scratchPa 0 0x50] } (scratchPa 0 (Spec.wordsOn 0x40 5).toNat) 4 ≠ none) ∧
    (Ready (on { base with fir := { base.fir with pc := 0x17FFC } }) (.loop ⟨false, 6, 5⟩) [6] [] 0 ∧ 0x18000 ≤ (Spec.wordsOn 0x17FFC 5).toNat) ∧
    (Ready (on ending) (.loopi ⟨false, 24, 5⟩) [] [] 0 ∧ ¬ (ending.fir.inner.act = true ∧ ending.fir.outer.act = true)) :=
  ⟨⟨ready_of_check rfl, rfl⟩, ready_of_check rfl, ready_of_check rfl, ⟨ready_of_check rfl, by decide⟩, ⟨ready_of_check rfl, by decide, rfl, rfl⟩,
    ⟨ready_of_check rfl, by unfold Spec.atEnd; decide, rfl, rfl⟩, ⟨ready_of_check rfl, by unfold Spec.atEnd; decide, rfl, rfl, rfl, rfl⟩,
    ⟨ready_of_check rfl, by unfold Spec.atEnd; decide, by decide, by decide, by decide, by decide⟩, ⟨ready_of_check rfl, by decide⟩,
    ⟨ready_of_check rfl, by decide⟩⟩
/-- Outside a handler; with a store to check; inside a handler. -/
theorem witness_TrapAndBkptEnterTheHandler :
    (Ready (on user) (.trap ⟨false, 7⟩) [] [] 0 ∧ Plain (on user)) ∧ (Ready (on base) (.bkpt ⟨false⟩) [] [] 0 ∧ Plain (on base)) ∧
    (let k : Context := { base with acc := [base.access (requester (on base) ⟨0, .n⟩) 0x9000 (.store 3 7) none] }
     Ready (on k) (.bkpt ⟨false⟩) [] [] 0 ∧ uncheckedStores k = true) ∧
    (let k : Context := { base with fir := { base.fir with intrap := true } }
     Ready (on k) (.bkpt ⟨false⟩) [] [] 0 ∧ k.fir.intrap = true ∧ uncheckedStores k = false ∧ k.fir.range = none) :=
  ⟨⟨ready_of_check rfl, rfl, rfl⟩, ⟨ready_of_check rfl, rfl, rfl⟩, ⟨ready_of_check rfl, rfl⟩, ready_of_check rfl, rfl, rfl, rfl⟩
theorem witness_EretRestores : ∃ s, ∃ o : OpsW, Ready s (.eret o) [] [] 0 ∧ (s.fir s.slot).sup = true :=
  ⟨on { base with fir := { base.fir with intrap := true, aside := [base.entry 0 (.x 3) .whole] } }, ⟨false⟩, ready_of_check rfl, rfl⟩
/-- Each form: `eret` in user mode, hypervisor registers off their cores and an unassigned one in supervisor mode, `sfpop` and `tvec` in user mode. -/
theorem witness_PrivilegeIsChecked :
    (Free (on user) ⟨0, .n⟩ ∧ Plain (on user) ∧ user.fir.sup = false) ∧
    (Free (on base) ⟨0, .n⟩ ∧ Plain (on base) ∧ Spec.hyper (on base) 0x80 = none ∧ 0x80 ∉ Spec.supReads ∧ 0x7F ∉ Spec.supReads ∧
      0x80 ∉ Spec.supWrites) ∧
    (Spec.hyper (on user) 0x18 = none ∧ 0x18 ∉ Spec.userReads ∧ Spec.hyper (on user) 0x00 = none ∧ 0x00 ∉ Spec.userWrites) :=
  ⟨⟨free_of_check rfl, ⟨rfl, rfl⟩, rfl⟩, ⟨free_of_check rfl, ⟨rfl, rfl⟩, by decide, by decide, by decide, by decide⟩, by decide, by decide, by decide,
    by decide⟩
/-- `done` in the first word of core 0's scratchpad; a word that decodes to nothing there; a pc behind the code region, and one in poison. -/
theorem witness_StepRunsDecoded :
    (let s := State.reset.withFetchWord 32 0xD0
     s.granted = true ∧ readMem s (scratchPa s.slot.core (s.fir s.slot).pc.toNat) 4 = 0xD0 ∧ (s.fir s.slot).pc.toNat < 0x18000 ∧
      poisonedIn s (scratchPa s.slot.core (s.fir s.slot).pc.toNat) 4 = none ∧ decode [0xD0] = .ok (.done ⟨false⟩)) ∧
    (let s := State.reset.withFetchWord 32 0xFF000008
     s.granted = true ∧ readMem s (scratchPa s.slot.core (s.fir s.slot).pc.toNat) 4 = 0xFF000008 ∧
      poisonedIn s (scratchPa s.slot.core (s.fir s.slot).pc.toNat) 4 = none ∧ decode [0xFF000008] = .error .reservedFunc ∧ Free s s.slot ∧ Plain s) ∧
    (let s := { on { base with fir := { base.fir with pc := 0x18000 } } with granted := true }
     s.granted = true ∧ ¬ (s.fir s.slot).pc.toNat < 0x18000 ∧ Free s s.slot ∧ Plain s) ∧
    (let s := { on base with granted := true, poison := [scratchPa 0 0x40] }
     s.granted = true ∧ poisonedIn s (scratchPa s.slot.core (s.fir s.slot).pc.toNat) 4 ≠ none ∧ Free s s.slot ∧ Plain s) :=
  ⟨⟨rfl, by rfl, by decide, by rfl, by rfl⟩, ⟨rfl, by rfl, by rfl, by rfl, free_of_check rfl, rfl, rfl⟩,
    ⟨rfl, by decide, free_of_check rfl, rfl, rfl⟩, ⟨rfl, by decide, free_of_check rfl, rfl, rfl⟩⟩
theorem witness_EncodeDecode : ∃ i : Instr, i.wf = true ∧ i.isStep = false := ⟨.add ⟨false, 31, 31, 31⟩, rfl, rfl⟩
theorem witness_MemoryStaysCanonical : ∃ s : State, s.memWf ∧ SafeStep s :=
  ⟨State.reset.withFetchWord 32 0xD0, rfl, _, rfl⟩
theorem witness_LihSetsItsRegister : ∃ s, ∃ o : OpsU, Ready s (.lih o) [] [o.d] 0 :=
  ⟨on base, ⟨false, 7, 0x3FFFF⟩, ready_of_check rfl⟩
theorem witness_PositionNamesTheCore :
    (∃ s, ∃ o : OpsGetc, o.creg = 0x06 ∧ Ready s (.getc o) [] [o.d] 0 ∧ s.slot.core < 4608 ∧ (s.coreAt s.slot.core).partition < 16) ∧
    (∃ s, ∃ o : OpsSetc, o.creg = 0x06 ∧ Free s s.slot ∧ (s.fir s.slot).intrap = false ∧ uncheckedStores (s.ctx s.slot) = false) :=
  ⟨⟨on base, ⟨false, 4, 0x06⟩, rfl, ready_of_check rfl, by decide, by decide⟩,
    ⟨on base, ⟨false, 4, 0x06⟩, rfl, free_of_check rfl, rfl, rfl⟩⟩
theorem witness_FloatingResults : ∃ s ins q, Spec.floating ins = some q ∧ Ready s ins q.srcs [q.d] 0 :=
  ⟨on base, .fadd ⟨false, .f32, 5, 6, 7, none⟩, _, rfl, ready_of_check rfl⟩
theorem witness_VectorResults : ∃ s ins q, Spec.vector ins = some q ∧ Ready s ins q.srcs [q.d] 0 :=
  ⟨on base, .vadd ⟨false, .f32, 5, 6, 7, none⟩, _, rfl, ready_of_check rfl⟩
/-- A compare, and m0 read; lane 0 of a register in its own, and an inactive lane without zeroing. -/
theorem witness_MasksAndLanesAreRead :
    (∃ s ins m q, Spec.masks ins = some (m, q) ∧ Ready s ins q.srcs [] 0) ∧
    (∃ s ins q, Spec.maskReads ins = some q ∧ Ready s ins [] [q.d] 0) ∧
    (∃ s, ∃ o : OpsV2, Ready s (.vext o) [o.a, o.b] [o.d] 0 ∧
      laneActive (s.ctx s.slot).counted.fir (mextMask o.ext) (vLane o.fmt) 0 = true) ∧
    (∃ s, ∃ o : OpsV2, Ready s (.vext o) [o.a, o.b] [o.d] 0 ∧
      laneActive (s.ctx s.slot).counted.fir (mextMask o.ext) (vLane o.fmt) 0 = false ∧ mextZero o.ext = false ∧ portDir o.d = none) :=
  ⟨⟨on base, .vflt ⟨false, .f32, 1, 2, 3, none⟩, _, _, rfl, ready_of_check rfl⟩,
    ⟨on base, .mpopc ⟨false, 5, 0, false⟩, _, rfl, ready_of_check rfl⟩,
    ⟨on base, ⟨false, .f32, 5, 1, 6, none⟩, ready_of_check rfl, by decide⟩,
    ⟨on base, ⟨false, .i8, 5, 1, 6, some ⟨1, false⟩⟩, ready_of_check rfl, by decide, rfl, rfl⟩⟩
/-- With x2 as base field, at the lowest and at the highest address that the stack check passes. -/
def stacked : Context := { base with stkbase := 0x9000, stklim := 0xA000, fir := base.fir.writeX 2 0x9000 }
/-- A load at the end of the stack, an acquire; behind a full buffer that has returned, that is to be performed again, that is pending, that is
faulted. -/
theorem witness_LoadsAreOutstanding :
    let ins : Instr := .ldD ⟨false, 5, 6, .short 8, false⟩
    let eight (st : EntryState) (again : Bool) : State := mid { base with rb := List.replicate 8 (entryOf st again) }
    (∃ q, Spec.loads (.ldD ⟨false, 5, 2, .lit 0xFF8, false⟩) = some q ∧ q.a = 2 ∧ Begins (on stacked) (.ldD ⟨false, 5, 2, .lit 0xFF8, false⟩) [q.a] [] 1 stacked ∧
      Spec.Allowed stacked.counted q.a (stacked.counted.srcX q.a + q.off) q.size) ∧
    (∃ q, Spec.loads (.ldAcq ⟨false, 5, 6, .short 8, some .die⟩) = some q ∧ q.acq ≠ none ∧
      Begins (on base) (.ldAcq ⟨false, 5, 6, .short 8, some .die⟩) [q.a] [] 1 base ∧
      Spec.Allowed base.counted q.a (base.counted.srcX q.a + q.off) q.size) ∧
    Lands (eight .returned true) ins [6] [] 1 ∧ (AtMarker (eight .faulted false) ins 1 ∧ (entryOf .faulted false).Again) ∧
    (AtMarker (eight .pending true) ins 1 ∧ ¬ (entryOf .pending true).Again) ∧
    (AtMarker (eight .faulted true) ins 1 ∧ ¬ (entryOf .faulted true).Again ∧ Plain (eight .faulted true)) :=
  ⟨⟨_, rfl, rfl, .inl ⟨ready_of_check rfl, rfl⟩, by unfold Spec.Allowed; decide⟩,
    ⟨_, rfl, by simp, .inl ⟨ready_of_check rfl, rfl⟩, by unfold Spec.Allowed; decide⟩,
    lands_of_check rfl (.inr (by decide)) (by decide) (by decide),
    ⟨⟨free_of_check rfl, .inr (by decide)⟩, .inr ⟨rfl, rfl⟩⟩, ⟨⟨free_of_check rfl, .inr (by decide)⟩, by simp [Entry.Again, entryOf]⟩,
    ⟨free_of_check rfl, .inr (by decide)⟩, by simp [Entry.Again, entryOf], rfl, rfl⟩
theorem witness_StoresArePosted :
    ∃ s ins q, Spec.stores ins = some q ∧ Ready s ins [q.a, q.d] [] 0 ∧
      Spec.Allowed (s.ctx s.slot).counted q.a ((s.ctx s.slot).counted.srcX q.a + q.off) q.size :=
  ⟨on stacked, .stW ⟨false, 5, 2, .short 0, false⟩, _, rfl, ready_of_check rfl, by unfold Spec.Allowed; decide⟩
theorem witness_AtomicsAreOutstanding :
    ∃ s ins q, Spec.atomics ins = some q ∧ Ready s ins [q.a, q.b, q.d] [] 1 ∧
      Spec.Allowed (s.ctx s.slot).counted q.a ((s.ctx s.slot).counted.srcX q.a) (if q.dbl then 8 else 4) :=
  ⟨on base, .amoAdd ⟨false, 5, 6, 7, true⟩, _, rfl, ready_of_check rfl, by unfold Spec.Allowed; decide⟩
/-- A load one byte past an aligned address, and a store whose last byte lies behind the stack; the line behind the scratchpad, a peek of its
middle, a park there, a descriptor off its boundary, hamper blocks off theirs and outside the hamper, and a fill of none. -/
theorem witness_MemoryAccessesTrap :
    (Spec.accesses ((on base).ctx ⟨0, .n⟩) (.ldD ⟨false, 5, 6, .short 1, false⟩) = some ([6], 6, 1, 8, 1) ∧
      Ready (on base) (.ldD ⟨false, 5, 6, .short 1, false⟩) [6] [] 1 ∧ ¬ Spec.Allowed base 6 1 8 ∧ (1 : Word).toNat % 8 ≠ 0) ∧
    (Spec.accesses ((on stacked).ctx ⟨0, .n⟩) (.stD ⟨false, 5, 2, .lit 0x1000, false⟩) = some ([2, 5], 2, 0xA000, 8, 0) ∧
      Ready (on stacked) (.stD ⟨false, 5, 2, .lit 0x1000, false⟩) [2, 5] [] 0 ∧ ¬ Spec.Allowed stacked 2 0xA000 8 ∧
      (0xA000 : Word).toNat % 8 = 0) ∧
    (Plain (on base) ∧ Plain (on stacked)) ∧
    (let at_ (v : Word) : Context := { base with fir := base.fir.writeX 6 v }
     (Spec.operands (at_ 0x18000) (.feClr ⟨false, 6, 0⟩) = some ([6], [], 0, some (0x03, 0x18000)) ∧ Ready (on (at_ 0x18000)) (.feClr ⟨false, 6, 0⟩) [6] [] 0) ∧
     (Spec.operands (at_ 0x9001) (.fePeek ⟨false, 5, 6⟩) = some ([6], [], 1, some (0x02, 0x9001)) ∧ Ready (on (at_ 0x9001)) (.fePeek ⟨false, 5, 6⟩) [6] [] 1) ∧
     (Spec.operands (at_ 0x18000) (.park ⟨false, 5, 6⟩) = some ([6], [5], 0, some (0x03, 0x18000)) ∧ Ready (on (at_ 0x18000)) (.park ⟨false, 5, 6⟩) [6] [5] 0) ∧
     (Spec.operands (at_ 32) (.copySt ⟨false, 5, 6⟩) = some ([6], [], 1, some (0x02, 32)) ∧ Ready (on (at_ 32)) (.copySt ⟨false, 5, 6⟩) [6] [] 1) ∧
     (Spec.operands (at_ 0x100080) (.hLd ⟨false, 5, 6⟩) = some ([6], [], 2, some (0x02, 0x100080)) ∧ Ready (on (at_ 0x100080)) (.hLd ⟨false, 5, 6⟩) [6] [] 2) ∧
     (Spec.operands (at_ 0xFFF00) (.hSt ⟨false, 5, 6⟩) = some ([6], [], 0, some (0x03, 0xFFF00)) ∧ Ready (on (at_ 0xFFF00)) (.hSt ⟨false, 5, 6⟩) [6] [] 0) ∧
     (Spec.operands (at_ 256) (.hFill ⟨false, 5, 6, 7⟩) = some ([6, 7], [], 1, some (0x03, 256)) ∧ Ready (on (at_ 256)) (.hFill ⟨false, 5, 6, 7⟩) [6, 7] [] 1)) :=
  ⟨⟨by rfl, ready_of_check rfl, by unfold Spec.Allowed; decide, by decide⟩,
    ⟨by rfl, ready_of_check rfl, by unfold Spec.Allowed; decide, by decide⟩, ⟨⟨rfl, rfl⟩, rfl, rfl⟩,
    ⟨by decide, ready_of_check rfl⟩, ⟨by decide, ready_of_check rfl⟩, ⟨by decide, ready_of_check rfl⟩, ⟨by decide, ready_of_check rfl⟩,
    ⟨by decide, ready_of_check rfl⟩, ⟨by decide, ready_of_check rfl⟩, ⟨by decide, ready_of_check rfl⟩⟩
/-- A posted store of 8 bytes to the context's own scratchpad, unchecked, and a read that is outstanding. -/
def posted : Access := base.access (requester (on base) ⟨0, .n⟩) 0x9000 (.store 3 7) none
def pending : Access := base.access (requester (on base) ⟨0, .n⟩) 0x9000 (.load 8) none
def storing : Context := { base with acc := [posted] }
def reading : Context := { base with acc := [pending] }
/-- A context with a message to the east in an injection slot. -/
def sending : Context := { base with inj := [⟨0, 0, [51], ⟨0, 0⟩, none, 51, 0, none, .package⟩] }
theorem witness_FencesAndDrainsOrder :
    (Ready (on base) (.nop ⟨false⟩) [] [] 0 ∧ Ready (on base) (.drain ⟨false⟩) [] [] 0 ∧ uncheckedStores base = false ∧
      Ready (on base) (.fence ⟨false, .full, .package⟩) [] [] 0 ∧ base.counted.acc = [] ∧ base.counted.inj = []) ∧
    (Ready (on storing) (.fence ⟨false, .acq, .package⟩) [] [] 0 ∧ ∀ a ∈ storing.counted.acc, a.kind.isRead = false) ∧
    (Ready (on storing) (.fence ⟨false, .rel, .package⟩) [] [] 0 ∧ storing.acc ≠ []) ∧
    (posted ∈ storing.acc ∧ posted.kind.isMemory = true ∧ Ready (on storing) (.fence ⟨false, .full, .package⟩) [] [] 0 ∧
      accInScope (on storing) .package ⟨0, .n⟩ posted = true) ∧
    (pending ∈ reading.acc ∧ pending.kind.isMemory = true ∧ pending.kind.isRead = true ∧
      Ready (on reading) (.fence ⟨false, .acq, .core⟩) [] [] 0 ∧ accInScope (on reading) .core ⟨0, .n⟩ pending = true) ∧
    (∃ m ∈ sending.inj, messageInScope (mid sending) .package ⟨50, .n⟩ m = true ∧ Ready (mid sending) (.fence ⟨false, .full, .package⟩) [] [] 0) ∧
    (Ready (on storing) (.drain ⟨false⟩) [] [] 0 ∧ uncheckedStores storing = true) :=
  ⟨⟨ready_of_check rfl, ready_of_check rfl, rfl, ready_of_check rfl, rfl, rfl⟩, ⟨ready_of_check rfl, by decide⟩, ⟨ready_of_check rfl, nofun⟩,
    ⟨.head _, rfl, ready_of_check rfl, by decide +kernel⟩, ⟨.head _, rfl, rfl, ready_of_check rfl, by decide +kernel⟩,
    ⟨_, .head _, by decide +kernel, ready_of_check rfl⟩, ready_of_check rfl, rfl⟩
/-- The last line of the scratchpad. -/
theorem witness_LineBitsAreUsed :
    (∃ s, ∃ o : OpsFe, Spec.Lines ((s.ctx s.slot).counted.srcX o.a) (o.n1.toNat + 1) ∧ Ready s (.feClr o) [o.a] [] 0 ∧
      Ready s (.feSet o) [o.a] [] 0) ∧
    (∃ s, ∃ o : OpsDA, Ready s (.feTest o) [o.a] [o.d] 0 ∧ Ready s (.fePeek o) [o.a] [] 1 ∧
      Spec.Lines ((s.ctx s.slot).counted.srcX o.a) 1 ∧ ((s.ctx s.slot).counted.srcX o.a).toNat % 8 = 0 ∧
      ((s.ctx s.slot).counted.srcX o.a).toNat < 0x18000) :=
  ⟨⟨on { base with fir := base.fir.writeX 6 0x17F80 }, ⟨false, 6, 0⟩, by unfold Spec.Lines; decide, ready_of_check rfl, ready_of_check rfl⟩,
    ⟨on { base with fir := base.fir.writeX 6 0x17FF8 }, ⟨false, 5, 6⟩, ready_of_check rfl, ready_of_check rfl, by unfold Spec.Lines; decide,
      by decide, by decide⟩⟩
/-- x8 to x11 hold the image of a window of one row of 128 bytes at the first line behind the code region. -/
def imaged : Context :=
  { base with fir := (((base.fir.writeX 8 0x80000).writeX 9 0x1000000000000).writeX 10 128).writeX 11 0 }
/-- Core 0 with a window in entry 0 in the state `st`. -/
def windowed (k : Context) (st : Nat) : State :=
  let c := { Core.reset with n := k }
  { on k with cores := [(0, { c with wins := c.wins.set 0 ⟨withField (windowImage (regsNat imaged.fir 8 4)) 3 2 st, false, none⟩ })] }
theorem witness_WindowsAreManaged :
    (∃ s, ∃ o : OpsWinSet, Ready s (.winSet o) [] [o.d] 0 ∧
      winOk (s.coreAt s.slot.core) o.e.val ⟨windowImage (regsNat (s.ctx s.slot).counted.fir o.a 4), false, none⟩ = true ∧
      ¬ (wState (winAt (s.coreAt s.slot.core) o.e.val) = 1 ∨ wState (winAt (s.coreAt s.slot.core) o.e.val) = 3)) ∧
    (∃ s, ∃ o : OpsWinSet, Ready s (.winSet o) [] [o.d] 0 ∧
      ¬ winOk (s.coreAt s.slot.core) o.e.val ⟨windowImage (regsNat (s.ctx s.slot).counted.fir o.a 4), false, none⟩ = true) ∧
    (∃ s, ∃ o : OpsWinSet, Ready s (.winSet o) [] [o.d] 0 ∧
      winOk (s.coreAt s.slot.core) o.e.val ⟨windowImage (regsNat (s.ctx s.slot).counted.fir o.a 4), false, none⟩ = true ∧
      wState (winAt (s.coreAt s.slot.core) o.e.val) = 1) ∧
    (∃ s, ∃ o : OpsWin, Ready s (.winDrop o) [] [] 0 ∧ wState (winAt (s.coreAt s.slot.core) o.e.val) = 3) ∧
    (∃ s, ∃ o : OpsWin, Ready s (.winDrop o) [] [] 0 ∧ wState (winAt (s.coreAt s.slot.core) o.e.val) = 2) ∧
    (∃ s, ∃ o : OpsWin, Ready s (.winTouch o) [] [] 0 ∧ wV (winAt (s.coreAt s.slot.core) o.e.val) = true ∧
      wState (winAt (s.coreAt s.slot.core) o.e.val) = 0) ∧
    (∃ s, ∃ o : OpsWin, Ready s (.winTouch o) [] [] 0 ∧ wV (winAt (s.coreAt s.slot.core) o.e.val) = false) ∧
    (∃ s, ∃ o : OpsWinState, Ready s (.winState o) [] [o.d] 0) :=
  ⟨⟨on imaged, ⟨false, 5, 8, 0⟩, ready_of_check rfl, by decide, by decide⟩, ⟨on base, ⟨false, 5, 8, 0⟩, ready_of_check rfl, by decide⟩,
    ⟨windowed imaged 1, ⟨false, 5, 8, 0⟩, ready_of_check rfl, by decide, by decide⟩,
    ⟨windowed base 3, ⟨false, 0⟩, ready_of_check rfl, by decide⟩, ⟨windowed base 2, ⟨false, 0⟩, ready_of_check rfl, by decide⟩,
    ⟨windowed base 0, ⟨false, 0⟩, ready_of_check rfl, by decide, by decide⟩, ⟨on base, ⟨false, 7⟩, ready_of_check rfl, by decide⟩,
    ⟨on base, ⟨false, 5, 7⟩, ready_of_check rfl⟩⟩
theorem witness_WorkRequestsAreIssued :
    (∃ s, ∃ o : OpsA, Ready s (.copy o) [o.a] [] 0 ∧ ((s.ctx s.slot).counted.srcX o.a).toNat % 64 = 0) ∧
    (∃ s, ∃ o : OpsDA, Ready s (.copySt o) [o.a] [] 1 ∧ ((s.ctx s.slot).counted.srcX o.a).toNat % 64 = 0) ∧
    (∃ s, ∃ o : OpsLaunch, Ready s (.launch o) [o.a] [] 1 ∧ ((s.ctx s.slot).counted.srcX o.a).toNat % 64 = 0) ∧
    (∃ s, ∃ o : OpsD, Ready s (.join o) [] [] 1) ∧ (∃ s, ∃ o : OpsLnstat, Ready s (.lnstat o) [o.a] [] 1) ∧
    (∃ s, ∃ o : OpsReplay, Ready s (.replay o) [] [] 1 ∧ ((s.ctx s.slot).counted.fir.readX (regPlus o.a 1)).toNat % 8 = 0) ∧
    (∃ s, ∃ o : OpsReplay, Ready s (.replay o) [] [] 1 ∧ ((s.ctx s.slot).counted.fir.readX (regPlus o.a 1)).toNat % 8 ≠ 0) :=
  ⟨⟨on base, ⟨false, 6⟩, ready_of_check rfl, by decide⟩, ⟨on base, ⟨false, 5, 6⟩, ready_of_check rfl, by decide⟩,
    ⟨on base, ⟨false, 5, 6, true⟩, ready_of_check rfl, by decide⟩, ⟨on base, ⟨false, 5⟩, ready_of_check rfl⟩,
    ⟨on base, ⟨false, 5, 6, true⟩, ready_of_check rfl⟩, ⟨on base, ⟨false, 5, 6, 255⟩, ready_of_check rfl, by decide⟩,
    ⟨on { base with fir := base.fir.writeX 7 0x9001 }, ⟨false, 5, 6, 1⟩, ready_of_check rfl, by decide⟩⟩
/-- A context whose injection slots are all taken. -/
def full : Context := { base with inj := List.replicate 8 ⟨0, 0, [51], ⟨0, 0⟩, none, 51, 0, none, .package⟩ }
/-- To the east by its offset, from core 50 to core 51 of partition 0, and by a register; past the mesh by both; with no slot free. -/
theorem witness_MessagesAreInjected :
    (base.counted.inj.length < 8 ∧ (mid base).slot.core < 4608 ∧ Ready (mid base) (.send ⟨false, 6, 0, 1, 0, 16, .n, 3⟩) [0] [] 0 ∧
      Spec.Destination (mid base) 50 0 0 1 0 0 51) ∧
    (Ready (mid base) (.sendv ⟨false, 1, 6, 0, 0, .u, 3⟩) [1, 6] [] 0 ∧ Spec.Destination (mid base) 50 6 (base.srcX 6) 0 0 0 0) ∧
    (Ready (on base) (.send ⟨false, 6, 0, 0xFF, 0, 16, .n, 3⟩) [0] [] 0 ∧ (∀ dev n, ¬ Spec.Destination (on base) 0 0 0 0xFF 0 dev n) ∧ Plain (on base)) ∧
    (let k : Context := { base with fir := base.fir.writeX 6 0x1FFF }
     Ready (on k) (.sendv ⟨false, 1, 6, 0, 0, .u, 3⟩) [1, 6] [] 0 ∧ (∀ dev n, ¬ Spec.Destination (on k) 0 6 0x1FFF 0 0 dev n) ∧ Plain (on k)) ∧
    (8 ≤ full.inj.length ∧ Ready (mid full) (.send ⟨false, 6, 0, 1, 0, 16, .n, 3⟩) [0] [] 0 ∧ Spec.Destination (mid full) 50 0 0 1 0 0 51) ∧
    Ready (mid full) (.sendv ⟨false, 1, 6, 0, 0, .u, 3⟩) [1, 6] [] 0 ∧ Ready (mid full) (.mcast ⟨false, 6, 0, 16, .n, 3⟩) [] [] 0 :=
  ⟨⟨by decide, by decide, ready_of_check rfl, by unfold Spec.Destination; decide +kernel⟩,
    ⟨ready_of_check rfl, by unfold Spec.Destination; decide +kernel⟩,
    ⟨ready_of_check rfl, fun dev n h => by
      simp only [Spec.Destination] at h
      obtain ⟨-, -, h, -⟩ := h
      have : (0xFF : BitVec 8).toInt = -1 := by decide
      omega, rfl, rfl⟩,
    ⟨ready_of_check rfl, fun dev n h => by
      have e : n = 8191 := by simpa [Spec.Destination] using h.1
      have c : coreIn (on { base with fir := base.fir.writeX 6 0x1FFF }) 0 8191 = false := by decide +kernel
      subst e
      have h2 := h.2.2
      split at h2
      · exact absurd h2 (by decide +kernel)
      · exact absurd h2.1 (by decide), rfl, rfl⟩,
    ⟨by decide, ready_of_check rfl, by unfold Spec.Destination; decide +kernel⟩, ready_of_check rfl, ready_of_check rfl⟩
/-- Core 50 with group 3 of partition 0 in the state `g`. -/
def grouped (g : GState) : State :=
  { mid base with parts := [(0, { Partition.reset with rgroups := [(3, { RGroup.reset with state := g })] })] }
theorem witness_GroupRequestsAreIssued :
    (Ready (grouped .armed) (.mcast ⟨false, 6, 3, 16, .n, 3⟩) [] [] 0 ∧ base.counted.inj.length < 8 ∧
      ((grouped .armed).rgroupAt 0 3).state = .armed) ∧
    (Ready (grouped .draining) (.mcast ⟨false, 6, 3, 16, .n, 3⟩) [] [] 0 ∧ ((grouped .draining).rgroupAt 0 3).state ≠ .armed) ∧
    (Ready (mid base) (.grpArm ⟨false, 5, 6, 7, 0, 0, 100, false, false, 3⟩) [6, 7] [] 1 ∧ coreAtOffset 50 0 0 = some 50 ∧
      coreIn (mid base) 0 50 = true) ∧
    (Ready (on base) (.grpArm ⟨false, 5, 6, 7, 0xFF, 0, 100, false, false, 3⟩) [6, 7] [] 1 ∧ coreAtOffset 0 (0xFF : BitVec 8).toInt 0 = none ∧ Plain (on base)) ∧
    Ready (mid base) (.redF32 ⟨false, 1, 3⟩) [1] [] 0 ∧ Ready (mid base) (.redI64 ⟨false, 1, 3⟩) [1] [] 0 ∧
    Ready (mid base) (.grpWait ⟨false, 1, 3⟩) [] [] 1 ∧ Ready (mid base) (.grpFree ⟨false, 1, 3⟩) [] [] 1 :=
  ⟨⟨ready_of_check rfl, by decide, rfl⟩, ⟨ready_of_check rfl, nofun⟩, ⟨ready_of_check rfl, by decide, by decide +kernel⟩,
    ⟨ready_of_check rfl, by decide, rfl, rfl⟩, ready_of_check rfl, ready_of_check rfl, ready_of_check rfl, ready_of_check rfl⟩
/-- A message of the run queue, and a context that has one; a range with nothing left. -/
def letter : Msg := ⟨0, 0⟩
def queued : Context := { base with runq := [.msg letter] }
def spent : Context := { base with fir := { base.fir with range := some ⟨0, 0, 0, 0, 0, 0, 0, 0⟩ } }
/-- A firing at its end, with a spent range; one inside a handler; a yield that stays and one that goes. -/
theorem witness_FiringsEndAndYield :
    (Ready (on spent) (.done ⟨false⟩) [] [] 0 ∧ spent.rb = [] ∧ uncheckedStores spent = false ∧ spent.fir.intrap = false ∧
      ∀ r, spent.fir.range = some r → r.hi.toNat ≤ r.lo.toNat) ∧
    (let k : Context := { base with fir := { base.fir with intrap := true } }
     Ready (on k) (.done ⟨false⟩) [] [] 0 ∧ k.rb = [] ∧ uncheckedStores k = false ∧ k.fir.intrap = true ∧ k.fir.range = none) ∧
    (Ready (on queued) (.yield ⟨false⟩) [] [] 0 ∧ queued.rb = [] ∧
      ¬ (queued.runq = [] ∨ 32 ≤ queued.runq.length ∨ queued.yieldSlot.isSome = true)) ∧
    (Ready (on base) (.yield ⟨false⟩) [] [] 0 ∧ base.rb = [] ∧ base.runq = []) :=
  ⟨⟨ready_of_check rfl, rfl, rfl, rfl, fun r h => by simp [spent] at h; subst h; decide⟩, ⟨ready_of_check rfl, rfl, rfl, rfl, rfl⟩,
    ⟨ready_of_check rfl, rfl, by decide⟩, ready_of_check rfl, rfl, rfl⟩
/-- Core 0 with a deque of two entries, and x6 and x7 that hold a range of one item. -/
def ranged : Context := { base with fir := { (base.fir.writeX 7 1) with range := some ⟨4, 8, 0, 0, 0, 0, 0, 0⟩ } }
def dequed (k : Context) : State := { on k with cores := [(0, { Core.reset with n := k, rqbase := 0x8000, rqlim := 0x8060 })] }
theorem witness_RangesArePushedAndTaken :
    (Ready (on base) (.rngPush ⟨false, 5, 6, 1⟩) [] [5] 0 ∧ (ownRange base.fir 6 1).hi.toNat ≤ (ownRange base.fir 6 1).lo.toNat) ∧
    (Ready (on ranged) (.rngPush ⟨false, 5, 6, 1⟩) [] [5] 0 ∧ (ownRange ranged.fir 6 1).lo.toNat < (ownRange ranged.fir 6 1).hi.toNat ∧
      dequeFull ((on ranged).coreAt 0) = true) ∧
    (Ready (dequed ranged) (.rngPush ⟨false, 5, 6, 1⟩) [] [5] 0 ∧ dequeFull ((dequed ranged).coreAt 0) = false) ∧
    (Instr.wf (.rngTake ⟨false, 5, 6⟩) = true ∧ Ready (on base) (.rngTake ⟨false, 5, 6⟩) [6] [5] 0 ∧ base.fir.range = none) ∧
    (Ready (on ranged) (.rngTake ⟨false, 5, 6⟩) [6] [5] 0 ∧ ranged.fir.range ≠ none) ∧ State.memWf (dequed ranged) :=
  ⟨⟨ready_of_check rfl, by decide⟩, ⟨ready_of_check rfl, by decide, by decide⟩, ⟨ready_of_check rfl, by decide⟩,
    ⟨rfl, ready_of_check rfl, rfl⟩, ⟨ready_of_check rfl, nofun⟩, rfl⟩
/-- Channel 0 of the class, record size, bound and known occupancy given, from core 50 to itself, with a ring of 16 records; with class 1
its slot 0 is reserved by core 50. -/
def chan0 (cls k bound occ : Nat) : Chan :=
  { Chan.reset with
    cfg := BitVec.ofNat 512 (1 + cls * 2 + k * 2 ^ 3 + 50 * 2 ^ 32 + 50 * 2 ^ 45 + 16 * 2 ^ 80 + bound * 2 ^ 96), occ := [(50, occ)]
    ring := if cls = 1 then [⟨0, 50, .n, false, false, false, false⟩] else [] }
/-- A firing that has channel 0 open. -/
def opener : Context := { base with fir := { base.fir with opened := [0] } }
def channelled (k : Context) (c : Chan) : State := { mid k with parts := [(0, { Partition.reset with chans := [(0, c)] })] }
/-- The same, with an index whose descriptor is valid, and x6 with a cursor above the fields of `ix.next`. -/
def indexed (k : Context) : State := { mid k with parts := [(0, { Partition.reset with indexes := [(0, 1)] })] }
theorem witness_ChannelQueriesAnswer :
    (∃ ok, Spec.uses (channelled base (chan0 0 0 8 0)) base (.chW ⟨false, 20, 6⟩) = some (6, [6, 20], [], 0, ok) ∧
      Ready (channelled base (chan0 0 0 8 0)) (.chW ⟨false, 20, 6⟩) [6, 20] [] 0 ∧ ¬ ok ∧ Plain (channelled base (chan0 0 0 8 0))) ∧
    (∃ ok, Spec.uses (mid base) base (.chOpen ⟨false, 5, 6⟩) = some (6, [6], [5], 0, ok) ∧ Ready (mid base) (.chOpen ⟨false, 5, 6⟩) [6] [5] 0 ∧ ¬ ok) ∧
    (let k : Context := { base with fir := base.fir.writeX 5 256 }
     Ready (mid k) (.ixUpd ⟨false, 5, 20⟩) [20, 5] [] 1 ∧ Ready (mid k) (.ixLook ⟨false, 5, 20⟩) [20, 5] [] 1 ∧ 2 ^ 8 ≤ (k.fir.readX 5).toNat) ∧
    (let k : Context := { base with fir := base.fir.writeX 6 0x800000000 }
     Ready (indexed k) (.ixNext ⟨false, 5, 6⟩) [6] [] 1 ∧ ixV (indexAt (indexed k) 0 ((k.srcX 6).toNat % 2 ^ 8)) = true ∧
      2 ^ 35 ≤ (k.srcX 6).toNat ∧ Plain (indexed k)) ∧
    (Ready (channelled base (chan0 0 0 8 0)) (.chOpen ⟨false, 5, 6⟩) [6] [5] 0 ∧ isWriter (chan0 0 0 8 0) 50 = true ∧
      (base.srcX 6).toNat < 2 ^ 12 ∧ base.fir.opened = []) ∧
    (Ready (channelled opener (chan0 0 0 8 0)) (.chOpen ⟨false, 5, 6⟩) [6] [5] 0 ∧ hasNat opener.fir.opened (opener.srcX 6).toNat = true) ∧
    Ready (channelled opener (chan0 0 0 8 0)) (.chClose ⟨false, 6⟩) [6] [] 0 ∧
    (Ready (channelled opener (chan0 0 0 8 0)) (.chAvail ⟨false, 5, 6⟩) [6] [5] 0 ∧ isReader (chan0 0 0 8 0) 50 = true ∧
      Spec.Opened (channelled opener (chan0 0 0 8 0)) (opener.srcX 6)) ∧
    (Ready (channelled opener (chan0 2 3 8 8)) (.chSpace ⟨false, 5, 6⟩) [6] [5] 0 ∧ isWriter (chan0 2 3 8 8) 50 = true ∧
      cClass (chan0 2 3 8 8) = 2) ∧
    (Ready (channelled opener (chan0 2 3 8 8)) (.dqCons ⟨false, 5, 6⟩) [6] [5] 0 ∧ isReader (chan0 2 3 8 8) 50 = true) :=
  ⟨⟨_, rfl, ready_of_check rfl, fun h => absurd h.1.2 (by decide +kernel), rfl, rfl⟩,
    ⟨_, rfl, ready_of_check rfl, fun h => h.2.elim (fun w => absurd w (by unfold Spec.Writes; decide +kernel)) fun w => absurd w (by unfold Spec.Reads; decide +kernel)⟩,
    ⟨ready_of_check rfl, ready_of_check rfl, by decide⟩, ⟨ready_of_check rfl, by decide +kernel, by decide +kernel, rfl, rfl⟩,
    ⟨ready_of_check rfl, by decide +kernel, by decide +kernel, rfl⟩, ⟨ready_of_check rfl, by decide +kernel⟩, ready_of_check rfl,
    ⟨ready_of_check rfl, by decide +kernel, by unfold Spec.Opened; decide +kernel⟩, ⟨ready_of_check rfl, by decide +kernel, by decide +kernel⟩, ready_of_check rfl, by decide +kernel⟩
/-- One record below the bound, and at it: the smallest and the largest records of each form. -/
theorem witness_RecordsAndCorksArePosted :
    (Ready (channelled opener (chan0 0 3 8 7)) (.chW ⟨false, 20, 6⟩) [6, 20] [] 0 ∧ cClass (chan0 0 3 8 7) = 0 ∧ cK (chan0 0 3 8 7) = 3 ∧
      Spec.ScalarData 20 3 ∧ Spec.Opened (channelled opener (chan0 0 3 8 7)) 0 ∧ isWriter (chan0 0 3 8 7) 50 = true ∧
      Spec.Room (channelled opener (chan0 0 3 8 7)) 0) ∧
    (Ready (channelled opener (chan0 0 5 8 7)) (.chWv ⟨false, 26, 6⟩) [6, 26] [] 0 ∧ cK (chan0 0 5 8 7) = 5 ∧ Spec.VectorData 26 5 ∧
      isWriter (chan0 0 5 8 7) 50 = true ∧ Spec.Room (channelled opener (chan0 0 5 8 7)) 0) ∧
    (Ready (channelled opener (chan0 2 3 8 7)) (.dqEmit ⟨false, 20, 6⟩) [6, 20] [] 0 ∧ cClass (chan0 2 3 8 7) = 2 ∧
      fld (opener.fir.readV 20) 111 96 ≤ 48 ∧ fld (opener.fir.readV 20) 95 64 ≠ 0x80000000 ∧
      Spec.Room (channelled opener (chan0 2 3 8 7)) 0) ∧
    (Ready (channelled opener (chan0 2 3 8 7)) (.dqCork ⟨false, 6⟩) [6] [] 0 ∧ isWriter (chan0 2 3 8 7) 50 = true) :=
  ⟨⟨ready_of_check rfl, by decide +kernel, by decide +kernel, by unfold Spec.ScalarData; decide +kernel, by unfold Spec.Opened; decide +kernel, by decide +kernel,
      by unfold Spec.Room; decide +kernel⟩,
    ⟨ready_of_check rfl, by decide +kernel, by unfold Spec.VectorData; decide +kernel, by decide +kernel, by unfold Spec.Room; decide +kernel⟩,
    ⟨ready_of_check rfl, by decide +kernel, by decide +kernel, by decide +kernel, by unfold Spec.Room; decide +kernel⟩, ready_of_check rfl, by decide +kernel⟩
theorem witness_WritesWaitAtTheBound :
    (Ready (channelled opener (chan0 0 3 8 8)) (.chW ⟨false, 20, 6⟩) [6, 20] [] 0 ∧ Spec.ScalarData 20 3 ∧
      actorSlot (channelled opener (chan0 0 3 8 8)) ⟨50, .n⟩ 0 true = none ∧ cLimit (chan0 0 3 8 8) ≤ cOcc (chan0 0 3 8 8) 50) ∧
    (Ready (channelled opener (chan0 0 5 8 8)) (.chWv ⟨false, 26, 6⟩) [6, 26] [] 0 ∧ cLimit (chan0 0 5 8 8) ≤ cOcc (chan0 0 5 8 8) 50) ∧
    (Ready (channelled opener (chan0 2 3 8 8)) (.dqEmit ⟨false, 20, 6⟩) [6, 20] [] 0 ∧ cLimit (chan0 2 3 8 8) ≤ cOcc (chan0 2 3 8 8) 50) ∧
    Ready (channelled opener (chan0 2 3 8 8)) (.dqCork ⟨false, 6⟩) [6] [] 0 :=
  ⟨⟨ready_of_check rfl, by unfold Spec.ScalarData; decide +kernel, rfl, by decide +kernel⟩, ⟨ready_of_check rfl, by decide +kernel⟩,
    ⟨ready_of_check rfl, by decide +kernel⟩, ready_of_check rfl⟩
theorem side0 : readerSide (channelled opener (chan0 1 3 8 8)) 0 0 = (0, 0) := by decide +kernel
theorem reserved0 : Spec.Reserved (channelled opener (chan0 1 3 8 8)) 0 := by
  refine ⟨⟨0, 50, .n, false, false, false, false⟩, ?_, rfl, rfl, rfl⟩
  change _ ∈ ((channelled opener (chan0 1 3 8 8)).chanAt (readerSide (channelled opener (chan0 1 3 8 8)) 0 0).1 (readerSide (channelled opener (chan0 1 3 8 8)) 0 0).2).ring ++ _
  rw [side0]
  exact List.mem_append_left _ (.head _)
theorem witness_RequestsToUnitsAreIssued :
    (Ready (channelled opener (chan0 0 0 8 8)) (.chR ⟨false, 5, 6⟩) [6] [] 1 ∧ cClass (chan0 0 0 8 8) ≤ 1 ∧ cK (chan0 0 0 8 8) = 0 ∧
      isReader (chan0 0 0 8 8) 50 = true) ∧
    (Ready (channelled opener (chan0 1 4 8 8)) (.chRv ⟨false, 27, 6⟩) [6] [] 1 ∧ cClass (chan0 1 4 8 8) ≤ 1 ∧ cK (chan0 1 4 8 8) ≤ 4) ∧
    Ready (channelled opener (chan0 2 3 8 8)) (.dqRead ⟨false, 27, 6⟩) [6] [] 1 ∧
    (Ready (channelled opener (chan0 0 5 8 8)) (.chRv ⟨false, 26, 6⟩) [6] [] 2 ∧ Spec.VectorData 26 5) ∧
    (Ready (channelled opener (chan0 1 4 8 8)) (.chRes ⟨false, 5, 6, 15⟩) [6] [] 1 ∧ (15 : BitVec 8).toNat + 1 ≤ cCap (chan0 1 4 8 8) ∧
      isWriter (chan0 1 4 8 8) 50 = true) ∧
    (Ready (channelled opener (chan0 1 3 8 8)) (.chPub ⟨false, 20, 6, false⟩) [6, 20] [] 0 ∧
      Spec.Reserved (channelled opener (chan0 1 3 8 8)) 0 ∧ Spec.ScalarData 20 3 ∧ isWriter (chan0 1 3 8 8) 50 = true) ∧
    Ready (mid base) (.dqQuiet ⟨false, 5⟩) [] [] 1 ∧
    Ready (mid base) (.ixUpd ⟨false, 5, 20⟩) [20, 5] [] 1 ∧ Ready (mid base) (.ixLook ⟨false, 5, 20⟩) [20, 5] [] 1 ∧
    (Ready (mid base) (.ixNext ⟨false, 5, 6⟩) [6] [] 1 ∧ (base.srcX 6).toNat < 2 ^ 35) ∧ Ready (mid base) (.ixClear ⟨false, 5, 6⟩) [6] [] 1 :=
  ⟨⟨ready_of_check rfl, by decide +kernel, by decide +kernel, by decide +kernel⟩, ⟨ready_of_check rfl, by decide +kernel, by decide +kernel⟩, ready_of_check rfl,
    ⟨ready_of_check rfl, by unfold Spec.VectorData; decide +kernel⟩, ⟨ready_of_check rfl, by decide +kernel, by decide +kernel⟩,
    ⟨ready_of_check rfl, reserved0, by unfold Spec.ScalarData; decide, by decide +kernel⟩, ready_of_check rfl, ready_of_check rfl, ready_of_check rfl,
    ⟨ready_of_check rfl, by decide +kernel⟩, ready_of_check rfl⟩
theorem every_element : Spec.elements base.counted.fir 0 = List.range 32 := by decide +kernel
/-- A line-aligned block in the core's own scratchpad, gathers and scatters of every element by lat, and a word for all elements. -/
theorem witness_VectorMemoryIsIssued :
    (Ready (on base) (.vld ⟨false, 5, 6, .short 1, none⟩) [6] [] 1 ∧
      (base.counted.srcX 6 + Spec.vectorOffset (.short 1)).toNat % 128 = 0 ∧
      Spec.ElementsAllowed base.counted 6
        ((Spec.elements base.counted.fir 0).map fun j => base.counted.srcX 6 + Spec.vectorOffset (.short 1) + BitVec.ofNat 64 (4 * j))) ∧
    (Ready (on base) (.vldbc ⟨false, 5, 6, .lit 0x17FFC, some ⟨1, true⟩⟩) [6] [] 1 ∧
      (base.counted.srcX 6 + Spec.vectorOffset (.lit 0x17FFC)).toNat % 4 = 0) ∧
    (Ready (on base) (.vgather ⟨false, 5, 6, .lit 4, none⟩) [6] [] 1 ∧
      Spec.ElementsAllowed base.counted 6 ((Spec.elements base.counted.fir 0).map fun j =>
        base.counted.srcX 6 + Spec.vectorOffset (.lit 4) + (laneN 32 base.counted.fir.lat j |> BitVec.ofNat 32).signExtend 64)) ∧
    (Ready (on base) (.vst ⟨false, 5, 6, .lit 0x17F80, none⟩) [6, 5] [] 0 ∧
      homeOf (on base) (requester (on base) ⟨0, .n⟩) 0x17F80 .write = .ok (scratchPa 0 0x17F80)) ∧
    (Ready (on base) (.vscatter ⟨false, 5, 6, .lit 0x8000, some 3⟩) [6, 5] [] 0 ∧
      homeOf (on base) (requester (on base) ⟨0, .n⟩) 0x8000 .write = .ok (scratchPa 0 0x8000)) := by
  rw [every_element]
  refine ⟨⟨ready_of_check rfl, by decide, ?_⟩, ⟨ready_of_check rfl, by decide⟩, ⟨ready_of_check rfl, ?_⟩, ⟨ready_of_check rfl, rfl⟩,
    ready_of_check rfl, rfl⟩ <;> unfold Spec.ElementsAllowed Spec.Allowed <;> rw [List.forall_mem_map] <;> decide +kernel
/-- A block off its line, a word off its bounds, a gather of elements off theirs, elements outside the stack, and stores to addresses that name
no memory. -/
theorem witness_VectorMemoryTraps :
    (Ready (on base) (.vld ⟨false, 5, 6, .lit 4, none⟩) [6] [] 1 ∧ (base.srcX 6 + Spec.vectorOffset (.lit 4)).toNat % 128 ≠ 0) ∧
    (Ready (on base) (.vgather ⟨false, 5, 6, .lit 2, none⟩) [6] [] 1 ∧
      Spec.Lowest [(2 : Word)] (fun w => w.toNat % 4 ≠ 0) 2) ∧
    (Ready (on stacked) (.vst ⟨false, 5, 2, .lit 0x1000, none⟩) [2, 5] [] 0 ∧ (stacked.srcX 2 + 0x1000).toNat % 128 = 0 ∧
      ¬ Spec.ElementsAllowed stacked 2 [stacked.srcX 2 + 0x1000]) ∧
    (Ready (on base) (.vst ⟨false, 5, 6, .lit 0x18000, none⟩) [6, 5] [] 0 ∧
      homeOf (on base) (requester (on base) ⟨0, .n⟩) 0x18000 .write = .error 0x03 ∧
      Spec.Lowest [(0x18000 : Word), 0x18004] (fun w => ∃ e, homeOf (on base) (requester (on base) ⟨0, .n⟩) w.toNat .write = .error e) 0x18000) ∧
    (Plain (on base) ∧ Plain (on stacked)) :=
  ⟨⟨ready_of_check rfl, by decide⟩, ⟨ready_of_check rfl, .head _, by decide, fun w h _ => by simp at h; simp [h]⟩,
    ⟨ready_of_check rfl, by decide, fun h => absurd ((h _ (.head _)).2 rfl).2 (by decide)⟩,
    ⟨ready_of_check rfl, by rfl, .head _, ⟨0x03, by rfl⟩, fun w h _ => by simp at h; rcases h with rfl | rfl <;> decide⟩, ⟨rfl, rfl⟩, rfl, rfl⟩
/-- x6 names a rectangle of core 50 alone, with one pulse. -/
def ganging : Context := { base with fir := base.fir.writeX 6 0x0004000400000000 }
/-- Core 50 with `k` as its context N and `u` as its context U, its accumulator owned by `tag`. -/
def owned (k u : Context) (tag : BitVec 32) : State :=
  { mid k with cores := [(50, { Core.reset with n := k, u := u, accowner := tag })] }
/-- A context that waits at a barrier. -/
def joined : Context := { base with barrier := some ⟨0, 0, 5, 6⟩ }
theorem witness_GangsJoinTheirBarrier :
    (Ready (mid ganging) (.gang ⟨false, 5, 6⟩) [6] [5] 0 ∧ ganging.rb = [] ∧ uncheckedStores ganging = false ∧
      gangOk (mid ganging) 50 (ganging.counted.srcX 6) = true ∧ Spec.MayUse (mid ganging) false ∧
      ((mid ganging).ctx ⟨50, .u⟩).barrier = none ∧ joinedCtxs (mid ganging) = []) ∧
    (Ready (owned ganging joined 0) (.gang ⟨false, 5, 6⟩) [6] [5] 0 ∧ gangOk (owned ganging joined 0) 50 (ganging.counted.srcX 6) = true ∧
      Spec.MayUse (owned ganging joined 0) false ∧ ((owned ganging joined 0).ctx ⟨50, .u⟩).barrier.isSome = true) :=
  ⟨⟨ready_of_check rfl, rfl, rfl, by decide +kernel, .inr (.inl rfl), rfl, rfl⟩,
    ready_of_check rfl, by decide +kernel, .inr (.inl rfl), rfl⟩
/-- In user mode, with the accumulator owned by tag 7 and the firing's tag 0. -/
def outsider : Context := { ganging with fir := { ganging.fir with sup := false } }
/-- x6 holds an address off its line and x7 the last line of the scratchpad. -/
def edging : Context := { base with fir := (base.fir.writeX 6 64).writeX 7 0x17F80 }
theorem inside : homeOf (mid edging) (requester (mid edging) ⟨50, .n⟩) (0x17F80 : Word).toNat .write = .ok (scratchPa 50 0x17F80) := by rfl
theorem witness_OwnershipIsChecked :
    (Ready (owned outsider Context.reset 7) (.gang ⟨false, 5, 6⟩) [6] [5] 0 ∧ gangOk (owned outsider Context.reset 7) 50 (outsider.srcX 6) = true ∧
      ¬ Spec.MayUse (owned outsider Context.reset 7) false ∧ ¬ Spec.MayUse (owned outsider Context.reset 7) true) ∧
    Ready (owned outsider Context.reset 7) (.accTag ⟨false, 5, 6⟩) [6] [5] 0 ∧
    Ready (owned outsider Context.reset 7) (.accRd ⟨false, 5, 63⟩) [] [] 1 ∧ Ready (owned outsider Context.reset 7) (.accWr ⟨false, 5, 63⟩) [5] [] 0 ∧
    Ready (owned outsider Context.reset 7) (.accZero ⟨false⟩) [] [] 0 ∧ Ready (owned outsider Context.reset 7) (.accSpill ⟨false, 6⟩) [6] [] 0 ∧
    Ready (owned outsider Context.reset 7) (.accFill ⟨false, 6⟩) [6] [] 1 ∧
    (outsider.rb = [] ∧ outsider.fir.intrap = false ∧ uncheckedStores outsider = false) ∧
    (Ready (mid base) (.gang ⟨false, 5, 6⟩) [6] [5] 0 ∧ gangOk (mid base) 50 (base.srcX 6) = false) ∧
    (let k := edging
     Ready (mid k) (.accSpill ⟨false, 6⟩) [6] [] 0 ∧ Ready (mid k) (.accFill ⟨false, 6⟩) [6] [] 1 ∧ (k.srcX 6).toNat % 128 ≠ 0 ∧
      Spec.MayUse (mid k) true ∧ Plain (mid k) ∧ Ready (mid k) (.accSpill ⟨false, 7⟩) [7] [] 0 ∧ (k.srcX 7).toNat % 128 = 0 ∧
      homeOf (mid k) (requester (mid k) ⟨50, .n⟩) 0x18000 .write = .error 0x03 ∧
      Spec.Lowest [(0x17F80 : Word), 0x18000] (fun w => ∃ e, homeOf (mid k) (requester (mid k) ⟨50, .n⟩) w.toNat .write = .error e) 0x18000) :=
  ⟨⟨ready_of_check rfl, by decide +kernel, by unfold Spec.MayUse; decide, by unfold Spec.MayUse; decide⟩, ready_of_check rfl,
    ready_of_check rfl, ready_of_check rfl, ready_of_check rfl, ready_of_check rfl, ready_of_check rfl, ⟨rfl, rfl, rfl⟩,
    ⟨ready_of_check rfl, by decide +kernel⟩, ready_of_check rfl, ready_of_check rfl, by decide, .inl ⟨rfl, rfl⟩, ⟨rfl, rfl⟩, ready_of_check rfl, by decide,
    by rfl, .tail _ (.head _), ⟨0x03, by rfl⟩, fun w h x => by
      simp at h
      rcases h with rfl | rfl
      · obtain ⟨c, x⟩ := x
        exact nomatch inside.symm.trans x
      · decide⟩
/-- x6 holds the first address of the hamper and x7 the first one of the scratchpad behind its code region. -/
def hampered : Context := { base with fir := (base.fir.writeX 6 0x100000).writeX 7 0x4000 }
theorem witness_AccumulatorIsUsed :
    (let s : State := mid { base with rb := [{ base.entry 0x4000 .slots .whole with state := .returned }] }
     AtMarker s (.nop ⟨true⟩) 0 ∧ ∃ e, (s.ctx s.slot).rb = [e] ∧ e.state = .returned ∧ e.dest = .slots) ∧
    (Ready (mid base) (.gstat ⟨false, 5⟩) [] [5] 0 ∧ Spec.MayUse (mid base) true ∧ Spec.MayUse (mid base) false) ∧
    Ready (mid base) (.accRd ⟨false, 5, 63⟩) [] [] 1 ∧ Ready (mid base) (.accWr ⟨false, 5, 63⟩) [5] [] 0 ∧
    Ready (mid base) (.accZero ⟨false⟩) [] [] 0 ∧ Ready (mid base) (.accTag ⟨false, 5, 6⟩) [6] [5] 0 ∧
    (Ready (mid hampered) (.accSpill ⟨false, 7⟩) [7] [] 0 ∧ (hampered.counted.srcX 7).toNat % 128 = 0 ∧
      homeOf (mid hampered) (requester (mid hampered) ⟨50, .n⟩) 0x4000 .write = .ok (scratchPa 50 0x4000) ∧
      homeOf (mid hampered) (requester (mid hampered) ⟨50, .n⟩) (0x4000 + 128 * 63) .write = .ok (scratchPa 50 (0x4000 + 128 * 63))) ∧
    Ready (mid hampered) (.accFill ⟨false, 7⟩) [7] [] 1 ∧
    (Ready (mid hampered) (.hLd ⟨false, 26, 6⟩) [6] [] 2 ∧ (hampered.counted.srcX 6).toNat % 256 = 0 ∧
      0x100000 ≤ (hampered.counted.srcX 6).toNat ∧ (hampered.counted.srcX 6).toNat < 0x200000) ∧
    (Ready (mid hampered) (.hSt ⟨false, 26, 6⟩) [6] [] 0 ∧
      homeOf (mid hampered) (requester (mid hampered) ⟨50, .n⟩) 0x100000 .write ≠ .error 0 ∧
      ∃ a, homeOf (mid hampered) (requester (mid hampered) ⟨50, .n⟩) 0x100000 .write = .ok a) ∧
    (Ready (mid hampered) (.hFill ⟨false, 5, 8, 7⟩) [8, 7] [] 1 ∧ (hampered.counted.srcX 8).toNat < 256 ∧
      (hampered.counted.srcX 7).toNat % 128 = 0 ∧ (hampered.counted.srcX 7).toNat + 4096 ≤ 0x18000) :=
  ⟨⟨⟨free_of_check rfl, .inl rfl⟩, _, rfl, rfl, rfl⟩, ⟨ready_of_check rfl, .inl ⟨rfl, rfl⟩, .inr (.inl rfl)⟩, ready_of_check rfl, ready_of_check rfl, ready_of_check rfl, ready_of_check rfl,
    ⟨ready_of_check rfl, by decide, rfl, rfl⟩, ready_of_check rfl, ⟨ready_of_check rfl, by decide, by decide, by decide⟩,
    ⟨ready_of_check rfl, nofun, _, rfl⟩, ready_of_check rfl, by decide, by decide, by decide⟩
/-- x6 names an address in the last line of the scratchpad. -/
def parker : Context := { base with fir := base.fir.writeX 6 0x17FF8 }
theorem witness_ParkWaitsAndXinvIsOutstanding :
    Ready (on base) (.park ⟨false, 5, 0⟩) [0] [5] 0 ∧
    (Ready (on parker) (.park ⟨false, 5, 6⟩) [6] [5] 0 ∧ (parker.counted.srcX 6).toNat < 0x18000) ∧
    (Ready (on base) (.xinv ⟨false, 5, 6, 2, .package⟩) [6] [] 1 ∧ ((on base).fir ⟨0, .n⟩).sup = true) :=
  ⟨ready_of_check rfl, ⟨ready_of_check rfl, by decide⟩, ready_of_check rfl, rfl⟩
/-- The management core of die 0 with `k` as its context N, which runs the hypervisor. -/
def managing (k : Context) : State :=
  { State.reset with
    cores := [(4608, { Core.reset with n := k })], slot := ⟨4608, .n⟩
    pkg := { State.reset.pkg with mgmt := State.reset.pkg.mgmt.set 0 { Mgmt.reset with hstatus := 1 } } }
/-- In user mode retired, in supervisor mode tbinfo outside a handler, on a management core hstatus and hevent. -/
theorem witness_GetcReads :
    (Ready (on user) (.getc ⟨false, 5, 0x1A⟩) [] [5] 0 ∧ 0x1A ∈ Spec.userReads ∧ Spec.register (on user) user.counted 0x1A = some 0) ∧
    (Ready (on base) (.getc ⟨false, 5, 0x25⟩) [] [5] 0 ∧ 0x25 ∈ Spec.supReads ∧ Spec.register (on base) base.counted 0x25 = some 0) ∧
    (Ready (managing base) (.getc ⟨false, 5, 0x80⟩) [] [5] 0 ∧ Ready (managing base) (.getc ⟨false, 5, 0x85⟩) [] [5] 0 ∧
      Spec.hyper (managing base) 0x80 = some 0 ∧ Spec.hyper (managing base) 0x85 = some 0 ∧
      Spec.hyperRead ((managing base).pkg.mgmt[0]) 0x80 = 1) :=
  ⟨⟨ready_of_check rfl, by decide, rfl⟩, ⟨ready_of_check rfl, by decide, rfl⟩, ready_of_check rfl, ready_of_check rfl, by decide, by decide, rfl⟩
theorem witness_SetcWrites :
    (Ready (on user) (.setc ⟨false, 6, 0x11⟩) [6] [] 0 ∧ 0x11 ∈ Spec.userWrites ∧ (Spec.written (user.counted.pop 6) 0x11 0).isSome = true) ∧
    (Ready (on base) (.setc ⟨false, 6, 0x04⟩) [6] [] 0 ∧ 0x04 ∈ Spec.supWrites ∧ (Spec.written (base.counted.pop 6) 0x04 0).isSome = true) ∧
    Ready (on base) (.setc ⟨false, 6, 0x0F⟩) [6] [] 0 ∧ Ready (on base) (.setc ⟨false, 6, 0x10⟩) [6] [] 0 ∧
    Ready (on base) (.setc ⟨false, 6, 0x1C⟩) [6] [] 0 ∧ ((on base).fir ⟨0, .n⟩).sup = true ∧
    (Ready (managing base) (.setc ⟨false, 6, 0x84⟩) [6] [] 0 ∧ Ready (managing base) (.setc ⟨false, 6, 0x85⟩) [6] [] 0 ∧
      Spec.hyper (managing base) 0x84 = some 0 ∧ Spec.hyper (managing base) 0x85 = some 0) :=
  ⟨⟨ready_of_check rfl, by decide, rfl⟩, ⟨ready_of_check rfl, by decide, rfl⟩, ready_of_check rfl, ready_of_check rfl, ready_of_check rfl, rfl,
    ready_of_check rfl, ready_of_check rfl, by decide, by decide⟩
/-- In a handler with a load of x3 set aside; x6 holds 3. -/
def setAside : Entry := base.entry 0 (.x 3) .whole
def handling : Context := { base with fir := { base.fir.writeX 6 3 with intrap := true, aside := [setAside] } }
theorem witness_SetAsideEntriesAreReached :
    ((on handling).fir ⟨0, .n⟩).sup = true ∧ Spec.selected handling.counted = some setAside ∧ setAside.isX = true ∧
    Ready (on handling) (.getc ⟨false, 5, 0x23⟩) [] [5] 0 ∧ Ready (on handling) (.setc ⟨false, 6, 0x23⟩) [6] [] 0 ∧
    (Ready (on handling) (.setc ⟨false, 0, 0x25⟩) [0] [] 0 ∧ (handling.counted.srcX 0).toNat % 8 = 0) ∧
    (Ready (on handling) (.setc ⟨false, 6, 0x25⟩) [6] [] 0 ∧ (handling.counted.srcX 6).toNat % 8 = 3) :=
  ⟨rfl, rfl, rfl, ready_of_check rfl, ready_of_check rfl, ⟨ready_of_check rfl, by decide⟩, ready_of_check rfl, by decide⟩
/-- Accesses of context N of core 0 to its own scratchpad and hamper, and a return-buffer entry that waits. -/
def who0 : Requester := requester (on base) ⟨0, .n⟩
def acc0 (va : Word) (k : AccKind) : Access := base.access who0 va k none
def home0 (va : Word) (k : AccKind) : Access := { acc0 va k with pa := some (scratchPa 0 va.toNat) }
def accessing (l : List Access) : State := on { base with acc := l, rb := [base.entry 0 (.x 3) .whole] }
def numbered : State → State := fun s => { s with fresh := s.fresh + 1 }
/-- With line 288 (0x9000) empty, with its first doubleword poisoned, and with eight records of failed stores. -/
def emptied0 (l : List Access) : State := { accessing l with cores := [(0, { Core.reset with n := (accessing l).ctx ⟨0, .n⟩, empty := [288] })] }
def poisoned0 (l : List Access) : State := { accessing l with poison := [scratchPa 0 0x9000] }
def crowded0 (l : List Access) : State :=
  on { base with acc := l, sfq := List.replicate 8 ⟨0, 0x40, 0x9001, 7, 2, 3, 0, false⟩ }
/-- A load that waits behind the atomic of context U, which may go. -/
def queued0 (a : Access) : State :=
  { accessing [a] with cores := [(0, { Core.reset with
      n := (accessing [a]).ctx ⟨0, .n⟩
      u := { base with acc := [{ home0 0x9000 (.load 8) with num := 7 }] }
      waits := [⟨288, ⟨0, .u⟩, 7, 0, true, true⟩, ⟨288, ⟨0, .n⟩, a.num, 0, true, true⟩] })] }

/-- Nothing precedes the one access of a context. -/
theorem first_of {s : State} {i : CtxId} {a : Access} (h : (s.ctx i).acc = [a]) (r : a.rel = none) (f : a.kind ≠ .fence) : Spec.First s i a [] :=
  ⟨h, fun _ e => (by rw [r] at e; exact nomatch e), fun b m => by rw [List.mem_singleton.mp m]; exact f⟩
theorem goes_of {s : State} {i : CtxId} {a : Access} (h : (s.ctx i).acc = [a]) (r : a.rel = none) (f : a.kind ≠ .fence) (k : a.refused = none)
    (q : (s.ctx i).inj = []) : Spec.Goes s i a [] := ⟨first_of h r f, k, q⟩
theorem lets_own {s : State} {i : CtxId} {pa n l : Nat} {load : Bool} (t : firstTouch s i pa = none) (h : lineOf pa = some (n, l))
    (e : (if load then lineEmpty s n l else lineFilling s n l) = false) (w : (s.coreAt n).waits = []) : Spec.Lets s i pa load := by
  refine ⟨t, ?_⟩
  rw [h]
  exact ⟨e, w⟩

def i0 : CtxId := ⟨0, .n⟩
def own (va : Nat) : Nat := scratchPa 0 va
/-- Loads: of the last doubleword of the scratchpad, of poison, of vector blocks, of an empty line, behind another one, of a hole, refused. -/
theorem witness_AccessesArePerformed_loads :
    (who0.core = 0 ∧ (acc0 0x17FF8 (.load 8)).va.toNat < 0x18000 ∧ 0x100000 ≤ (acc0 0x1FFFF8 (.load 8)).va.toNat ∧
      (acc0 0x1FFFF8 (.load 8)).va.toNat < 0x200000) ∧
    (let a := acc0 0x17FF8 (.load 8)
     a.pa = none ∧ Spec.Goes (accessing [a]) i0 a [] ∧ resolve (numbered (accessing [a])) a.who a.va.toNat .read = (.ok (own 0x17FF8), numbered (accessing [a])) ∧
      Spec.Lets (numbered (accessing [a])) i0 (own 0x17FF8) true ∧ poisonedIn (numbered (accessing [a])) (own 0x17FF8) 8 = none) ∧
    (let a := acc0 0x9000 (.load 8)
     Spec.Goes (poisoned0 [a]) i0 a [] ∧ resolve (numbered (poisoned0 [a])) a.who a.va.toNat .read = (.ok (own 0x9000), numbered (poisoned0 [a])) ∧
      Spec.Lets (numbered (poisoned0 [a])) i0 (own 0x9000) true ∧ poisonedIn (numbered (poisoned0 [a])) (own 0x9000) 8 = some (own 0x9000)) ∧
    (let a := acc0 0x9000 (.vload 0xFFFFFFFF false)
     Spec.Goes (accessing [a]) i0 a [] ∧ resolve (numbered (accessing [a])) a.who a.va.toNat .read = (.ok (own 0x9000), numbered (accessing [a])) ∧
      Spec.Lets (numbered (accessing [a])) i0 (own 0x9000) true ∧ isPlain (own 0x9000) = true ∧ own 0x9000 % 128 = 0 ∧
      (accessing [a]).poison = []) ∧
    (let a := acc0 0x9004 (.vload 1 true)
     Spec.Goes (accessing [a]) i0 a [] ∧ resolve (numbered (accessing [a])) a.who a.va.toNat .read = (.ok (own 0x9004), numbered (accessing [a])) ∧
      Spec.Lets (numbered (accessing [a])) i0 (own 0x9004) true ∧ isPlain (own 0x9004) = true ∧ own 0x9004 % 4 = 0) ∧
    (let a := acc0 0x9000 (.load 8)
     Spec.Goes (emptied0 [a]) i0 a [] ∧ resolve (numbered (emptied0 [a])) a.who a.va.toNat .read = (.ok (own 0x9000), numbered (emptied0 [a])) ∧
      lineOf (own 0x9000) = some (0, 288) ∧ firstTouch (numbered (emptied0 [a])) i0 (own 0x9000) = none ∧
      lineEmpty (numbered (emptied0 [a])) 0 288 = true ∧ ((numbered (emptied0 [a])).coreAt 0).waits = []) ∧
    (let a := home0 0x9000 (.load 8)
     a.pa = some (own 0x9000) ∧ Spec.Goes (queued0 a) i0 a [] ∧ firstTouch (queued0 a) i0 (own 0x9000) = none ∧
      lineEmpty (queued0 a) 0 288 = false ∧ firstAt (queued0 a) 0 288 i0 a = false) ∧
    (let a := acc0 0x18000 (.load 8)
     Spec.Goes (accessing [a]) i0 a [] ∧
      resolve (numbered (accessing [a])) a.who a.va.toNat .read = (.error 0x03, numbered (accessing [a]))) ∧
    (let a := { acc0 0x9000 (.load 8) with refused := some 0 }
     let s := { accessing [a] with cycle := 64 }
     0 + 64 ≤ s.now ∧ (s.ctx i0).acc = [a]) := by
  refine ⟨⟨rfl, by decide, by decide, by decide⟩, ⟨rfl, goes_of rfl rfl nofun rfl rfl, rfl, lets_own rfl (by rfl) rfl rfl, rfl⟩,
    ⟨goes_of rfl rfl nofun rfl rfl, rfl, lets_own rfl (by rfl) rfl rfl, by decide +kernel⟩,
    ⟨goes_of rfl rfl nofun rfl rfl, rfl, lets_own rfl (by rfl) rfl rfl, by decide +kernel, by decide +kernel, rfl⟩,
    ⟨goes_of rfl rfl nofun rfl rfl, rfl, lets_own rfl (by rfl) rfl rfl, by decide +kernel, by decide +kernel⟩,
    ⟨goes_of rfl rfl nofun rfl rfl, rfl, by decide +kernel, rfl, by decide +kernel, rfl⟩,
    ⟨rfl, goes_of rfl rfl nofun rfl rfl, rfl, rfl, by decide +kernel⟩, ⟨goes_of rfl rfl nofun rfl rfl, rfl⟩, ⟨by decide, rfl⟩⟩

/-- An atomic on the last doubleword, stores that pass and fail their checks, stores at their home, and an entry with nothing outstanding. -/
theorem witness_AccessesArePerformed_stores :
    (let a := acc0 0x17FF8 (.atomic 0 true 1 0)
     Spec.Goes (accessing [a]) i0 a [] ∧ resolve (numbered (accessing [a])) a.who a.va.toNat .both = (.ok (own 0x17FF8), numbered (accessing [a])) ∧
      lineOf (own 0x17FF8) = some (0, 767) ∧ Spec.Lets (numbered (accessing [a])) i0 (own 0x17FF8) true ∧
      poisonedIn (numbered (accessing [a])) (own 0x17FF8) 8 = none) ∧
    (let a := acc0 0x17FF8 (.store 5 7)
     a.pa = none ∧ ((accessing [a]).ctx i0).acc = [a] ∧
      resolve (numbered (accessing [a])) a.who a.va.toNat .write = (.ok (own 0x17FF8), numbered (accessing [a])) ∧ lineOf (own 0x17FF8) ≠ none) ∧
    (let a := acc0 0x18000 (.store 3 7)
     resolve (numbered (accessing [a])) a.who a.va.toNat .write = (.error 0x03, numbered (accessing [a])) ∧
      ((accessing [a]).ctx i0).sfq.length < 8 ∧ ∃ f ∈ firingsOf ((accessing [a]).ctx i0), f.tag = a.who.tag) ∧
    (let a := acc0 0x100000 (.store 5 7)
     resolve (numbered (crowded0 [a])) a.who a.va.toNat .write = (.ok (hamperPa 0 0), numbered (crowded0 [a])) ∧ lineOf (hamperPa 0 0) = none ∧
      8 ≤ ((crowded0 [a]).ctx i0).sfq.length ∧ ∃ f ∈ firingsOf ((crowded0 [a]).ctx i0), f.tag = a.who.tag) ∧
    (let a := home0 0x17FF8 (.store 5 7)
     a.pa = some (own 0x17FF8) ∧ Spec.Goes (accessing [a]) i0 a [] ∧ Spec.Lets (accessing [a]) i0 (own 0x17FF8) false ∧
      isPlain (own 0x17FF8) = true ∧ (accessing [a]).memWf) ∧
    (let a := home0 0x17F80 (.block 128 0xFFFFFFFF 9 false)
     a.pa = some (own 0x17F80) ∧ Spec.Goes (accessing [a]) i0 a [] ∧ Spec.Lets (accessing [a]) i0 (own 0x17F80) false ∧
      isPlain (own 0x17F80) = true ∧ own 0x17F80 % 128 = 0 ∧ (accessing [a]).memWf) ∧
    (∃ e, (((accessing []).ctx i0).rb ++ ((accessing []).ctx i0).fir.aside)[0]? = some e ∧ e.state = .pending ∧
      (∀ b ∈ ((accessing []).ctx i0).acc, b.feeds e.num = false) ∧ ((accessing []).partAt ((accessing []).coreAt 0).partition).replayReqs = []) := by
  refine ⟨⟨goes_of rfl rfl nofun rfl rfl, rfl, by rfl, lets_own rfl (by rfl) rfl rfl, rfl⟩, ⟨rfl, rfl, rfl, by decide +kernel⟩,
    ⟨rfl, by decide, _, .head _, rfl⟩, ⟨rfl, by decide +kernel, by decide, _, .head _, rfl⟩,
    ⟨rfl, goes_of rfl rfl nofun rfl rfl, lets_own rfl (by rfl) rfl rfl, by decide +kernel, rfl⟩,
    ⟨rfl, goes_of rfl rfl nofun rfl rfl, lets_own rfl (by rfl) rfl rfl, by decide +kernel, by decide +kernel, rfl⟩, _, rfl, rfl, ?_, rfl⟩
  intro b h; exact absurd h (by simp [accessing, State.ctx, State.coreAt, on, getN, Core.ctx, i0])
/-- Words of zeros are `nop`s, so each context of core 0 that runs can issue. -/
def both : State := { on base with cores := [(0, { Core.reset with n := base, u := base })] }
def failed : Context := { base with sfq := [⟨0, 0x40, 0x9001, 7, 2, 3, 0, false⟩], skid := some 11 }
/-- Parked since cycle 0, and with a message's event. -/
def asleep : Context := { base with parked := some ⟨0, none, 5, 0⟩ }
def awoken : Context := { asleep with fir := { asleep.fir with evMsg := true } }
def arriving : Context := { base with ports := base.ports.set 2 ⟨[], [⟨false, 7⟩]⟩ }
/-- A message of class 3 for context N, at the head of the run queue of a context with no firing, and core 0 with class 3 bound to a message
entry and class 4 to an actor entry with no channels. -/
def mail : Msg := ⟨header 9 0 0 0 0 16 0 0 .n 3, 7⟩
def idle : Context := { Context.reset with runq := [.msg mail] }
def bound (k : Context) : State :=
  { on k with cores := [(0, { Core.reset with n := k, handlers := (Core.reset.handlers.set 3 1).set 4 5, rqbase := 0x8000, rqlim := 0x8060 })] }
def leftover : Context := { Context.reset with fir := { Firing.reset with range := some ⟨4, 8, 0, 0, 0, 0, 0, 0⟩ } }
/-- U waits in a `park`, or for the checks of its stores, and N can issue. -/
def oneParked : State := { on base with cores := [(0, { Core.reset with n := base, u := asleep })] }
def checking : Context := { base with issued := 11, acc := [acc0 0x9000 (.store 3 7)] }
def oneChecks : State := { on base with cores := [(0, { Core.reset with n := base, u := checking })] }
/-- The message of class 3 is not bound; a yielded firing goes on. -/
def unbound : State := on idle
def yielded : Context := { Context.reset with runq := [.cont], yieldSlot := some base.fir }
theorem witness_ContextEventsHappen :
    (coreStopped both 0 = false ∧ (both.dieAt 0).gates = [] ∧ (both.ctx ⟨0, .u⟩).trapping = none ∧ (both.ctx ⟨0, .n⟩).trapping = none ∧
      (∃ g, nextGate both ⟨0, .u⟩ = .go g) ∧ (∃ g, nextGate (Spec.parkedFor both ⟨0, .u⟩ 0 none) ⟨0, .n⟩ = .go g)) ∧
    (nextGate oneChecks ⟨0, .u⟩ = .park 3 none oneChecks ∧ ((Spec.parkedFor oneChecks ⟨0, .u⟩ 3 none).ctx ⟨0, .n⟩).trapping = none ∧
      ∃ h, nextGate (Spec.parkedFor oneChecks ⟨0, .u⟩ 3 none) ⟨0, .n⟩ = .go h) ∧
    (nextGate oneParked ⟨0, .u⟩ = .stay ∧ (oneParked.ctx ⟨0, .u⟩).readyAt ≤ oneParked.now ∧ ∃ h, nextGate oneParked ⟨0, .n⟩ = .go h) ∧
    (fetchNext (on failed) ⟨0, .n⟩ = .ins (.nop ⟨false⟩) ∧ Spec.AtBoundary (on failed) ⟨0, .n⟩ ∧ failed.skid = some 11 ∧ failed.sfq ≠ [] ∧
      failed.fir.intrap = false ∧ uncheckedStores failed = false) ∧
    (awoken.parked ≠ none ∧ coreStopped (on awoken) 0 = false ∧ awoken.halted = false ∧
      Spec.w64 (Spec.bit awoken.fir.evMsg + Spec.bit awoken.fir.evFlit * 2 + Spec.bit awoken.evLine * 4) ≠ 0) ∧
    (asleep.parked ≠ none ∧ Spec.w64 (Spec.bit asleep.fir.evMsg + Spec.bit asleep.fir.evFlit * 2 + Spec.bit asleep.evLine * 4) = 0 ∧
      0 + 65536 ≤ State.now { on asleep with cycle := 65536 }) ∧
    (∃ q f rest, portAt arriving .south = ⟨q, f :: rest⟩) ∧
    (Spec.Idle (bound idle) ⟨0, .n⟩ ∧ idle.hold = none ∧ boundMsg ((bound idle).coreAt 0) mail.hdr = true) ∧
    (Spec.Idle unbound ⟨0, .n⟩ ∧ (unbound.ctx ⟨0, .n⟩).runq = [.msg mail] ∧ boundMsg (unbound.coreAt 0) mail.hdr = false ∧
      isGroupStart mail.hdr = false) ∧
    (Spec.Idle (on yielded) ⟨0, .n⟩ ∧ yielded.runq = [.cont] ∧ yielded.yieldSlot = some base.fir) ∧
    (leftover.running = false ∧ leftover.fir.range ≠ none ∧ dequeFull ((bound leftover).coreAt 0) = false) ∧
    (let h := handlerOf ((bound idle).coreAt 0) 4
     hValid h = true ∧ hKind h = 1 ∧ hCtx h = .n ∧ actorBusy (bound idle) 0 4 = false ∧ actorShort (bound idle) 0 4 = [] ∧
       hChans h = [] ∧ coreStopped (bound idle) 0 = false ∧ idle.runq.length < runqCap .n) :=
  ⟨⟨rfl, rfl, rfl, rfl, ⟨_, rfl⟩, _, rfl⟩, ⟨by rfl, rfl, _, rfl⟩, ⟨by rfl, by decide, _, rfl⟩, ⟨rfl, ⟨rfl, rfl, rfl, rfl, rfl, by decide, rfl, rfl⟩, rfl, nofun, rfl, rfl⟩,
    ⟨nofun, rfl, rfl, by decide⟩, ⟨nofun, by decide, by decide⟩, ⟨_, _, _, rfl⟩, ⟨⟨rfl, rfl, rfl, rfl⟩, rfl, by decide +kernel⟩,
    ⟨⟨rfl, rfl, rfl, rfl⟩, rfl, by decide +kernel, by decide +kernel⟩, ⟨⟨rfl, rfl, rfl, rfl⟩, rfl, rfl⟩,
    ⟨rfl, nofun, by decide⟩, by decide +kernel, by decide +kernel, by decide +kernel, by decide +kernel, by decide +kernel,
    by decide +kernel, rfl, by decide⟩
/-- A host access to context N of core 0, and a service hart that a full copy-fault queue stalled. -/
def hostPcra (k : Context) (v : Word) : State := { on k with parts := [(0, { Partition.reset with pcra := v })] }
def stallsOn : State := { State.reset with clusters := [(3, { Cluster.reset with stalled := some (0, 7) })] }
theorem witness_RegisterEventsWrite :
    (Spec.selected handling = some setAside ∧ setAside.isX = true ∧ (0 : Word).toNat % 8 = 0 ∧ (3 : Word).toNat % 8 = 3) ∧
    (stalledOn State.reset 0 = none ∧ stalledOn stallsOn 0 = some (3, 7)) ∧
    (State.reset.partAt 0).faultEvents.length ≤ 64 ∧ (State.reset.partAt 0).chanEvents.length ≤ 64 ∧
    (State.reset.partAt 0).pcra.getLsbD 61 = false ∧
    (let s := hostPcra Context.reset 0x2000000000000000
     (s.partAt 0).pcra.getLsbD 61 = true ∧ coreIn s 0 0 = true ∧ (s.ctx ⟨0, .n⟩).running = false ∧ (s.ctx ⟨0, .n⟩).halted = false ∧
      (s.partAt 0).pcra.toNat / 2 ^ 14 % 2 ^ 8 ∈ Spec.supReads ∧ (s.partAt 0).pcra.getLsbD 22 = false) ∧
    (let s := hostPcra Context.reset 0x2000000000400000
     (s.partAt 0).pcra.getLsbD 61 = true ∧ (s.partAt 0).pcra.toNat / 2 ^ 14 % 2 ^ 8 ∈ Spec.supWrites ∧ (s.partAt 0).pcra.getLsbD 22 = true) ∧
    (let s := hostPcra base 0x2000000000000000
     (s.partAt 0).pcra.getLsbD 61 = true ∧ ¬ (s.ctx ⟨0, .n⟩).running = false ∧ (s.partAt 0).pcra.toNat / 2 ^ 14 % 2 ^ 8 < 0x80) ∧
    ((0 : Word).toNat % 2 ^ State.reset.pkg.bar2log = 0 ∧ (0 : Word).toNat + 2 ^ State.reset.pkg.bar2log ≤ 0x8000000000 ∧
      ¬ (1 : Word).toNat % 2 ^ State.reset.pkg.bar2log = 0) ∧
    (let s := { State.reset with pkg := { State.reset.pkg with msixPba := 0x8000000000000000 } }
     s.pkg.msixPba.getLsbD 63 = true) ∧ 4607 < 4608 :=
  ⟨⟨rfl, rfl, by decide, by decide⟩, ⟨by decide +kernel, by decide +kernel⟩, by decide, by decide, by decide,
    ⟨by decide, by decide +kernel, rfl, rfl, by decide, by decide⟩, ⟨by decide, by decide, by decide⟩, ⟨by decide, nofun, by decide⟩,
    ⟨by decide, by decide, by decide⟩, by decide, by decide⟩
/-- Core 0 with class 3 bound to a message entry and `k` as its context N. A message on its way from context N of core 0 to core 0, and one of
an engine, both fresh and refused 64 cycles ago. -/
def outgoing (fails : Nat) (refused : Option Nat) : Inj := ⟨0, 0, [0], mail, none, 0, fails, refused, .package⟩
def relaying (fails : Nat) (refused : Option Nat) : Context := { base with inj := [outgoing fails refused] }
def brimming (k : Context) : Context := { k with runq := List.replicate 32 .cont, hold := some letter }
def posting (refused : Option Nat) : State :=
  { bound idle with pkg := { State.reset.pkg with engine := [⟨.sched 0, 0, mail, refused⟩] }, cycle := 64 }
theorem witness_MessagesTravel :
    (Spec.Deliverable (bound (relaying 0 none)) ⟨0, .n⟩ (outgoing 0 none) [] 0 ∧ (acceptMsg (bound (relaying 0 none)) 0 mail).1 = .taken) ∧
    (Spec.Deliverable { bound (brimming (relaying 0 (some 0))) with cycle := 64 } ⟨0, .n⟩ (outgoing 0 (some 0)) [] 0 ∧
      0 + 64 ≤ State.now { bound (brimming (relaying 0 (some 0))) with cycle := 64 } ∧
      (acceptMsg { bound (brimming (relaying 0 (some 0))) with cycle := 64 } 0 mail).1 = .refused) ∧
    ((posting none).pkg.engine ≠ [] ∧ (acceptMsg (posting none) 0 mail).1 = .taken ∧ resetRefusing (posting none) (clusterOf 0) = false) ∧
    ((posting (some 0)).pkg.engine ≠ [] ∧ 0 + 64 ≤ (posting (some 0)).now) ∧
    (injReady (bound (relaying 6 none)) ⟨0, .n⟩ 0 (outgoing 6 none) = true ∧ (outgoing 6 none).fails < 7 ∧
      injReady (bound (relaying 7 none)) ⟨0, .n⟩ 0 (outgoing 7 none) = true ∧ 7 ≤ (outgoing 7 none).fails ∧ (outgoing 7 none).targets = [0] ∧
      (outgoing 7 none).gid = none) ∧
    (Spec.Takes (bound idle) 0 mail ∧ idle.runq.length < runqCap .n) ∧
    (Spec.Takes (bound { brimming idle with hold := none }) 0 mail ∧ ¬ (brimming idle).runq.length < runqCap .n) ∧
    (Spec.Takes (bound (brimming idle)) 0 mail ∧ (brimming idle).hold ≠ none) :=
  ⟨⟨⟨rfl, by decide, rfl, by decide +kernel⟩, by decide +kernel⟩,
    ⟨⟨rfl, by decide, rfl, by decide +kernel⟩, by decide, by decide +kernel⟩, ⟨nofun, by decide +kernel, rfl⟩, ⟨nofun, by decide⟩,
    ⟨by decide +kernel, by decide, by decide +kernel, by decide, rfl, rfl⟩, ⟨⟨rfl, rfl, by decide +kernel⟩, by decide⟩,
    ⟨⟨rfl, rfl, by decide +kernel⟩, by decide⟩, ⟨rfl, rfl, by decide +kernel⟩, nofun⟩

/-- Core 0 with its class-2 entry bound to ranges, no firing, and `st` as its stealing state; core 1 the same, and with a range of two items or
of one in its deque, or in its running firing. -/
def thief (st : Steal) : Core :=
  { Core.reset with handlers := Core.reset.handlers.set 2 9, rqbase := 0x8000, rqlim := 0x8060, steal := st }
def stealing (st : Steal) (cycle : Word) : State := { State.reset with cores := [(0, thief st), (1, thief Steal.reset)], cycle := cycle }
def robbed (r : Range) : State := dequePush (stealing { Steal.reset with waiting := some 1 } 0) 1 r
def ranging : State :=
  { State.reset with cores := [(0, thief { Steal.reset with waiting := some 1 }),
      (1, { thief Steal.reset with u := { base with fir := { base.fir with range := some ⟨0, 2, 0, 0, 0, 0, 0, 2⟩ } } })] }
/-- A partition of clusters 0 and 1 that runs, with groups placed on cluster 1, of which the start of the first one waits at core 4. -/
def start : Msg := ⟨header 0 7 5 0 0 16 0 0 .n 3, 0⟩
def group (gid size : Nat) : Group := ⟨gid, 0, 7, 0, 1, size, 0, 0, false, 0⟩
def launch7 : Launch := ⟨0, false, 0, 1, 1, 0, 0, [], none, .host 0⟩
def donating (gs : List Group) (cl : Cluster) : State :=
  { State.reset with
    cores := [(4, { Core.reset with n := { Context.reset with runq := [.msg start] } })], clusters := [(0, cl)]
    dies := [(0, { Die.reset with groups := gs })], parts := [(0, { Partition.reset with launches := [(7, launch7)] })]
    pkg := { State.reset.pkg with parts := State.reset.pkg.parts.set 0 0x4000002 } }
theorem candidate_one (gs : List Group) (cl : Cluster) (h : ∀ g ∈ gs, g.cluster = 1) {v : Nat} (c : Spec.Candidate (donating gs cl) 0 v) : v = 1 := by
  obtain ⟨-, d, -, l⟩ := c
  apply Classical.byContradiction
  intro n
  have e : clusterLoad (donating gs cl) v = 0 := by
    rw [clusterLoad, d]
    refine List.length_eq_zero_iff.mpr (List.filter_eq_nil_iff.mpr fun g m => ?_)
    have m : g ∈ gs := m
    simp [h g m, Ne.symm n]
  omega
theorem witness_WorkIsSharedOut :
    (let s := stealing { Steal.reset with idleSince := some 0 } 32
     hValid (handlerOf (s.coreAt 0) 2) = true ∧ coreIdle (s.coreAt 0) = true ∧ 0 + 32 ≤ s.now ∧ (s.coreAt 0).steal.tried < 15) ∧
    (let s := stealing { Steal.reset with waiting := some 1 } 0
     (s.coreAt 0).steal.waiting = some 1 ∧ dequeEmpty (s.coreAt 1) = true ∧ ∀ y, ((s.coreAt 1).ctx y).running = false) ∧
    (let s := robbed ⟨0, 2, 0, 0, 0, 0, 0, 2⟩
     (s.coreAt 0).steal.waiting = some 1 ∧ hValid (handlerOf (s.coreAt 1) 2) = true ∧ dequeEmpty (s.coreAt 1) = false ∧
       hKind (handlerOf (s.coreAt 1) (dequeRead s 1 (s.coreAt 1).rqtop).cls.toNat) = 2 ∧
       (dequeRead s 1 (s.coreAt 1).rqtop).lo.toNat + 2 ≤ (dequeRead s 1 (s.coreAt 1).rqtop).hi.toNat) ∧
    (let s := robbed ⟨0, 1, 0, 0, 0, 0, 0, 2⟩
     dequeEmpty (s.coreAt 1) = false ∧ (dequeRead s 1 (s.coreAt 1).rqtop).cls = 2 ∧
       (dequeRead s 1 (s.coreAt 1).rqtop).hi.toNat < (dequeRead s 1 (s.coreAt 1).rqtop).lo.toNat + 2) ∧
    ((ranging.coreAt 0).steal.waiting = some 1 ∧ hValid (handlerOf (ranging.coreAt 1) 2) = true ∧ dequeEmpty (ranging.coreAt 1) = true ∧
      ((ranging.coreAt 1).ctx .u).running = true ∧ ((ranging.coreAt 1).ctx .u).fir.range = some ⟨0, 2, 0, 0, 0, 0, 0, 2⟩) ∧
    (let s := stealing { Steal.reset with reply := some (some ⟨0, 2, 0, 0, 0, 0, 0, 2⟩) } 0
     (s.coreAt 0).steal.reply ≠ none ∧ dequeFull (s.coreAt 0) = false) ∧
    (let s := stealing { Steal.reset with reply := some none, idleSince := some 0, tried := 14 } 0
     (s.coreAt 0).steal.reply = some none) ∧
    (let s := stealing { Steal.reset with roundEnd := some 0 } 1024
     (s.coreAt 0).steal.roundEnd = some 0 ∧ 0 + 1024 ≤ s.now) ∧
    (let s := donating [group 5 1, group 6 1] Cluster.reset
     (s.clusterAt 0).asking = none ∧ (s.clusterAt 0).askAt ≤ s.now ∧ (s.clusterAt 0).resetAt = none ∧ partRunning s (clusterPart s 0) = true ∧
       clusterIn s (clusterPart s 0) 0 = true ∧ (∀ m ∈ clusterCores 0, coreIdle (s.coreAt m) = true) ∧ Spec.Candidate s 0 1 ∧
       ∀ v, Spec.Candidate s 0 v → clusterLoad s v < clusterLoad s 1 ∨ (clusterLoad s v = clusterLoad s 1 ∧ 1 ≤ v)) ∧
    (∀ v, ¬ Spec.Candidate (donating [group 5 1] Cluster.reset) 0 v) ∧
    (let s := donating [] { Cluster.reset with asking := some 1 }
     (s.clusterAt 0).asking = some 1 ∧ (s.dieAt (dieOfCluster 1)).groups = []) ∧
    (let s := donating [group 5 1] { Cluster.reset with asking := some 1 }
     (s.clusterAt 0).asking = some 1 ∧ (s.dieAt (dieOfCluster 1)).groups = [] ++ group 5 1 :: [] ∧ Spec.Ships s 1 0 (group 5 1) ∧
       (group 5 1).gid / 16384 = dieOfCluster 1) :=
  ⟨⟨by decide, by decide, by decide, by decide⟩, ⟨rfl, by decide, fun y => by cases y <;> rfl⟩,
    ⟨by decide +kernel, by decide +kernel, by decide +kernel, by decide +kernel, by decide +kernel⟩,
    ⟨by decide +kernel, by decide +kernel, by decide +kernel⟩, ⟨rfl, by decide +kernel, by decide +kernel, rfl, rfl⟩, ⟨nofun, by decide⟩, rfl,
    ⟨rfl, by decide⟩,
    ⟨rfl, by decide, rfl, by decide +kernel, by decide +kernel, by decide +kernel, ⟨by decide +kernel, by decide +kernel, by decide, by decide +kernel⟩,
      fun v h => .inr (by rw [candidate_one _ _ (by decide) h]; exact ⟨rfl, Nat.le_refl _⟩)⟩,
    fun v h => by
      have e := candidate_one _ _ (by decide) h
      subst e
      exact absurd h.2.2.2 (by decide +kernel),
    ⟨rfl, rfl⟩, rfl, rfl, ⟨rfl, rfl, rfl, by decide +kernel, launch7, rfl, by decide +kernel, by decide +kernel⟩, by decide⟩
/-- A range entry that maps 0x20_0000 and what follows it to core 0's scratchpad, with every right. -/
def homeRange : BitVec 256 :=
  BitVec.ofNat 256 (15 + 0x200000 * 2 ^ 64 + 0x400000 * 2 ^ 128 + (scratchPa 0 0 - 0x200000) * 2 ^ 192)
/-- Core 50 with one access outstanding, channel 0 and index 0, whose table is at 0x20_0000; that of
index 1 is at an address that does not translate, and index 2 is not valid. -/
def unit (kind : AccKind) : Access := opener.access (requester (mid opener) ⟨50, .n⟩) 0 kind none
def served (c : Chan) (kind : AccKind) : State :=
  { mid { opener with acc := [unit kind] } with
    parts := [(0, { Partition.reset with
      chans := [(0, c)], ranges := Partition.reset.ranges.set 0 homeRange
      indexes := [(0, BitVec.ofNat 512 (1 + 8 * 2 ^ 8 + 0x200000 * 2 ^ 64)), (1, BitVec.ofNat 512 (1 + 8 * 2 ^ 8 + 0x400000 * 2 ^ 64))] })] }
def rec0 : BitVec 512 := BitVec.ofNat 512 (3 * 2 ^ 64)
def held : ChurnEntry := ⟨0, 0, rec0, 3, false, 50⟩
/-- A shared ring whose head slot is held since cycle 0, with a time-out of 1,024 cycles. -/
def hung : Chan := let c := chan0 1 3 8 0; { c with cfg := c.cfg ||| BitVec.ofNat 512 (2 ^ 120) }
theorem goes_unit (c : Chan) (kind : AccKind) (h : kind ≠ .fence) : Spec.Goes (served c kind) ⟨50, .n⟩ (unit kind) [] :=
  goes_of rfl rfl h rfl rfl
/-- A ring of 16 records that is full, with two records spilled behind it, and a shared ring whose slot 0 is void. -/
def spilled (n : Nat) : Chan := { chan0 0 3 16 1 with sp := n, spill := [0x200000], wr := BitVec.ofNat 32 (16 + n) }
def voided : Chan := { chan0 1 3 16 0 with ring := [⟨0, 50, .n, true, false, true, false⟩] }
def credited (c : Chan) : Chan := { c with credits := [50] }
theorem witness_RecordsMoveThroughRings :
    (Spec.Goes (served (chan0 0 3 16 1) (.chan 0 (.write 5))) ⟨50, .n⟩ (unit (.chan 0 (.write 5))) [] ∧ (unit (.chan 0 (.write 5))).side = (0, 0) ∧
      cV (chan0 0 3 16 1) = true ∧ cRtype (chan0 0 3 16 1) = 0 ∧ (chan0 0 3 16 1).sp = 0 ∧ cDelivered (chan0 0 3 16 1) < cCap (chan0 0 3 16 1)) ∧
    (let c := spilled 0
     cV c = true ∧ cRtype c = 0 ∧ cCap c ≤ cDelivered c ∧ c.stopped = false ∧ c.spill[(c.spillHead + c.sp) / segRecords c]? = some 0x200000 ∧
       engineHome (served c (.chan 0 (.write 5))) 0 true 0x200000 .write = .ok (scratchPa 0 0)) ∧
    (let c := chan0 1 3 16 0
     Spec.Goes (served c (.chan 0 (.pub 0 5))) ⟨50, .n⟩ (unit (.chan 0 (.pub 0 5))) [] ∧ cV c = true ∧ cRtype c = 0 ∧
       (c.ring ++ c.voids).find? (fun r => r.seq == 0) = some ⟨0, 50, .n, false, false, false, false⟩) ∧
    (let c := voided
     cV c = true ∧ cRtype c = 0 ∧ (c.ring ++ c.voids).find? (fun r => r.seq == 0) = some ⟨0, 50, .n, true, false, true, false⟩ ∧
       ((served c (.chan 0 (.pub 0 5))).partAt 0).chanEvents.length < 64) ∧
    (let c := { spilled 2 with rd := 1 }
     c.stopped = false ∧ cInRing c < cCap c ∧ 2 ≤ c.sp ∧ c.spillHead + 1 ≠ segRecords c ∧
       engineHome (served c .fence) 0 true 0x200000 .read = .ok (scratchPa 0 0) ∧ poisonedIn (served c .fence) (scratchPa 0 0) (cBytes c) = none ∧
       poisonedIn { served c .fence with poison := [scratchPa 0 0] } (scratchPa 0 0) (cBytes c) ≠ none ∧
       ((served c .fence).partAt 0).chanEvents.length < 64) ∧
    (50 ∈ (credited (chan0 0 3 16 1)).credits ∧ Spec.Plain (credited (chan0 0 3 16 1))) ∧
    (Spec.Goes (served (chan0 1 3 16 0) (.chan 0 (.res 16))) ⟨50, .n⟩ (unit (.chan 0 (.res 16))) [] ∧
      ((chan0 1 3 16 0).res - (chan0 1 3 16 0).rd).toNat + 16 ≤ cCap (chan0 1 3 16 0)) ∧
    (hung.ring = ⟨0, 50, .n, false, false, false, false⟩ :: [] ∧ cClass hung = 1 ∧ cTmo hung ≠ 0 ∧ hung.headAt + cTmo hung * 1024 ≤ 1024) ∧
    ((0 : Word).toNat % 2 ^ 12 = 0 ∧ cV hung = true ∧ ∃ r ∈ hung.ring, r.seq = (0 : Word).toNat / 2 ^ 32 ∧ r.published = false ∧ r.void = false) :=
  ⟨⟨goes_unit _ _ nofun, rfl, by decide +kernel, by decide +kernel, rfl, by decide +kernel⟩,
    ⟨by decide +kernel, by decide +kernel, by decide +kernel, rfl, by decide +kernel, ok_of_check (by decide +kernel)⟩,
    ⟨goes_unit _ _ nofun, by decide +kernel, by decide +kernel, by decide +kernel⟩,
    ⟨by decide +kernel, by decide +kernel, by decide +kernel, by decide +kernel⟩,
    ⟨rfl, by decide +kernel, by decide, by decide +kernel, ok_of_check (by decide +kernel), by decide +kernel, by decide +kernel, by decide +kernel⟩,
    ⟨.head _, by unfold Spec.Plain; decide +kernel⟩, ⟨goes_unit _ _ nofun, by decide +kernel⟩,
    ⟨by decide +kernel, by decide +kernel, by decide +kernel, by decide +kernel⟩,
    by decide, by decide +kernel, _, .head _, by decide, rfl, rfl⟩
/-- A descriptor that is not valid yet: from core 0 to core 0 in lines 128 and following of its scratchpad. -/
def blank : Chan := { Chan.reset with cfg := BitVec.ofNat 512 (128 * 2 ^ 64 + 16 * 2 ^ 80 + 16 * 2 ^ 96) }
/-- Core 50's context waits for a record of channel 0 of monitor group 1, which has none, or for room in it, which has a pool to grow from. -/
def watched (k : Context) (c : Chan) : State :=
  { mid k with
    parts := [(0, { Partition.reset with
      chans := [(0, { c with cfg := c.cfg ||| BitVec.ofNat 512 (2 ^ 12) })], watch := [(1, ⟨some 0, none⟩)]
      pools := Partition.reset.pools.set 0 (BitVec.ofNat 256 (1 + 4 * 2 ^ 128 + 4 * 2 ^ 160)) })]
    cycle := 2048 }
def starved : State := watched { opener with reason := 1, acc := [unit (.chan 0 (.read false))] } (chan0 0 3 16 0)
def stuffed : State := watched { opener with reason := 4, chanWait := some 0 } (chan0 0 3 16 16)
theorem watched_room (k : Context) (c : Chan) (i : CtxId) :
    fullAt (watched k c) i 0 1 = fullAt (watched k c) ⟨50, .n⟩ 0 1 ∨ fullAt (watched k c) i 0 1 = [] := by
  obtain ⟨n, x⟩ := i
  by_cases h : n = 50
  · subst h
    cases x
    · exact .inl rfl
    · right; simp [fullAt, watched, mid, State.ctx, State.coreAt, getN, Core.ctx, Core.reset, Context.reset]
  · right
    have e : (watched k c).coreAt n = Core.reset := by simp [watched, mid, State.coreAt, getN, Ne.symm h]
    cases x <;> simp [fullAt, State.ctx, e, Core.ctx, Core.reset, Context.reset]
theorem starved_room (i : CtxId) : fullAt starved i 0 1 = [] := (watched_room _ _ i).elim (fun h => h.trans (by decide +kernel)) id
theorem stuffed_room (i : CtxId) : ∀ m ∈ fullAt stuffed i 0 1, m = 0 := by
  rcases watched_room { opener with reason := 4, chanWait := some 0 } (chan0 0 3 16 16) i with h | h
  · rw [stuffed, h]; decide +kernel
  · rw [stuffed, h]; exact fun m h => nomatch h
theorem witness_ChannelsAreManaged :
    (cV blank = false ∧ (setDw512 blank.cfg 7 0xFFFF).getLsbD 0 = false ∧ (setDw512 blank.cfg 0 2).getLsbD 0 = false) ∧
    (let d : Chan := { Chan.reset with cfg := setDw512 blank.cfg 0 1 }
     cV d = true ∧ chanOk { State.reset with parts := [(0, { Partition.reset with chans := [(0, blank)] })] } 0 d = true ∧ cBound d ≤ cCap d) ∧
    ((State.reset.partAt 0).pools[0].getLsbD 0 = false ∧ (1 : Word).getLsbD 0 = true) ∧
    (getN 1 (starved.partAt 0).watch = some ⟨some 0, none⟩ ∧ 0 + 2048 ≤ starved.now ∧ groupStuck starved 0 1 = true ∧
      (starved.partAt 0).chanEvents.length < 64 ∧ memberActors starved 0 1 = [] ∧ (∀ i, fullAt starved i 0 1 = [])) ∧
    (let c := stuffed.chanAt 0 0
     getN 1 (stuffed.partAt 0).watch = some ⟨some 0, none⟩ ∧ 0 + 2048 ≤ stuffed.now ∧ groupStuck stuffed 0 1 = true ∧
      (stuffed.partAt 0).chanEvents.length < 64 ∧ memberActors stuffed 0 1 = [] ∧
      (∃ i ∈ memberCtxs stuffed 0 1, 0 ∈ fullAt stuffed i 0 1) ∧ (∀ i, ∀ m ∈ fullAt stuffed i 0 1, m = 0) ∧ cClass c ≠ 1 ∧ cWtype c ≠ 1 ∧
      2 * cBound c < 2 ^ 24 ∧ 0 < cBound c ∧ cBound ((writeBound stuffed 0 0 (2 * cBound c)).chanAt 0 0) = 2 * cBound c) ∧
    ∃ c : Chan, cV c = true ∧ cProxy c = true :=
  ⟨⟨by decide +kernel, by decide +kernel, by decide +kernel⟩, ⟨by decide +kernel, by decide +kernel, by decide +kernel⟩, ⟨by decide, by decide⟩,
    ⟨by decide, by decide, by decide +kernel, by decide, by decide +kernel, starved_room⟩,
    ⟨by decide, by decide, by decide +kernel, by decide, by decide +kernel, ⟨⟨50, .n⟩, by decide +kernel, by decide +kernel⟩, stuffed_room,
      by decide +kernel, by decide +kernel, by decide +kernel, by decide +kernel, by decide +kernel⟩,
    ⟨{ Chan.reset with cfg := 0x81 }, by decide +kernel, by decide +kernel⟩⟩
/-- Core 50's delta queue 0 with `l` in the table of its churn. -/
def churning (l : List ChurnEntry) (op : ChanOp) : State :=
  { served (chan0 2 3 16 1) (.chan 0 op) with dies := [(0, { Die.reset with churn := [(0, l)] })] }
/-- The largest sum, which saturates at the next record; a sum that has come to 0; an entry of another queue. -/
def heaviest : ChurnEntry := { held with sum := 2 ^ 31 - 1 }
def cancelled : ChurnEntry := { held with sum := 0 }
def stranger : ChurnEntry := { held with ch := 1 }
theorem goes_churning (l : List ChurnEntry) (op : ChanOp) :
    Spec.Goes (churning l op) ⟨50, .n⟩ (unit (.chan 0 op)) [] ∧ (unit (.chan 0 op)).side = (0, 0) ∧ cV ((churning l op).chanAt 0 0) = true ∧
      churnOf (churning l op) 0 0 = l :=
  ⟨goes_of rfl rfl nofun rfl rfl, rfl, by show cV (chan0 2 3 16 1) = true; decide +kernel, rfl⟩
theorem witness_DeltasAndIndexesAreServed_deltas :
    (cHdie (chan0 2 3 16 1) = 0 ∧ cUnit (chan0 2 3 16 1) = 0) ∧
    (∀ l op, Spec.Goes (churning l op) ⟨50, .n⟩ (unit (.chan 0 op)) [] ∧ (unit (.chan 0 op)).side = (0, 0) ∧
      cV ((churning l op).chanAt 0 0) = true ∧ churnOf (churning l op) 0 0 = l) ∧
    (∀ e ∈ ([] : List ChurnEntry), ¬ Spec.Absorbs e 0 0 rec0) ∧
    (4096 ≤ (List.replicate 4096 stranger).length ∧ List.replicate 4096 stranger = stranger :: List.replicate 4095 stranger ∧
      Spec.dead stranger = false ∧ ∀ e ∈ List.replicate 4096 stranger, ¬ Spec.Absorbs e 0 0 rec0) ∧
    ([stranger, heaviest] = [stranger] ++ heaviest :: [] ∧ Spec.Absorbs heaviest 0 0 rec0 ∧ (∀ o ∈ [stranger] ++ [], ¬ Spec.Absorbs o 0 0 rec0) ∧
      Spec.saturates (heaviest.sum + Spec.mult rec0) = true) ∧
    (let c := (churning [stranger, cancelled, heaviest] .cork).chanAt 0 0
     cProxy c = false ∧ cXp c = false ∧ cMulti c = false ∧ c.corked = []) ∧
    (Spec.dead cancelled = true ∧ Spec.dead heaviest = false) :=
  ⟨⟨by decide +kernel, by decide +kernel⟩, goes_churning, fun e h => absurd h List.not_mem_nil,
    ⟨Nat.le_of_eq List.length_replicate.symm, List.replicate_succ, by decide +kernel, fun e h => by
      rw [List.eq_of_mem_replicate h]; exact fun x => absurd x.2.1 (by decide)⟩,
    ⟨rfl, ⟨rfl, rfl, by decide +kernel⟩, fun o h => by
      rw [List.append_nil, List.mem_singleton] at h; rw [h]; exact fun x => absurd x.2.1 (by decide), by decide +kernel⟩,
    ⟨by decide +kernel, by decide +kernel, by decide +kernel, rfl⟩, by decide +kernel, by decide +kernel⟩
/-- Core 50's access to index n, and the same with an entry of multiplicity 1 in the first place of bucket 0. -/
def indexing (n : Nat) (op : IndexOp) : State := numbered (served (chan0 0 3 16 0) (.index n op))
def indexingFull (n : Nat) (op : IndexOp) : State := { indexing n op with mem := [⟨scratchPa 0 0 + 8, 1⟩] }
def noRecord : BitVec 512 := 0
theorem witness_DeltasAndIndexesAreServed_indexes :
    (∀ n op, Spec.Goes (served (chan0 0 3 16 0) (.index n op)) ⟨50, .n⟩ (unit (.index n op)) [] ∧ (unit (.index n op)).who.part = 0) ∧
    (indexAt (indexing 2 (.look 0)) 0 2).getLsbD 0 = false ∧
    ((indexAt (indexing 0 (.next 256 0)) 0 0).getLsbD 0 = true ∧ 256 = 2 ^ ixLb (indexAt (indexing 0 (.next 256 0)) 0 0)) ∧
    (let s := indexing 1 (.clear 255); let d := indexAt s 0 1
     d.getLsbD 0 = true ∧ ixPlace d (.clear 255) < 2 ^ ixLb d ∧ ∃ e, engineHome s 0 true (ixVa d 255) .both = .error e) ∧
    (let s := indexing 0 (.look noRecord); let d := indexAt s 0 0
     d.getLsbD 0 = true ∧ ixPlace d (.look noRecord) < 2 ^ ixLb d ∧ engineHome s 0 true (ixVa d (ixPlace d (.look noRecord))) .read = .ok (scratchPa 0 0) ∧
       isPlain (scratchPa 0 0) = true ∧ poisonedIn s (scratchPa 0 0) 512 = none) ∧
    (let s := indexing 0 (.upd rec0); let d := indexAt s 0 0
     ixPlace d (.upd rec0) < 2 ^ ixLb d ∧ engineHome s 0 true (ixVa d (ixPlace d (.upd rec0))) .both = .ok (scratchPa 0 0) ∧
       Spec.updated (ixEntries (readMem s (scratchPa 0 0) 512)) rec0 = some (0, ixFresh rec0, true)) ∧
    (let s := indexingFull 0 (.upd rec0)
     (Spec.updated (ixEntries (readMem s (scratchPa 0 0) 512)) rec0).map (fun q => (q.1, q.2.2)) = some (0, false) ∧
       Spec.updated (ixEntries (readMem (indexing 0 (.upd noRecord)) (scratchPa 0 0) 512)) noRecord = none) ∧
    (let s := indexingFull 0 (.next 0 0); let d := indexAt s 0 0
     engineHome s 0 true (ixVa d 0) .read = .ok (scratchPa 0 0) ∧
       (List.range 8).find? (fun j => decide (0 ≤ j) && ((ixEntries (readMem s (scratchPa 0 0) 512))[j]?).any ixUsed) = some 0 ∧
       (List.range 8).find? (fun j => decide (1 ≤ j) && ((ixEntries (readMem s (scratchPa 0 0) 512))[j]?).any ixUsed) = none) ∧
    (let s := indexingFull 0 (.clear 0); let d := indexAt s 0 0
     engineHome s 0 true (ixVa d 0) .both = .ok (scratchPa 0 0) ∧ poisonedIn s (scratchPa 0 0) 512 = none) :=
  ⟨fun n op => ⟨goes_of rfl rfl nofun rfl rfl, rfl⟩, by decide +kernel, ⟨by decide +kernel, by decide +kernel⟩,
    ⟨by decide +kernel, by decide +kernel, 0x04, err_of_check (by decide +kernel)⟩,
    ⟨by decide +kernel, by decide +kernel, ok_of_check (by decide +kernel), by decide +kernel, by decide +kernel⟩,
    ⟨by decide +kernel, ok_of_check (by decide +kernel), by decide +kernel⟩, ⟨by decide +kernel, by decide +kernel⟩,
    ⟨ok_of_check (by decide +kernel), by decide +kernel, by decide +kernel⟩, ok_of_check (by decide +kernel), by decide +kernel⟩
/-- Reduction group 3 of partition 0 on a rectangle whose top-left member, core 50, is its root. -/
def quad (w h : Nat) : RGroup := { RGroup.reset with state := .armed, col := 2, row := 1, w := w, h := h, rootC := 2, rootR := 1 }
def own1 : Router := { Router.reset with own := some 1 }
def reducing (g : RGroup) (kind : AccKind) : State :=
  { mid { base with acc := [unit kind] } with parts := [(0, { Partition.reset with rgroups := [(3, g)] })] }
theorem witness_ReductionsProceed :
    (let g := quad 2 2
     Spec.Goes (reducing g (.contribute 3 false 1)) ⟨50, .n⟩ (unit (.contribute 3 false 1)) [] ∧
       (unit (.contribute 3 false 1)).who.part = 0 ∧ g.state = .armed ∧ g.i64 = false ∧ rMember g 50 = true ∧
       (rRouter g 50).own = none ∧ (rRouter g 50).forwarded = false) ∧
    (let r1 : Router := { Router.reset with kids := [(0, some 1, 0)] }
     rWaiting (quad 2 2) 50 r1 ≠ []) ∧
    (let r1 : Router := { own1 with kids := [(0, some 1, 0)] }
     rWaiting (quad 2 2) 98 r1 = [] ∧ r1.own.isSome = true ∧ 98 ≠ rRoot (quad 2 2) ∧ rParent (quad 2 2) 98 = some 50 ∧
       (rChildren (quad 2 2) 50).find? (fun c => c.2 == 98) = some (2, 98)) ∧
    (let r1 : Router := { own1 with kids := [(2, some 1, 0), (0, some 1, 0)] }
     rWaiting (quad 2 2) 50 r1 = [] ∧ r1.own.isSome = true ∧ 50 = rRoot (quad 2 2)) ∧
    (rWaiting (quad 2 2) 50 (rRouter (quad 2 2) 50) ≠ [] ∧ (rRouter (quad 2 2) 50).flushed = false ∧
      (quad 2 2).armedAt + (quad 2 2).timeout * 64 ≤ State.now (reducing (quad 2 2) .fence)) ∧
    ((quad 1 1).w = 1 ∧ (quad 1 1).h = 1 ∧ (quad 1 1).routers = [] ∧ rMember (quad 1 1) (rRoot (quad 1 1)) = true) ∧
    (let g := { quad 2 2 with flushes := [98], routers := [(98, { own1 with forwarded := true })] }
     g.flushes = [98] ∧ (rRouter g 98).forwarded = true ∧ (rRouter { g with routers := [] } 98).forwarded = false) ∧
    (let g := { quad 2 2 with state := .draining }
     g.state = .draining ∧ g.packets = [] ∧ g.flushes = [] ∧ mcastInFlight (reducing g .fence) 0 3 = false) :=
  ⟨⟨goes_of rfl rfl nofun rfl rfl, rfl, rfl, rfl, by decide +kernel, rfl, rfl⟩, by decide +kernel,
    ⟨by decide +kernel, rfl, by decide +kernel, by decide +kernel, by decide +kernel⟩, ⟨by decide +kernel, rfl, by decide +kernel⟩,
    ⟨by decide +kernel, rfl, by decide⟩, ⟨rfl, rfl, rfl, by decide +kernel⟩, ⟨rfl, by decide, rfl⟩, rfl, rfl, rfl, by decide +kernel⟩
/-- Core 50 alone at the barrier of a gang with one pulse, absolute descriptor: weight-stationary (`mode` 0) or result-stationary (1); and of a
gang of two. -/
def alone (mode : Nat) : Word := BitVec.ofNat 64 (2 + 1 * 2 ^ 8 + mode * 2 ^ 29 + 1 * 2 ^ 34 + 1 * 2 ^ 50)
def pair : Word := BitVec.ofNat 64 (2 + 1 * 2 ^ 8 + 1 * 2 ^ 16 + 1 * 2 ^ 34)
def barred (d : Word) : Context := { base with barrier := some ⟨d, 0, 5, 6⟩ }
/-- The same frozen, with flits of activations at its west and north ports, and the poison of its slots. -/
def celled (mode done : Nat) (poison : BitVec 64) : State :=
  let k := { barred (alone mode) with ports := (base.ports.set 3 ⟨[⟨true, 1⟩], []⟩).set 0 ⟨[⟨true, 1⟩], []⟩ }
  { mid k with cores := [(50, { Core.reset with n := k, cell := some ⟨.n, alone mode, mode = 1, 0, 1, 0, done⟩, slotPoison := poison })] }
theorem witness_GangsRun :
    (let s := { mid (barred pair) with cycle := 1048576 }
     (s.ctx ⟨50, .n⟩).barrier = some ⟨pair, 0, 5, 6⟩ ∧ (s.coreAt 50).cell = none ∧ joinedCtxs s = [(⟨50, .n⟩, ⟨pair, 0, 5, 6⟩)] ∧
       rectComplete s .n pair = false ∧ 0 + Nat.max 1 (fld (s.partAt (s.coreAt 50).partition).gangtmo 31 0) * 64 ≤ s.now) ∧
    (let s := mid (barred (alone 0))
     gMembers (alone 0) = [50] ∧ (s.coreAt 50).cell = none ∧ (s.ctx ⟨50, .n⟩).barrier = some ⟨alone 0, 0, 5, 6⟩ ∧ (s.ctx ⟨50, .n⟩).acc = [] ∧
       (s.coreAt 50).n.halted = false ∧ (s.coreAt 50).u.halted = false ∧
       poisonedIn s (weightPa 50 (alone 0)) (weightBytes (gCfmt (alone 0))) = none) ∧
    (gRs (alone 1) = true ∧ gInit (alone 1) = true) ∧
    (∀ poison, let s := celled 1 0 poison; let k := s.ctx ⟨50, .n⟩
     (s.coreAt 50).cell = some ⟨.n, alone 1, true, 0, 1, 0, 0⟩ ∧ gW (alone 1) = 1 ∧ gH (alone 1) = 1 ∧ (portAt k .west).q = [⟨true, 1⟩] ∧
       (portAt k .north).q = [⟨true, 1⟩] ∧ (s.dieAt (dieOf 50)).gates = [] ∧ gCol (alone 1) ≤ coreCol 50 ∧ gRow (alone 1) ≤ coreRow 50 ∧
       (s.coreAt 50).slotPoison = poison ∧ 50 ∈ gMembers (alone 1)) ∧
    (let s := celled 0 0 0
     (s.coreAt 50).cell = some ⟨.n, alone 0, false, 0, 1, 0, 0⟩ ∧ gW (alone 0) = 1 ∧ gH (alone 0) = 1 ∧ gInit (alone 0) = true ∧
       coreCol 50 = gCol (alone 0) ∧ coreRow 50 = gRow (alone 0) ∧ (portAt (s.ctx ⟨50, .n⟩) .west).q = [⟨true, 1⟩] ∧
       neighbour 50 .south = some 98 ∧ portRoom (s.ctx ⟨98, .n⟩) .north 1 = true) ∧
    (let s := celled 0 1 0
     (s.coreAt 50).cell = some ⟨.n, alone 0, false, 0, 1, 0, 1⟩ ∧ gMembers (alone 0) = [50] ∧
       (s.ctx ⟨50, .n⟩).barrier = some ⟨alone 0, 0, 5, 6⟩ ∧ (s.ctx ⟨50, .u⟩).barrier = none ∧ portDir 5 = none) :=
  ⟨⟨rfl, rfl, rfl, by decide +kernel, by decide⟩, ⟨by decide +kernel, rfl, rfl, rfl, rfl, rfl, by decide +kernel⟩,
    ⟨by decide +kernel, by decide +kernel⟩,
    fun _ => ⟨rfl, by decide +kernel, by decide +kernel, rfl, rfl, rfl, by decide +kernel, by decide +kernel, rfl, by decide +kernel⟩,
    ⟨rfl, by decide +kernel, by decide +kernel, by decide +kernel, by decide +kernel, by decide +kernel, rfl, rfl, by decide +kernel⟩,
    rfl, by decide +kernel, rfl, rfl, rfl⟩
/-- Partition 0 in use with the first 4 GiB of HBM at 0x20_0000 and beyond, and `cells` in memory. -/
def hbmRange : BitVec 256 := BitVec.ofNat 256 (15 + 0x200000 * 2 ^ 64 + 0x100200000 * 2 ^ 128 + (2 ^ 64 - 0x200000) * 2 ^ 192)
def hosting (cells : List Host.Cell) (q : Partition) (d : Die) : State :=
  { State.reset with
    mem := cells, dies := [(0, d)]
    parts := [(0, { q with ranges := q.ranges.set 0 hbmRange, hqchan := q.hqchan.set 0 0x8000000000000000 })]
    pkg := { State.reset.pkg with parts := State.reset.pkg.parts.set 0 (BitVec.ofNat 1024 (2 + 2 ^ 832 + 2 ^ 32 * 2 ^ 704)) } }
/-- A host-written channel with one record at 0x20_0000, and queue 0 that names it; the record is a launch of one group, or nothing. -/
def hostChan : Chan := { Chan.reset with cfg := BitVec.ofNat 512 (1 + 3 * 2 ^ 3 + 2 ^ 8 + 16 * 2 ^ 80 + 16 * 2 ^ 96 + 0x200000 * 2 ^ 448), wr := 1 }
def hosted (cells : List Host.Cell) : State := hosting cells { Partition.reset with chans := [(0, hostChan)] } Die.reset
def engIs (h : Eng Nat) (v : Nat) : Bool :=
  match h with
  | .ok b => b == v
  | .error _ => false
theorem eng_of_check {h : Eng Nat} {v : Nat} (e : engIs h v = true) : h = .ok v := by
  cases h with
  | ok b => simp [engIs] at e; rw [e]
  | error c => simp [engIs] at e
def one : BitVec 512 := BitVec.ofNat 512 (2 ^ 64)
def lone : Launch := ⟨one, false, 0, 0, 0, 0, 0, [], none, .host 0⟩
def item : SchedItem := ⟨0, 0, 7, none⟩
def placing : State := hosting [] { Partition.reset with launches := [(7, lone)] } { Die.reset with queue := [item], groups := [group 5 1] }
def spentGroup : Group := { group 5 1 with ended := 1 }
theorem witness_GroupsArePlacedAndRetire :
    (let s := hosted []; let h := (s.partAt 0).hqchan[Fin.ofNat 64 0]
     h.getLsbD 63 = true ∧ fld h 11 0 = 0 ∧ partRunning s 0 = true ∧ ((getN 0 (s.partAt 0).doorbells).getD 0 : Word) < 1 ∧
       cV (s.chanAt 0 0) = true ∧ cWtype (s.chanAt 0 0) = 1) ∧
    (let s := hosted [(8, 1)]; let c := s.chanAt 0 0
     cDelivered c ≠ 0 ∧ engRead s 0 true (cHring c + 64 * (c.rd.toNat % Nat.max (cCap c) 1)) 64 = .ok (2 ^ 64) ∧
       recordBad one = false ∧ lrKind one = false ∧ lrDepth one ≤ 8 ∧ lrParent one = 0 ∧ stageAny s 0 (lrStage one) = true) ∧
    (let s := hosted []; let c := s.chanAt 0 0
     engRead s 0 true (cHring c + 64 * (c.rd.toNat % Nat.max (cCap c) 1)) 64 = .ok 0 ∧ recordBad (BitVec.ofNat 512 0) = true ∧
       lrCobj (BitVec.ofNat 512 0) = 0) ∧
    ((placing.dieAt 0).queue = [item] ∧ item.prio < 8 ∧ item.fwd = none ∧ placing.launchAt 0 item.handle.toNat = some lone ∧
      lrMap lone.record = 0 ∧ 0 ∈ candidateDies placing 0 (lrStage lone.record) ∧ groupCluster placing 0 0 (lrStage lone.record) = some 0 ∧
      freeGid placing 0 = some 0 ∧ lrGw lone.record = 1 ∧ lrGh lone.record = 1) ∧
    (({ Die.reset with arriving := [item] } : Die).arriving = [item]) ∧
    (let s := hosting [] { Partition.reset with launches := [(7, lone)] } { Die.reset with groups := [spentGroup] }
     (s.dieAt 0).groups.find? (fun g => g.gid == 5) = some spentGroup ∧ spentGroup.size ≤ spentGroup.ended ∧ s.launchAt spentGroup.part spentGroup.handle.toNat = some lone) :=
  ⟨⟨by decide +kernel, by decide +kernel, by decide +kernel, by decide, by decide +kernel, by decide +kernel⟩,
    ⟨by decide +kernel, eng_of_check (by decide +kernel), by decide +kernel, by decide +kernel, by decide +kernel, by decide +kernel,
      by decide +kernel⟩,
    ⟨eng_of_check (by decide +kernel), by decide +kernel, by decide +kernel⟩,
    ⟨rfl, by decide, rfl, rfl, by decide +kernel, by decide +kernel, by decide +kernel, by decide +kernel, by decide +kernel, by decide +kernel⟩,
    rfl, rfl, by decide, rfl⟩
/-- Launches whose one group has retired: of the host with a completion object at 0x20_0040, of a firing, and of a graph node. -/
def ended (r : BitVec 512) (src : LaunchSrc) : Launch := ⟨r, false, 0, 1, 1, 1, 0, [], none, src⟩
def withObject : BitVec 512 := BitVec.ofNat 512 (2 ^ 64 + 0x200040 * 2 ^ 320)
def retiring (l : Launch) (rs : List Replay) : State := hosting [] { Partition.reset with launches := [(7, l)], replays := rs } Die.reset
/-- A graph of one node at 0x20_0000, and nothing there; a request of a firing to replay it, with `n` replays of it waiting or running. -/
def replaying (cells : List Host.Cell) (rs : List Replay) : State :=
  hosting cells { Partition.reset with replays := rs, replayReqs := [⟨0x200000, false, [], some (0, .n, 0), none⟩] } Die.reset
def graphCells : List Host.Cell := [(0, 1), (1352, 1)]
def replay (slot : Nat) : Replay := ⟨0x200000, slot, false, true, [], 2, 0, 0, 0⟩
def checkIs (h : Eng (Option (List (BitVec 512 × BitVec 512)))) (some' : Bool) : Bool :=
  match h with
  | .ok o => o.isSome == some'
  | .error _ => false
theorem none_of_check {h : Eng (Option (List (BitVec 512 × BitVec 512)))} (e : checkIs h false = true) : h = .ok none := by
  cases h with
  | ok o => cases o <;> simp_all [checkIs]
  | error c => simp [checkIs] at e
theorem some_of_check {h : Eng (Option (List (BitVec 512 × BitVec 512)))} (e : checkIs h true = true) : ∃ ns, h = .ok (some ns) := by
  cases h with
  | ok o => cases o <;> simp_all [checkIs]
  | error c => simp [checkIs] at e
theorem node_of_check {h : Eng (BitVec 512 × BitVec 512)}
    (e : (match h with | .ok i => giSuccs i.2 == [] | .error _ => false) = true) : ∃ i, h = .ok i ∧ giSuccs i.2 = [] := by
  cases h with
  | ok i => exact ⟨i, rfl, by simpa using e⟩
  | error c => simp at e
theorem wins_of_check {x : State × WinWrites} (e : x.2.isEmpty = true) : ∃ s, x = (s, []) := by
  obtain ⟨s, w⟩ := x
  simp at e
  exact ⟨s, by simp [e]⟩
theorem witness_LaunchesAndReplaysComplete :
    (let l := ended withObject (.host 0); let s := retiring l []
     s.launchAt 0 7 = some l ∧ launchDone l = true ∧ launchQuiet s 0 7 = true ∧ lrSucc l.record = 0 ∧ lrCobj l.record ≠ 0 ∧
       engDest s 0 false (lrCobj l.record) = .ok 0x40 ∧ engDest s 0 false ((lrCobj l.record + 8) % 2 ^ 64) = .ok 0x48 ∧ 0x48 < Config.hbmBytes) ∧
    (let l := ended one (.device 0 .n 0 false (requester State.reset ⟨0, .n⟩)); let s := retiring l []
     s.launchAt 0 7 = some l ∧ launchDone l = true ∧ launchQuiet s 0 7 = true ∧ lrSucc l.record = 0 ∧ lrCobj l.record = 0 ∧ (s.fir ⟨0, .n⟩).tag = 0) ∧
    (graphCheck (replaying [] []) 0 false 0x200000 = .ok none) ∧
    ((∃ ns, graphCheck (replaying graphCells []) 0 false 0x200000 = .ok (some ns)) ∧
      (graphDie (replaying graphCells []) 0 false 0x200000).isSome = true) ∧
    (5 ≤ (((replaying graphCells [replay 0, replay 1, replay 2, replay 3, replay 4]).partAt 0).replays.filter
      fun r => sameGraph (replaying graphCells [replay 0, replay 1, replay 2, replay 3, replay 4]) 0 r.sup r.graph.toNat 0x200000).length) ∧
    (let s := (replaying graphCells [replay 0]).modPart 0 fun t => { t with replayReqs := [] }
     ((replaying graphCells [replay 0]).partAt 0).replays.filter (fun r => sameGraph (replaying graphCells [replay 0]) 0 r.sup r.graph.toNat 0x200000) = [replay 0] ∧
       (∀ r ∈ [replay 0], r.slot ≠ 1) ∧ (∀ k < 1, ∃ r ∈ [replay 0], r.slot = k) ∧
       (∃ s1, patchSlot s 0 false 0x200000 1 [] = (s1, [])) ∧
       ∃ s2, graphHeader (patchSlot s 0 false 0x200000 1 []).1 0 false 0x200000 true 1 = (s2, [])) ∧
    (let l := ended one (.graph 0x200000 0); let s := retiring l [replay 0]
     s.launchAt 0 7 = some l ∧ (s.partAt 0).replays = [replay 0] ∧ (replay 0).running = true ∧ launchDone l = true ∧ launchQuiet s 0 7 = true ∧
       lrCobj l.record = 0 ∧ (replay 0).done + 1 < (replay 0).nodes ∧
       ∃ info, graphNode (s.modPart 0 fun q => { q with launches := delN 7 q.launches }) 0 false 0x200000 0 = .ok info ∧ giSuccs info.2 = []) :=
  ⟨⟨rfl, by decide +kernel, by decide +kernel, by decide +kernel, by decide +kernel, eng_of_check (by decide +kernel),
      eng_of_check (by decide +kernel), by decide⟩,
    ⟨rfl, by decide +kernel, by decide +kernel, by decide +kernel, by decide +kernel, rfl⟩, none_of_check (by decide +kernel),
    ⟨some_of_check (by decide +kernel), by decide +kernel⟩, by decide +kernel,
    ⟨by decide +kernel, by decide, by decide, wins_of_check (by decide +kernel), wins_of_check (by decide +kernel)⟩,
    rfl, rfl, rfl, by decide +kernel, by decide +kernel, by decide +kernel, by decide, node_of_check (by decide +kernel)⟩
/-- An image of one empty records section for one core, with a signature block whose key identifier and digest are 0. -/
def bytesOf (n v : Nat) : List Byte := (List.range n).map fun i => BitVec.ofNat 8 (v / 256 ^ i)
def imageBody : List Byte :=
  bytesOf 64 (0x46524148 + 2 ^ 32 + 0x5A09 * 2 ^ 128 + 2 ^ 192 + 64 * 2 ^ 256 + 112 * 2 ^ 384 + 112 * 2 ^ 448) ++ bytesOf 48 (6 + 2 * 2 ^ 24)
def image : List Byte := imageBody ++ bytesOf 6 (0x47495348 + 0x87 * 2 ^ 32) ++ List.replicate 4762 0
def load0 : LoadReq := ⟨0, false, image, [(0, 0)], 0, 0, 0, 0⟩
def receiving : State := hosting [] Partition.reset Die.reset
/-- The same with core 0 running. -/
def busy : State := { receiving with cores := [(0, { Core.reset with n := base })] }
/-- The signature holds when the free values of R23 say so: the digest of the image is the block's, and the key's check accepts it. -/
theorem image_signed (h : Config.sha3 (image.take 112) = 0#512) (k : Config.mldsaOk 0#512 0#512 ((((image.drop 112)).drop 136).take 4627) = true) :
    signatureOk image (partKey receiving 0) = true := by
  have e : hdLength (imgHeader image) = 112 := by decide +kernel
  have e1 : leAt (image.drop 112) 0 4 = 0x47495348 := by decide +kernel
  have e2 : leAt (image.drop 112) 4 2 = 0x87 := by decide +kernel
  have e3 : leAt (image.drop 112) 6 2 = 0 := by decide +kernel
  have e4 : (image.drop 112).length = 4768 := by decide +kernel
  have e5 : leAt (image.drop 112) 4763 5 = 0 := by decide +kernel
  have e6 : leAt (image.drop 112) 8 64 = 0 := by decide +kernel
  have e7 : leAt (image.drop 112) 72 64 = 0 := by decide +kernel
  have e8 : partKey receiving 0 0#512 = true := by decide +kernel
  simp only [signatureOk, imageDigest, e, e1, e2, e3, e4, e5, e6, e7, h, k]
  simp [e8]
theorem load_of_check {h : Except Nat (State × WinWrites)}
    (e : (match h with | .ok x => x.2.isEmpty | .error _ => false) = true) : ∃ t, h = .ok (t, []) := by
  cases h with
  | ok x => obtain ⟨t, w⟩ := x; simp at e; exact ⟨t, by simp [e]⟩
  | error c => simp at e
theorem load_error_of_check {h : Except Nat (State × WinWrites)} {c : Nat}
    (e : (match h with | .ok _ => false | .error d => d == c) = true) : h = .error c := by
  cases h with
  | ok x => simp at e
  | error d => simp at e; rw [e]
def loaded : Loaded := ⟨0, 0, false, [0], [], [3], [5], [], [], [], [], [], []⟩
theorem witness_ImagesLoadAndUnload :
    (load0.sys = false ∧ signatureOk [] (partKey receiving 0) = false ∧ (∃ t, loadSteps receiving load0 = .ok (t, [])) ∧
      loadSteps busy load0 = .error 3 ∧ partKey busy = partKey receiving) ∧
    (let s := hosting [] { Partition.reset with loads := [loaded] } Die.reset
     (s.partAt 0).loads.find? (fun o => o.handle == loaded.handle) = some loaded ∧ loaded.binds = [] ∧ loaded.wins = [] ∧ loaded.channels = [] ∧
       loaded.graphs = [] ∧ loaded.ptes = [] ∧ (s.partAt 0).launches = [] ∧ (s.partAt 0).imageRecs = []) :=
  ⟨⟨rfl, by decide +kernel, load_of_check (by decide +kernel), load_error_of_check (by decide +kernel), rfl⟩, rfl, rfl, rfl, rfl, rfl, rfl, rfl, rfl⟩
/-- A descriptor in core 0's scratchpad that copies 128 bytes to 0x20_0000, and a kick for it. -/
def kicking : State :=
  { on { base with acc := [base.access (requester (on base) ⟨0, .n⟩) 0x9000 .kick none] } with
    mem := [(scratchPa 0 0x9000 + 10, 0x20), (scratchPa 0 0x9000 + 32, 1), (scratchPa 0 0x9000 + 36, 0x80)] }
def kick : Access := base.access (requester (on base) ⟨0, .n⟩) 0x9000 .kick none
/-- A request in cluster 0's queue into core 0's scratchpad, in one row. -/
def copying (src : Word) (rowbytes : Nat) (st : HartState) : HartReq :=
  ⟨0, requester (on base) ⟨0, .n⟩, none, 0x9000, st, src, 0x8000, 0, 0, rowbytes, 1, 0, false, .n, 0, 0, false, false, none⟩
def queueing (r : HartReq) : State := { on base with clusters := [(0, { Cluster.reset with reqs := [r] })] }
/-- The same with the second source line empty, and with 64 copy faults queued. -/
def queueingEmpty (r : HartReq) : State :=
  { queueing r with cores := [(0, { Core.reset with n := base, empty := [320] })] }
def queueingFull (r : HartReq) : State :=
  { queueing r with parts := [(0, { Partition.reset with copyFaults := List.replicate 64 0 })] }
def chunkOf (r : HartReq) : Nat := Nat.min (r.cursor + 4096) r.total
def sources (s : State) (r : HartReq) : Except (Nat × Nat) (List (Nat × Nat × Nat)) × State :=
  pieceHomes 0 r.who .read r.srcAt (pieces r.rowbytes r.srcAt 4096 r.cursor (chunkOf r)) (bump s) []
/-- What reading the source pieces comes to: 0 a wait, 1 a fault, 2 all bytes; none where they do not translate. -/
def readsAs (s : State) (r : HartReq) : Option Nat :=
  match sources s r with
  | (.ok l, s1) => some (match readPieces s1 r r.cursor l 0 with
    | none => 0
    | some (.error _) => 1
    | some (.ok _) => 2)
  | _ => none
theorem read_of_check {s : State} {r : HartReq} (e : readsAs s r = some 2) :
    ∃ l s1 v, sources s r = (.ok l, s1) ∧ readPieces s1 r r.cursor l 0 = some (.ok v) := by
  unfold readsAs at e
  split at e
  next l s1 h =>
    split at e <;> simp at e
    next v g => exact ⟨l, s1, v, h, g⟩
  next => exact nomatch e
theorem wait_of_check {s : State} {r : HartReq} (e : readsAs s r = some 0) :
    ∃ l s1, sources s r = (.ok l, s1) ∧ readPieces s1 r r.cursor l 0 = none := by
  unfold readsAs at e
  split at e
  next l s1 h =>
    split at e <;> simp at e
    next g => exact ⟨l, s1, h, g⟩
  next => exact nomatch e
/-- The source pages do not translate, with this many copy faults queued then. -/
def faultsAs (s : State) (r : HartReq) (n : Nat) : Bool :=
  match sources s r with
  | (.error (_, c), s1) => decide (c < 256) && (s1.partAt 0).copyFaults.length == n
  | _ => false
theorem fault_of_check {s : State} {r : HartReq} {n : Nat} (e : faultsAs s r n = true) :
    ∃ va c s1, sources s r = (.error (va, c), s1) ∧ c < 256 ∧ (s1.partAt 0).copyFaults.length = n := by
  unfold faultsAs at e
  split at e
  next va c s1 h =>
    simp only [Bool.and_eq_true, decide_eq_true_eq, beq_iff_eq] at e
    exact ⟨va, c, s1, h, e⟩
  next => exact nomatch e
/-- Four tables that map page 0 to the page at 0x5000. -/
def walking : State :=
  { State.reset with
    mem := [(0x1000, 1), (0x1001, 0x20), (0x2000, 1), (0x2001, 0x30), (0x3000, 1), (0x3001, 0x40), (0x4000, 0x3B), (0x4001, 0x50)]
    parts := [(0, { Partition.reset with ptroot := 0x1001 })] }
/-- The same kick at an address off its boundary, where nothing stands but the destination 0x20_0000. -/
def kickOff : Access := base.access (requester (on base) ⟨0, .n⟩) 0x9008 .kick none
def kickingOff : State := { on { base with acc := [kickOff] } with mem := [(scratchPa 0 0x9008 + 10, 0x20)] }
theorem witness_HartRequestsProceed :
    (let d := readMem kicking (scratchPa 0 0x9000) 64
     let field (hi lo : Nat) : Nat := d / 2 ^ lo % 2 ^ (hi + 1 - lo)
     Spec.Goes kicking ⟨0, .n⟩ kick [] ∧ kick.kind = .kick ∧ kick.who.core = 0 ∧ clusterOf 0 = 0 ∧ (kicking.clusterAt 0).reqs = [] ∧
       (kicking.clusterAt 0).waiting = [] ∧ (kicking.clusterAt 0).stalled = none ∧ (kicking.clusterAt 0).resetAt = none ∧
       kick.va.toNat % 128 ≤ 64 ∧ kick.va.toNat < 0x18000 ∧ lineEmpty kicking 0 (kick.va.toNat / 128) = false ∧
       poisonedIn kicking (scratchPa 0 0x9000) 64 = none ∧
       (kick.va.toNat % 64 = 0 ∧ field 287 272 = 0 ∧ field 383 322 = 0 ∧ field 511 448 = 0 ∧ field 191 128 % 8 = 0 ∧
         field 271 256 * field 319 288 < 2 ^ 32) ∧ 0x18000 ≤ field 127 64 ∧ 0 < field 271 256 ∧ 0 < field 319 288) ∧
    (let d := readMem kickingOff (scratchPa 0 0x9008) 64
     let field (hi lo : Nat) : Nat := d / 2 ^ lo % 2 ^ (hi + 1 - lo)
     Spec.Goes kickingOff ⟨0, .n⟩ kickOff [] ∧ kickOff.va.toNat % 128 ≤ 64 ∧ ¬ kickOff.va.toNat % 64 = 0 ∧ 0x18000 ≤ field 127 64 ∧
       field 191 128 = 0 ∧ field 320 320 = 0) ∧
    (let r := copying 0xA000 8192 .active
     ((queueing r).clusterAt 0).reqs = [r] ∧ ((queueing r).clusterAt 0).resetAt = none ∧ ((queueing r).clusterAt 0).stalled = none ∧
       r.after = none ∧ r.win = none ∧ r.toScratch = true ∧ chunkOf r < r.total ∧
       ∃ l s1 v, sources (queueing r) r = (.ok l, s1) ∧ readPieces s1 r r.cursor l 0 = some (.ok v)) ∧
    (let r := copying 0xA000 128 .active
     chunkOf r = r.total ∧ r.mbox = 0 ∧ r.notify = false ∧
       ∃ l s1 v, sources (queueing r) r = (.ok l, s1) ∧ readPieces s1 r r.cursor l 0 = some (.ok v)) ∧
    (let r := copying 0xA000 128 .active
     ∃ l s1, sources (queueingEmpty r) r = (.ok l, s1) ∧ readPieces s1 r r.cursor l 0 = none) ∧
    (let r := copying 0x200000 128 .active
     r.who.core < 4608 ∧ r.slot < 32 ∧ r.cursor < 2 ^ 32 ∧
       (∃ va c s1, sources (queueing r) r = (.error (va, c), s1) ∧ c < 256 ∧ (s1.partAt 0).copyFaults.length = 0) ∧
       ∃ va c s1, sources (queueingFull r) r = (.error (va, c), s1) ∧ c < 256 ∧ (s1.partAt 0).copyFaults.length = 64) ∧
    (let r := copying 0x200000 128 .faulted
     ((queueing r).clusterAt 0).reqs = [r] ∧ r.state = .faulted ∧ r.win = none ∧ r.mbox = 0 ∧ r.notify = false ∧ r.toScratch = true) ∧
    (let at_ (tbl : Nat) := readMem walking tbl 8
     (walking.partAt 0).ptroot.getLsbD 0 = true ∧ fld (walking.partAt 0).ptroot 49 12 * 4096 = 0x1000 ∧ (walking.clusterAt 0).tcache = [] ∧
       walkEntry 0 (at_ 0x1000) = .table 0x2000 ∧ walkEntry 1 (at_ 0x2000) = .table 0x3000 ∧ walkEntry 2 (at_ 0x3000) = .table 0x4000 ∧
       walkEntry 3 (at_ 0x4000) = .page 4096 0x5000 7) :=
  ⟨⟨goes_of rfl rfl nofun rfl rfl, rfl, rfl, by decide, rfl, rfl, rfl, rfl, by decide, by decide, by decide +kernel, by decide +kernel,
      by decide +kernel, by decide +kernel, by decide +kernel, by decide +kernel⟩,
    ⟨goes_of rfl rfl nofun rfl rfl, by decide, by decide, by decide +kernel, by decide +kernel, by decide +kernel⟩,
    ⟨rfl, rfl, rfl, rfl, rfl, by decide +kernel, by decide +kernel, read_of_check (by decide +kernel)⟩,
    ⟨by decide +kernel, rfl, rfl, read_of_check (by decide +kernel)⟩, wait_of_check (by decide +kernel),
    ⟨by decide, by decide, by decide, fault_of_check (by decide +kernel), fault_of_check (by decide +kernel)⟩,
    ⟨rfl, rfl, rfl, rfl, rfl, by decide +kernel⟩, by decide +kernel, by decide +kernel, rfl, by decide +kernel, by decide +kernel,
    by decide +kernel, by decide +kernel⟩
theorem witness_ErrorsAreDetected :
    getLog State.reset (.core 0 2) = ErrLog.reset ∧ (∀ n, (State.reset.coreAt n).partition < 16) ∧
    (∃ e : ErrorReport, e.kind = .corrected) ∧ (∃ e : ErrorReport, e.kind = .uncorrectable ∧ e.target = .memory 0x17FF8) ∧
    (∃ e : ErrorReport, e.kind = .parity ∧ e.target = .xreg 0 .n 31 ∧ (State.reset.coreAt 0).cell = none) ∧
    (let s := celled 0 0 0
     getLog s (.core 50 2) = ErrLog.reset ∧ (∀ n, (s.coreAt n).partition < 16) ∧
       (s.coreAt 50).cell = some ⟨.n, alone 0, false, 0, 1, 0, 0⟩ ∧ 50 ∈ gMembers (alone 0) ∧
       (s.ctx ⟨50, .n⟩).barrier = some ⟨alone 0, 0, 5, 6⟩) :=
  ⟨rfl, fun n => by simp [State.coreAt, State.reset, getN, Core.reset], ⟨⟨.core 0 2, .corrected, .memory 0, 0, 0⟩, rfl⟩,
    ⟨⟨.core 0 2, .uncorrectable, .memory 0x17FF8, 0, 0⟩, rfl, rfl⟩, ⟨⟨.core 0 2, .parity, .xreg 0 .n 31, 0, 0⟩, rfl, rfl, rfl⟩,
    rfl, fun n => by
      by_cases h : n = 50
      · subst h; decide
      · have e : (celled 0 0 0).coreAt n = Core.reset := by simp [celled, mid, State.coreAt, getN, Ne.symm h]
        rw [e]; decide,
    rfl, by decide +kernel, rfl⟩
/-- Core 0's context N named by a request, with its record at 0x20_0000 in HBM. -/
def target : Word := 0x0100000000000000
def preempting (k : Context) (q : Partition) (sh : List (Nat × Context)) : State :=
  { hosting [] { q with psave := 0x200000 } Die.reset with cores := [(0, { Core.reset with n := k })], shadows := sh }
def shelved : Context := { Context.reset with halted := true, saved := true }
/-- Partition 15 with descriptor bits `st`. -/
def described (st : Nat) : State :=
  { State.reset with pkg := { State.reset.pkg with parts := State.reset.pkg.parts.set 15 (BitVec.ofNat 1024 st) } }
theorem witness_PreemptionProceeds :
    (let s := preempting base Partition.reset []
     (s.partAt 0).pstat.getLsbD 0 = false ∧ targetBad s 0 target = false ∧ targetsOf target = [⟨0, .n⟩] ∧ base.halted = false ∧
       (s.coreAt 0).cell = none ∧ base.barrier = none ∧ base.trapping = none) ∧
    (let s := preempting shelved Partition.reset [(shadowKey ⟨0, .n⟩, base)]
     shelved.halted = true ∧ shelved.saved = true ∧ getN (shadowKey ⟨0, .n⟩) s.shadows = some base ∧ base.killed = [] ∧
       base.running = true ∧ base.yieldSlot = none ∧ queuedMsgs base = [] ∧ (s.coreAt 0).cell = none ∧ partState s 0 ≠ 3 ∧
       ∀ j < 8, (recordRead s 0 (recordVa s 0 ⟨0, .n⟩) (4096 * j) 8).isSome = true) ∧
    (let k := { base with halted := true }
     let s := preempting k { Partition.reset with request := some (.halt, [⟨0, .n⟩], 0), pstat := 2 } []
     (s.coreAt 0).partition = 0 ∧ k.trapping = none ∧
       (s.partAt 0).request = some (.halt, [⟨0, .n⟩], BitVec.ofNat 16 (target.toNat % 2 ^ 16)) ∧ (s.partAt 0).pstat.getLsbD 1 = true ∧
       savable k = true ∧ ∃ s1, writeRecord s 0 (recordVa s 0 ⟨0, .n⟩) (saveRecord .n k false s.fresh) = some s1) ∧
    partState (described 3) 15 = 3 ∧ base.sfq = [] :=
  ⟨⟨by decide, by decide +kernel, by decide +kernel, rfl, rfl, rfl, rfl⟩, ⟨rfl, rfl, rfl, rfl, rfl, rfl, rfl, rfl, by decide +kernel, by decide +kernel⟩,
    ⟨rfl, rfl, by decide +kernel, by decide, by decide, Option.isSome_iff_exists.mp (by decide +kernel)⟩, by decide +kernel, rfl⟩
/-- Core 0 runs a firing of group 5 of partition 0, or holds the posted store of one; cluster 0 is in a reset since cycle 0. -/
def condemned : Context := { base with fir := { base.fir with group := 5 } }
def killing (gs : List Group) : State := { on condemned with dies := [(0, { Die.reset with groups := gs })] }
def resetting (cycle : Word) : State := { on storing with clusters := [(0, { Cluster.reset with resetAt := some 0 })], cycle := cycle }
/-- A store of the condemned firing, while its group is being killed; cluster 0 with nothing left 4,096 cycles into its reset. -/
def doomed : Access := condemned.access (requester (on condemned) ⟨0, .n⟩) 0x9000 (.store 3 7) none
def dying (k : Context) : State := { on k with parts := [(0, { Partition.reset with killing := [(5, 1)] })] }
def resetOver : State := { State.reset with clusters := [(0, { Cluster.reset with resetAt := some 0 })], cycle := 4096 }
def quiet : Partition := { Partition.reset with wcount := 16777216 }
theorem witness_KillsAndResetsContain :
    (findGroup (killing []) 5 = none) ∧
    (let s := killing [group 5 1]
     s.cores = [(0, { Core.reset with n := condemned })] ∧ findGroup s 5 = some (group 5 1) ∧ (group 5 1).part = 0 ∧
       condemned.running = true ∧ condemned.fir.group.toNat = 5 ∧ condemned.fir.groupStart = false ∧ condemned.runq = [] ∧ condemned.hold = none ∧
       condemned.yieldSlot = none ∧ condemned.fir.range = none ∧ condemned.barrier = none ∧ (s.coreAt 0).cell = none ∧
       (s.coreAt 0).rqtop = (s.coreAt 0).rqbot ∧ s.pkg.engine = []) ∧
    (((dying Context.reset).partAt 0).killing = [(5, 1)] ∧ killQuiet (dying Context.reset) 0 5 = true ∧
      killQuiet (dying { condemned with acc := [doomed] }) 0 5 = false) ∧
    (partState State.reset 0 ≠ 3 ∧ (State.reset.clusterAt 287).resetAt = none ∧
      ∀ n ∈ clusterCores 287, (State.reset.coreAt n).cell = none ∧ (State.reset.coreAt n).n.barrier = none ∧
        (State.reset.coreAt n).u.barrier = none) ∧
    (let s := resetting 256
     (s.clusterAt (clusterOf 0)).resetAt = some 0 ∧ 0 + 256 ≤ s.now ∧ (s.ctx ⟨0, .n⟩).acc = [posted] ∧ posted.kind.posted = true ∧
       posted.who.part = 0) ∧
    (let s := { on { base with inj := [outgoing 0 none] } with clusters := [(0, { Cluster.reset with resetAt := some 0 })], cycle := 256 }
     (s.clusterAt (clusterOf 0)).resetAt = some 0 ∧ 0 + 256 ≤ s.now ∧ (s.ctx ⟨0, .n⟩).inj = [outgoing 0 none] ∧ (s.coreAt 0).partition = 0) ∧
    (let s := resetOver
     (s.clusterAt 0).resetAt = some 0 ∧ 0 + 4096 ≤ s.now ∧ (s.clusterAt 0).reqs = [] ∧ (s.clusterAt 0).waiting = [] ∧ clusterPart s 0 = 0 ∧
       partState s 0 ≠ 3 ∧ ∀ n ∈ clusterCores 0, ∀ x, (s.ctx ⟨n, x⟩).runq = [] ∧ (s.ctx ⟨n, x⟩).hold = none ∧ (s.ctx ⟨n, x⟩).acc = [] ∧
         (s.ctx ⟨n, x⟩).inj = []) ∧
    (fld quiet.wdog 31 0 ≠ 0 ∧ quiet.wreported = false ∧ fld quiet.wdog 31 0 * 1024 ≤ quiet.wcount ∧ fld quiet.hangbuf 63 12 = 0) :=
  ⟨rfl, ⟨rfl, rfl, rfl, rfl, rfl, rfl, rfl, rfl, rfl, rfl, rfl, rfl, rfl, rfl⟩, ⟨rfl, by decide +kernel, by decide +kernel⟩,
    ⟨by decide +kernel, rfl, fun n _ => by simp [State.coreAt, State.reset, getN, Core.reset, Context.reset]⟩, ⟨rfl, by decide, rfl, rfl, rfl⟩,
    ⟨rfl, by decide, rfl, rfl⟩,
    ⟨rfl, by decide, rfl, rfl, by decide +kernel, by decide +kernel, fun n _ x => by
      simp [resetOver, State.reset, State.ctx, State.coreAt, getN]; cases x <;> simp [Core.ctx, Core.reset, Context.reset]⟩,
    by decide +kernel, rfl, by decide +kernel, by decide +kernel⟩
/-- A package at a stage of a start, that has failed with an error, and one whose firmware is an empty staged image. -/
def staging (st e : BitVec 8) (starting : Bool) : State :=
  { State.reset with pkg := { State.reset.pkg with stage := st, error := e, starting := starting, stagedUse := true } }
theorem empty_firmware : verifyFirmware [] ≠ 0 := by
  unfold verifyFirmware
  have e : signatureOk [] (fun k => k == Config.fusedKey) = false := by simp [signatureOk]
  simp only [e]
  split
  · decide
  · simp
theorem witness_DeviceStarts :
    ((staging 15 0 false).pkg.starting = false ∧ State.reset.pkg.starting = true) ∧
    (State.reset.pkg.error = 0 ∧ State.reset.pkg.nextStart = none ∧ State.reset.pkg.stage = 1) ∧
    ((staging 2 0 true).pkg.stage = 2 ∧ firmware (staging 2 0 true) = []) ∧
    ((staging 3 0 true).pkg.stage = 3 ∧ verifyFirmware (firmware (staging 3 0 true)) ≠ 0) ∧
    ((staging 4 0 true).pkg.stage = 4 ∧ (staging 5 0 true).pkg.stage = 5 ∧ (staging 6 0 true).pkg.stage = 6 ∧
      (staging 7 0 true).pkg.stage = 7 ∧ (staging 8 0 true).pkg.stage = 8 ∧ (staging 8 0 true).pkg.nextStart = none) ∧
    ((staging 3 2 false).pkg.error ≠ 0 ∧ (staging 3 2 false).pkg.error ≠ 8 ∧ (staging 3 2 false).pkg.starting = false ∧ (255 : Word).toNat < 256) :=
  ⟨⟨rfl, rfl⟩, ⟨rfl, rfl, rfl⟩, ⟨rfl, rfl⟩, ⟨rfl, empty_firmware⟩, ⟨rfl, rfl, rfl, rfl, rfl, rfl⟩, by decide, by decide, rfl, by decide⟩
/-- An address in the first byte of the window of BAR2, a store of a peer that export entry 0 lets into partition 0's HBM, and a route to device
5 over link 3. -/
def exporting : State :=
  let s := hosting [] Partition.reset Die.reset
  { s with pkg := { s.pkg with
    exports := s.pkg.exports.set 0 (BitVec.ofNat 256 (7 + 0xFFF * 2 ^ 8 + 0x1000 * 2 ^ 128)), routes := [(5, 0x83)]
    links := s.pkg.links.set 3 ⟨true, 8⟩ } }
def peerStore (offset : Nat) : PeerAcc := ⟨5, offset, 8, .store, 7⟩
theorem witness_OutsideAgentsReachTheDevice :
    (let a : HostAcc := ⟨false, 0, false, 8, 0⟩
     a.bar2 = false ∧ a.write = false ∧ a.size = 8 ∧ a.offset = 0) ∧
    (let a : HostAcc := ⟨true, 0, true, 1, 7⟩
     a.bar2 = true ∧ 0 < a.size ∧ a.size ≤ 8 ∧ a.offset + a.size ≤ 2 ^ State.reset.pkg.bar2log ∧
       State.reset.pkg.bar2base.toNat + a.offset + a.size ≤ Config.hbmBytes) ∧
    (exporting.pkg.links[3].up = true ∧ 8 ≤ exporting.pkg.links[3].fails ∧
      ({ exporting.pkg with links := exporting.pkg.links.set 3 ⟨true, 7⟩ } : Package).links[3].fails < 8) ∧
    ((peerStore 0xFF8).kind = .store ∧ 0 < (peerStore 0xFF8).size ∧ peerHome exporting (peerStore 0xFF8) = some (0xFF8, 0)) ∧
    (peerHome exporting (peerStore 0x1000) = none ∧ exporting.pkg.refusals.toNat < 2 ^ 64 - 1) ∧
    (5 ≠ deviceNum exporting ∧ linkOf exporting 5 = some 3) :=
  ⟨⟨rfl, rfl, rfl, rfl⟩, ⟨rfl, by decide, by decide, by decide, by decide⟩, ⟨by decide, by decide, by decide⟩, ⟨rfl, by decide, by decide +kernel⟩,
    ⟨by decide +kernel, by decide⟩, by decide, by decide +kernel⟩
def sensed (m : Monitor) : State := { State.reset with dies := [(0, { Die.reset with monitors := [(31, m)] })] }
def gated (l : List GateCause) (hot over' : Bool) : State :=
  { State.reset with dies := [(0, { Die.reset with gates := l, hot := hot, overCurrent := over' })] }
theorem witness_PartitionsAndSensorsAreManaged :
    (partState (described 0) 15 = 0 ∧ definable (described 0) 15 (partDesc (described 0) 15) = true) ∧
    (partState (described 1) 15 = 1 ∧ partState (described 2) 15 = 2) ∧
    (let m := monAt (sensed { Monitor.reset with cfg := 0x1000003 }) 0 31
     m.cfg.getLsbD 24 = true ∧ fld m.cfg 3 0 < 4 ∧ m.count.toNat < 2 ^ 64 - 1 ∧ (m.bins[15]).toNat < 2 ^ 32 - 1) ∧
    (((gated [] false false).dieAt 0).gates = [] ∧ ((gated [] false false).dieAt 0).hot = false ∧
      ((gated [] false false).dieAt 0).overCurrent = false) ∧
    (((gated [.current] true true).dieAt 0).gates = [.current] ∧ ((gated [.current] true true).dieAt 0).hot = true) ∧
    (((gated [.temperature] true false).dieAt 0).gates = [.temperature] ∧ ((gated [.temperature] true false).dieAt 0).hot = true ∧
      ((gated [.temperature] true false).dieAt 0).overCurrent = false) ∧ State.reset.pkg.nextStart = none :=
  ⟨⟨by decide +kernel, by decide +kernel⟩, ⟨by decide +kernel, by decide +kernel⟩, ⟨by decide, by decide, by decide, by decide⟩, ⟨rfl, rfl, rfl⟩,
    ⟨rfl, rfl⟩, ⟨rfl, rfl, rfl⟩, rfl⟩
/-! ### Witnesses of further clauses -/

/-- Core 0 inside a handler, with the record of a failed store; with no room in its partition's fault event queue; with a store to check. -/
def handled : Context :=
  { base with cause := 0x305, sfq := [⟨0, 0x40, 0x9001, 7, 2, 3, 0, false⟩], fir := { base.fir with intrap := true } }
def brimful (s : State) : State := s.modPart 0 fun q => { q with faultEvents := List.replicate 64 0 }
def unchecked : Context := { base with acc := [acc0 0x9000 (.store 3 7)] }
theorem witness_TrapAndBkptEnterTheHandler_waits :
    Ready (on unchecked) (.trap ⟨false, 7⟩) [] [] 0 ∧ Ready (on unchecked) (.bkpt ⟨false⟩) [] [] 0 ∧ uncheckedStores unchecked = true ∧
    Ready (on handled) (.trap ⟨false, 7⟩) [] [] 0 ∧ Ready (on handled) (.bkpt ⟨false⟩) [] [] 0 ∧
    Ready (brimful (on handled)) (.trap ⟨false, 7⟩) [] [] 0 ∧ Ready (brimful (on handled)) (.bkpt ⟨false⟩) [] [] 0 ∧
    uncheckedStores handled = false ∧ handled.fir.intrap = true ∧ handled.fir.range = none ∧ handled.sfq.length + handled.lost = 1 ∧
    ((on handled).partAt 0).faultEvents.length + 2 ≤ 64 ∧ ¬ ((brimful (on handled)).partAt 0).faultEvents.length + 2 ≤ 64 :=
  ⟨ready_of_check rfl, ready_of_check rfl, rfl, ready_of_check rfl, ready_of_check rfl, ready_of_check rfl, ready_of_check rfl, rfl, rfl, rfl, rfl,
    by decide, by decide⟩
theorem witness_FiringsEndAndYield_waits :
    Ready (on handled) (.done ⟨false⟩) [] [] 0 ∧ Ready (brimful (on handled)) (.done ⟨false⟩) [] [] 0 ∧ handled.rb = [] ∧
    ((on handled).partAt 0).faultEvents.length < 64 ∧ 64 ≤ ((brimful (on handled)).partAt 0).faultEvents.length :=
  ⟨ready_of_check rfl, ready_of_check rfl, rfl, by decide, by decide⟩

/-- The path from each of 64 nodes to the root 0, from node 64 on no path at all. -/
theorem witness_MasksAndLanesAreRead_vanc :
    (let s := on { base with fir := base.fir.writeX 6 63 }
     Ready s (.vanc ⟨false, 1, 2, 6⟩) [2, 6] [] 0 ∧ (((s.ctx s.slot).counted.pop 2).srcX 6).toNat = 63) ∧
    (let s := on { base with fir := base.fir.writeX 6 64 }
     Ready s (.vanc ⟨false, 1, 2, 6⟩) [2, 6] [] 0 ∧ (((s.ctx s.slot).counted.pop 2).srcX 6).toNat = 64) :=
  ⟨⟨ready_of_check rfl, by decide⟩, ready_of_check rfl, by decide⟩
/-- An 8-bit integer from fp32 (R190). -/
theorem witness_VectorResults_convert : vcvtPair .f32 .i8 = true ∧ (0x3F800000 : Nat) < 2 ^ cfmtWidth .f32 := ⟨by decide, by decide⟩

/-- A group of one core with the root in it; operation 3, a rectangle that leaves the partition and one without the root are refused; the group
is not free. -/
def arming (x y : Word) (g : GState) : State :=
  { mid { base with fir := (base.fir.writeX 6 x).writeX 7 y } with
    parts := [(0, { Partition.reset with rgroups := [(3, { RGroup.reset with state := g })] })] }
def inPartition : Nat → Int → Int → Bool := fun core dx dy => (coreAtOffset core dx dy).any (coreIn (arming 0 0 .free) 0)
theorem witness_GroupRequestsAreIssued_codes :
    (∀ x y g, (x, y, g) ∈ ([(0, 0, .free), (0, 0, .armed), (0, 3, .free), (1, 0, .free)] : List (Word × Word × GState)) →
      Ready (arming x y g) (.grpArm ⟨false, 5, 6, 7, 0, 0, 100, false, false, 3⟩) [6, 7] [] 1) ∧
    coreAtOffset 50 0 0 = some 50 ∧ coreIn (arming 0 0 .free) 0 50 = true ∧
    ¬ Spec.ArmRefused (arming 0 0 .free) 50 0 0 0 0 ∧ Spec.ArmRefused (arming 0 3 .free) 50 0 3 0 0 ∧
    Spec.ArmRefused (arming 1 0 .free) 50 1 0 0 0 ∧
    ((arming 0 0 .free).rgroupAt 0 3).state = .free ∧ ((arming 0 0 .armed).rgroupAt 0 3).state ≠ .free := by
  refine ⟨?_, by decide, by decide +kernel, ?_, ?_, ?_, rfl, nofun⟩
  · intro x y g h
    fin_cases h <;> exact ready_of_check rfl
  · rintro (h | h | h | h | ⟨i, j, hi, hj, h⟩ | h)
    · exact absurd h (by decide)
    · exact absurd h (by decide)
    · exact absurd h (by decide)
    · exact absurd h (by decide +kernel)
    · have ei : i = 0 := by have : Spec.armCols (0 : Word) = 1 := by decide +kernel
                            omega
      have ej : j = 0 := by have : Spec.armRows (0 : Word) = 1 := by decide +kernel
                            omega
      subst ei ej
      exact absurd (h 50 (by decide +kernel)) (by decide +kernel)
    · exact h (by decide +kernel)
  · exact .inr (.inr (.inl (by decide)))
  · exact .inr (.inr (.inr (.inr (.inr (by decide +kernel)))))

/-- A full ring but for one slot, with the last record of a segment spilled in front of another; the segment's link can be read and the free list
of its pool written, or there is no list. -/
def ends : Chan :=
  let c := { spilled 2 with rd := 1 }
  { c with spillHead := segRecords c - 1, spill := [0x200000, 0x210000] }
def pooled (c : Chan) (list : Nat) : State :=
  let s := served c .fence
  { s with parts := [(0, { s.partAt 0 with pools := Partition.reset.pools.set 0 (BitVec.ofNat 256 (1 + 4 * 2 ^ 128 + 5 * 2 ^ 160 + list * 2 ^ 192)) })] }
/-- The end of the pool's free list. -/
def listEnd (list : Nat) : Nat :=
  let d := ((pooled ends list).partAt 0).pools[Fin.ofNat 16 (cPool ends)]
  fld d 255 192 + 8 * fld d 159 128
/-- Both contexts of core 50 reserve slots of a shared ring of 16, in which the request of context U waits. -/
def reserving (asking : List (CtxId × Nat)) (taken : BitVec 32) : State :=
  let s := served { chan0 1 3 16 0 with ring := [], res := taken, asking := asking } (.chan 0 (.res 4))
  { s with cores := [(50, { s.coreAt 50 with u := { opener with acc := [{ unit (.chan 0 (.res 16)) with num := 7 }] } })] }
theorem no_actors (a : List (CtxId × Nat)) (t : BitVec 32) (q : Nat) : actorsOn (reserving a t) q none = [] := by
  by_cases h : q = 50
  · subst h; rfl
  · have e : (reserving a t).coreAt q = Core.reset := by simp [reserving, State.coreAt, getN, Ne.symm h]
    have f : (reserving a t).shadows = [] := rfl
    simp [actorsOn, contextsOf, State.ctx, e, f, getN, Core.ctx, Core.reset, Context.reset, queuedActors, firingsOf]
theorem witness_RecordsMoveThroughRings_waits :
    (ends.stopped = false ∧ cInRing ends < cCap ends ∧ 2 ≤ ends.sp ∧ ends.spill = [0x200000, 0x210000] ∧ ends.spillHead < segRecords ends ∧
      ends.spillHead + 1 = segRecords ends) ∧
    (∃ pa lk wr, let s := pooled ends 0x210000
      Spec.Reaches s 0 (0x200000 + ends.spillHead * cBytes ends) (cBytes ends) .read pa ∧ Spec.Reaches s 0 (0x200000 + 0xFF00) 8 .read lk ∧
      Spec.Reaches s 0 (listEnd 0x210000) 8 .write wr) ∧
    (∀ pa, ¬ Spec.Reaches (pooled ends 0) 0 (listEnd 0) 8 .write pa) ∧
    (let c := { spilled 2 with rd := 1 }; c.spillHead + 1 ≠ segRecords c ∧ Spec.Reaches (served c .fence) 0 0x200000 (cBytes c) .read (scratchPa 0 0)) ∧
    (let s := reserving [] 14
     Spec.Goes s ⟨50, .n⟩ (unit (.chan 0 (.res 4))) [] ∧ (∀ q, actorsOn s q none = []) ∧
      cCap (s.chanAt 0 0) < ((s.chanAt 0 0).res - (s.chanAt 0 0).rd).toNat + 4) ∧
    (let s := reserving [(⟨50, .u⟩, 7)] 1
     Spec.Goes s ⟨50, .n⟩ (unit (.chan 0 (.res 4))) [] ∧ (s.chanAt 0 0).asking = [(⟨50, .u⟩, 7)] ∧
      (unit (.chan 0 (.res 4))).num ≠ 7 ∧ ∃ b ∈ (s.ctx ⟨50, .u⟩).acc, b.num = 7 ∧ ∃ r j, b.kind = .chan r (.res j)) := by
  refine ⟨⟨rfl, by decide +kernel, by decide, rfl, by decide +kernel, by decide +kernel⟩,
    ⟨scratchPa 0 (ends.spillHead * cBytes ends), scratchPa 0 0xFF00, scratchPa 0 0x10020, ⟨ok_of_check (by decide +kernel), fun _ => by decide +kernel⟩,
      ⟨ok_of_check (by decide +kernel), fun _ => by decide +kernel⟩, ok_of_check (by decide +kernel), nofun⟩, ?_,
    ⟨by decide +kernel, ok_of_check (by decide +kernel), fun _ => by decide +kernel⟩, ⟨goes_of rfl rfl nofun rfl rfl, no_actors _ _, by decide +kernel⟩,
    goes_of rfl rfl nofun rfl rfl, rfl, by decide, _, .head _, rfl, _, _, rfl⟩
  intro pa h
  have e := h.1
  rw [show engineHome (pooled ends 0) 0 true (listEnd 0) .write = .error 0x04 from err_of_check (by decide +kernel)] at e
  exact nomatch e

/-- The reader of channel 0 of partition 0 is channel 3 of partition 1; core 50 waits for room in it. -/
def remote : State :=
  let s := watched { opener with reason := 4, chanWait := some 0 } (chan0 0 3 16 16)
  let c : Chan := s.chanAt 0 0
  let bits (n : Nat) : BitVec 512 := c.cfg ||| BitVec.ofNat 512 n
  (s.setChan 0 0 { c with cfg := bits (2 ^ 7 + 2 ^ 58 + 3 * 2 ^ 148) }).setPart 1
    { Partition.reset with
      chans := [(3, { c with cfg := bits (2 ^ 6) })], pools := Partition.reset.pools.set 0 (BitVec.ofNat 256 (1 + 4 * 2 ^ 128 + 4 * 2 ^ 160)) }
/-- A deadlock of the group has been reported: of the same members, and before core 50 had joined it. -/
def reported (s : State) (old : List CtxId) : State := s.modPart 0 fun q => { q with watch := [(1, ⟨some 0, some ⟨old, []⟩⟩)] }
theorem witness_ChannelsAreManaged_more :
    (let s := remote; let c := s.chanAt 0 0; let nb := 2 * cBound c; let s1 := writeBound s 1 3 nb
     readerSide s 0 0 = (1, 3) ∧ cProxy c = true ∧ getN 1 (s.partAt 0).watch = some ⟨some 0, none⟩ ∧ 0 + 2048 ≤ s.now ∧ groupStuck s 0 1 = true ∧
      (s.partAt 0).chanEvents.length < 64 ∧ memberActors s 0 1 = [] ∧ (∃ i ∈ memberCtxs s 0 1, 0 ∈ fullAt s i 0 1) ∧ cClass c ≠ 1 ∧ cWtype c ≠ 1 ∧
      nb < 2 ^ 24 ∧ 0 < cBound c ∧ cBound (s1.chanAt 1 3) = nb ∧ cBound ((writeBound s1 0 0 nb).chanAt 0 0) = nb) ∧
    (let s := reported starved [⟨50, .n⟩]
     getN 1 (s.partAt 0).watch = some ⟨some 0, some ⟨[⟨50, .n⟩], []⟩⟩ ∧ 1 ∈ watchedGroups s 0 ∧ groupStuck s 0 1 = true ∧
      memberCtxs s 0 1 = [⟨50, .n⟩] ∧ memberActors s 0 1 = []) ∧
    (let s := reported starved []
     1 ∈ watchedGroups s 0 ∧ groupStuck s 0 1 = true ∧ ∃ i ∈ memberCtxs s 0 1, i ∉ ([] : List CtxId)) ∧
    (let s := reported (watched opener (chan0 0 3 16 0)) [⟨50, .n⟩]
     1 ∈ watchedGroups s 0 ∧ groupStuck s 0 1 = false) :=
  ⟨⟨by decide +kernel, by decide +kernel, by decide, by decide, by decide +kernel, by decide, by decide +kernel, ⟨⟨50, .n⟩, by decide +kernel, by decide +kernel⟩,
      by decide +kernel, by decide +kernel, by decide +kernel, by decide +kernel, by decide +kernel, by decide +kernel⟩,
    ⟨by decide, by decide +kernel, by decide +kernel, by decide +kernel, by decide +kernel⟩,
    ⟨by decide +kernel, by decide +kernel, ⟨50, .n⟩, by decide +kernel, by decide⟩, by decide +kernel, by decide +kernel⟩

/-- Two groups of one launch reach a die in either order. -/
theorem witness_GroupsArePlacedAndRetire_order :
    (let s : State := { State.reset with dies := [(2, { Die.reset with arriving := [item, item] })] }
     (s.dieAt 2).arriving = item :: [item] ∧ item.part = 0) ∧
    ((hosting [] { Partition.reset with launches := [(7, lone)] } { Die.reset with groups := [spentGroup] }).partAt spentGroup.part).killing = [] :=
  ⟨⟨rfl, rfl⟩, by decide +kernel⟩
/-- No message of a hart is on its way, and no error is armed. -/
theorem witness_HartRequestsProceed_alone :
    kicking.pkg.engine = [] ∧ (queueing (copying 0xA000 128 .active)).pkg.engine = [] ∧ ∀ a, (getLog walking a).inject.getLsbD 0 = false :=
  ⟨rfl, rfl, fun a => by
    cases a <;> simp [getLog, State.coreAt, State.clusterAt, State.dieAt, show walking.cores = [] from rfl, show walking.clusters = [] from rfl,
      show walking.dies = [] from rfl, getN, Core.reset, Cluster.reset, Die.reset, ErrLog.reset]⟩
/-- With and without room in the fault event queue, and with no event of a halt that waits for it. -/
theorem witness_PreemptionProceeds_room :
    ((preempting base Partition.reset []).partAt 0).faultEvents.length < 64 ∧ ((preempting shelved Partition.reset []).partAt 0).haltEvent = none ∧
    (let s := brimful (preempting base Partition.reset [])
     ¬ (s.partAt 0).faultEvents.length < 64 ∧ (s.partAt 0).pstat.getLsbD 0 = false ∧ targetBad s 0 target = false) ∧
    (let s := preempting { base with halted := true } { Partition.reset with request := some (.halt, [⟨0, .n⟩], 0), pstat := 2 } []
     (s.partAt 0).faultEvents.length < 64 ∧ (s.partAt 0).haltEvent = none) :=
  ⟨by decide +kernel, by decide +kernel, ⟨by decide +kernel, by decide +kernel, by decide +kernel⟩, by decide +kernel, by decide +kernel⟩
theorem witness_KillsAndResetsContain_room :
    (findGroup (brimful (killing [])) 5 = none ∧ ¬ ((brimful (killing [])).partAt 0).faultEvents.length < 64) ∧
    (((brimful (dying Context.reset)).partAt 0).killing = [(5, 1)] ∧ killQuiet (brimful (dying Context.reset)) 0 5 = true) ∧
    (let s := brimful (resetting 256)
     (s.clusterAt (clusterOf 0)).resetAt = some 0 ∧ (s.ctx ⟨0, .n⟩).acc = [posted] ∧ ¬ (s.partAt 0).faultEvents.length < 64) ∧
    (resetOver.partAt 0).faultEvents.length < 64 ∧
    (let s : State := brimful { State.reset with parts := [(0, quiet)] }
     (s.partAt 0).wreported = false ∧ fld (s.partAt 0).wdog 31 0 * 1024 ≤ (s.partAt 0).wcount ∧ ¬ (s.partAt 0).faultEvents.length < 64) :=
  ⟨⟨rfl, by decide⟩, ⟨rfl, by decide +kernel⟩, ⟨rfl, rfl, by decide⟩, by decide, rfl, by decide +kernel, by decide⟩
/-- The load of a peer from HBM, and its atomic on core 0's scratchpad, both let in by export entry 0. -/
def sharing : State :=
  let s := exporting
  { s with pkg := { s.pkg with
    parts := s.pkg.parts.set 0 (s.pkg.parts[0] ||| BitVec.ofNat 1024 (2 ^ 8 - 2))
    exports := s.pkg.exports.set 1 (BitVec.ofNat 256 (15 + 0xFFF * 2 ^ 8 + 0x2000 * 2 ^ 64 + 0x3000 * 2 ^ 128 + scratchPa 0 0 * 2 ^ 192)) } }
theorem witness_OutsideAgentsReachTheDevice_answers :
    (peerHome exporting ⟨5, 0xFF8, 8, .load, 0⟩ = some (0xFF8, 0) ∧ poisonedIn exporting 0xFF8 8 = none ∧
      poisonedIn { exporting with poison := [0xFF8] } 0xFF8 8 ≠ none) ∧
    (peerHome sharing ⟨5, 0x2008, 8, .atomic 0 1 0, 0⟩ = some (scratchPa 0 8, 0) ∧ lineOf (scratchPa 0 8) = some (0, 0) ∧
      lineHolds sharing (scratchPa 0 8) true = false ∧ (∀ m ∈ sharing.pkg.engine, EngSrc.isPeer 5 m.src = false) ∧
      poisonedIn sharing (scratchPa 0 8) 8 = none) :=
  ⟨⟨by decide +kernel, by decide +kernel, by decide +kernel⟩, by decide +kernel, by decide +kernel, by decide +kernel, by decide +kernel, by decide +kernel⟩
/-! ### Words of each family, in the fields of R37, R41, R42 and R52 -/

/-- `trap` with code 0xA5, and `nop!`. -/
theorem test_decode_control :
    decode [0b10100101_00001_00000_00000_000000_0_00] = .ok (.trap ⟨false, 0xA5⟩) ∧
    decode [0b00000000_00000_00000_00000_000000_1_00] = .ok (.nop ⟨true⟩) :=
  ⟨rfl, rfl⟩
/-- `sub x31, x1, x30`, `andi x1, x2, -4096`, `srli x4, x5, 63`, `mulh x6, x7, x8`. -/
theorem test_decode_integer :
    decode [0b00000001_11110_00001_11111_000001_0_00] = .ok (.sub ⟨false, 31, 1, 30⟩) ∧
    decode [0b1000000000000_00010_00001_000011_0_00] = .ok (.andi ⟨false, 1, 2, .short 0x1000⟩) ∧
    decode [0b0000001111111_00101_00100_001000_0_00] = .ok (.srli ⟨false, 4, 5, 63⟩) ∧
    decode [0b00000001_01000_00111_00110_001010_0_00] = .ok (.mulh ⟨false, 6, 7, 8⟩) :=
  ⟨rfl, rfl, rfl, rfl⟩
/-- `addi` with a literal (R45): its low word first. -/
theorem test_decode_literal :
    decode [0b0000000000000_00110_00101_000010_0_10, 0x89ABCDEF, 0x01234567] = .ok (.addi ⟨false, 5, 6, .lit 0x0123456789ABCDEF⟩) :=
  rfl
/-- `bgeu` 512 words back, `jal` 131,072 words back, `jalr x0, x1, 4095`, `loopi 511` over 8,191 words. -/
theorem test_decode_flow :
    decode [0b1000000000_00010_00001_101_001011_0_00] = .ok (.bgeu ⟨false, 1, 2, 0x200⟩) ∧
    decode [0b100000000000000000_00001_001100_0_00] = .ok (.jal ⟨false, 1, 0x20000⟩) ∧
    decode [0b0111111111111_00001_00000_001101_0_00] = .ok (.jalr ⟨false, 0, 1, .short 0xFFF⟩) ∧
    decode [0b1111111111111_1_111111111_001110_0_00] = .ok (.loopi ⟨false, 511, 0x1FFF⟩) :=
  ⟨rfl, rfl, rfl, rfl⟩
/-- `fsub.bf16` in one word; `fmadd.f32` with c x9 and rounding up. -/
theorem test_decode_floating :
    decode [0b00100001_00011_00010_00001_001111_0_00] = .ok (.fsub ⟨false, .bf16, 1, 2, 3, none⟩) ∧
    decode [0b00000000_00011_00010_00001_010000_0_01, 0b00000000_00000000_0_000_0_000_011_01001, 0] = .ok (.fmadd ⟨false, .f32, 1, 2, 3, 9, .rup⟩) :=
  ⟨rfl, rfl⟩
/-- `ld.bu x5, -512(x6)`, `st.h x5, 511(x6)`, `ld.acq x5, 8(x6)` at die scope, `amo.and.d x5, x7, x6`. -/
theorem test_decode_memory :
    decode [0b1000000000_001_00110_00101_010001_0_00] = .ok (.ldBu ⟨false, 5, 6, .short 0x200, false⟩) ∧
    decode [0b0111111111_001_00110_00101_010010_0_00] = .ok (.stH ⟨false, 5, 6, .short 0x1FF, false⟩) ∧
    decode [0b0000001000_111_00110_00101_010001_0_01, 0b00000000_00000000_0_000_0_010_000_00000, 0] = .ok (.ldAcq ⟨false, 5, 6, .short 8, some .die⟩) ∧
    decode [0b00010001_00111_00110_00101_010011_0_00] = .ok (.amoAnd ⟨false, 5, 6, 7, true⟩) :=
  ⟨rfl, rfl, rfl, rfl⟩
/-- `fence` full at system scope, `fe.set x6, 256`, `win.drop 7`, `copy.st x5, x6`. -/
theorem test_decode_order :
    decode [0b00010010_00000_00000_00000_010100_0_00] = .ok (.fence ⟨false, .full, .system⟩) ∧
    decode [0b11111111_00001_00110_00000_010101_0_00] = .ok (.feSet ⟨false, 6, 255⟩) ∧
    decode [0b00000111_00001_00000_00000_010110_0_00] = .ok (.winDrop ⟨false, 7⟩) ∧
    decode [0b00000000_00001_00110_00101_010111_0_00] = .ok (.copySt ⟨false, 5, 6⟩) :=
  ⟨rfl, rfl, rfl, rfl⟩
/-- `send <-1,2>, x10, 64, 19, u`, `mcast x10, 63, 8, 3, n`, `grp.arm` of a group of INT64, Y-first. -/
theorem test_decode_messages :
    decode [0b00000000_00000_01010_00000_011000_0_01, 0b00000010_11111111_0_000_0_000_000_00000, 0b0000000000000_000000_1000000_1_10011] = .ok (.send ⟨false, 10, 0, 0xFF, 2, 64, .u, 19⟩) ∧
    decode [0b00000010_00000_01010_00000_011000_0_01, 0, 0b0000000000000_111111_0001000_0_00011] = .ok (.mcast ⟨false, 10, 63, 8, .n, 3⟩) ∧
    decode [0b00000000_00111_00110_00101_011001_0_01, 0b11111110_00000001_0_000_0_000_000_00000, 0b000010101011110011011110_1_1_001001] = .ok (.grpArm ⟨false, 5, 6, 7, 1, 0xFE, 0xABCDE, true, true, 9⟩) :=
  ⟨rfl, rfl, rfl⟩
/-- `yield`, `join x5`, `ch.w x7, x6`, `dq.read v8, x6`, `ix.look x5, v2`. -/
theorem test_decode_work :
    decode [0b00000000_00001_00000_00000_011010_0_00] = .ok (.yield ⟨false⟩) ∧
    decode [0b00000000_00001_00000_00101_011011_0_00] = .ok (.join ⟨false, 5⟩) ∧
    decode [0b00000000_00001_00110_00111_011100_0_00] = .ok (.chW ⟨false, 7, 6⟩) ∧
    decode [0b00000000_00001_00110_01000_011101_0_00] = .ok (.dqRead ⟨false, 8, 6⟩) ∧
    decode [0b00000000_00001_00010_00101_011110_0_00] = .ok (.ixLook ⟨false, 5, 2⟩) :=
  ⟨rfl, rfl, rfl, rfl, rfl⟩
/-- `vsub.bf16` under m7 with zeroing, rounding toward zero; `vfmadd.f32`; `vsub.i8`; `vquant` from bf16 to i4. -/
theorem test_decode_vector :
    decode [0b00001_001_00011_00010_01001_100000_0_01, 0b00000000_00000000_1_111_0_000_001_00000, 0] = .ok (.vsub ⟨false, .bf16, 9, 2, 3, some ⟨.rtz, 7, true⟩⟩) ∧
    decode [0b00000_000_00011_00010_01001_100001_0_01, 0b00000000_00000000_0_001_0_000_100_01100, 0] = .ok (.vfmadd ⟨false, .f32, 9, 2, 3, 12, .dyn, 1, false⟩) ∧
    decode [0b00001_100_00011_00010_01001_100010_0_00] = .ok (.vsubI ⟨false, .i8, 9, 2, 3, none⟩) ∧
    decode [0b00001_000_00000_00010_01001_100011_0_01, 0b00000000_00000000_0_000_1_000_010_00101, 0b0000000000000000_00000001_00010000] = .ok (.vquant ⟨false, 9, 2, 5, .rdn, true, 0, false, .bf16, .i4⟩) :=
  ⟨rfl, rfl, rfl, rfl⟩
/-- `vredmax.i16` under m3, `vperm.f32`, `mand m1, m2, m3`, `vst` 512 lines back, `vanc m1, q1, x5` (R203). -/
theorem test_decode_lanes :
    decode [0b00001_011_00000_00010_01001_100100_0_01, 0b00000000_00000000_0_011_0_000_000_00000, 0] = .ok (.vredmax ⟨false, .i16, 9, 2, some 3⟩) ∧
    decode [0b00001_000_00011_00010_01001_100101_0_00] = .ok (.vperm ⟨false, .f32, 9, 2, 3, none⟩) ∧
    decode [0b00001_000_00011_00010_00001_100110_0_00] = .ok (.mand ⟨false, 1, 2, 3, false⟩) ∧
    decode [0b1000000000_001_00110_00101_100111_0_00] = .ok (.vst ⟨false, 5, 6, .short 0x200, none⟩) ∧
    decode [0x04284340] = .ok (.vanc ⟨false, 1, 1, 5⟩) :=
  ⟨rfl, rfl, rfl, rfl, rfl⟩
/-- `gstat x5`, `acc.wr 63, v9`, `h.st v8, x6`. -/
theorem test_decode_gang :
    decode [0b00000001_00000_00000_00101_110000_0_00] = .ok (.gstat ⟨false, 5⟩) ∧
    decode [0b00000001_0000_1_11111_01001_110001_0_00] = .ok (.accWr ⟨false, 9, 63⟩) ∧
    decode [0b00000001_00000_00110_01000_110010_0_00] = .ok (.hSt ⟨false, 8, 6⟩) :=
  ⟨rfl, rfl, rfl⟩
/-- The listing of R203's program. -/
theorem test_decode_listing :
    decode [0x00004648] = .ok (.lih ⟨false, 3, 1⟩) ∧ decode [0x0000C338] = .ok (.vld ⟨false, 1, 3, .short 0, none⟩) ∧
    decode [0x0400CC10] = .ok (.addi ⟨false, 6, 3, .short 128⟩) ∧ decode [0x00000A14] = .ok (.addi ⟨true, 5, 0, .short 0⟩) ∧
    decode [0x002C0870] = .ok (.loopi ⟨false, 4, 5⟩) ∧ decode [0x40004F30] = .ok (.mget ⟨false, 7, 1, false⟩) ∧
    decode [0x00198E90] = .ok (.stD ⟨false, 7, 6, .short 0, false⟩) ∧ decode [0x00094A10] = .ok (.addi ⟨false, 5, 5, .short 1⟩) ∧
    decode [0x000000D0] = .ok (.done ⟨false⟩) :=
  ⟨rfl, rfl, rfl, rfl, rfl, rfl, rfl, rfl, rfl⟩
/-- What R55 refuses by name: a reserved major, a reserved func, a reserved length, an unused field, a reserved rounding mode, scope and
format, an empty loop, a word that is cut off. -/
theorem test_decode_refuses :
    decode [0b111111 * 8] = .error .reservedMajor ∧ decode [0xFF000008] = .error .reservedFunc ∧ decode [0x00000001, 0, 0] = .error .badLength ∧
    decode [0x00000200] = .error .unusedField ∧ decode [0x00000079, 5 * 32, 0] = .error .reservedRounding ∧
    decode [0x00380089, 5 * 256, 0] = .error .reservedScope ∧ decode [0x02000100] = .error .reservedFormat ∧
    decode [0x00000070] = .error .emptyBody ∧ decode [0x00000001] = .error .truncated :=
  ⟨rfl, rfl, rfl, rfl, rfl, rfl, rfl, rfl, rfl⟩

/-! ### An ill-formed term for each check of well-formedness -/

theorem test_wf_noPort : (Instr.div ⟨false, 28, 1, 2⟩).illegal = some .portDest := rfl
theorem test_wf_noQ : (Instr.grpWait ⟨false, 7, 3⟩).illegal = some .vectorDest := rfl
theorem test_wf_mz : (Instr.vfmadd ⟨false, .f32, 9, 2, 3, 4, .rne, 0, true⟩).illegal = some .mzWithoutMask := rfl
theorem test_wf_mext : (Instr.vfeq ⟨false, .f32, 1, 2, 3, some ⟨0, true⟩⟩).illegal = some .mzWithoutMask := rfl
theorem test_wf_rext : (Instr.vadd ⟨false, .f32, 9, 2, 3, some ⟨.rne, 0, true⟩⟩).illegal = some .mzWithoutMask := rfl
theorem test_wf_xinvScope : (Instr.xinv ⟨false, 5, 6, 0, .core⟩).illegal = some .reservedSubfield := rfl
theorem test_wf_xinvKind2Scope : (Instr.xinv ⟨false, 5, 0, 2, .die⟩).illegal = some .reservedSubfield := rfl
theorem test_wf_xinvOperand : (Instr.xinv ⟨false, 5, 6, 1, .package⟩).illegal = some .unusedField := rfl
theorem test_wf_emptyBody : (Instr.loopi ⟨false, 4, 0⟩).illegal = some .emptyBody := rfl
theorem test_wf_windowRegs : (Instr.winSet ⟨false, 5, 25, 0⟩).illegal = some .ruleLimit := rfl
theorem test_wf_class : (Instr.sendv ⟨false, 1, 0, 1, 0, .n, 20⟩).illegal = some .reservedClass := rfl
theorem test_wf_payload : (Instr.mcast ⟨false, 21, 3, 64, .n, 3⟩).illegal = some .ruleLimit := rfl
theorem test_wf_place : (Instr.send ⟨false, 6, 7, 1, 0, 8, .n, 3⟩).illegal = some .ruleLimit := rfl
theorem test_wf_timeout : (Instr.grpArm ⟨false, 5, 6, 7, 0, 0, 0, false, false, 3⟩).illegal = some .word2Range := rfl
theorem test_wf_rangeClass : (Instr.rngPush ⟨false, 5, 6, 2⟩).illegal = some .ruleLimit := rfl
theorem test_wf_rangeRegs : (Instr.rngPush ⟨false, 5, 26, 3⟩).illegal = some .ruleLimit := rfl
theorem test_wf_takeRegs : (Instr.rngTake ⟨false, 27, 6⟩).illegal = some .ruleLimit := rfl
theorem test_wf_patch : (Instr.replay ⟨false, 5, 6, 33⟩).illegal = some .ruleLimit := rfl
theorem test_wf_graphRegs : (Instr.replay ⟨false, 5, 27, 1⟩).illegal = some .ruleLimit := rfl
theorem test_wf_poolOperand : (Instr.lnstat ⟨false, 5, 6, true⟩).illegal = some .unusedField := rfl
theorem test_wf_index : (Instr.ixUpd ⟨false, 0, 2⟩).illegal = some .ruleLimit := rfl
theorem test_wf_convert : (Instr.vcvt ⟨false, 9, 2, .rne, false, 0, false, .f16, .bf16⟩).illegal = some .reservedFormat := rfl
theorem test_wf_quant : (Instr.vquant ⟨false, 9, 2, 5, .rne, false, 0, false, .f32, .i8⟩).illegal = some .reservedFormat := rfl
theorem test_wf_quantScale : (Instr.vquant ⟨false, 9, 2, 5, .rne, false, 0, false, .f32, .ts8⟩).illegal = some .unusedField := rfl
theorem test_wf_dequant : (Instr.vdequant ⟨false, 9, 2, 5, 0, false, .s8, .f32⟩).illegal = some .reservedFormat := rfl
theorem test_wf_dequantScale : (Instr.vdequant ⟨false, 9, 2, 5, 0, false, .ts8, .f32⟩).illegal = some .unusedField := rfl
theorem test_wf_hamperRegs : (Instr.hLd ⟨false, 27, 6⟩).illegal = some .ruleLimit := rfl
/-! ### Results that spec/ states -/

/-- Whether `exec` answers a next state whose context with the issue slot meets `p`. -/
def answers (i : Instr) (s : State) (p : Context → Bool) : Bool :=
  match exec i s with
  | .next t => p (t.ctx s.slot)
  | _ => false
/-- `k` with x6 and x7. -/
def xs (k : Context) (a b : Word) : Context := { k with fir := { k.fir with x := (k.fir.x.set 6 a).set 7 b } }

/-- R41: `lih x5, -2`. -/
theorem test_lih : answers (.lih ⟨false, 5, 0x3FFFE⟩) (on base) (fun k => k.fir.readX 5 == 0xFFFFFFFFFFFF8000) = true := by decide +kernel
/-- R156: an addition wraps. -/
theorem test_add : answers (.add ⟨false, 5, 6, 7⟩) (on (xs base 0xFFFFFFFFFFFFFFFF 2)) (fun k => k.fir.readX 5 == 1) = true := by decide +kernel
/-- R47: x0 discards a write. -/
theorem test_add_zero : answers (.add ⟨false, 0, 6, 7⟩) (on (xs base 5 2)) (fun k => k.fir.readX 0 == 0 && k.fir.pc == 0x44) = true := by decide +kernel
/-- R158: the high half of -1 times 2, each way of reading the operands. -/
theorem test_mulh :
    (answers (.mulh ⟨false, 5, 6, 7⟩) (on (xs base 0xFFFFFFFFFFFFFFFF 2)) (fun k => k.fir.readX 5 == 0xFFFFFFFFFFFFFFFF) &&
    answers (.mulhu ⟨false, 5, 6, 7⟩) (on (xs base 0xFFFFFFFFFFFFFFFF 2)) (fun k => k.fir.readX 5 == 1) &&
    answers (.mulhsu ⟨false, 5, 6, 7⟩) (on (xs base 0xFFFFFFFFFFFFFFFF 2)) (fun k => k.fir.readX 5 == 0xFFFFFFFFFFFFFFFF) &&
    answers (.mulhsu ⟨false, 5, 6, 7⟩) (on (xs base 2 0xFFFFFFFFFFFFFFFF)) (fun k => k.fir.readX 5 == 1)) = true := by decide +kernel
/-- R158: the four cases of its second table, in the return buffer. -/
theorem test_division :
    (answers (.div ⟨false, 5, 6, 7⟩) (on (xs base 0 0)) (fun k => k.rb.map (·.value) == [0x7FFFFFFFFFFFFFFF]) &&
    answers (.div ⟨false, 5, 6, 7⟩) (on (xs base 0xFFFFFFFFFFFFFFFF 0)) (fun k => k.rb.map (·.value) == [0x8000000000000000]) &&
    answers (.divu ⟨false, 5, 6, 7⟩) (on (xs base 3 0)) (fun k => k.rb.map (·.value) == [0xFFFFFFFFFFFFFFFF]) &&
    answers (.div ⟨false, 5, 6, 7⟩) (on (xs base 0x8000000000000000 0xFFFFFFFFFFFFFFFF)) (fun k => k.rb.map (·.value) == [0x7FFFFFFFFFFFFFFF])) = true := by
  decide +kernel
/-- R158: remainders have the sign of the dividend, and that of a division by 0 is 0. -/
theorem test_remainder :
    (answers (.rem ⟨false, 5, 6, 7⟩) (on (xs base 0xFFFFFFFFFFFFFFF9 4)) (fun k => k.rb.map (·.value) == [0xFFFFFFFFFFFFFFFD]) &&
    answers (.rem ⟨false, 5, 6, 7⟩) (on (xs base 5 0)) (fun k => k.rb.map (·.value) == [0]) &&
    answers (.remu ⟨false, 5, 6, 7⟩) (on (xs base 0xFFFFFFFFFFFFFFF9 0x10)) (fun k => k.rb.map (·.value) == [9])) = true := by
  decide +kernel
/-- R165: 1.0, -0 and the default NaN. -/
theorem test_fclass :
    (answers (.fclass ⟨false, .f32, 5, 6, false⟩) (on (xs base 0x3F800000 0)) (fun k => k.fir.readX 5 == 0x7F02) &&
    answers (.fclass ⟨false, .f32, 5, 6, false⟩) (on (xs base 0x80000000 0)) (fun k => k.fir.readX 5 == 0x0080) &&
    answers (.fclass ⟨false, .f32, 5, 6, false⟩) (on (xs base 0x7FC00000 0)) (fun k => k.fir.readX 5 == 0xFF04)) = true := by decide +kernel
/-- R165: `fcvt.bf16.f32.rtz.pk` of 1.00390625 raises nx and the low peak. -/
theorem test_fcvt : answers (.fcvtBf16F32 ⟨false, 5, 6, some (.rtz, true)⟩) (on (xs base 0x3F808000 0))
    (fun k => k.fir.readX 5 == 0x3F80 && k.peak == 0x3F808000 && k.fpctl == 0x100) = true := by decide +kernel
/-- R149: the estimate for 2.0. -/
theorem test_frsqe : answers (.frsqe ⟨false, .f32, 5, 6, false⟩) (on (xs base 0x40000000 0)) (fun k => k.fir.readX 5 == 0x3F34B000) = true := by
  decide +kernel
/-- R138: the eight elements, scale 0x70, as INT4. -/
theorem test_quant_i4 : ([0x3FA00000, 0xC0700000, 0x3F400000, 0x41100000, 0xFF800000, 0x7FC00000, 0x40100000, 0xBE4CCCCD].map
    fun x => (quant .i4 0x70 .rne (unpack fp32 x))) =
    [(2, flagNx), (8, flagNx), (2, flagNx), (7, flagOf ||| flagNx), (8, 0), (0, flagNv), (4, flagNx), (0, flagNx)] := by decide +kernel
/-- The same as E2M1. -/
theorem test_quant_e2m1 : ([0x3FA00000, 0xC0700000, 0x3F400000, 0x41100000, 0xFF800000, 0x7FC00000, 0x40100000, 0xBE4CCCCD].map
    fun x => (quant .e2m1 0x70 .rne (unpack fp32 x))) =
    [(4, flagNx), (0xF, flagOf ||| flagNx), (3, 0), (7, flagOf ||| flagNx), (0xF, 0), (0, flagNv), (6, flagNx), (9, flagNx)] := by decide +kernel
/-- R138: 0.1875 becomes the TS8 code of one term, 0.125. -/
theorem test_quant_ts8 : (quant .ts8 0x78 .rne (unpack fp32 0x3E400000)).1 = 0x10 := by decide +kernel
/-- R159: a branch that is taken goes on from the branch, one that is not goes on after it. -/
theorem test_branch : (answers (.blt ⟨false, 6, 7, 0x3FE⟩) (on (xs base 0xFFFFFFFFFFFFFFFF 0)) (fun k => k.fir.pc == 0x38) &&
    answers (.bltu ⟨false, 6, 7, 0x3FE⟩) (on (xs base 0xFFFFFFFFFFFFFFFF 0)) (fun k => k.fir.pc == 0x44)) = true := by decide +kernel

end Sys2Proof.Tests
end

section
/-!
SUPPORT and the settlement of O53. The loader as a partial computation: what each of its steps leaves of the table of loads and the load status
of every partition, and from it what a load and an unload come to (R21, R365).
-/
namespace Sys2Proof.Machine

/-! ### Computations that end with a status or a result -/

/-- Whatever `x` answers, if it answers at all, meets `P`. -/
def Yields {ε α : Type} (P : α → Prop) (x : Except ε α) : Prop := ∀ a, x = .ok a → P a

namespace Yields
variable {ε α β : Type} {P : α → Prop} {Q : β → Prop}

theorem ok {a : α} (h : P a) : Yields P (.ok a : Except ε α) := fun _ e => Except.ok.inj e ▸ h
theorem error {c : ε} : Yields P (.error c : Except ε α) := nofun
theorem bind {x : Except ε α} {f : α → Except ε β} (hx : Yields P x) (hf : ∀ a, P a → Yields Q (f a)) : Yields Q (x >>= f) := by
  cases x with
  | ok a => exact hf a (hx a rfl)
  | error c => exact error
/-- A step whose result does not matter, like a check. -/
theorem skip {x : Except ε α} {f : α → Except ε β} (hf : ∀ a, Yields Q (f a)) : Yields Q (x >>= f) :=
  bind (P := fun _ => True) (fun _ _ => trivial) fun a _ => hf a
theorem map {x : Except ε α} {f : α → β} (hx : Yields P x) (hf : ∀ a, P a → Q (f a)) : Yields Q (x.map f) := by
  cases x with
  | ok a => exact ok (hf a (hx a rfl))
  | error c => exact error
theorem ite {c : Prop} [Decidable c] {x y : Except ε α} (hx : Yields P x) (hy : Yields P y) : Yields P (if c then x else y) := by
  split
  · exact hx
  · exact hy
theorem foldl {f : Except ε α → β → Except ε α} (hf : ∀ acc b, Yields P acc → Yields P (f acc b)) (l : List β) {acc : Except ε α}
    (h : Yields P acc) : Yields P (l.foldl f acc) := by
  induction l generalizing acc with
  | nil => exact h
  | cons b l ih => exact ih (hf acc b h)

end Yields

/-! ### Operations that leave the partitions alone -/

theorem setLog_parts (s : State) (a : ErrArray) (l : ErrLog) : (setLog s a l).parts = s.parts := by
  cases a <;> rfl

theorem logError_parts (s : State) (a : ErrArray) (kind address tag part : Nat) : (logError s a kind address tag part).parts = s.parts := by
  unfold logError
  dsimp only
  split
  · exact setLog_parts _ _ _
  · split <;> exact setLog_parts _ _ _

theorem injectOn_parts (s : State) (tag pa n : Nat) : (injectOn s tag pa n).parts = s.parts := by
  unfold injectOn
  dsimp only
  repeat' split
  all_goals simp only [logError_parts, setLog_parts]

theorem writeMemBy_parts (s : State) (tag pa n v : Nat) : (writeMemBy s tag pa n v).parts = s.parts := injectOn_parts _ _ _ _
theorem writeMem_parts (s : State) (pa n v : Nat) : (writeMem s pa n v).parts = s.parts := writeMemBy_parts s 0 pa n v

/-! ### The table of loads -/

/-- Every partition has the same loads and the same load status in both states. -/
def SameLoads (s t : State) : Prop := ∀ p, (t.partAt p).loads = (s.partAt p).loads ∧ (t.partAt p).loadStatus = (s.partAt p).loadStatus

@[simp] theorem State.partAt_modPart_self (s : State) (p : Nat) (f : Partition → Partition) : (s.modPart p f).partAt p = f (s.partAt p) :=
  State.partAt_setPart_self _ _ _

namespace SameLoads
variable {s t u : State}

theorem refl (s : State) : SameLoads s s := fun _ => ⟨rfl, rfl⟩
theorem trans (h : SameLoads s t) (g : SameLoads t u) : SameLoads s u :=
  fun p => ⟨(g p).1.trans (h p).1, (g p).2.trans (h p).2⟩
theorem of_parts (h : t.parts = s.parts) : SameLoads s t := fun p => by simp only [State.partAt, h, and_self]
theorem modPart {p : Nat} {f : Partition → Partition} (hl : (f (s.partAt p)).loads = (s.partAt p).loads)
    (hs : (f (s.partAt p)).loadStatus = (s.partAt p).loadStatus) : SameLoads s (s.modPart p f) := by
  intro q
  by_cases h : q = p
  · subst h
    rw [State.partAt_modPart_self]
    exact ⟨hl, hs⟩
  · rw [State.modPart, State.partAt_setPart_of_ne h]
    exact ⟨rfl, rfl⟩
theorem ite {c : Prop} [Decidable c] (ht : SameLoads s t) (hu : SameLoads s u) : SameLoads s (if c then t else u) := by
  split
  · exact ht
  · exact hu
/-- A fold over an accumulator that carries the state in `get`. -/
theorem foldl {α β : Type} {get : α → State} {f : α → β → α} (hf : ∀ a b, SameLoads (get a) (get (f a b))) (l : List β) (a : α) :
    SameLoads (get a) (get (l.foldl f a)) := by
  induction l generalizing a with
  | nil => exact refl _
  | cons b l ih => exact (hf a b).trans (ih _)
theorem foldlState {β : Type} {f : State → β → State} (hf : ∀ s b, SameLoads s (f s b)) (l : List β) (s : State) :
    SameLoads s (l.foldl f s) :=
  foldl (get := id) hf l s

end SameLoads

/-! ### Engines' writes and events -/

theorem sameLoads_writeMem (s : State) (pa n v : Nat) : SameLoads s (writeMem s pa n v) := .of_parts (writeMem_parts _ _ _ _)
theorem sameLoads_setPool (s : State) (p i : Nat) (d : BitVec 256) : SameLoads s (setPool s p i d) := .modPart rfl rfl
theorem sameLoads_setChan (s : State) (p ch : Nat) (c : Chan) : SameLoads s (s.setChan p ch c) := .modPart rfl rfl
theorem sameLoads_raiseMsix (s : State) (v : Nat) : SameLoads s (raiseMsix s v) := .of_parts rfl

theorem sameLoads_partEvent (s : State) (p bit : Nat) : SameLoads s (partEvent s p bit) := by
  have pending : SameLoads s (s.modPart p fun q => { q with pevpend := (s.partAt p).pevpend ||| (1#6 <<< bit) }) := .modPart rfl rfl
  refine .ite (.refl s) (.ite (pending.trans (.of_parts ?_)) pending)
  dsimp only
  split <;> split <;> rfl

theorem sameLoads_faultEvent (s : State) (p : Nat) (rec : BitVec 256) : SameLoads s (faultEvent s p rec) := by
  have queued : SameLoads s (s.modPart p fun q => { q with faultEvents := q.faultEvents ++ [rec] }) := .modPart rfl rfl
  exact .ite (queued.trans (sameLoads_partEvent _ _ _)) queued

theorem sameLoads_storeBytes (s : State) (p pa n v : Nat) : SameLoads s (storeBytes s p pa n v) := by
  have note (t : State) : SameLoads t (match lineOf pa with | some (c, l) => noteLine t c l | none => t) := by
    cases lineOf pa <;> exact .of_parts rfl
  have home (t : State) : SameLoads t (match regionOf pa with
      | some .hbm => sinkReset t p | some (.host o) => sendHost t (.write o n v) | _ => t) := by
    split
    · exact .modPart rfl rfl
    · exact .of_parts rfl
    · exact .refl t
  have bytes : SameLoads s (if isPlain pa then writeMemBy s 0 pa n v else s) := .ite (.of_parts (writeMemBy_parts _ _ _ _ _)) (.refl s)
  exact (bytes.trans (home _)).trans (note _)

/-! ### Launch records -/

theorem sameLoads_engStore (s : State) (p pa n v : Nat) : SameLoads s (engStore s p pa n v).1 := by
  unfold engStore
  split
  · exact .refl s
  · exact sameLoads_storeBytes _ _ _ _ _

theorem sameLoads_queueInterrupt (s : State) (p : Nat) (q : Option Nat) : SameLoads s (queueInterrupt s p q) := by
  cases q with
  | none => exact .refl s
  | some q => exact .ite (sameLoads_raiseMsix _ _) (.refl s)

/-- A completion object is written, or its fault reported (R343). -/
theorem writeCompletion_sameLoads (s : State) (p : Nat) (sup : Bool) (cobj : Nat) (c : Completion) (q : Option Nat) :
    Yields (fun x => SameLoads s x.1) (writeCompletion s p sup cobj c q) := by
  refine .ite (.ok (.refl s)) ?_
  split
  next => exact .error
  next => exact .error
  next =>
    exact .ok (((sameLoads_engStore _ _ _ _ _).trans (sameLoads_engStore _ _ _ _ _)).trans (sameLoads_queueInterrupt _ _ _))
  next => exact .ite (.ok (sameLoads_faultEvent _ _ _)) .error

theorem refuseRecord_sameLoads (s : State) (p : Nat) (r : BitVec 512) (sup : Bool) (q : Option (Nat × Nat)) :
    Yields (fun x => SameLoads s x.1) (refuseRecord s p r sup q) := by
  refine .ite (writeCompletion_sameLoads _ _ _ _ _ _) (.ok (.trans ?_ (sameLoads_partEvent _ _ _)))
  cases q with
  | none => exact .refl s
  | some q => exact sameLoads_setChan _ _ _ _

theorem sameLoads_enqueueLaunch (s : State) (p : Nat) (r : BitVec 512) (sup : Bool) (die : Nat) (src : LaunchSrc) :
    SameLoads s (enqueueLaunch s p r sup die src).2 :=
  SameLoads.trans (t := s.setLaunch p _ _) (.modPart rfl rfl) (.of_parts rfl)

theorem submitRecord_sameLoads (s : State) (p : Nat) (r : BitVec 512) (sup : Bool) (die : Nat) (src : LaunchSrc) (q : Option (Nat × Nat)) :
    Yields (fun x => SameLoads s x.1) (submitRecord s p r sup die src q) :=
  .ite (refuseRecord_sameLoads _ _ _ _ _) (.ok (sameLoads_enqueueLaunch _ _ _ _ _ _))

theorem sameLoads_enterRecord (s : State) (p : Nat) (q : BitVec 512 × Nat × Nat) : SameLoads s (enterRecord s p q).1 := by
  unfold enterRecord
  split
  next x h => exact submitRecord_sameLoads _ _ _ _ _ _ _ x h
  next => exact .modPart rfl rfl

/-! ### Mapping the area (step 4 of R21) -/

theorem clearMem_parts (s : State) (lo n : Nat) : (clearMem s lo n).parts = s.parts := rfl

theorem mapRange_sameLoads (s : State) (p va pa size : Nat) (wr : Bool) : Yields (fun x => SameLoads s x.2) (mapRange s p va pa size wr) := by
  unfold mapRange
  split
  · exact .error
  · exact .ok (.modPart rfl rfl)

theorem mapPage_sameLoads (p va pa : Nat) (wr : Bool) (area : Nat × Nat) (levels : List Nat) (tbl spare : Nat) (s : State) :
    Yields (fun x => SameLoads s x.2.2) (mapPage p va pa wr area levels tbl spare s) := by
  induction levels generalizing tbl spare s with
  | nil => exact .ite .error (.ok (sameLoads_writeMem _ _ _ _))
  | cons l ls ih =>
    refine .ite .error (.ite ?_ (.ite .error ?_))
    · split
      · exact ih _ _ _
      · exact .error
    · have taken : SameLoads s ((clearMem s spare 4096).modPart p fun q => { q with tables := q.tables ++ [spare] }) :=
        (SameLoads.of_parts (clearMem_parts _ _ _)).trans (.modPart rfl rfl)
      exact fun x h => (taken.trans (sameLoads_writeMem _ _ _ _)).trans (ih _ _ _ x h)

theorem mapPages_sameLoads (p va pa : Nat) (wr : Bool) (area : Nat × Nat) (n spare : Nat) (s : State) :
    Yields (fun x => SameLoads s x.2.2) (mapPages p va pa wr area n spare s) := by
  refine .ite .error (.foldl (fun acc k h => ?_) _ (.ok (.refl s)))
  exact .bind h fun ⟨l, sp, t⟩ ht => .bind (mapPage_sameLoads _ _ _ _ _ _ _ _ t) fun ⟨a, sp', t'⟩ ht' => .ok (ht.trans ht')

theorem mapPieces_sameLoads (r : LoadReq) (size : Nat) (ps : List (Piece × Nat)) (s : State) :
    Yields (fun x => SameLoads s x.2.2) (mapPieces r size ps s) := by
  refine .ite (.ok (.refl s)) (.ite .error (.ite ?ranges (.ite ?pages .error)))
  case ranges =>
    refine .foldl (fun acc q h => ?_) _ (.ok (.refl s))
    exact .bind h fun ⟨rs, ts, t⟩ ht => .bind (mapRange_sameLoads t _ _ _ _ _) fun ⟨i, t'⟩ ht' => .ok (ht.trans ht')
  case pages =>
    refine .map (P := fun x => SameLoads s x.2.2) (.foldl (fun acc q h => ?_) _ (.ok (.refl s))) fun _ h => h
    exact .bind h fun ⟨ts, sp, t⟩ ht => .bind (mapPages_sameLoads _ _ _ _ _ _ _ t) fun ⟨l, sp', t'⟩ ht' => .ok (ht.trans ht')

/-! ### Channels (step 4 of R21) -/

theorem sameLoads_chanEnable (s : State) (p ch : Nat) (cfg : BitVec 512) : SameLoads s (chanEnable s p ch cfg) :=
  .ite (sameLoads_setChan _ _ _ _) ((sameLoads_setChan _ _ _ _).trans (sameLoads_setPool _ _ _ _))

/-! The defining equation of `makeChans`, one for each answer of the search for a free channel. Lean does not find it, since it would run that
search through its 4,096 numbers; `delta` lays the recursion bare without running it. -/

theorem makeChans_cons_none {p : Nat} {o : Nat × Nat} {r : Rec} {rs : List Rec} {used : List Nat} {s : State} (h : freeChan s p used = none) :
    makeChans p o (r :: rs) used s = .error 4 := by
  delta makeChans makeChans._f
  dsimp only
  rw [h]

theorem makeChans_cons_some {p : Nat} {o : Nat × Nat} {r : Rec} {rs : List Rec} {used : List Nat} {s : State} {ch : Nat}
    (h : freeChan s p used = some ch) :
    makeChans p o (r :: rs) used s = (do
      let d ← copyDesc s p o ch (withField (BitVec.ofNat 512 (bytesNat r.body)) 0 0 1)
      let c : Chan := { Chan.reset with cfg := d }
      guardE (chanOk s p c && !cXp c && !cProxy c) 2
      guardE (chanPoolOk s p c) 4
      makeChans p o rs (used ++ [ch]) (chanEnable s p ch d)) := by
  delta makeChans makeChans._f
  dsimp only
  rw [h]

theorem makeChans_sameLoads (p : Nat) (o : Nat × Nat) (recs : List Rec) (used : List Nat) (s : State) :
    Yields (fun x => SameLoads s x.2) (makeChans p o recs used s) := by
  induction recs generalizing used s with
  | nil => exact .ok (.refl s)
  | cons r rs ih =>
    cases h : freeChan s p used with
    | none =>
      rw [makeChans_cons_none h]
      exact .error
    | some ch =>
      rw [makeChans_cons_some h]
      exact .skip fun d => .skip fun _ => .skip fun _ => fun x hx => (sameLoads_chanEnable _ _ _ _).trans (ih _ _ x hx)

theorem allocChans_sameLoads (recs : List Rec) (p : Nat) (os : List (Nat × Nat)) (used : List Nat) (s : State) :
    Yields (fun x => SameLoads s x.2) (allocChans recs p os used s) := by
  induction os generalizing used s with
  | nil => exact .ok (.refl s)
  | cons o os ih =>
    exact .bind (makeChans_sameLoads _ _ _ _ s) fun ⟨all, t⟩ ht => .bind (ih all t) fun ⟨rest, t'⟩ ht' => .ok (ht.trans ht')

/-! ### Writing a copy (steps 5 and 6 of R21, R22) -/

theorem sameLoads_writeBytes (s : State) (pa : Nat) (b : Bytes) : SameLoads s (writeBytes s pa b) := sameLoads_writeMem _ _ _ _
theorem sameLoads_zeroLine (n : Nat) (s : State) (l : Nat) : SameLoads s (zeroLine n s l) := .of_parts rfl
theorem sameLoads_setEmpty (s : State) (n l : Nat) : SameLoads s (setEmpty s n l) := .of_parts rfl

theorem sameLoads_writeSect (t : Sect) (s : State) (n : Nat) : SameLoads s (writeSect t s n) :=
  .ite (sameLoads_writeBytes _ _ _) (.ite (.foldlState (fun u l => sameLoads_setEmpty u n l) _ s) (sameLoads_writeBytes _ _ _))

theorem sameLoads_zeroLines (t : Sect) (s : State) (n : Nat) : SameLoads s (zeroLines t s n) :=
  .ite (.refl s) (.foldlState (sameLoads_zeroLine n) _ s)

theorem sameLoads_coreLayout (s : State) (n : Nat) : SameLoads s (coreLayout s n) :=
  (SameLoads.foldlState (sameLoads_zeroLine n) layoutLines s).trans (.of_parts (State.parts_modCore _ _ _))

theorem writeEntries_sameLoads (p : Nat) (o : Nat × Nat) (chans : List Nat) (recs : List Rec) (s : State) :
    Yields (SameLoads s) (writeEntries p o chans recs s) := by
  induction recs generalizing s with
  | nil => exact .ok (.refl s)
  | cons r rs ih =>
    refine .bind (.foldl (P := SameLoads s) (fun acc n h => .bind h fun t ht => ?_) _ (.ok (.refl s))) fun t ht => fun x h => ht.trans (ih t x h)
    exact .ite (.skip fun _ => .ok (ht.trans (.of_parts rfl))) (.skip fun _ => .ok (ht.trans (.of_parts rfl)))

theorem loadCopy_sameLoads {s : State} (im : Image) (p : Nat) (res : Resolved) (recs : List Rec) {acc : Except Nat State}
    (o : (Nat × Nat) × List Nat) (h : Yields (SameLoads s) acc) : Yields (SameLoads s) (loadCopy im p res recs acc o) := by
  refine .bind h fun t ht => .skip fun sects => fun x hx => ?_
  dsimp only at hx
  have each (f : Sect → State → Nat → State) (hf : ∀ q u n, SameLoads u (f q u n)) (l : List Sect) (u : State) :
      SameLoads u (l.foldl (fun (u : State) q => (subCores o.1 q.px q.py q.pw q.ph).foldl (f q) u) u) :=
    .foldlState (fun u q => .foldlState (hf q) _ u) l u
  have laid := SameLoads.foldlState sameLoads_coreLayout (subCores o.1 0 0 (hdFw im.hdr) (hdFh im.hdr)) t
  have zeroed := each _ sameLoads_zeroLines (sects.filter fun q => q.kind ≤ 4)
  have written := each _ sameLoads_writeSect (sects.filter fun q => q.kind ≤ 4)
  exact (((ht.trans laid).trans (zeroed _)).trans (written _)).trans (writeEntries_sameLoads _ _ _ _ _ x hx)

theorem sameLoads_writeIndexes (s : State) (p : Nat) (l : List (Nat × Nat × Nat)) : SameLoads s (writeIndexes s p l) :=
  .foldlState (fun _ _ => .modPart rfl rfl) l s

/-! ### The load (R21) -/

theorem parseImage_hdr (bytes : Bytes) (sys : Bool) : Yields (fun im => im.hdr = imgHeader bytes) (parseImage bytes sys) := by
  unfold parseImage
  exact .skip fun _ => .skip fun _ => .skip fun _ => .skip fun _ => .skip fun _ => .skip fun _ => .skip fun _ => .skip fun _ => .skip fun _ =>
    .skip fun _ => .skip fun _ => .ok rfl

/-- What a load that passes every step leaves in its partition: status 0, and a new load with the cores of the footprints. -/
def HasLoaded (s : State) (r : LoadReq) (t : State) : Prop :=
  (t.partAt r.part).loadStatus = 0 ∧ ∃ l, (t.partAt r.part).loads = (s.partAt r.part).loads ++ [l] ∧
    l.cores = r.origins.flatMap fun o => subCores o 0 0 (hdFw (imgHeader r.image)) (hdFh (imgHeader r.image))

theorem HasLoaded.sameLoads {s t u : State} {r : LoadReq} (h : HasLoaded s r t) (g : SameLoads t u) : HasLoaded s r u := by
  obtain ⟨status, l, loads, cores⟩ := h
  exact ⟨(g r.part).2.trans status, l, (g r.part).1.trans loads, cores⟩

theorem HasLoaded.added {s t : State} {r : LoadReq} {l : Loaded} (h : SameLoads s t)
    (cores : l.cores = r.origins.flatMap fun o => subCores o 0 0 (hdFw (imgHeader r.image)) (hdFh (imgHeader r.image))) :
    HasLoaded s r (t.modPart r.part fun q => { q with loadStatus := 0, loads := q.loads ++ [l] }) := by
  rw [HasLoaded, State.partAt_modPart_self]
  exact ⟨rfl, l, by rw [(h r.part).1], cores⟩

theorem loadSteps_hasLoaded (s : State) (r : LoadReq) : Yields (fun x => HasLoaded s r x.1) (loadSteps s r) := by
  unfold loadSteps
  refine .bind (parseImage_hdr _ _) fun im hdr => .skip fun ⟨lay, shared, recs, relocsOk⟩ => .skip fun _ => .skip fun _ => .skip fun _ =>
    .skip fun _ => .skip fun _ => .skip fun _ => .skip fun ixs => .skip fun _ => ?_
  refine .bind (mapPieces_sameLoads _ _ _ s) fun ⟨ranges, ptes, s1⟩ mapped => ?_
  refine .bind (allocChans_sameLoads _ _ _ _ s1) fun ⟨chans, s2⟩ allocated => .skip fun _ => ?_
  have cleared := (mapped.trans allocated).trans (.of_parts (clearMem_parts s2 r.hbmPa lay.size))
  refine .bind (.foldl (fun acc o h => loadCopy_sameLoads im r.part lay.res recs o h) _ (.ok cleared)) fun s3 copied => ?_
  refine .ok (.sameLoads (.added ?before ?cores) (.foldl (get := Prod.fst) ?launches _ _))
  case before =>
    exact ((copied.trans (.foldlState (fun u q => .ite (sameLoads_writeBytes _ _ _) (.refl u)) _ _)).trans (sameLoads_writeIndexes _ _ _)).trans
      (.foldlState (fun u q => sameLoads_writeBytes _ _ _) _ _)
  case cores => rw [hdr]
  case launches => exact fun acc i => sameLoads_enterRecord _ _ _

theorem drainWrites_nil (hyp : Bool) (who : Requester) (fuel : Nat) (s : State) : drainWrites hyp who fuel s [] = some s := by
  cases fuel <;> rfl

/-- A step that leaves no window writes ends in the state that it gives. -/
theorem settlePart_nil (s : State) (p : Nat) (t : State) : settlePart s p (t, []) = t := by
  rw [settlePart, settle, drainWrites_nil, Option.getD_some]

/-- A load for a partition is settled on the partition's behalf. -/
theorem exec_imageLoad {r : LoadReq} {s : State} (h : r.sys = false) : exec (.imageLoad r) s = .next (settlePart s r.part (imageLoad s r)) := by
  show execImageLoad r s = _
  rw [execImageLoad, h]
  rfl

theorem imageLoad_unsigned {s : State} {r : LoadReq} (h : signatureOk r.image (partKey s r.part) = false) :
    imageLoad s r = (s.modPart r.part fun q => { q with loadStatus := 1 }, []) := by
  simp only [imageLoad, h, Bool.not_false, if_true]

theorem imageLoad_error {s : State} {r : LoadReq} {c : Nat} (h : signatureOk r.image (partKey s r.part) = true) (hc : loadSteps s r = .error c) :
    imageLoad s r = (s.modPart r.part fun q => { q with loadStatus := c }, []) := by
  simp only [imageLoad, h, hc, Bool.not_true, Bool.false_eq_true, if_false]

theorem imageLoad_ok {s : State} {r : LoadReq} {x : State × WinWrites} (h : signatureOk r.image (partKey s r.part) = true)
    (hx : loadSteps s r = .ok x) : imageLoad s r = x := by
  simp only [imageLoad, h, hx, Bool.not_true, Bool.false_eq_true, if_false]

/-! ### The unload (R365) -/

theorem exec_imageUnload (p load : Nat) (s : State) : exec (.imageUnload p load) s = .next (imageUnload s p load) := rfl

/-- What is left of a partition when a load that holds nothing but range entries and indexes has gone. -/
def withoutLoad (l : Loaded) (q : Partition) : Partition :=
  { q with
    loadStatus := 0
    indexes := q.indexes.filter fun i => !hasNat l.indexes i.1
    ranges := l.ranges.foldl (fun (v : Vector (BitVec 256) 32) i => v.set (Fin.ofNat 32 i) 0) q.ranges
    oldRanges := q.oldRanges ++ l.ranges.map (fun i => (i, q.ranges[Fin.ofNat 32 i]))
    loads := q.loads.filter fun o => o.handle != l.handle }

theorem imageUnload_idle {s : State} {p : Nat} {l : Loaded} (found : (s.partAt p).loads.find? (fun o => o.handle == l.handle) = some l)
    (binds : l.binds = []) (wins : l.wins = []) (channels : l.channels = []) (graphs : l.graphs = []) (ptes : l.ptes = [])
    (launches : ∀ q ∈ (s.partAt p).launches, q.2.src ≠ .image l.handle) (records : ∀ q ∈ (s.partAt p).imageRecs, q.2.2 ≠ l.handle) :
    imageUnload s p l.handle = s.modPart p (withoutLoad l) := by
  unfold imageUnload
  rw [found]
  dsimp only
  rw [if_neg]
  · simp only [binds, wins, channels, ptes, List.foldl_nil]
    rfl
  · have noRecord : ((s.partAt p).imageRecs.all fun q => q.2.2 != l.handle) = true :=
      List.all_eq_true.2 fun q hq => bne_iff_ne.2 (records q hq)
    simp only [binds, channels, graphs, noRecord, List.any_nil, List.all_nil, Bool.not_false, Bool.and_true, Bool.true_and,
      Bool.not_eq_true', Bool.not_eq_false, Bool.and_eq_true, List.all_eq_true, implies_true, and_true]
    intro q hq
    split
    next h e => exact bne_iff_ne.2 fun same => launches q hq (same ▸ e)
    next => rfl

/-- An entry that one of the numbers names reads 0 afterwards, and any other as before. -/
theorem getElem_foldl_set_zero (l : List Nat) (v : Vector (BitVec 256) 32) (j : Fin 32) :
    (l.foldl (fun (v : Vector (BitVec 256) 32) i => v.set (Fin.ofNat 32 i) 0) v)[j] = if j ∈ l.map (Fin.ofNat 32) then 0 else v[j] := by
  induction l generalizing v with
  | nil => rfl
  | cons i l ih =>
    rw [List.foldl_cons, ih]
    simp only [List.map_cons, List.mem_cons, Fin.getElem_fin, Vector.getElem_set, ← Fin.ext_iff, eq_comm (a := j)]
    by_cases hj : j ∈ l.map (Fin.ofNat 32)
    · simp only [hj, or_true, if_true]
    · simp only [hj, or_false, if_false]

theorem getN_filter {α : Type} (keep : Nat → Bool) (n : Nat) (l : List (Nat × α)) :
    getN n (l.filter fun q => keep q.1) = if keep n then getN n l else none := by
  induction l with
  | nil => simp [getN]
  | cons q l ih =>
    obtain ⟨k, a⟩ := q
    by_cases h : k = n
    · subst h
      cases hk : keep k <;> simp [getN, hk, ih]
    · cases hk : keep k <;> simp [getN, hk, h, ih]

theorem hasNat_of_mem {l : List Nat} {n : Nat} (h : n ∈ l) : hasNat l n = true := List.any_eq_true.2 ⟨n, h, beq_self_eq_true n⟩

theorem getN_indexes_withoutLoad {l : Loaded} {q : Partition} {i : Nat} (h : i ∈ l.indexes) : getN i (withoutLoad l q).indexes = none := by
  have gone := getN_filter (fun n => !hasNat l.indexes n) i q.indexes
  rw [hasNat_of_mem h] at gone
  exact gone

theorem ranges_withoutLoad {l : Loaded} {q : Partition} {i : Nat} (h : i ∈ l.ranges) : (withoutLoad l q).ranges[Fin.ofNat 32 i] = 0 := by
  rw [withoutLoad, getElem_foldl_set_zero, if_pos (List.mem_map_of_mem h)]

/-! ### O53 -/

/-- Settles O53: a load by the three ways that `imageLoad` ends, an unload by what `withoutLoad` leaves. -/
theorem imagesLoadAndUnload : Obligations.ImagesLoadAndUnload := by
  intro s r
  refine ⟨fun noSys => ⟨fun unsigned => ?_, fun c signed failed => ?_, fun t signed passed => ?_⟩,
    fun p l found binds wins channels graphs ptes launches records =>
      ⟨s.modPart p (withoutLoad l), ?_, ?_, ?_, fun i hi _ => ?_, fun i hi => ?_⟩⟩
  · rw [exec_imageLoad noSys, imageLoad_unsigned unsigned, settlePart_nil]
  · rw [exec_imageLoad noSys, imageLoad_error signed failed, settlePart_nil]
  · obtain ⟨status, added⟩ := loadSteps_hasLoaded s r _ passed
    exact ⟨by rw [exec_imageLoad noSys, imageLoad_ok signed passed, settlePart_nil], status, added⟩
  · rw [exec_imageUnload, imageUnload_idle found binds wins channels graphs ptes launches records]
  · rw [State.partAt_modPart_self, withoutLoad]
  · rw [State.partAt_modPart_self, withoutLoad]
  · rw [State.partAt_modPart_self, ranges_withoutLoad hi]
  · rw [indexAt, State.partAt_modPart_self, getN_indexes_withoutLoad hi, Option.getD_none]

end Sys2Proof.Machine
end

section
/-!
SUPPORT and the settlement of O10 and O9. The round trips of the single instructions put together, and the words that the spec shows assembled
(R37 to R55).
-/
namespace Sys2Proof.Laws.RoundTrip

/-- Nothing is asked of a step of another agent, which has no words. -/
theorem of_isStep {i : Instr} (h : i.isStep = true) : Statement i := fun _ h' => Bool.noConfusion (h.symm.trans h')

/-- Decoding undoes encoding for every constructor: the laws of the single instructions, in the order of the opcode map (R49), and below them
the other agents' steps. -/
theorem statement (i : Instr) : Statement i := by
  cases i with
  | nop o => exact nop o | trap o => exact trap o | eret o => exact eret o | getc o => exact getc o | setc o => exact setc o
  | park o => exact park o | bkpt o => exact bkpt o | xinv o => exact xinv o
  | add o => exact add o | sub o => exact sub o | and o => exact and o | or o => exact or o | xor o => exact xor o | andn o => exact andn o
  | sll o => exact sll o | srl o => exact srl o | sra o => exact sra o | slt o => exact slt o | sltu o => exact sltu o | min o => exact min o
  | max o => exact max o | minu o => exact minu o | maxu o => exact maxu o | clz o => exact clz o | ctz o => exact ctz o | popc o => exact popc o
  | sextW o => exact sextW o | zextW o => exact zextW o | bext o => exact bext o | addi o => exact addi o | andi o => exact andi o
  | ori o => exact ori o | xori o => exact xori o | slti o => exact slti o | sltiu o => exact sltiu o | slli o => exact slli o
  | srli o => exact srli o | srai o => exact srai o | lih o => exact lih o | mul o => exact mul o | mulh o => exact mulh o
  | mulhu o => exact mulhu o | mulhsu o => exact mulhsu o | div o => exact div o | divu o => exact divu o | rem o => exact rem o
  | remu o => exact remu o | beq o => exact beq o | bne o => exact bne o | blt o => exact blt o | bge o => exact bge o | bltu o => exact bltu o
  | bgeu o => exact bgeu o | bbs o => exact bbs o | bbc o => exact bbc o | jal o => exact jal o | jalr o => exact jalr o | loop o => exact loop o
  | loopi o => exact loopi o
  | fadd o => exact fadd o | fsub o => exact fsub o | fmul o => exact fmul o | fdiv o => exact fdiv o | fsqrt o => exact fsqrt o
  | fmin o => exact fmin o | fmax o => exact fmax o | feq o => exact feq o | flt o => exact flt o | fle o => exact fle o
  | fclass o => exact fclass o | fsgnj o => exact fsgnj o | fsgnjn o => exact fsgnjn o | fcvtF32I64 o => exact fcvtF32I64 o
  | fcvtI64F32 o => exact fcvtI64F32 o | fcvtF32Bf16 o => exact fcvtF32Bf16 o | fcvtBf16F32 o => exact fcvtBf16F32 o
  | fcvtF32F16 o => exact fcvtF32F16 o | fcvtF16F32 o => exact fcvtF16F32 o | frsqe o => exact frsqe o | frcpe o => exact frcpe o
  | fmadd o => exact fmadd o | fmsub o => exact fmsub o | fnmadd o => exact fnmadd o | fnmsub o => exact fnmsub o
  | ldB o => exact ldB o | ldBu o => exact ldBu o | ldH o => exact ldH o | ldHu o => exact ldHu o | ldW o => exact ldW o | ldWu o => exact ldWu o
  | ldD o => exact ldD o | ldAcq o => exact ldAcq o | stB o => exact stB o | stH o => exact stH o | stW o => exact stW o | stD o => exact stD o
  | stRel o => exact stRel o | stf o => exact stf o | amoAdd o => exact amoAdd o | amoAnd o => exact amoAnd o | amoOr o => exact amoOr o
  | amoXor o => exact amoXor o | amoMin o => exact amoMin o | amoMax o => exact amoMax o | amoMinu o => exact amoMinu o
  | amoMaxu o => exact amoMaxu o | amoSwap o => exact amoSwap o | amoCas o => exact amoCas o | amoFaddF32 o => exact amoFaddF32 o
  | amoFaddBf16x2 o => exact amoFaddBf16x2 o | fence o => exact fence o | drain o => exact drain o | feClr o => exact feClr o
  | feSet o => exact feSet o | feTest o => exact feTest o | fePeek o => exact fePeek o | winSet o => exact winSet o
  | winDrop o => exact winDrop o | winTouch o => exact winTouch o | winState o => exact winState o
  | copy o => exact copy o | copySt o => exact copySt o
  | send o => exact send o | sendv o => exact sendv o | mcast o => exact mcast o | grpArm o => exact grpArm o | redF32 o => exact redF32 o
  | redI64 o => exact redI64 o | grpWait o => exact grpWait o | grpFree o => exact grpFree o
  | done o => exact done o | yield o => exact yield o | rngPush o => exact rngPush o | rngTake o => exact rngTake o | launch o => exact launch o
  | join o => exact join o | replay o => exact replay o | lnstat o => exact lnstat o
  | chOpen o => exact chOpen o | chW o => exact chW o | chWv o => exact chWv o | chR o => exact chR o | chRv o => exact chRv o
  | chAvail o => exact chAvail o | chSpace o => exact chSpace o | chRes o => exact chRes o | chPub o => exact chPub o
  | chClose o => exact chClose o | dqEmit o => exact dqEmit o | dqRead o => exact dqRead o | dqCork o => exact dqCork o
  | dqCons o => exact dqCons o | dqQuiet o => exact dqQuiet o | ixUpd o => exact ixUpd o | ixLook o => exact ixLook o
  | ixNext o => exact ixNext o | ixClear o => exact ixClear o
  | vadd o => exact vadd o | vsub o => exact vsub o | vmul o => exact vmul o | vmin o => exact vmin o | vmax o => exact vmax o
  | vabs o => exact vabs o | vneg o => exact vneg o | vrsqe o => exact vrsqe o | vrcpe o => exact vrcpe o | vexp2 o => exact vexp2 o
  | vfeq o => exact vfeq o | vflt o => exact vflt o | vfle o => exact vfle o | vfmadd o => exact vfmadd o | vfmsub o => exact vfmsub o
  | vfnmadd o => exact vfnmadd o | vfnmsub o => exact vfnmsub o | vaddI o => exact vaddI o | vsubI o => exact vsubI o | vmulI o => exact vmulI o
  | vand o => exact vand o | vor o => exact vor o | vxor o => exact vxor o | vsll o => exact vsll o | vsrl o => exact vsrl o
  | vsra o => exact vsra o | vminI o => exact vminI o | vmaxI o => exact vmaxI o | vminu o => exact vminu o | vmaxu o => exact vmaxu o
  | vieq o => exact vieq o | vilt o => exact vilt o | viltu o => exact viltu o | vcvt o => exact vcvt o | vquant o => exact vquant o
  | vdequant o => exact vdequant o | vredsum o => exact vredsum o | vredmax o => exact vredmax o | vredmin o => exact vredmin o
  | vscan o => exact vscan o | vbcast o => exact vbcast o | vperm o => exact vperm o | vslup o => exact vslup o | vsldn o => exact vsldn o
  | vcompress o => exact vcompress o | vins o => exact vins o | vext o => exact vext o | viota o => exact viota o | vmov o => exact vmov o
  | vsel o => exact vsel o | mand o => exact mand o | mor o => exact mor o | mxor o => exact mxor o | mnot o => exact mnot o
  | mpopc o => exact mpopc o | mfirst o => exact mfirst o | mset o => exact mset o | mget o => exact mget o
  | vld o => exact vld o | vst o => exact vst o | vgather o => exact vgather o | vscatter o => exact vscatter o | vldbc o => exact vldbc o
  | vanc o => exact vanc o
  | gang o => exact gang o | gstat o => exact gstat o | accRd o => exact accRd o | accWr o => exact accWr o | accZero o => exact accZero o
  | accSpill o => exact accSpill o | accFill o => exact accFill o | accTag o => exact accTag o | hLd o => exact hLd o | hSt o => exact hSt o
  | hFill o => exact hFill o
  | _ => exact of_isStep rfl

end Sys2Proof.Laws.RoundTrip

namespace Sys2Proof.Machine

/-! ### O10 -/

/-- Settles O10: the round trip of each instruction, over all of them. -/
theorem encodeDecode : Obligations.EncodeDecode := Laws.RoundTrip.statement

/-! ### O9 -/

/-- Settles O9, by running the decoder on each of the nine words. -/
theorem wordsDecode : Obligations.WordsDecode := ⟨rfl, rfl, rfl, rfl, rfl, rfl, rfl, rfl, rfl⟩

end Sys2Proof.Machine
end

section
/-!
SUPPORT and the settlement of O6. The modes' tables of control registers as the boundary reads them, and the instructions that a mode may not use
(R55, R56, R173, R176, R356).
-/
namespace Sys2Proof.Machine

/-! ### The hypervisor's registers -/

theorem bitAt_zero {n : Nat} (w : BitVec n) : bitAt w 0 = w.getLsbD 0 := by
  simp only [bitAt, bitOf, BitVec.getLsbD, Nat.testBit_zero, pow_zero, Nat.div_one, beq_eq_decide]

theorem mgmtOf_eq_some {core : Nat} {d : Fin 4} : mgmtOf core = some d ↔ core = 4608 + d.val := by
  have cores : Config.cores = 4608 := rfl
  simp only [mgmtOf, Bool.and_eq_true, decide_eq_true_eq]
  split
  · simp only [Option.some.injEq, Fin.ext_iff, Fin.ofNat]
    omega
  · simp only [reduceCtorEq, false_iff]
    omega

/-- The boundary and the statements name the same hypervisor register (R356). -/
theorem hyperCreg_eq (s : State) (n : Nat) : hyperCreg s s.slot.core n = Spec.hyper s n := by
  cases h : Spec.hyper s n with
  | none =>
    have off := List.find?_eq_none.1 h
    cases hm : mgmtOf s.slot.core with
    | none => simp only [hyperCreg, hm]
    | some d =>
      have no := off d (List.mem_finRange d)
      simp only [decide_eq_true (mgmtOf_eq_some.1 hm), Bool.true_and, ← bitAt_zero] at no
      simp only [hyperCreg, hm, if_neg no]
  | some d =>
    have on := List.find?_some h
    simp only [Bool.and_eq_true, decide_eq_true_eq, and_assoc, ← bitAt_zero] at on
    obtain ⟨core, lo, hi, bit⟩ := on
    simp only [hyperCreg, mgmtOf_eq_some.2 core, decide_eq_true lo, decide_eq_true hi, bit, Bool.and_self, if_true]

/-! ### The access columns of the modes -/

/-- No number from 0x26 upward is assigned below the hypervisor's (R176, R323). -/
theorem cregAccess_none {n : Nat} (h : 0x26 ≤ n) : cregAccess n = none := by
  simp only [cregAccess, Bool.or_eq_true, Bool.and_eq_true, decide_eq_true_eq]
  repeat rw [if_neg (by omega)]

theorem lt_of_mem_reads {sup : Bool} {n : Nat} (h : n ∈ if sup = true then Spec.supReads else Spec.userReads) : n < 0x26 := by
  revert n
  cases sup <;> decide

theorem lt_of_mem_writes {sup : Bool} {n : Nat} (h : n ∈ if sup = true then Spec.supWrites else Spec.userWrites) : n < 0x26 := by
  revert n
  cases sup <;> decide

/-- The read columns, number by number up to 0x25; behind it both sides are empty. -/
theorem cregAccess_reads (sup : Bool) (n : Nat) :
    ((cregAccess n).any fun a => if sup then a.supR else a.userR) = decide (n ∈ if sup = true then Spec.supReads else Spec.userReads) := by
  by_cases h : n < 0x26
  · revert n
    cases sup <;> decide
  · rw [cregAccess_none (by omega), decide_eq_false fun m => h (lt_of_mem_reads m), Option.any_none]

/-- The write columns. -/
theorem cregAccess_writes (sup : Bool) (n : Nat) :
    ((cregAccess n).any fun a => if sup then a.supW else a.userW) = decide (n ∈ if sup = true then Spec.supWrites else Spec.userWrites) := by
  by_cases h : n < 0x26
  · revert n
    cases sup <;> decide
  · rw [cregAccess_none (by omega), decide_eq_false fun m => h (lt_of_mem_writes m), Option.any_none]

theorem cregReadable_eq {s : State} {n : Nat} (h : Spec.hyper s n = none) (sup : Bool) :
    cregReadable s s.slot.core sup n = decide (n ∈ if sup = true then Spec.supReads else Spec.userReads) := by
  rw [cregReadable, hyperCreg_eq, h, ← cregAccess_reads]
  cases cregAccess n <;> rfl

theorem cregWritable_eq {s : State} {n : Nat} (h : Spec.hyper s n = none) (sup : Bool) :
    cregWritable s s.slot.core sup n = decide (n ∈ if sup = true then Spec.supWrites else Spec.userWrites) := by
  rw [cregWritable, hyperCreg_eq, h, ← cregAccess_writes]
  cases cregAccess n <;> rfl

/-! ### An instruction that the mode may not use -/

theorem gate_illegal {s : State} {i : CtxId} {ins : Instr} (h : Free s i) (hi : (planOf ins).illegal s i = true) :
    gate s i ins = .trap ⟨(s.fir i).pc, 0x01, word0Of ins, none⟩ s := by
  simp only [gate, h.atBoundary, h.boundary, hi, Bool.not_true, Bool.false_eq_true, if_false, if_true]

/-- An instruction that is illegal in its mode only takes its trap, whatever its effect would be (R56). -/
theorem issue_illegal {s : State} {ins : Instr} (free : Free s s.slot) (outside : (s.fir s.slot).intrap = false)
    (checked : uncheckedStores (s.ctx s.slot) = false) (hi : (planOf ins).illegal s s.slot = true) (f : State → CtxId → State) :
    Only s (issue ins f s) s.slot ((s.ctx s.slot).enter ⟨(s.fir s.slot).pc, 0x01, word0Of ins, none⟩) := by
  simp only [issue, gate_illegal free hi]
  exact (Only.refl s s.slot).takeTrap _ (show fld (0x01 : Word) 7 0 ≠ 5 by decide) outside checked

/-! ### O6 -/

/-- Settles O6: each of the four is an `issue` whose plan is illegal in the mode. -/
theorem privilegeIsChecked : Obligations.PrivilegeIsChecked := by
  intro s ins free outside checked forbidden
  have trapped {i} (hi) (f) := issue_illegal (ins := i) free outside checked hi f
  rcases forbidden with ⟨user, ⟨o, rfl⟩ | ⟨o, rfl⟩⟩ | ⟨o, rfl, off, no⟩ | ⟨o, rfl, off, no⟩
  · exact ⟨_, rfl, trapped (by simp only [planOf_eret, userMode, user, Bool.not_false]) _⟩
  · exact ⟨_, rfl, trapped (by simp only [planOf_xinv, userMode, user, Bool.not_false]) _⟩
  · exact ⟨_, rfl, trapped (by simp only [planOf_getc, cregReadable_eq off, decide_eq_false no, Bool.not_false]) _⟩
  · exact ⟨_, rfl, trapped (by simp only [planOf_setc, cregWritable_eq off, decide_eq_false no, Bool.not_false]) _⟩

end Sys2Proof.Machine
end

section
/-!
SUPPORT and the settlement of O8. The fetch by the words that it needs, and the step that a granted issue slot takes (R40, R41, R55, R56, R88, R335).
-/
namespace Sys2Proof.Machine

/-! ### The words of a fetch -/

/-- A word that can be fetched lies in the code region and is sound. -/
theorem fetchFault_of_there {s : State} {n a : Nat} (h : a < 0x18000 ∧ poisonedIn s (scratchPa n a) 4 = none) : fetchFault s n a = none := by
  obtain ⟨below, sound⟩ := h
  rw [fetchFault, if_neg (show ¬ a ≥ scratchBytes from Nat.not_le.2 below), sound, Option.isSome_none, if_neg Bool.false_ne_true]

theorem fetchFault_of_not_there {s : State} {n a : Nat} (h : ¬ (a < 0x18000 ∧ poisonedIn s (scratchPa n a) 4 = none)) :
    fetchFault s n a = some (if 0x18000 ≤ a then 0x03 else 0x0F, BitVec.ofNat 64 a) := by
  by_cases above : 0x18000 ≤ a
  · rw [fetchFault, if_pos (show a ≥ scratchBytes from above), if_pos above]
  · have poison : (poisonedIn s (scratchPa n a) 4).isSome = true := Option.isSome_iff_ne_none.2 fun sound => h ⟨by omega, sound⟩
    rw [fetchFault, if_neg (show ¬ a ≥ scratchBytes from above), if_pos poison, if_neg above]

theorem wordCount_pos (w : Nat) : 0 < wordCount w := by
  unfold wordCount
  split_ifs <;> decide

section
variable {s : State} {n pc : Nat}

theorem no_fetchFault (h : ∀ k < wordCount (fetchWord s n pc), fetchFault s n (pc + 4 * k) = none) :
    (List.range (wordCount (fetchWord s n pc))).findSome? (fun k => fetchFault s n (pc + 4 * k)) = none :=
  List.findSome?_eq_none_iff.2 fun k hk => h k (List.mem_range.1 hk)

/-- Sound words give the instruction that they decode to (R41). -/
theorem fetch_ins {i : Instr} (h : ∀ k < wordCount (fetchWord s n pc), fetchFault s n (pc + 4 * k) = none)
    (decoded : decode (fetchWords s n pc) = .ok i) : fetch s n pc = .ins i := by
  have first : fetchFault s n pc = none := h 0 (wordCount_pos _)
  simp only [fetch, first, no_fetchFault h, decoded]

/-- Sound words that decode to nothing are an illegal instruction (R55, R56). -/
theorem fetch_illegal {e : DecErr} (h : ∀ k < wordCount (fetchWord s n pc), fetchFault s n (pc + 4 * k) = none)
    (rejected : decode (fetchWords s n pc) = .error e) : fetch s n pc = .illegal (BitVec.ofNat 64 (fetchWord s n pc)) := by
  have first : fetchFault s n pc = none := h 0 (wordCount_pos _)
  simp only [fetch, first, no_fetchFault h, rejected]

theorem findSome?_range_of_first {α : Type} {f : Nat → Option α} {n k : Nat} {a : α} (hk : k < n) (before : ∀ j < k, f j = none)
    (found : f k = some a) : (List.range n).findSome? f = some a := by
  have here : k < (List.range n).length := by rwa [List.length_range]
  have cut := List.take_append_drop k (List.range n)
  rw [List.take_range, Nat.min_eq_left hk.le, List.drop_eq_getElem_cons here, List.getElem_range] at cut
  exact List.findSome?_eq_some_iff.2 ⟨_, _, _, cut.symm, found, fun j hj => before j (List.mem_range.1 hj)⟩

/-- The first of the words that cannot be fetched decides (R40). -/
theorem fetch_fault {k : Nat} {c v : Word} (hk : k < wordCount (fetchWord s n pc)) (before : ∀ j < k, fetchFault s n (pc + 4 * j) = none)
    (missing : fetchFault s n (pc + 4 * k) = some (c, v)) : fetch s n pc = .fault c v := by
  cases k with
  | zero =>
    have first : fetchFault s n pc = some (c, v) := missing
    simp only [fetch, first]
  | succ k =>
    have first : fetchFault s n pc = none := before 0 k.succ_pos
    simp only [fetch, first, findSome?_range_of_first hk before missing]

end

/-! ### The step of a granted slot -/

/-- The grant is used up, and nothing of a context or of the fetch depends on it. -/
theorem step_granted {s : State} (h : s.granted = true) : step s = fetchStep { s with granted := false } := if_pos h

theorem Free.used {s : State} {i : CtxId} (h : Free s i) : Free { s with granted := false } i :=
  ⟨h.running, h.going, h.entered, h.awake, h.loose, h.begun, h.kept, h.sound, h.clean, h.near, h.acquired⟩

theorem fetchNext_used (s : State) (i : CtxId) : fetchNext { s with granted := false } i = fetchNext s i := by
  have words : fetchWord { s with granted := false } = fetchWord s := rfl
  have poison : poisonedIn { s with granted := false } = poisonedIn s := rfl
  have pc : State.fir { s with granted := false } i = s.fir i := rfl
  simp only [fetchNext, fetch, fetchFault, fetchWords, words, poison, pc]

/-- Words that give no instruction only trap (R56, R103). -/
theorem only_badGate {s : State} {c v : Word} (free : Free s s.slot) (outside : (s.fir s.slot).intrap = false)
    (checked : uncheckedStores (s.ctx s.slot) = false) (hc : fld c 7 0 ≠ 5) :
    Only s ((badGate s s.slot c v).settle s.slot s) s.slot ((s.ctx s.slot).enter ⟨(s.fir s.slot).pc, c, v, none⟩) := by
  simp only [badGate, free.atBoundary, free.boundary, Bool.not_true, Bool.false_eq_true, if_false]
  exact (Only.refl s s.slot).takeTrap _ hc outside checked

section
variable {s : State} {c v : Word}

theorem step_ins {i : Instr} (granted : s.granted = true) (fetched : fetchNext s s.slot = .ins i) :
    step s = exec i { s with granted := false } := by
  simp only [step_granted granted, fetchStep, fetchNext_used, fetched]

/-- A fetch fault's trap, or an illegal instruction's. -/
theorem step_traps (granted : s.granted = true) (fetched : fetchNext s s.slot = .fault c v ∨ (c = 0x01 ∧ fetchNext s s.slot = .illegal v))
    (hc : fld c 7 0 ≠ 5) (free : Free s s.slot) (outside : (s.fir s.slot).intrap = false)
    (checked : uncheckedStores (s.ctx s.slot) = false) :
    ∃ t, step s = .next t ∧
      Only { s with granted := false } t s.slot ((s.ctx s.slot).enter ⟨(s.fir s.slot).pc, c, v, none⟩) := by
  refine ⟨_, ?_, only_badGate (s := { s with granted := false }) (c := c) (v := v) free.used outside checked hc⟩
  rcases fetched with h | ⟨rfl, h⟩
  · simp only [step_granted granted, fetchStep, fetchNext_used, h]
  · simp only [step_granted granted, fetchStep, fetchNext_used, h]

end

/-! ### O8 -/

/-- Settles O8: the three clauses are the three things that a fetch can give. -/
theorem stepRunsDecoded : Obligations.StepRunsDecoded := by
  intro s i n pc word len there traps granted
  have first : word 0 = fetchWord s n pc := congrArg (fun a => readMem s (scratchPa n a) 4) (Nat.add_zero pc)
  have count : len = wordCount (fetchWord s n pc) := by rw [← first]; rfl
  have words : (List.range len).map word = fetchWords s n pc := by rw [count]; rfl
  clear_value len
  rw [words, first, count]
  have sound (h : ∀ k < wordCount (fetchWord s n pc), there k) (k) (hk : k < wordCount (fetchWord s n pc)) :
      fetchFault s n (pc + 4 * k) = none := fetchFault_of_there (h k hk)
  refine ⟨fun h decoded => step_ins granted (fetch_ins (sound h) decoded), fun h undecoded => ?_, fun k hk missing before => ?_⟩
  · cases rejected : decode (fetchWords s n pc) with
    | ok j => exact absurd rejected (undecoded j)
    | error e => exact step_traps granted (.inr ⟨rfl, fetch_illegal (sound h) rejected⟩) (by decide)
  · have fault := fetch_fault hk (fun j hj => fetchFault_of_there (before j hj)) (fetchFault_of_not_there missing)
    refine step_traps granted (.inl fault) ?_
    split <;> decide

end Sys2Proof.Machine
end

section
/-!
SUPPORT and the settlement of O51. What a host queue's doorbell and record, a scheduler with one launch, a forwarded group and a retiring one
come to (R61 to R69, R348).
-/
namespace Sys2Proof.Machine

/-! ### Reading back what has been changed -/

theorem bitAt_eq_getLsbD {n : Nat} (w : BitVec n) (i : Nat) : bitAt w i = w.getLsbD i := by
  rw [bitAt, bitOf, BitVec.getLsbD, Nat.testBit_eq_decide_div_mod_eq, beq_eq_decide]

@[simp] theorem State.dieAt_modDie_self (s : State) (d : Nat) (f : Die → Die) : (s.modDie d f).dieAt d = f (s.dieAt d) :=
  State.dieAt_setDie_self _ _ _

@[simp] theorem State.launchAt_modDie (s : State) (d : Nat) (f : Die → Die) (p h : Nat) : (s.modDie d f).launchAt p h = s.launchAt p h := rfl
@[simp] theorem State.launchAt_setLaunch_self (s : State) (p h : Nat) (l : Launch) : (s.setLaunch p h l).launchAt p h = some l := by
  rw [State.launchAt, State.setLaunch, State.partAt_modPart_self, getN_putN_self]

@[simp] theorem State.chanAt_modDie (s : State) (d : Nat) (f : Die → Die) (p ch : Nat) : (s.modDie d f).chanAt p ch = s.chanAt p ch := rfl
theorem State.chanAt_modPart {s : State} {p : Nat} {f : Partition → Partition} (h : (f (s.partAt p)).chans = (s.partAt p).chans) (ch : Nat) :
    (s.modPart p f).chanAt p ch = s.chanAt p ch := by
  rw [State.chanAt, State.partAt_modPart_self, h, State.chanAt]
@[simp] theorem State.chanAt_setLaunch (s : State) (p h : Nat) (l : Launch) (ch : Nat) : (s.setLaunch p h l).chanAt p ch = s.chanAt p ch :=
  State.chanAt_modPart rfl ch
@[simp] theorem State.chanAt_modChan_self (s : State) (p ch : Nat) (f : Chan → Chan) : (modChan s p ch f).chanAt p ch = f (s.chanAt p ch) := by
  rw [State.chanAt, modChan, State.setChan, State.partAt_modPart_self, getN_putN_self, Option.getD_some]

@[simp] theorem dieAt_postEngine (s : State) (src : EngSrc) (n : Nat) (m : Msg) (d : Nat) : (postEngine s src n m).dieAt d = s.dieAt d := rfl
@[simp] theorem launchAt_postEngine (s : State) (src : EngSrc) (n : Nat) (m : Msg) (p h : Nat) :
    (postEngine s src n m).launchAt p h = s.launchAt p h := rfl
theorem engine_postEngine (s : State) (src : EngSrc) (n : Nat) (m : Msg) :
    (postEngine s src n m).pkg.engine = s.pkg.engine ++ [⟨src, n, m, none⟩] := rfl

/-- A partition event changes what is pending and nothing else of its partition. -/
theorem partAt_partEvent (s : State) (p bit : Nat) : ∃ pend, (partEvent s p bit).partAt p = { s.partAt p with pevpend := pend } := by
  have pending (t : State) (h : t.parts = (s.modPart p fun q => { q with pevpend := q.pevpend ||| (1#6 <<< bit) }).parts) :
      ∃ pend, t.partAt p = { s.partAt p with pevpend := pend } := by
    refine ⟨(s.partAt p).pevpend ||| (1#6 <<< bit), ?_⟩
    have same : t.partAt p = (s.modPart p fun q => { q with pevpend := q.pevpend ||| (1#6 <<< bit) }).partAt p := by
      rw [State.partAt, h, State.partAt]
    rw [same, State.partAt_modPart_self]
  unfold partEvent
  dsimp only
  split
  · exact ⟨_, rfl⟩
  · split
    · split <;> split <;> exact pending _ rfl
    · exact pending _ rfl

theorem chanAt_partEvent (s : State) (p bit ch : Nat) : (partEvent s p bit).chanAt p ch = s.chanAt p ch := by
  obtain ⟨pend, h⟩ := partAt_partEvent s p bit
  rw [State.chanAt, h, State.chanAt]

/-! ### Host queues (R61, R348) -/

/-- The channel that host queue q of partition p names. -/
def hostChannel (s : State) (p q : Nat) : Nat := fld (s.partAt p).hqchan[Fin.ofNat 64 q] 11 0

/-- A queue in use: enabled, of a running partition, with a host-written channel. -/
structure HostQueue (s : State) (p q : Nat) : Prop where
  enabled : bitAt (s.partAt p).hqchan[Fin.ofNat 64 q] 63 = true
  running : partRunning s p = true
  valid : cV (s.chanAt p (hostChannel s p q)) = true
  written : cWtype (s.chanAt p (hostChannel s p q)) = 1

theorem hostDoorbell_of_grows {s : State} {p q : Nat} {total : BitVec 64} (h : HostQueue s p q) (hq : q < 64)
    (grows : ((getN q (s.partAt p).doorbells).getD 0 : Word) < total) :
    hostDoorbell s p q total = modChan (s.modPart p fun t => { t with doorbells := putN q total t.doorbells }) p (hostChannel s p q)
      fun c => { c with wr := total.setWidth 32 } := by
  have same := State.chanAt_modPart (s := s) (p := p) (f := fun t => { t with doorbells := putN q total t.doorbells }) rfl (hostChannel s p q)
  obtain ⟨enabled, running, valid, written⟩ := h
  rw [hostChannel] at *
  simp only [hostDoorbell, enabled, running, ge_iff_le, Nat.not_le.2 hq, BitVec.not_le.2 grows, same, valid, written, decide_false, Bool.not_true,
    Bool.or_self, Bool.false_eq_true, if_false, beq_self_eq_true, Bool.and_self, if_true]

/-- The state once the scheduler has taken the next record of channel ch. -/
def recordTaken (s : State) (p ch : Nat) : State := sinkReset (modChan s p ch fun c => { c with rd := c.rd + 1 }) p

theorem chanAt_recordTaken (s : State) (p ch : Nat) : (recordTaken s p ch).chanAt p ch = { s.chanAt p ch with rd := (s.chanAt p ch).rd + 1 } := by
  rw [recordTaken, sinkReset, State.chanAt_modPart rfl, State.chanAt_modChan_self]
theorem partAt_recordTaken (s : State) (p ch : Nat) : ∃ chans, (recordTaken s p ch).partAt p =
    { s.partAt p with chans := chans, wcount := 0, wreported := false } := by
  rw [recordTaken, sinkReset, State.partAt_modPart_self, modChan, State.setChan, State.partAt_modPart_self]
  exact ⟨_, rfl⟩
theorem stageAny_recordTaken (s : State) (p ch stage : Nat) : stageAny (recordTaken s p ch) p stage = stageAny s p stage := by
  obtain ⟨chans, h⟩ := partAt_recordTaken s p ch
  have rect : partRect (recordTaken s p ch) p = partRect s p := rfl
  simp only [stageAny, stageColumn, h, rect]
theorem freeHandle_recordTaken (s : State) (p ch : Nat) : freeHandle (recordTaken s p ch) p = freeHandle s p := by
  obtain ⟨chans, h⟩ := partAt_recordTaken s p ch
  simp only [freeHandle, h]

theorem exec_hostQueueRecord {s t : State} {p q : Nat} (h : hostQueueRecord s p q = (t, [])) : exec (.hostQueueRecord p q) s = .next t := by
  show Host.Outcome.next (settlePart s p (hostQueueRecord s p q)) = _
  rw [h, settlePart_nil]

/-- The place in memory of the next record of a channel. -/
def recordAddr (c : Chan) : Nat := cHring c + 64 * (c.rd.toNat % Nat.max (cCap c) 1)

section
variable {s : State} {p q v : Nat} (h : HostQueue s p q) (waiting : cDelivered (s.chanAt p (hostChannel s p q)) ≠ 0)
  (read : engRead s p true (recordAddr (s.chanAt p (hostChannel s p q))) 64 = .ok v)
include h waiting read

theorem hostQueueRecord_of_good (good : recordBad (BitVec.ofNat 512 v) = false) (kind : lrKind (BitVec.ofNat 512 v) = false)
    (depth : lrDepth (BitVec.ofNat 512 v) ≤ 8) (parent : lrParent (BitVec.ofNat 512 v) = 0)
    (stage : stageAny s p (lrStage (BitVec.ofNat 512 v)) = true) :
    hostQueueRecord s p q = ((enqueueLaunch (recordTaken s p (hostChannel s p q)) p (BitVec.ofNat 512 v) true
      (cRcore (s.chanAt p (hostChannel s p q)) % 4) (.host q)).2, []) := by
  obtain ⟨enabled, running, valid, written⟩ := h
  have there := stageAny_recordTaken s p (hostChannel s p q) (lrStage (BitVec.ofNat 512 v))
  rw [stage] at there
  simp only [hostChannel, recordAddr, recordTaken] at *
  simp only [hostQueueRecord, submitRecord, enabled, running, valid, written, waiting, read, good, kind, parent, there, LaunchSrc.parentOk,
    Nat.not_lt.2 depth, decide_false, bne_self_eq_false, beq_self_eq_true, Bool.not_true, Bool.not_false, Bool.or_self, Bool.false_eq_true,
    if_false, if_true]

/-- A malformed record of either kind without a completion object is counted (R61). -/
theorem hostQueueRecord_of_bad (bad : recordBad (BitVec.ofNat 512 v) = true) (silent : lrCobj (BitVec.ofNat 512 v) = 0) :
    hostQueueRecord s p q = (partEvent (modChan (recordTaken s p (hostChannel s p q)) p (hostChannel s p q) fun c => { c with err := c.err + 1 }) p 3,
      []) := by
  obtain ⟨enabled, running, valid, written⟩ := h
  simp only [hostChannel, recordAddr, recordTaken] at *
  cases kind : lrKind (BitVec.ofNat 512 v) <;>
    simp only [hostQueueRecord, submitRecord, refuseRecord, enabled, running, valid, written, waiting, read, bad, kind, silent, bne_self_eq_false,
      Bool.not_true, Bool.not_false, Bool.or_self, Bool.true_or, Bool.false_and, Bool.false_eq_true, if_false, if_true, decide_false]

end

/-! ### Placement (R63 to R69) -/

/-- A launch without a placement map counts no pages: its groups go to its entry die, where that has a stage column (R65). -/
theorem groupDie_of_noMap {s : State} {p : Nat} {l : Launch} (g : Nat) (map : lrMap l.record = 0)
    (entry : l.die ∈ candidateDies s p (lrStage l.record)) :
    groupDie s p l g = .ok l.die := by
  have pages : pageDies s p l g = .ok [] := by simp only [pageDies, map, if_true]
  simp only [groupDie, pages, hasNat_of_mem entry, bind, Except.bind, List.isEmpty_nil, if_true]

theorem placing_here {s : State} {it : SchedItem} {l : Launch} {cl gid : Nat} (whole : it.fwd = none)
    (launched : s.launchAt it.part it.handle.toNat = some l) (die : groupDie s it.part l l.next = .ok l.die)
    (cluster : groupCluster s it.part l.die (lrStage l.record) = some cl) (free : freeGid s l.die = some gid) :
    placing s l.die it = some (l, l.next, .here cl gid) := by
  simp only [placing, launched, whole, die, if_true, cluster, free]

section
variable {s : State} {die : Nat} {it : SchedItem} (queue : (s.dieAt die).queue = [it])
include queue

theorem nextItem_of_other {p : Nat} (h : p ≠ it.part) : nextItem s die p = none := by
  simp only [nextItem, queue, List.filter_cons, beq_false_of_ne (Ne.symm h), Bool.false_and, Bool.false_eq_true, if_false, List.filter_nil,
    List.findSome?_nil, List.findSome?_eq_none_iff, implies_true]

variable {r : Launch × Nat × Placing} (prio : it.prio < 8) (placed : placing s die it = some r)
include prio placed

theorem nextItem_of_lone : nextItem s die it.part = some (it, r) := by
  have each (k : Nat) : (((s.dieAt die).queue.filter fun o => o.part == it.part && o.prio == 7 - k).findSome? fun o =>
      (placing s die o).map fun r => (o, r)) = if it.prio = 7 - k then some (it, r) else none := by
    by_cases h : it.prio = 7 - k
    · simp [queue, h, placed]
    · simp [queue, h]
  have found : (nextItem s die it.part).isSome := by
    simp only [nextItem, each, List.findSome?_isSome_iff]
    exact ⟨7 - it.prio, List.mem_range.2 (by omega), by rw [if_pos (by omega), Option.isSome_some]⟩
  obtain ⟨x, hx⟩ := Option.isSome_iff_exists.1 found
  simp only [nextItem, each] at hx ⊢
  obtain ⟨k, -, hk⟩ := List.exists_of_findSome?_eq_some hx
  split at hk
  · rw [hx, hk]
  · cases hk

theorem nextPartition_of_lone (part : it.part < 16) : nextPartition s die = some it.part := by
  have only (p : Nat) : (nextItem s die p).isSome = (p == it.part) := by
    by_cases h : p = it.part
    · rw [h, nextItem_of_lone queue prio placed, beq_self_eq_true, Option.isSome_some]
    · rw [nextItem_of_other queue h, beq_false_of_ne h, Option.isSome_none]
  simp only [nextPartition, only]
  have turn : it.part ∈ (List.range 16).map fun k => ((s.dieAt die).turn + 1 + k) % 16 :=
    List.mem_map.2 ⟨(it.part + 15 * ((s.dieAt die).turn + 1)) % 16, List.mem_range.2 (by omega), by omega⟩
  cases h : ((List.range 16).map fun k => ((s.dieAt die).turn + 1 + k) % 16).find? fun p => p == it.part with
  | none => exact absurd (beq_self_eq_true _) (List.find?_eq_none.1 h _ turn)
  | some p =>
    have same : p = it.part := by simpa using List.find?_some h
    rw [same]

end

/-- The placement of a group of one core: it is live, and its start message leaves (R67, R68). -/
theorem placeGroup_of_one {s : State} {p : Nat} {l l' : Launch} {handle : BitVec 32} (die cl gid : Nat)
    (launched : s.launchAt p handle.toNat = some l') (width : lrGw l.record = 1) (height : lrGh l.record = 1) :
    placeGroup s die p handle.toNat l l.next cl gid = postEngine
      ((s.modDie die fun d => { d with groups := d.groups ++ [⟨gid, p, handle, l.next, cl, 1, 0, 0, false, 0⟩] }).setLaunch p handle.toNat
        { l' with placed := l'.placed + 1 })
      (.sched die) (clusterCore cl 0 0)
      ⟨header 0 handle.toNat gid (lrDepth l.record) (lrStage l.record) 32 (clusterCore cl 0 0) (deviceNum s)
        (hCtx (handlerOf (s.coreAt (clusterCore cl 0 0)) (lrClass l.record))) (lrClass l.record), startPayload l handle.toNat l.next 0 0⟩ := by
  simp only [placeGroup, State.launchAt_modDie, launched, width, height, BitVec.ofNat_toNat, BitVec.setWidth_eq]
  rfl

/-- The state in which the next group of a launch that is still to be split is placed: its partition has been served, it has gone on to the
group after, and with the last group it leaves the queue. -/
def served (s : State) (die : Nat) (it : SchedItem) (l : Launch) : State :=
  let turned := s.modDie die fun d => { d with turn := it.part }
  (if l.next + 1 < lrGroups l.record then turned else turned.modDie die fun d => { d with queue := dropFirst (· == it) d.queue }).setLaunch it.part
    it.handle.toNat { l with next := l.next + 1 }

section
variable (s : State) (die : Nat) (it : SchedItem) (l : Launch)

theorem launchAt_served : (served s die it l).launchAt it.part it.handle.toNat = some { l with next := l.next + 1 } :=
  State.launchAt_setLaunch_self _ _ _ _
theorem coreAt_served (n : Nat) : (served s die it l).coreAt n = s.coreAt n := by
  unfold served
  split <;> rfl
theorem pkg_served : (served s die it l).pkg = s.pkg := by
  unfold served
  split <;> rfl
theorem deviceNum_served : deviceNum (served s die it l) = deviceNum s := by rw [deviceNum, pkg_served, deviceNum]
theorem groups_served : ((served s die it l).dieAt die).groups = (s.dieAt die).groups := by
  unfold served
  split <;> simp only [State.dieAt_setLaunch, State.dieAt_modDie_self]
theorem queue_served : ((served s die it l).dieAt die).queue =
    if l.next + 1 < lrGroups l.record then (s.dieAt die).queue else dropFirst (· == it) (s.dieAt die).queue := by
  unfold served
  split <;> simp only [State.dieAt_setLaunch, State.dieAt_modDie_self]

end

theorem groupPlace_of_lone {s : State} {die : Nat} {it : SchedItem} {l : Launch} {cl gid : Nat} (queue : (s.dieAt die).queue = [it])
    (part : it.part < 16) (prio : it.prio < 8) (whole : it.fwd = none) (placed : placing s die it = some (l, l.next, .here cl gid)) :
    groupPlace s die it.part = placeGroup (served s die it l) die it.part it.handle.toNat l l.next cl gid := by
  have more : (l.next + 1 ≥ lrGroups l.record) = ¬ (l.next + 1 < lrGroups l.record) := by simp only [ge_iff_le, not_lt]
  simp only [groupPlace, nextPartition_of_lone queue prio placed part, nextItem_of_lone queue prio placed, bne_self_eq_false, Bool.false_eq_true,
    if_false, whole, Option.isSome_none, Bool.false_or, decide_eq_true_eq, more, ite_not, served]

/-! ### Forwarding and retirement (R63, R65, R72) -/

theorem groupForward_first {s : State} {die : Nat} {it : SchedItem} {rest : List SchedItem} (h : (s.dieAt die).arriving = it :: rest) :
    groupForward s die 0 = s.modDie die fun d => { d with arriving := rest, queue := d.queue ++ [it] } := by
  simp only [groupForward, State.modDie, h, List.getElem?_cons_zero, List.take_zero, List.any_nil, Bool.false_eq_true, if_false, delAt]

/-- A group waits for one of its launch that came before it. -/
theorem groupForward_behind {s : State} {die : Nat} {it o : SchedItem} {rest : List SchedItem} (h : (s.dieAt die).arriving = it :: o :: rest)
    (part : o.part = it.part) (handle : o.handle = it.handle) : groupForward s die 1 = s := by
  simp only [groupForward, h, List.getElem?_cons_succ, List.getElem?_cons_zero, List.take_succ_cons, List.take_zero, List.any_cons, List.any_nil,
    part, handle, beq_self_eq_true, Bool.and_self, Bool.or_false, if_true]

theorem groupRetire_of_ended {s : State} {die gid : Nat} {g : Group} {l : Launch}
    (found : (s.dieAt die).groups.find? (fun g => g.gid == gid) = some g)
    (ended : g.size ≤ g.ended) (whole : ∀ q ∈ (s.partAt g.part).killing, q.1 ≠ gid) (launched : s.launchAt g.part g.handle.toNat = some l) :
    groupRetire s die gid = (s.modDie die fun d => { d with groups := d.groups.filter fun o => o.gid != gid }).setLaunch g.part g.handle.toNat
      { l with
        retired := l.retired + 1, bad := l.bad + (if g.bad then 1 else 0), badGroups := if g.bad then insNat gid l.badGroups else l.badGroups } := by
  have named : g.gid = gid := by simpa using List.find?_some found
  have alive : ((s.partAt g.part).killing.any fun q => q.1 == gid) = false :=
    List.any_eq_false.2 fun q hq => by simpa using whole q hq
  simp only [groupRetire, found, Nat.not_lt.2 ended, decide_false, alive, Bool.or_self, Bool.false_eq_true, if_false, State.launchAt_modDie, launched,
    boolNat, named]

/-! ### O51 -/

/-- Settles O51: the next state of each of the five steps by its equation above. -/
theorem groupsArePlacedAndRetire : Obligations.GroupsArePlacedAndRetire := by
  intro s p
  refine ⟨?doorbell, ?record, ?place, ?forward, ?retire⟩
  case doorbell =>
    intro q total h ch hq enabled running grows valid written
    rw [← bitAt_eq_getLsbD] at enabled
    refine ⟨_, congrArg Host.Outcome.next (hostDoorbell_of_grows ⟨enabled, running, valid, written⟩ hq grows), ?_, ?_⟩
    · rw [modChan, State.setChan, State.partAt_modPart_self, State.partAt_modPart_self, getN_putN_self]
    · exact (State.chanAt_modChan_self _ _ _ _).trans (by rw [State.chanAt_modPart rfl]; rfl)
  case record =>
    intro q v h ch c enabled running valid written waiting read r good
    rw [← bitAt_eq_getLsbD] at enabled
    have use : HostQueue s p q := ⟨enabled, running, valid, written⟩
    have named : ch = hostChannel s p q := rfl
    refine ⟨fun ⟨wf, kind, depth, parent, stage⟩ =>
      ⟨_, exec_hostQueueRecord (hostQueueRecord_of_good use waiting read wf kind depth parent stage), ?_, ?_, ?_⟩,
      fun bad silent => ⟨_, exec_hostQueueRecord (hostQueueRecord_of_bad use waiting read bad silent), ?_⟩⟩
    · simp only [enqueueLaunch, State.chanAt_modDie, State.chanAt_setLaunch, named, chanAt_recordTaken]
      rfl
    · simp only [enqueueLaunch, State.launchAt_modDie, freeHandle_recordTaken, State.launchAt_setLaunch_self]
      rfl
    · simp only [enqueueLaunch, freeHandle_recordTaken]
      exact congrArg Die.queue (State.dieAt_modDie_self _ _ _)
    · simp only [chanAt_partEvent, named, State.chanAt_modChan_self, chanAt_recordTaken]
      rfl
  case place =>
    intro die it l cl gid r n cls queue part p_lt prio whole launched map entry candidate cluster free width height
    subst part entry
    have placed := placing_here whole launched (groupDie_of_noMap _ map candidate) cluster free
    refine ⟨_, congrArg Host.Outcome.next ((groupPlace_of_lone queue p_lt prio whole placed).trans
      (placeGroup_of_one _ _ _ (launchAt_served _ _ _ _) width height)), ?_, ?_, ?_, ?_⟩
    · rw [dieAt_postEngine, State.dieAt_setLaunch, State.dieAt_modDie_self, groups_served]
    · rw [dieAt_postEngine, State.dieAt_setLaunch, State.dieAt_modDie_self, queue_served, queue]
      simp only [dropFirst, beq_self_eq_true, if_true]
      rfl
    · rw [launchAt_postEngine, State.launchAt_setLaunch_self]
    · rw [engine_postEngine, State.pkg_setLaunch, State.pkg_modDie, pkg_served, coreAt_served, deviceNum_served]
  case forward =>
    intro die it rest arriving
    refine ⟨congrArg Host.Outcome.next (groupForward_first arriving), ?_⟩
    rintro o l rfl part handle
    exact congrArg Host.Outcome.next (groupForward_behind arriving part handle)
  case retire =>
    intro die gid g l found ended whole launched
    refine ⟨_, congrArg Host.Outcome.next (groupRetire_of_ended found ended whole launched), ?_, State.launchAt_setLaunch_self _ _ _ _⟩
    rw [State.dieAt_setLaunch, State.dieAt_modDie_self]

end Sys2Proof.Machine
end

section
/-!
SUPPORT and the settlement of O52. The child of a device-side launch retires while its parent's firing is in the yield slot (R228, R232): the
child is counted there, and what the context held when the firing yielded stays as it was.
-/
namespace Sys2Proof.Machine

/-! ### The end of a child -/

/-- A context once the firing with a tag has been changed: the running one, or the one in the yield slot. -/
def Context.modTagged (tag : BitVec 32) (f : Firing → Firing) (k : Context) : Context :=
  let one (g : Firing) : Firing := if g.tag = tag then f g else g
  { k with fir := if k.running then one k.fir else k.fir, yieldSlot := k.yieldSlot.map one }

theorem ctx_modTagged (s : State) (i : CtxId) (tag : BitVec 32) (f : Firing → Firing) :
    (modTagged s i tag f).ctx i = (s.ctx i).modTagged tag f := by
  unfold modTagged
  dsimp only
  split <;> exact State.ctx_modCtx_self s i (Context.modTagged tag f)

/-- A context that does not run keeps its registers: the firing of a tag is then in the yield slot, if anywhere. -/
theorem fir_modTagged_of_idle {s : State} {i : CtxId} (idle : (s.ctx i).running = false) (tag : BitVec 32) (f : Firing → Firing) :
    (modTagged s i tag f).fir i = s.fir i := by
  rw [State.fir, ctx_modTagged, State.fir]
  exact if_neg (Bool.eq_false_iff.1 idle)

/-- A launch with neither a completion object nor successors retires by its parent's count alone. -/
theorem launchRetire_of_silent {s : State} {p handle : Nat} {l : Launch} (launched : s.launchAt p handle = some l) (done : launchDone l = true)
    (quiet : launchQuiet s p handle = true) (object : lrCobj l.record = 0) (successors : lrSucc l.record = 0) {core : Nat} {x : Ctx}
    {tag : BitVec 32} {notify : Bool} {who : Requester} (src : l.src = .device core x tag notify who) :
    launchRetire s p handle = (childRetire (s.modPart p fun q => { q with launches := delN handle q.launches }) p handle l, []) := by
  simp only [launchRetire, launched, src, done, quiet, writeCompletion, object, releaseSuccessors, successors, Bool.not_true, Bool.or_self,
    Bool.false_eq_true, if_false, if_true, bind, Except.bind, List.append_nil]

theorem exec_launchRetire {s t : State} {p handle : Nat} (h : launchRetire s p handle = (t, [])) : exec (.launchRetire p handle) s = .next t := by
  show Host.Outcome.next (settlePart s p (launchRetire s p handle)) = _
  rw [h, settlePart_nil]

/-- The child of an idle context's firing, retiring without a notification, leaves the context's registers as they were. -/
theorem fir_childRetire_of_idle {s : State} {core : Nat} {x : Ctx} {tag : BitVec 32} {who : Requester} {l : Launch} (p handle : Nat)
    (src : l.src = .device core x tag false who) (idle : (s.ctx ⟨core, x⟩).running = false) :
    (childRetire s p handle l).fir ⟨core, x⟩ = s.fir ⟨core, x⟩ := by
  simp only [childRetire, src, Bool.false_eq_true, if_false, State.fir_modPart, fir_modTagged_of_idle idle]

/-! ### A parent that has yielded -/

/-- A firing with one live child. -/
def parentFiring : Firing := { Firing.reset with tag := 5, live := 1, cap := 1 }

/-- Its context once it has yielded to a message that waits in the run queue (R228). -/
def yieldedParent : Context := moveToSlot .n { Context.reset with running := true, fir := parentFiring, runq := [.msg ⟨0, 0⟩] }

/-- The child: a launch of one group, which has retired. -/
def retiredChild : Launch :=
  ⟨BitVec.ofNat 512 (2 ^ 64), false, 0, 1, 1, 1, 0, [], none, .device 0 .n 5 false (requester State.reset ⟨0, .n⟩)⟩

/-- The parent is in context N of core 0, and the child's launch is still live, with handle 7. -/
def childRetiring : State :=
  { State.reset with
    cores := [(0, { Core.reset with n := yieldedParent })]
    parts := [(0, { Partition.reset with launches := [(7, retiredChild)], poolUsed := 1 })] }

/-! ### O52 -/

/-- Refutes O52: its clause about the child of a device-side launch names the firing by the tag in the context's registers alone. A firing that
has yielded leaves its tag there, while its children count in the yield slot (`ctx_modTagged`): in `childRetiring` the registers' count of joined
children stays 0. -/
theorem not_launchesAndReplaysComplete : ¬ Obligations.LaunchesAndReplaysComplete := by
  intro holds
  obtain ⟨launches, -, -⟩ := holds childRetiring 0
  have done : launchDone retiredChild = true := by decide +kernel
  have object : lrCobj retiredChild.record = 0 := by decide +kernel
  have successors : lrSucc retiredChild.record = 0 := by decide +kernel
  have quiet : launchQuiet childRetiring 0 7 = true := by decide
  obtain ⟨-, joins⟩ := launches 7 retiredChild rfl done quiet successors
  obtain ⟨t, step, -, -, -, joined, -⟩ := joins 0 .n 5 _ rfl object rfl
  have retired := exec_launchRetire (launchRetire_of_silent (s := childRetiring) (p := 0) (handle := 7) rfl done quiet object successors rfl)
  have next := Host.Outcome.next.inj (step.symm.trans retired)
  rw [next, fir_childRetire_of_idle 0 7 rfl rfl] at joined
  exact absurd joined (by decide)

end Sys2Proof.Machine
end

section
/-!
SUPPORT and the settlement of O17. A marker reports an entry's fault as a trap with the entry's address (R99); but the trap of cause 0x05 is a
store fault's, whose entry takes cause and tval from the record at the head of the store-fault queue (R318).
-/
namespace Sys2Proof.Machine

/-- A load's entry at a marker with a fault of cause 0x05 and the address 1. -/
def storeCauseEntry : Entry :=
  { Context.reset.entry 1 (.x 3) .whole with state := .faulted, fault := some (0, 0x05) }

/-- A running context with that entry, and with no store-fault record. -/
def storeCauseMarker : State :=
  { State.reset with cores := [(0, { Core.reset with n := { Context.reset with running := true, rb := [storeCauseEntry] } })] }

/-- A load with its bit w set. -/
def markedLoad : OpsM := ⟨true, 5, 6, .short 0, false⟩

theorem storeCauseMarker_free : Free storeCauseMarker storeCauseMarker.slot where
  running := rfl
  going := rfl
  entered := rfl
  awake := rfl
  loose := rfl
  begun := Nat.le_refl _
  kept := rfl
  sound := rfl
  clean := rfl
  near := rfl
  acquired := by
    intro e he
    obtain rfl : e = storeCauseEntry := List.mem_singleton.1 he
    rfl

/-- The marker's trap reports what the empty store-fault queue gives: tval 0. -/
theorem tval_after_storeCauseMarker {t : State} (step : exec (.ldD markedLoad) storeCauseMarker = .next t) :
    (t.ctx storeCauseMarker.slot).tval = 0 := by
  have run : (match exec (.ldD markedLoad) storeCauseMarker with
      | .next u => (u.ctx storeCauseMarker.slot).tval
      | _ => 0) = 0 := by decide
  rw [step] at run
  exact run

/-- Refutes O17: its clause about a faulted entry allows every cause in the entry. With cause 0x05, which no access gives an entry, the trap is taken
as a store fault's: in `storeCauseMarker` tval becomes 0 and not the entry's address 1. -/
theorem not_loadsAreOutstanding : ¬ Obligations.LoadsAreOutstanding := by
  intro holds
  obtain ⟨-, atMarker⟩ := holds storeCauseMarker (.ldD markedLoad) _ rfl
  obtain ⟨-, -, faulted⟩ := atMarker ⟨storeCauseMarker_free, .inl rfl⟩
  have settled : ∀ e ∈ (storeCauseMarker.ctx storeCauseMarker.slot).rb, ¬ e.Again ∧ e.state ≠ .pending := by
    intro e he
    obtain rfl : e = storeCauseEntry := List.mem_singleton.1 he
    refine ⟨?_, by decide⟩
    rintro (reissued | ⟨-, unsettled⟩)
    · exact absurd reissued (by decide)
    · exact absurd unsettled (by decide)
  obtain ⟨t, step, trapped, -⟩ := faulted settled rfl rfl storeCauseEntry (0, 0x05) rfl rfl
  have tval := tval_after_storeCauseMarker step
  rw [trapped] at tval
  exact absurd tval (by decide)

end Sys2Proof.Machine
end

section
/-!
SUPPORT and the settlement of O45. A victim that gives half of a range writes the other half back to its deque entry, a scratchpad word; R130: an
error armed for that word strikes the write, and disarms the injection register of the array's core.
-/
namespace Sys2Proof.Machine

/-- Memory address of the first byte of core 1's scratchpad. -/
def thiefScratch : Nat := scratchPa 1 0

/-- The victim: its class-2 handler is valid, and its thief end is past its own scratchpad, at core 1's. -/
def farVictim : Core :=
  { Core.reset with handlers := Core.reset.handlers.set 2 1, rqtop := 4096 }

/-- The thief: its class-0 handler takes ranges, its request is at core 0, and an error is armed at its scratchpad's first byte. -/
def armedThief : Core :=
  { Core.reset with
    handlers := Core.reset.handlers.set 0 9
    steal := { Steal.reset with waiting := some 0 }
    logs := Core.reset.logs.set 0 { ErrLog.reset with inject := BitVec.ofNat 64 (thiefScratch * 2 ^ 14 + 1) } }

/-- Both cores, with a range of two indexes in the victim's entry. -/
def armedSteal : State :=
  { State.reset with mem := Mem.writeLE [] (thiefScratch + 16) 1 2, cores := [(0, farVictim), (1, armedThief)] }

/-- Whether an error is armed for a core's scratchpad. -/
def scratchArmed (c : Core) : Bool := bitAt c.logs[0].inject 0

/-- The victim's write disarms the thief's injection register. -/
theorem scratchArmed_after_stealServe {t : State} (step : exec (.stealServe 1) armedSteal = .next t) : scratchArmed (t.coreAt 1) = false := by
  have run : (match exec (.stealServe 1) armedSteal with
      | .next u => scratchArmed (u.coreAt 1)
      | _ => false) = false := by decide
  rw [step] at run
  exact run

/-- Refutes O45: its clause about a split deque entry has the thief's core as it was but for the steal unit, while the write of the victim's entry
may strike an error armed at the core that holds the word (R130). In `armedSteal` the victim's rqtop, which no reachable state has, lies beyond its
deque, so that the word is one of the thief's own scratchpad. -/
theorem not_workIsSharedOut : ¬ Obligations.WorkIsSharedOut := by
  intro holds
  obtain ⟨ofCore, -⟩ := holds
  obtain ⟨-, served, -, -, -⟩ := ofCore armedSteal 1
  obtain ⟨-, fromDeque, -⟩ := served 0 rfl (by decide)
  have stealing : hValid (handlerOf (armedSteal.coreAt 0) 2) = true := by decide
  have filled : dequeEmpty (armedSteal.coreAt 0) = false := by decide
  have eligible : hValid (handlerOf (armedSteal.coreAt 1) (dequeRead armedSteal 0 (armedSteal.coreAt 0).rqtop).cls.toNat) = true ∧
      hKind (handlerOf (armedSteal.coreAt 1) (dequeRead armedSteal 0 (armedSteal.coreAt 0).rqtop).cls.toNat) = 2 := by decide
  have two : (dequeRead armedSteal 0 (armedSteal.coreAt 0).rqtop).lo.toNat + 2 ≤
      (dequeRead armedSteal 0 (armedSteal.coreAt 0).rqtop).hi.toNat := by decide
  obtain ⟨split, -⟩ := fromDeque stealing filled eligible
  obtain ⟨t, step, thief, -⟩ := split two
  have disarmed := scratchArmed_after_stealServe step
  rw [thief] at disarmed
  exact absurd disarmed (by decide)

end Sys2Proof.Machine
end

section
/-!
SUPPORT and the settlement of O20. Every instruction with an address of its own is an `issue` whose plan reports the address check as its fault.
-/
namespace Sys2Proof.Machine

/-! ### A trap from a plan -/

/-- An instruction's meaning is the issue of some effect, so that what its plan reports comes first. -/
def Issues (ins : Instr) : Prop := ∃ f, ∀ s, exec ins s = .next (issue ins f s)

/-- A plan with these operand fields and entries, and with this check of its own at the boundary of a context. -/
structure Plan.Checks (p : Plan) (s : State) (i : CtxId) (reads writes : List (Fin 32)) (n : Nat) (x : Option (Word × Word)) : Prop where
  reads : p.reads = reads
  writes : p.writes = writes
  legal : p.illegal s i = false
  entries : p.entries s i = n
  stays : p.lands = false
  passes : p.drains = false
  fault : p.fault s i = x
  /-- not a store fault's (R318) -/
  cause : ∀ c v, x = some (c, v) → fld c 7 0 ≠ 5

/-- A ready instruction whose plan reports a fault only traps (R103). -/
theorem traps_of_checks {s : State} {ins : Instr} {r w : List (Fin 32)} {n : Nat} {c v : Word} (issues : Issues ins)
    (p : (planOf ins).Checks s s.slot r w n (some (c, v))) (h : Ready s ins r w n) : Spec.Traps s ins c v := by
  intro outside checked
  obtain ⟨f, runs⟩ := issues
  refine ⟨_, runs s, ?_⟩
  rw [issue_fault f h p.reads p.writes p.legal p.entries p.stays p.passes p.fault]
  exact (Only.refl s s.slot).takeTrap _ (p.cause c v rfl) outside checked

/-! ### Scalar accesses -/

/-- Misalignment comes before the stack check (R101). -/
theorem memFault_of_not_allowed {s : State} {i : CtxId} {a : Reg} {va : Word} {n : Nat} (h : ¬ Spec.Allowed (s.ctx i) a va n) :
    memFault s i a va n = some (if va.toNat % n = 0 then 0x06 else 0x02, va) := by
  by_cases aligned : va.toNat % n = 0
  · have outside : a.val = 2 ∧ inStack (s.ctx i) va n = false := by
      refine ⟨by_contra fun other => h ⟨aligned, fun two => absurd two other⟩, Bool.eq_false_iff.2 fun inside => h ⟨aligned, fun _ => ?_⟩⟩
      simpa [inStack] using inside
    simp [memFault, aligned, outside]
  · simp [memFault, aligned]

/-- Neither a misaligned access, nor one outside its region, nor a failing stack check is a store fault. -/
theorem cause_of_ite {p : Prop} [Decidable p] {a b : Word} {y : Option (Word × Word)} (ha : fld a 7 0 ≠ 5)
    (hy : ∀ c v, y = some (c, v) → fld c 7 0 ≠ 5) (c v : Word) (h : (if p then some (a, b) else y) = some (c, v)) : fld c 7 0 ≠ 5 := by
  split at h
  · obtain ⟨rfl, -⟩ := Prod.mk.inj (Option.some.inj h)
    exact ha
  · exact hy c v h

theorem cause_of_none (c v : Word) (h : (none : Option (Word × Word)) = some (c, v)) : fld c 7 0 ≠ 5 := nomatch h

theorem memFault_cause (s : State) (i : CtxId) (a : Reg) (va : Word) (n : Nat) : ∀ c v, memFault s i a va n = some (c, v) → fld c 7 0 ≠ 5 :=
  cause_of_ite (by decide) (cause_of_ite (by decide) cause_of_none)

section
variable (s : State) (i : CtxId)

theorem loadPlan_checks (a : Reg) (off : Word) (n : Nat) :
    (loadPlan a off n).Checks s i [a] [] 1 (memFault s i a ((s.ctx i).srcX a + off) n) :=
  ⟨rfl, rfl, rfl, rfl, rfl, rfl, by simp only [loadPlan, eaOf, peekX_eq], memFault_cause s i a _ n⟩

theorem storePlan_checks (d a : Reg) (off : Word) (n : Nat) :
    (storePlan d a off n).Checks s i [a, d] [] 0 (memFault s i a ((s.ctx i).srcX a + off) n) :=
  ⟨rfl, rfl, rfl, rfl, rfl, rfl, by simp only [storePlan, eaOf, peekX_eq], memFault_cause s i a _ n⟩

theorem amoPlan_checks (d a b : Reg) (n : Nat) :
    (amoPlan d a b n).Checks s i [a, b, d] [] 1 (memFault s i a ((s.ctx i).srcX a) n) :=
  ⟨rfl, rfl, rfl, rfl, rfl, rfl, by simp only [amoPlan, peekX_eq], memFault_cause s i a _ n⟩

end

/-- The plan of an instruction with a scalar access checks it. -/
def AccessChecked (s : State) (i : CtxId) (ins : Instr) : Prop :=
  ∀ srcs a va size n, Spec.accesses (s.ctx i) ins = some (srcs, a, va, size, n) →
    Issues ins ∧ (planOf ins).Checks s i srcs [] n (memFault s i a va size)

section
variable {s : State} {i : CtxId} {ins : Instr}

theorem AccessChecked.of_none (h : Spec.accesses (s.ctx i) ins = none) : AccessChecked s i ins :=
  fun _ _ _ _ _ access => absurd (h.symm.trans access) nofun

theorem AccessChecked.of_checks {srcs : List (Fin 32)} {a : Reg} {va : Word} {size n : Nat}
    (h : Spec.accesses (s.ctx i) ins = some (srcs, a, va, size, n)) (issues : Issues ins)
    (checks : (planOf ins).Checks s i srcs [] n (memFault s i a va size)) : AccessChecked s i ins := by
  intro _ _ _ _ _ access
  cases h.symm.trans access
  exact ⟨issues, checks⟩

end

/-- Only loads, stores and atomics have scalar accesses. -/
theorem accessChecked (s : State) (i : CtxId) (ins : Instr) : AccessChecked s i ins := by
  induction ins with
  | ldB o | ldBu o | ldH o | ldHu o | ldW o | ldWu o | ldD o | ldAcq o =>
    exact .of_checks rfl ⟨_, fun _ => rfl⟩ (loadPlan_checks s i o.a (offVal o.off) _)
  | stB o | stH o | stW o | stD o | stRel o | stf o =>
    exact .of_checks rfl ⟨_, fun _ => rfl⟩ (storePlan_checks s i o.d o.a (offVal o.off) _)
  | amoAdd o | amoAnd o | amoOr o | amoXor o | amoMin o | amoMax o | amoMinu o | amoMaxu o | amoSwap o | amoCas o | amoFaddF32 o | amoFaddBf16x2 o =>
    exact .of_checks rfl ⟨_, fun _ => rfl⟩ (amoPlan_checks s i o.d o.a o.b _)
  | _ => exact .of_none rfl

/-! ### Operands that name lines, blocks, records and descriptors -/

section
variable (s : State) (i : CtxId)

theorem linePlan_checks (a : Reg) (n : Nat) (w : List Reg) :
    let v := (s.ctx i).srcX a
    (linePlan a n w).Checks s i [a] w 0 (if 0x18000 ≤ v.toNat ∨ 768 < v.toNat / 128 + n then some (0x03, v) else none) :=
  ⟨rfl, rfl, rfl, rfl, rfl, rfl, by
    simp only [linePlan, peekX_eq, scratchBytes, ge_iff_le, gt_iff_lt, Bool.or_eq_true, decide_eq_true_eq], cause_of_ite (by decide) cause_of_none⟩

theorem kickPlan_checks (a : Reg) (n : Nat) :
    let v := (s.ctx i).srcX a
    (kickPlan a n).Checks s i [a] [] n (if v.toNat % 64 ≠ 0 then some (0x02, v) else none) :=
  ⟨rfl, rfl, rfl, rfl, rfl, rfl, by simp only [kickPlan, peekX_eq, bne_iff_ne],
    cause_of_ite (by decide) cause_of_none⟩

theorem hamperPlan_checks (a : Reg) (r : List (Fin 32)) (n : Nat) :
    let v := (s.ctx i).srcX a
    (hamperPlan a r n).Checks s i (a :: r) [] n
      (if v.toNat % 256 ≠ 0 then some (0x02, v) else if v.toNat < 0x100000 ∨ 0x200000 ≤ v.toNat then some (0x03, v) else none) :=
  ⟨rfl, rfl, rfl, rfl, rfl, rfl, by simp only [hamperPlan, peekX_eq, bne_iff_ne, ge_iff_le, Bool.or_eq_true, decide_eq_true_eq],
    cause_of_ite (by decide) (cause_of_ite (by decide) cause_of_none)⟩

theorem launch_checks (o : OpsLaunch) :
    let v := (s.ctx i).srcX o.a
    (planOf (.launch o)).Checks s i [o.a] [] 1 (if v.toNat % 64 ≠ 0 then some (0x02, v) else none) :=
  ⟨rfl, rfl, rfl, rfl, rfl, rfl, by simp only [planOf_launch, peekX_eq, bne_iff_ne],
    cause_of_ite (by decide) cause_of_none⟩

theorem fePeek_checks (o : OpsDA) :
    let v := (s.ctx i).srcX o.a
    (planOf (.fePeek o)).Checks s i [o.a] [] 1
      (if v.toNat % 8 ≠ 0 then some (0x02, v) else if 0x18000 ≤ v.toNat then some (0x03, v) else none) :=
  ⟨rfl, rfl, rfl, rfl, rfl, rfl, by simp only [planOf_fePeek, peekX_eq, bne_iff_ne, ge_iff_le, scratchBytes],
    cause_of_ite (by decide) (cause_of_ite (by decide) cause_of_none)⟩

theorem park_checks (o : OpsDA) :
    let v := (s.ctx i).srcX o.a
    (planOf (.park o)).Checks s i [o.a] [o.d] 0 (if o.a.val ≠ 0 ∧ 0x18000 ≤ v.toNat then some (0x03, v) else none) :=
  ⟨rfl, rfl, rfl, rfl, rfl, rfl, by
    simp only [planOf_park, peekX_eq, bne_iff_ne, ge_iff_le, scratchBytes, Bool.and_eq_true, decide_eq_true_eq], cause_of_ite (by decide) cause_of_none⟩

theorem hFill_checks (o : OpsDAB) :
    let x := (s.ctx i).srcX o.a
    let y := ((s.ctx i).pop o.a).srcX o.b
    (planOf (.hFill o)).Checks s i [o.a, o.b] [] 1 (if y.toNat % 128 ≠ 0 then some (0x02, y) else if 256 ≤ x.toNat then some (0x03, x)
      else if 0x18000 < y.toNat + 4096 then some (0x03, y) else none) := by
  refine ⟨rfl, rfl, rfl, rfl, rfl, rfl, ?_, cause_of_ite (by decide) (cause_of_ite (by decide) (cause_of_ite (by decide) cause_of_none))⟩
  have popped := ((Only.refl s i).takeX o.a).1
  simp only [planOf_hFill, peekX_eq, fst_takeX, popped, bne_iff_ne, ge_iff_le, gt_iff_lt, scratchBytes]

end

/-- The plan of an instruction with such an operand checks it. -/
def OperandChecked (s : State) (i : CtxId) (ins : Instr) : Prop :=
  ∀ srcs dests n x, Spec.operands (s.ctx i) ins = some (srcs, dests, n, x) → Issues ins ∧ (planOf ins).Checks s i srcs dests n x

section
variable {s : State} {i : CtxId} {ins : Instr}

theorem OperandChecked.of_none (h : Spec.operands (s.ctx i) ins = none) : OperandChecked s i ins :=
  fun _ _ _ _ operand => absurd (h.symm.trans operand) nofun

theorem OperandChecked.of_checks {srcs dests : List (Fin 32)} {n : Nat} {x : Option (Word × Word)}
    (h : Spec.operands (s.ctx i) ins = some (srcs, dests, n, x)) (issues : Issues ins) (checks : (planOf ins).Checks s i srcs dests n x) :
    OperandChecked s i ins := by
  intro _ _ _ _ operand
  cases h.symm.trans operand
  exact ⟨issues, checks⟩

end

theorem operandChecked (s : State) (i : CtxId) (ins : Instr) : OperandChecked s i ins := by
  induction ins with
  | feClr o | feSet o | feTest o => exact .of_checks rfl ⟨_, fun _ => rfl⟩ (linePlan_checks ..)
  | fePeek o => exact .of_checks rfl ⟨_, fun _ => rfl⟩ (fePeek_checks ..)
  | park o => exact .of_checks rfl ⟨_, fun _ => rfl⟩ (park_checks ..)
  | copy o | copySt o => exact .of_checks rfl ⟨_, fun _ => rfl⟩ (kickPlan_checks ..)
  | launch o => exact .of_checks rfl ⟨_, fun _ => rfl⟩ (launch_checks ..)
  | hLd o | hSt o => exact .of_checks rfl ⟨_, fun _ => rfl⟩ (hamperPlan_checks ..)
  | hFill o => exact .of_checks rfl ⟨_, fun _ => rfl⟩ (hFill_checks ..)
  | _ => exact .of_none rfl

/-! ### O20 -/

/-- Settles O20: the plan of each of these instructions reports the check. -/
theorem memoryAccessesTrap : Obligations.MemoryAccessesTrap := by
  constructor
  · intro s ins srcs a va size n access ready refused
    obtain ⟨issues, checks⟩ := accessChecked s s.slot ins srcs a va size n access
    rw [memFault_of_not_allowed refused] at checks
    exact traps_of_checks issues checks ready
  · intro s ins srcs dests n cause tval operand ready
    obtain ⟨issues, checks⟩ := operandChecked s s.slot ins srcs dests n (some (cause, tval)) operand
    exact traps_of_checks issues checks ready

end Sys2Proof.Machine
end

section
/-!
SUPPORT and the settlement of O25. Where a message goes (R8, R218), and what a message that may go does to the sending context.
-/
namespace Sys2Proof.Machine

/-! ### Destinations -/

theorem coreAtPos_eq_iff {c r n : Nat} (hc : c < 48) : coreAtPos c r = n ↔ n % 48 = c ∧ n / 48 = r := by
  rw [coreAtPos, show Config.cols = 48 from rfl]
  constructor
  · rintro rfl
    exact ⟨by rw [Nat.mul_add_mod_self_right, Nat.mod_eq_of_lt hc], by
      rw [Nat.mul_comm, Nat.mul_add_div (by decide), Nat.div_eq_of_lt hc, Nat.add_zero]⟩
  · rintro ⟨rfl, rfl⟩
    exact Nat.div_add_mod' n 48

/-- The core at an offset, by its column and row (R7, R8). -/
theorem coreAtOffset_eq_some {core n : Nat} {dx dy : Int} (inMesh : core < 4608) :
    coreAtOffset core dx dy = some n ↔ n < 4608 ∧ (n % 48 : Int) = core % 48 + dx ∧ (n / 48 : Int) = (core / 48 : Nat) + dy := by
  have below : n / 48 < 96 ↔ n < 4608 := Nat.div_lt_iff_lt_mul (by decide)
  rw [← below, show (n % 48 : Int) = (n % 48 : Nat) from rfl, show (core % 48 : Int) = (core % 48 : Nat) from rfl,
    show (n / 48 : Int) = (n / 48 : Nat) from rfl]
  simp only [coreAtOffset, coreCol, coreRow, show Config.cores = 4608 from rfl, show Config.cols = 48 from rfl, inMesh, decide_true,
    Bool.true_and, Bool.and_eq_true, decide_eq_true_eq]
  generalize ((core % 48 : Nat) : Int) + dx = c
  generalize ((core / 48 : Nat) : Int) + dy = r
  rw [Option.ite_none_right_eq_some, Option.some.injEq]
  constructor
  · rintro ⟨⟨⟨⟨hc, low⟩, hr⟩, high⟩, at_⟩
    lift c to Nat using hc
    lift r to Nat using hr
    obtain ⟨col, row⟩ := (coreAtPos_eq_iff (Int.ofNat_lt.1 low)).1 at_
    exact ⟨row ▸ Int.ofNat_lt.1 high, congrArg Nat.cast col, congrArg Nat.cast row⟩
  · rintro ⟨high, rfl, rfl⟩
    exact ⟨⟨⟨⟨Int.natCast_nonneg _, Int.ofNat_lt.2 (Nat.mod_lt _ (by decide))⟩, Int.natCast_nonneg _⟩, Int.ofNat_lt.2 high⟩,
      (coreAtPos_eq_iff (Nat.mod_lt _ (by decide))).2 ⟨rfl, rfl⟩⟩

theorem lt_of_coreIn {s : State} {p n : Nat} (h : coreIn s p n = true) : n < 4608 := by
  simp only [coreIn, Bool.and_eq_true, decide_eq_true_eq] at h
  exact h.1

/-- A message goes exactly to the destinations that its operands name and its firing may reach (R218). -/
theorem sendDest_eq_ok {s : State} {i : CtxId} (inMesh : i.core < 4608) {b : Reg} {xb : Word} {dx dy : BitVec 8} {dev n : Nat} :
    sendDest s i b xb dx dy = .ok (dev, n) ↔ Spec.Destination s i.core b xb dx dy dev n := by
  unfold sendDest Spec.Destination
  have core : fld xb 12 0 = xb.toNat % 2 ^ 13 := by simp [fld, bitsOf]
  have device : fld xb 24 13 = xb.toNat / 2 ^ 13 % 2 ^ 12 := rfl
  by_cases byOffset : b.val = 0
  · simp only [byOffset, if_true]
    constructor
    · intro h
      split at h
      next m there =>
        split_ifs at h with inside
        cases h
        exact ⟨rfl, inside, ((coreAtOffset_eq_some inMesh).1 there).2⟩
      next => cases h
    · rintro ⟨rfl, inside, there⟩
      rw [(coreAtOffset_eq_some inMesh).2 ⟨lt_of_coreIn inside, there⟩]
      exact if_pos inside
  · simp only [byOffset, if_false, core, device, Bool.and_eq_true, decide_eq_true_eq]
    constructor
    · intro h
      split_ifs at h with own inside reached <;> cases h
      · exact ⟨rfl, rfl, by rw [if_pos own]; exact inside⟩
      · exact ⟨rfl, rfl, by rw [if_neg own]; exact reached⟩
    · rintro ⟨rfl, rfl, reached⟩
      split_ifs at reached with own
      · rw [if_pos own, if_pos reached]
      · rw [if_neg own]
        exact if_pos reached

/-- With no such destination the message is refused with its operand (R8). -/
theorem sendDest_eq_error {s : State} {i : CtxId} (inMesh : i.core < 4608) {b : Reg} {xb : Word} {dx dy : BitVec 8}
    (none : ∀ dev n, ¬ Spec.Destination s i.core b xb dx dy dev n) :
    sendDest s i b xb dx dy = .error (if b.val = 0 then (dy ++ dx).signExtend 64 else xb) := by
  cases reached : sendDest s i b xb dx dy with
  | ok d => exact absurd ((sendDest_eq_ok inMesh).1 reached) (none d.1 d.2)
  | error v =>
    unfold sendDest at reached
    by_cases byOffset : b.val = 0
    · simp only [byOffset, if_true] at reached ⊢
      split at reached
      · split_ifs at reached
        exact reached.symm
      · exact reached.symm
    · simp only [byOffset, if_false] at reached ⊢
      split_ifs at reached <;> exact reached.symm

/-! ### The operations of a message, one after another -/

@[simp] theorem Context.pop_counted (k : Context) (r : Fin 32) : k.counted.pop r = (k.pop r).counted := by
  unfold Context.pop
  split <;> rfl

section
variable {s t : State} {i : CtxId} {k : Context}

theorem Only.partition (h : Only s t i k) (n : Nat) : (t.coreAt n).partition = (s.coreAt n).partition := Core.partition_eq_of_shell (h.2.2.shell n)

/-- A destination does not depend on what a context changes. -/
theorem Only.sendDest (h : Only s t i k) (b : Reg) (xb : Word) (dx dy : BitVec 8) :
    Machine.sendDest t i b xb dx dy = Machine.sendDest s i b xb dx dy := by
  have inside : coreIn t = coreIn s := by rw [h.2.2.eq_cores]; rfl
  have reach : granted t = granted s := by rw [h.2.2.eq_cores]; rfl
  have device : deviceNum t = deviceNum s := by simp only [deviceNum, h.2.2.pkg]
  simp only [Machine.sendDest, h.partition, inside, reach, device]

theorem Only.senderHeader (h : Only s t i k) (bytes : Nat) (x : Ctx) (cls : Nat) :
    Machine.senderHeader t i bytes x cls = Spec.headerOf s k.fir i.core bytes x cls := by
  simp only [Machine.senderHeader, State.fir, h.1, deviceNum, h.2.2.pkg, Spec.headerOf]

/-- A message to a core takes a slot (R219). -/
theorem Only.sendTo (h : Only s t i k) {dev n : Nat} (m : Msg) :
    Only s (Machine.sendTo t i (.ok (dev, n)) m) i (Spec.inject k s dev [n] none (BitVec.ofNat 64 (dev * 2 ^ 13 + n)) m) := by
  have posted := h.then fun k => Spec.inject k s dev [n] none (BitVec.ofNat 64 (dev * 2 ^ 13 + n)) m
  have device : deviceNum t = deviceNum s := by simp only [deviceNum, h.2.2.pkg]
  have address : packFields [(dev, 13), (n, 0)] = dev * 2 ^ 13 + n := by simp only [packFields, Nat.pow_zero, Nat.mul_one, Nat.add_zero]
  simp only [Machine.sendTo, postMessage, device, address]
  exact posted

end

/-! ### Waiting -/

/-- A ready instruction that no fault of its own stops waits for what its plan waits for (R89). -/
theorem issue_wait {s : State} {ins : Instr} {r w : List (Fin 32)} {n reason : Nat} {ch : Option Nat} (f : State → CtxId → State)
    (h : Ready s ins r w n) (p : (planOf ins).Checks s s.slot r w n none) (waits : (planOf ins).wait s s.slot = some (reason, ch)) :
    issue ins f s = s.modCtx s.slot fun k => { k with reason := reason, chanWait := ch } := by
  have landed : landedGate s s.slot (planOf ins) = .park reason ch s := by
    simp only [landedGate, p.passes, p.reads, p.writes, h.edge, h.flits, p.fault, h.room, h.free.acquire, waits, Bool.false_and,
      Bool.not_true, Bool.false_eq_true, if_false]
  have parked : gate s s.slot ins = .park reason ch s := by
    simp only [gate, h.free.atBoundary, h.free.boundary, p.legal, Bool.not_true, Bool.false_eq_true, if_false]
    split
    next marker =>
      have empty : (s.ctx s.slot).rb = [] := by
        refine h.buffer.resolve_right ?_
        rintro ⟨unmarked, room⟩
        simp only [needsMarker, unmarked, p.stays, p.entries, Bool.false_or, decide_eq_true_eq] at marker
        omega
      simp only [marker_of_empty empty, landed]
    next => exact landed
  simp only [issue, parked, Gate.settle]

/-- With every injection slot taken a message waits (R219). -/
theorem slotWait_of_full {s : State} {i : CtxId} (full : 8 ≤ (s.ctx i).inj.length) : slotWait s i = some (0x2, none) := if_neg (Nat.not_lt.2 full)
theorem slotWait_of_free {s : State} {i : CtxId} (free : (s.ctx i).inj.length < 8) : slotWait s i = none := if_pos free

/-- An instruction that takes a slot waits while all are taken. -/
theorem waits_of_full {s : State} {ins : Instr} {r : List (Fin 32)} (full : 8 ≤ (s.ctx s.slot).inj.length) (issues : Issues ins)
    (slots : (planOf ins).wait = slotWait) (p : (planOf ins).Checks s s.slot r [] 0 none) (h : Ready s ins r [] 0) :
    ∃ t, exec ins s = .next t ∧ Only s t s.slot ((s.ctx s.slot).waits 0x2) := by
  obtain ⟨f, runs⟩ := issues
  refine ⟨_, runs s, ?_⟩
  rw [issue_wait f h p (by rw [slots, slotWait_of_full full])]
  exact Only.modCtx s s.slot _

/-! ### The two instructions -/

theorem destFault_cause (r : Except Word (Nat × Nat)) : ∀ c v, destFault r = some (c, v) → fld c 7 0 ≠ 5 := by
  cases r with
  | error w => rintro c v h; cases h; decide
  | ok d => rintro c v h; cases h

theorem send_checks (s : State) (i : CtxId) (o : OpsSend) :
    (planOf (.send o)).Checks s i [o.b] [] 0 (destFault (sendDest s i o.b ((s.ctx i).srcX o.b) o.dx o.dy)) :=
  ⟨rfl, rfl, rfl, rfl, rfl, rfl, by simp only [planOf_send, peekX_eq], destFault_cause _⟩

theorem sendv_checks (s : State) (i : CtxId) (o : OpsSendv) :
    (planOf (.sendv o)).Checks s i [o.a, o.b] [] 0 (destFault (sendDest s i o.b (((s.ctx i).pop o.a).srcX o.b) o.dx o.dy)) := by
  refine ⟨rfl, rfl, rfl, rfl, rfl, rfl, ?_, destFault_cause _⟩
  simp only [planOf_sendv, peekX_eq, ((Only.refl s i).takeV o.a).1]

section
variable {s : State} {dev n : Nat}

theorem exec_send {o : OpsSend} (ready : Ready s (.send o) [o.b] [] 0) (free : (s.ctx s.slot).inj.length < 8)
    (dest : sendDest s s.slot o.b ((s.ctx s.slot).srcX o.b) o.dx o.dy = .ok (dev, n)) :
    let k := (s.ctx s.slot).counted
    let m : Msg := ⟨Spec.headerOf s k.fir s.slot.core o.bytes.toNat o.ctx o.cls.val, Spec.bytesOf k.fir o.a o.bytes.toNat⟩
    ∃ t, exec (.send o) s = .next t ∧
      Only s t s.slot ((Spec.inject (k.pop o.b) s dev [n] none (BitVec.ofNat 64 (dev * 2 ^ 13 + n)) m).goesOn 12) := by
  intro k m
  refine ⟨_, rfl, ?_⟩
  have p := send_checks s s.slot o
  rw [dest] at p
  rw [issue_go (ready.gate p.reads p.writes p.entries (by simp [p.stays]) p.legal (by simp [p.passes]) p.fault (slotWait_of_free free))]
  have counted := only_countIssue s s.slot
  have taken := counted.takeX o.b
  have fir : (takeX (countIssue s s.slot) s.slot o.b).2.fir s.slot = k.fir := by rw [State.fir, taken.1, Context.fir_pop]
  have length : byteLen (.send o) = 12 := rfl
  simp only [counted.fst_takeX, taken.sendDest, taken.senderHeader, fir, Context.fir_pop, Context.srcX_counted, dest, ← length]
  exact (taken.sendTo m).finishOp (.send o)

theorem exec_sendv {o : OpsSendv} (ready : Ready s (.sendv o) [o.a, o.b] [] 0) (free : (s.ctx s.slot).inj.length < 8)
    (dest : sendDest s s.slot o.b (((s.ctx s.slot).pop o.a).srcX o.b) o.dx o.dy = .ok (dev, n)) :
    let k := (s.ctx s.slot).counted
    let m : Msg := ⟨Spec.headerOf s k.fir s.slot.core 128 o.ctx o.cls.val, k.srcV o.a⟩
    ∃ t, exec (.sendv o) s = .next t ∧
      Only s t s.slot ((Spec.inject ((k.pop o.a).pop o.b) s dev [n] none (BitVec.ofNat 64 (dev * 2 ^ 13 + n)) m).goesOn 12) := by
  intro k m
  refine ⟨_, rfl, ?_⟩
  have p := sendv_checks s s.slot o
  rw [dest] at p
  rw [issue_go (ready.gate p.reads p.writes p.entries (by simp [p.stays]) p.legal (by simp [p.passes]) p.fault (slotWait_of_free free))]
  have counted := only_countIssue s s.slot
  have vector := counted.takeV o.a
  have taken := vector.takeX o.b
  have operand : ((s.ctx s.slot).counted.pop o.a).srcX o.b = ((s.ctx s.slot).pop o.a).srcX o.b := by rw [Context.pop_counted, Context.srcX_counted]
  have length : byteLen (.sendv o) = 12 := rfl
  simp only [counted.fst_takeV, vector.fst_takeX, taken.sendDest, taken.senderHeader, Context.fir_pop, operand, dest, ← length]
  exact (taken.sendTo m).finishOp (.sendv o)

end

/-! ### O25 -/

/-- Settles O25: the boundary's destination is the rule's, and behind it only the sender's context changes. -/
theorem messagesAreInjected : Obligations.MessagesAreInjected := by
  refine ⟨?_, ?_, ?_⟩
  · intro s dev n k free inMesh
    refine ⟨fun o ready dest => exec_send ready free ((sendDest_eq_ok inMesh).2 dest), fun o ready dest => ?_⟩
    rw [Context.pop_counted, Context.srcX_counted] at dest
    exact exec_sendv ready free ((sendDest_eq_ok inMesh).2 dest)
  · intro s k inMesh
    constructor
    · intro o ready nowhere
      have p := send_checks s s.slot o
      rw [sendDest_eq_error inMesh nowhere] at p
      exact traps_of_checks ⟨_, fun _ => rfl⟩ p ready
    · intro o ready nowhere
      have p := sendv_checks s s.slot o
      rw [sendDest_eq_error inMesh nowhere] at p
      exact traps_of_checks ⟨_, fun _ => rfl⟩ p ready
  · intro s ins srcs k full inMesh kind ready
    rcases kind with ⟨o, dev, n, rfl, rfl, dest⟩ | ⟨o, dev, n, rfl, rfl, dest⟩ | ⟨o, rfl, rfl⟩
    · have p := send_checks s s.slot o
      rw [(sendDest_eq_ok inMesh).2 dest] at p
      exact waits_of_full full ⟨_, fun _ => rfl⟩ rfl p ready
    · have p := sendv_checks s s.slot o
      rw [(sendDest_eq_ok inMesh).2 dest] at p
      exact waits_of_full full ⟨_, fun _ => rfl⟩ rfl p ready
    · exact waits_of_full full ⟨_, fun _ => rfl⟩ rfl ⟨rfl, rfl, rfl, rfl, rfl, rfl, rfl, cause_of_none⟩ ready

end Sys2Proof.Machine
end

section
/-!
SUPPORT and the settlement of O43. Each of these steps is one update of a context, a core, a partition or the package, which its register's field
rules give.
-/
namespace Sys2Proof.Machine

/-! ### Updates of one unit -/

theorem onlyCore_modCore (s : State) (n : Nat) (f : Core → Core) : Spec.OnlyCore s (s.modCore n f) n (f (s.coreAt n)) :=
  ⟨State.coreAt_setCore_self _ _ _, fun _ h => State.coreAt_setCore_of_ne h _ _, rfl⟩

theorem onlyPart_modPart (s : State) (p : Nat) (f : Partition → Partition) : Spec.OnlyPart s (s.modPart p f) p (f (s.partAt p)) :=
  ⟨State.partAt_setPart_self _ _ _, fun _ h => State.partAt_setPart_of_ne h _ _, rfl⟩

/-- Two updates of a core after one another. -/
theorem onlyCore_then {s t : State} {n : Nat} {c : Core} (h : Spec.OnlyCore s t n c) (f : Core → Core) :
    Spec.OnlyCore s (t.modCore n f) n (f c) := by
  obtain ⟨core, others, rest⟩ := h
  obtain ⟨core', others', rest'⟩ := onlyCore_modCore t n f
  refine ⟨by rw [core', core], fun m hm => (others' m hm).trans (others m hm), ?_⟩
  rw [rest', rest]

theorem onlyPart_then {s t : State} {p : Nat} {q : Partition} (h : Spec.OnlyPart s t p q) (f : Partition → Partition) :
    Spec.OnlyPart s (t.modPart p f) p (f q) := by
  obtain ⟨part, others, rest⟩ := h
  obtain ⟨part', others', rest'⟩ := onlyPart_modPart t p f
  refine ⟨by rw [part', part], fun m hm => (others' m hm).trans (others m hm), ?_⟩
  rw [rest', rest]

/-! ### Fields of words -/

/-- The three parts of a word whose middle is replaced. -/
theorem setField_eq (w hi lo v : Nat) :
    setField w hi lo v = 2 ^ lo * (2 ^ (hi + 1 - lo) * (w / 2 ^ lo / 2 ^ (hi + 1 - lo)) + v % 2 ^ (hi + 1 - lo)) + w % 2 ^ lo := by
  rw [setField, bitsOf]
  generalize 2 ^ lo = a
  generalize 2 ^ (hi + 1 - lo) = b
  have parts : w = (a * (b * (w / a / b)) + w % a) + w / a % b * a := by
    rw [Nat.add_right_comm, Nat.mul_comm _ a, ← Nat.mul_add, Nat.div_add_mod, Nat.div_add_mod]
  conv_lhs => lhs; lhs; rw [parts]
  rw [Nat.add_sub_cancel, Nat.add_right_comm, Nat.mul_add, Nat.mul_comm (v % b)]

theorem testBit_setField_of_ge {w hi lo v j : Nat} (h : lo ≤ j) (k : j ≤ hi) : (setField w hi lo v).testBit j = v.testBit (j - lo) := by
  have inside : j - lo < hi + 1 - lo := Nat.sub_lt_sub_right h (Nat.lt_succ_of_le k)
  rw [setField_eq, Nat.testBit_two_pow_mul_add _ (Nat.mod_lt _ (Nat.two_pow_pos lo)), if_neg (Nat.not_lt.2 h),
    Nat.testBit_two_pow_mul_add _ (Nat.mod_lt _ (Nat.two_pow_pos _)), if_pos inside, Nat.testBit_mod_two_pow, decide_eq_true inside, Bool.true_and]

theorem getLsbD_withField {n hi lo j : Nat} (w : BitVec n) (v : Nat) (h : lo ≤ j) (k : j ≤ hi) (inside : j < n) :
    (withField w hi lo v).getLsbD j = v.testBit (j - lo) := by
  rw [withField, BitVec.getLsbD_ofNat, testBit_setField_of_ge h k, decide_eq_true inside, Bool.true_and]

theorem getLsbD_withField_self {n : Nat} (w : BitVec n) (i : Nat) : (withField w i i 0).getLsbD i = false := by
  rw [withField, BitVec.getLsbD_ofNat, testBit_setField_of_ge (Nat.le_refl i) (Nat.le_refl i), Nat.zero_testBit, Bool.and_false]

/-! ### Registers of a context -/

theorem setAt_eq_set {α : Type} (k : Nat) (a : α) (l : List α) : setAt k a l = l.set k a := by
  induction l generalizing k with
  | nil => rw [setAt, List.set_nil]
  | cons b l ih =>
    cases k with
    | zero => rfl
    | succ k => rw [setAt, ih, List.set_cons_succ]

theorem setAside_eq_editAside (k : Context) (e : Entry) : setAside k e = Spec.editAside k e := by rw [setAside, setAt_eq_set, Spec.editAside]

/-- The entry that tbsel selects (R323). -/
theorem selEntry_eq_selected (k : Context) : selEntry k = Spec.selected k := by
  simp only [selEntry, Spec.selected, ne_eq, decide_not, bne, beq_eq_decide]

theorem loopOfWord_eq_wordLevel (v : Word) : Loop.ofWord v = Spec.wordLevel v := by
  simp only [Loop.ofWord, Spec.wordLevel, bitAt_zero, Loop.mk.injEq, true_and]
  refine ⟨?_, ?_, ?_⟩ <;>
  · apply BitVec.eq_of_toNat_eq
    simp only [BitVec.toNat_ofNat, BitVec.extractLsb'_toNat, fld, bitsOf, Nat.shiftRight_eq_div_pow, Nat.mod_mod]

/-- An active outer level of an inactive inner one moves inward (R162). -/
theorem fillLoops_eq_inward (k : Context) (f : Firing) : { k with fir := f.fillLoops } = Spec.inward { k with fir := f } := by
  simp only [Firing.fillLoops, Spec.inward]
  cases f.inner.act <;> cases f.outer.act <;> rfl

theorem ctxCregWrite_inner (k : Context) (v : Word) :
    ctxCregWrite k 0x11 v = Spec.inward { k with fir := { k.fir with inner := Spec.wordLevel v } } := by
  rw [← loopOfWord_eq_wordLevel, ← fillLoops_eq_inward]
  rfl

theorem ctxCregWrite_outer (k : Context) (v : Word) :
    ctxCregWrite k 0x1B v = Spec.inward { k with fir := { k.fir with outer := Spec.wordLevel v } } := by
  rw [← loopOfWord_eq_wordLevel, ← fillLoops_eq_inward]
  rfl

/-- A write of sfpop drops the head record, and the count toward the trap goes on from the next record that is not held (R324, R325). -/
theorem sfPop_eq_written (k : Context) : Spec.written k 0x18 0 = some (sfPop k) := by
  refine congrArg some (?_ : _ = sfPop k)
  simp only [sfPop, List.isEmpty_iff, ← List.head?_filter]
  cases (k.sfq.drop 1).filter (fun r => !r.held) <;> cases k.skid <;> rfl

section
variable {k : Context} {e : Entry} {v : Word} (selected : Spec.selected k = some e)
include selected

/-- State 0 drops the selected entry (R323). -/
theorem tbinfoWrite_drops (drop : v.toNat % 8 = 0) :
    tbinfoWrite k v = Spec.editAside { k with acc := k.acc.filter fun a => a.num != e.num } { e with state := .dropped, fault := none, acq := none } := by
  have code : fld v 2 0 = 0 := by simpa [fld, bitsOf] using drop
  simp only [tbinfoWrite, selEntry_eq_selected, selected, code, if_true, setAside_eq_editAside]

/-- State 3 makes the selected entry of the x file returned (R323). -/
theorem tbinfoWrite_gives (isX : e.isX = true) (give : v.toNat % 8 = 3) :
    tbinfoWrite k v = Spec.editAside { k with acc := k.acc.filter fun a => a.num != e.num }
      { e with state := .returned, fault := none, value := e.word.toNat, ext := .whole, acq := none } := by
  have code : fld v 2 0 = 3 := by simpa [fld, bitsOf] using give
  have other : ¬ (3 = 0) := by decide
  simp only [tbinfoWrite, selEntry_eq_selected, selected, code, isX, other, if_false, decide_true, Bool.and_self, if_true, setAside_eq_editAside]

end

/-! ### Registers of a core -/

theorem writeOwner_onlyCore (s : State) (n : Nat) (v : BitVec 32) (owned : v ≠ 0) :
    Spec.OnlyCore s (writeOwner s n v) n { s.coreAt n with accowner := v } := by
  rw [writeOwner, if_neg owned]
  exact onlyCore_modCore s n _

/-- Owner 0 zeroes the accumulator (R286). -/
theorem writeOwner_zero_onlyCore (s : State) (n : Nat) :
    Spec.OnlyCore s (writeOwner s n 0) n { s.coreAt n with accowner := 0, slots := Vector.replicate 64 0, slotPoison := 0 } :=
  onlyCore_then (onlyCore_modCore s n fun c => { c with accowner := 0 }) fun c => { c with slots := Vector.replicate 64 0, slotPoison := 0 }

/-- An address from b on is in no window that ends at or before b. -/
theorem beyond_window {lo hi b : Nat} (h : hi ≤ b) (x : Nat) : ¬ ((decide (lo ≤ b + x) && decide (b + x < hi)) = true) := by
  rw [decide_eq_false (Nat.not_lt.2 (Nat.le_trans h (Nat.le_add_right b x))), Bool.and_false]
  exact Bool.false_ne_true

theorem regionOf_coreWin {c o : Nat} (core : c < 4608) (offset : o < 0x10000) :
    regionOf (coreWinBase + (c * 0x10000 + o)) = some (.coreWin c o) := by
  have inside : c * 0x10000 + o < Config.cores * 0x10000 :=
    Nat.lt_of_lt_of_le (Nat.add_lt_add_left offset _) (Nat.succ_mul c 0x10000 ▸ Nat.mul_le_mul_right 0x10000 core)
  rw [regionOf, if_neg (Nat.not_lt.2 (Nat.le_trans (show Config.hbmBytes ≤ coreWinBase by decide) (Nat.le_add_right _ _))),
    if_neg (beyond_window (by decide) _), if_neg (beyond_window (by decide) _),
    if_pos (by rw [decide_eq_true (Nat.le_add_right _ _), decide_eq_true (Nat.add_lt_add_left inside _)]; rfl)]
  simp only [Nat.add_sub_cancel_left, Nat.mul_add_mod_self_right, Nat.mod_eq_of_lt offset]
  rw [Nat.mul_comm, Nat.mul_add_div (by decide), Nat.div_eq_of_lt offset, Nat.add_zero]

/-- The writable bits of a handler entry's doublewords (R81). -/
theorem masked_handlerMask (j : Fin 2) (v : Word) :
    masked v (handlerMask j.val) = if j.val = 0 then v &&& 0xFFFF01FFFC00003D else v := by
  have all : BitVec.ofNat 64 (2 ^ 64 - 1) = BitVec.allOnes 64 := by decide
  by_cases first : j.val = 0
  · rw [masked, handlerMask, if_pos first, if_pos first, BitVec.ofNat_eq_ofNat]
  · rw [masked, handlerMask, if_neg first, if_neg first, all, BitVec.and_allOnes]

/-- Where a doubleword of a handler entry lies in its core's window (R81). -/
theorem handlerOffset_fields (cls : Fin 20) (j : Fin 2) :
    let o := 0x100 + 16 * cls.val + 8 * j.val
    (decide (0x100 ≤ o) && decide (o < 0x240)) = true ∧ o < 0x10000 ∧ o % 8 = 0 ∧ Fin.ofNat 20 ((o - 0x100) / 16) = cls ∧ o % 16 / 8 = j.val := by
  revert cls j
  decide

/-- A write of a handler entry's doubleword (R81). -/
theorem coreWinWrite_handler (s : State) (n : Nat) (cls : Fin 20) (j : Fin 2) (v : Word) :
    coreWinWrite s n (0x100 + 16 * cls.val + 8 * j.val) v = s.modCore n fun k => { k with
      handlers := k.handlers.set cls (setDw k.handlers[cls] j.val (if j.val = 0 then v &&& 0xFFFF01FFFC00003D else v)) } := by
  obtain ⟨window, -, -, entry, half⟩ := handlerOffset_fields cls j
  rw [coreWinWrite, if_pos window]
  simp only [entry, half, masked_handlerMask]

/-- A write that leaves no other. -/
theorem settleHyp_of_windowWrite {s t : State} {p pa : Nat} {v : Word} (h : windowWrite s true (noFiring p) pa v = some (t, [])) :
    settleHyp s p (s, [(pa, v)]) = t := by
  have one (fuel : Nat) : drainWrites true (noFiring p) (fuel + 1) s [(pa, v)] = some t := by
    rw [drainWrites, h]
    exact drainWrites_nil ..
  rw [settleHyp, show drainFuel = 65535 + 1 from rfl, one, Option.getD_some]

theorem exec_registerWrite_handler (s : State) {c : Nat} (core : c < 4608) (cls : Fin 20) (j : Fin 2) (v : Word) :
    exec (.registerWrite (0x1200000000000 + c * 0x10000 + 0x100 + 16 * cls.val + 8 * j.val) v) s =
      .next (coreWinWrite s c (0x100 + 16 * cls.val + 8 * j.val) v) := by
  obtain ⟨-, inside, eighth, -, -⟩ := handlerOffset_fields cls j
  have address : 0x1200000000000 + c * 0x10000 + 0x100 + 16 * cls.val + 8 * j.val =
      coreWinBase + (c * 0x10000 + (0x100 + 16 * cls.val + 8 * j.val)) := by simp only [Nat.add_assoc, coreWinBase]
  have aligned : (coreWinBase + (c * 0x10000 + (0x100 + 16 * cls.val + 8 * j.val))) % 8 = 0 :=
    Nat.mod_eq_zero_of_dvd ((Nat.dvd_add_right (by decide)).2 ((Nat.dvd_add_right (Dvd.dvd.mul_left (by decide) c)).2 (Nat.dvd_of_mod_eq_zero eighth)))
  refine congrArg Host.Outcome.next (settleHyp_of_windowWrite ?_)
  rw [windowWrite, address, aligned, Nat.sub_zero, regionOf_coreWin core inside]

/-! ### Registers of a partition -/

/-- A pop of a queue with nothing behind its 64th record (R247, R320). -/
theorem popFaultEvent_onlyPart {s : State} {p : Nat} (shown : (s.partAt p).faultEvents.length ≤ 64) :
    Spec.OnlyPart s (popFaultEvent s p) p { s.partAt p with faultEvents := (s.partAt p).faultEvents.drop 1 } := by
  rw [popFaultEvent, if_neg (show ¬ _ > queueMax from Nat.not_lt.2 shown)]
  exact onlyPart_modPart s p _

theorem popChanEvent_onlyPart {s : State} {p : Nat} (shown : (s.partAt p).chanEvents.length ≤ 64) :
    Spec.OnlyPart s (popChanEvent s p) p { s.partAt p with chanEvents := (s.partAt p).chanEvents.drop 1 } := by
  rw [popChanEvent, if_neg (show ¬ _ > queueMax from Nat.not_lt.2 shown)]
  exact onlyPart_modPart s p _

theorem popCopyFault_onlyPart {s : State} {p : Nat} (running : stalledOn s p = none) :
    Spec.OnlyPart s (popCopyFault s p) p { s.partAt p with copyFaults := (s.partAt p).copyFaults.drop 1 } := by
  simp only [popCopyFault, running]
  exact onlyPart_modPart s p _

/-- A partition event changes its partition, and what the package sends. -/
theorem partEvent_eq (s : State) (p bit : Nat) : ∃ ps k, partEvent s p bit = { s with parts := ps, pkg := k } := by
  simp only [partEvent]
  split_ifs <;> exact ⟨_, _, rfl⟩

@[simp] theorem clusterAt_partEvent (s : State) (p bit n : Nat) : (partEvent s p bit).clusterAt n = s.clusterAt n := by
  obtain ⟨_, _, h⟩ := partEvent_eq s p bit
  rw [h]
  rfl

/-- A stalled service hart appends its record and goes on (R125). -/
theorem popCopyFault_stalled {s : State} {p cl : Nat} {r : BitVec 256} (stalled : stalledOn s p = some (cl, r)) :
    ((popCopyFault s p).partAt p).copyFaults = (s.partAt p).copyFaults.drop 1 ++ [r] ∧
      (popCopyFault s p).clusterAt cl = { s.clusterAt cl with stalled := none } := by
  simp only [popCopyFault, stalled, copyFault, clusterAt_partEvent]
  refine ⟨?_, State.clusterAt_setCluster_self _ _ _⟩
  obtain ⟨pend, after⟩ := partAt_partEvent (((s.modPart p fun q => { q with copyFaults := q.copyFaults.drop 1 }).modCluster cl
    fun c => { c with stalled := none }).modPart p fun q => { q with copyFaults := q.copyFaults ++ [r] }) p 2
  rw [after]
  simp

/-! ### Context registers by way of a partition (R346) -/

/-- A write of a word with bits 23 and 22 set as a read or a write has them starts the operation. -/
theorem pcraOf_fields (v : Word) (wr : Bool) : bitAt (pcraOf v wr) 23 = true ∧ fld (pcraOf v wr) 22 0 = boolNat wr * 2 ^ 22 + v.toNat % 2 ^ 22 := by
  constructor
  · rw [bitAt_eq_getLsbD, pcraOf, getLsbD_withField _ _ (by decide) (by decide) (by decide)]
    cases wr <;> rfl
  · have low : boolNat wr * 2 ^ 22 + v.toNat % 2 ^ 22 < 2 ^ 23 := by
      have := Nat.mod_lt v.toNat (show 0 < 2 ^ 22 by decide)
      cases wr
      · exact Nat.lt_of_le_of_lt (Nat.zero_add _ ▸ Nat.le_refl _) (Nat.lt_trans this (by decide))
      · exact Nat.add_lt_add_left this (2 ^ 22)
    have shape : setField v.toNat 23 22 (2 + boolNat wr) =
        2 ^ 23 * (2 * (v.toNat / 2 ^ 22 / 4) + 1) + (boolNat wr * 2 ^ 22 + v.toNat % 2 ^ 22) := by
      have two : (2 + boolNat wr) % 2 ^ (23 + 1 - 22) = 2 + boolNat wr := by cases wr <;> rfl
      rw [setField_eq, two]
      clear low two
      generalize v.toNat / 2 ^ 22 / 4 = q, v.toNat % 2 ^ 22 = r, boolNat wr = b
      show 2 ^ 22 * (4 * q + (2 + b)) + r = _
      omega
    rw [pcraOf, withField, fld, bitsOf, BitVec.toNat_ofNat, Nat.pow_zero, Nat.div_one, Nat.mod_mod_of_dvd _ (by decide), shape,
      Nat.mul_add_mod, Nat.mod_eq_of_lt low]

theorem pcraWrite_onlyPart {s : State} {p : Nat} (idle : (s.partAt p).pcra.getLsbD 61 = false) (v : Word) (wr : Bool) :
    Spec.OnlyPart s (pcraWrite s p (pcraOf v wr)) p
      { s.partAt p with pcra := Spec.w64 (2 ^ 61 + boolNat wr * 2 ^ 22 + v.toNat % 2 ^ 22) } := by
  obtain ⟨start, fields⟩ := pcraOf_fields v wr
  have written := onlyPart_modPart s p fun q =>
    if bitAt q.pcra 61 then q
    else if bitAt (pcraOf v wr) 23 then { q with pcra := BitVec.ofNat 64 (2 ^ 61 + fld (pcraOf v wr) 22 0) }
    else { q with pcra := BitVec.ofNat 64 (fld q.pcra 63 62 * 2 ^ 62 + fld (pcraOf v wr) 22 0) }
  simp only [bitAt_eq_getLsbD _ 61, idle, start, fields, Bool.false_eq_true, if_false, if_true] at written
  simpa only [pcraWrite, Spec.w64, Nat.add_assoc, start, fields, if_true, bitAt_eq_getLsbD _ 61] using written

/-- A core of the mesh is no management core. -/
theorem hyperCreg_of_coreIn {s : State} {p core : Nat} (h : coreIn s p core = true) (n : Nat) : hyperCreg s core n = none := by
  have mesh : core < Config.cores := lt_of_coreIn h
  have plain : mgmtOf core = none := by
    rw [mgmtOf, if_neg]
    simp only [Bool.and_eq_true, decide_eq_true_eq]
    omega
  simp only [hyperCreg, plain]

theorem cregReadable_of_coreIn {s : State} {p core : Nat} (h : coreIn s p core = true) (n : Nat) :
    cregReadable s core true n = decide (n ∈ Spec.supReads) := by
  have column := cregAccess_reads true n
  simp only [if_true] at column
  rw [cregReadable, hyperCreg_of_coreIn h, ← column]
  cases cregAccess n <;> rfl

theorem cregWritable_of_coreIn {s : State} {p core : Nat} (h : coreIn s p core = true) (n : Nat) :
    cregWritable s core true n = decide (n ∈ Spec.supWrites) := by
  have column := cregAccess_writes true n
  simp only [if_true] at column
  rw [cregWritable, hyperCreg_of_coreIn h, ← column]
  cases cregAccess n <;> rfl

/-- A register of a core is written in that core. -/
@[simp] theorem partAt_cregWrite (s : State) (i : CtxId) (n : Nat) (v : Word) (p : Nat) : (cregWrite s i n v).partAt p = s.partAt p := by
  unfold cregWrite
  split
  · rfl
  · rfl
  · rw [writeOwner]
    split <;> rfl
  · split <;> rfl

/-- The context, number and direction that a word of pcra names. -/
def pcraCtx (a : Word) : CtxId := ⟨a.toNat % 2 ^ 13, if a.getLsbD 13 then .u else .n⟩
def pcraNum (a : Word) : Nat := a.toNat / 2 ^ 14 % 2 ^ 8

/-- The operation in a partition's pcra may be performed: its core is in the partition, its context has no firing, and the supervisor may access
the register so (R346). -/
def PcraAllowed (s : State) (p : Nat) (a : Word) : Prop :=
  coreIn s p (pcraCtx a).core = true ∧ (s.ctx (pcraCtx a)).running = false ∧ (s.ctx (pcraCtx a)).halted = false ∧
    pcraNum a ∈ (if a.getLsbD 22 then Spec.supWrites else Spec.supReads)

/-- The word of pcra once its operation has ended. -/
def pcraDone (a : Word) (refused : Nat) : Word := Spec.w64 (2 ^ 63 + refused * 2 ^ 62 + a.toNat % 2 ^ 23)

/-- The operation has ended, refused or not. -/
def endPcra (s : State) (p : Nat) (a : Word) (refused : Nat) : State := s.modPart p fun q => { q with pcra := pcraDone a refused }

/-- What the end of an operation does, by whether it is allowed and what it is. -/
theorem pcraComplete_eq {s : State} {p : Nat} {a : Word} (word : (s.partAt p).pcra = a) (started : a.getLsbD 61 = true) [Decidable (PcraAllowed s p a)] :
    pcraComplete s p = if PcraAllowed s p a then
        (if a.getLsbD 22 then endPcra (cregWrite s (pcraCtx a) (pcraNum a) (s.partAt p).pcdata) p a 0
        else endPcra (s.modPart p fun q => { q with pcdata := cregRead s (pcraCtx a) (pcraNum a) }) p a 0)
      else endPcra s p a 1 := by
  have core : fld a 12 0 = (pcraCtx a).core := by simp [fld, bitsOf, pcraCtx]
  have number : fld a 21 14 = pcraNum a := rfl
  have kept : fld a 22 0 = a.toNat % 2 ^ 23 := by simp [fld, bitsOf]
  have done (refused : Bool) : BitVec.ofNat 64 (packFields [(1, 63), (boolNat refused, 62), (a.toNat % 2 ^ 23, 0)]) = pcraDone a (boolNat refused) := by
    simp only [packFields, pcraDone, Spec.w64, Nat.pow_zero, Nat.mul_one, Nat.one_mul, Nat.add_zero, Nat.add_assoc]
  have allowed : (coreIn s p (pcraCtx a).core && !(s.ctx (pcraCtx a)).running && !(s.ctx (pcraCtx a)).halted &&
      (if a.getLsbD 22 then cregWritable s (pcraCtx a).core true (pcraNum a) else cregReadable s (pcraCtx a).core true (pcraNum a))) =
      decide (PcraAllowed s p a) := by
    rw [Bool.eq_iff_iff, decide_eq_true_iff]
    simp only [PcraAllowed, Bool.and_eq_true, Bool.not_eq_true', and_assoc]
    refine and_congr_right fun inside => and_congr_right fun _ => and_congr_right fun _ => ?_
    rw [cregWritable_of_coreIn inside, cregReadable_of_coreIn inside]
    split <;> exact decide_eq_true_iff
  have ctx : (⟨(pcraCtx a).core, if a.getLsbD 13 then .u else .n⟩ : CtxId) = pcraCtx a := rfl
  simp only [pcraComplete, word, bitAt_eq_getLsbD, started, core, number, kept, done, ctx, allowed, Bool.not_true, Bool.false_eq_true,
    if_false, Bool.not_eq_true', decide_eq_false_iff_not]
  by_cases allow : PcraAllowed s p a
  · simp only [allow, not_true, if_false, if_true]
    split <;> rfl
  · simp only [allow, not_false_iff, if_false, if_true]
    rfl

theorem endPcra_onlyPart (s : State) (p : Nat) (a : Word) (refused : Nat) :
    Spec.OnlyPart s (endPcra s p a refused) p { s.partAt p with pcra := pcraDone a refused } := onlyPart_modPart s p _

/-! ### Registers of the device -/

/-- Unmasking sends a vector that is pending (R347). -/
theorem unmaskMsix_pending {s : State} {n : Fin 64} (pending : s.pkg.msixPba.getLsbD n.val = true) :
    let k := s.pkg
    unmaskMsix s n.val = { s with pkg := { k with
      msixTable := k.msixTable.set n (withField k.msixTable[n] 96 96 0), msixPba := k.msixPba &&& ~~~(1#64 <<< n.val)
      toHost := .msix n.val :: k.toHost } } := by
  have index : Fin.ofNat 64 n.val = n := Fin.ext (Nat.mod_eq_of_lt n.isLt)
  simp only [unmaskMsix, n.isLt, if_true, writeMsix, index, bitAt_eq_getLsbD, getLsbD_withField_self, pending, Bool.not_false, Bool.and_self,
    State.modPkg]

/-- A base whose window lies in HBM is taken (R349). -/
theorem writeBar2base_eq (s : State) (v : Word) : writeBar2base s v =
    if v.toNat % 2 ^ s.pkg.bar2log = 0 ∧ v.toNat + 2 ^ s.pkg.bar2log ≤ 0x8000000000 then { s with pkg := { s.pkg with bar2base := v } } else s := by
  simp only [writeBar2base, Bool.and_eq_true, decide_eq_true_eq, show Config.hbmBytes = 0x8000000000 from rfl, State.modPkg]

theorem freeLogEntry_eq (s : State) (a : ErrArray) (e : Fin 8) :
    freeLogEntry s a e.val = setLog s a { getLog s a with entries := (getLog s a).entries.set e 0 } := by
  have index : Fin.ofNat 8 e.val = e := Fin.ext (Nat.mod_eq_of_lt e.isLt)
  simp only [freeLogEntry, index]

theorem armInjection_eq (s : State) (a : ErrArray) (v : Word) :
    armInjection s a v = setLog s a { getLog s a with inject := v &&& ~~~0x3000 } := by
  have bits : BitVec.ofNat 64 (2 ^ 64 - 1 - 0x3000) = ~~~(0x3000 : Word) := by decide
  rw [armInjection, masked, bits]

theorem clearHevent_eq (s : State) (d : Fin 4) (v : Word) :
    clearHevent s d.val v = { s with pkg := { s.pkg with
      mgmt := s.pkg.mgmt.set d { s.pkg.mgmt[d] with hevent := (s.pkg.mgmt[d]).hevent &&& ~~~(v.setWidth 4) } } } := by
  have index : Fin.ofNat 4 d.val = d := Fin.ext (Nat.mod_eq_of_lt d.isLt)
  simp only [clearHevent, index, State.modPkg]

/-! ### O43 -/

/-- The clauses about contexts and cores. -/
theorem coreRegisters_write (s : State) (c : Nat) (x : Ctx) (v : Word) :
    let i : CtxId := ⟨c, x⟩
    let k := s.ctx i
    let q := s.coreAt c
    (∀ k2, Spec.written k 0x18 0 = some k2 → ∃ t, exec (.sfpopWrite c x) s = .next t ∧ Only s t i k2) ∧
    (∃ t, exec (.loopLevelWrite c x false v) s = .next t ∧
      Only s t i (Spec.inward { k with fir := { k.fir with inner := Spec.wordLevel v } })) ∧
    (∃ t, exec (.loopLevelWrite c x true v) s = .next t ∧
      Only s t i (Spec.inward { k with fir := { k.fir with outer := Spec.wordLevel v } })) ∧
    (∃ t, exec (.dequeBoundsWrite c false v) s = .next t ∧ Spec.OnlyCore s t c { q with rqbase := v, rqtop := 0, rqbot := 0 }) ∧
    (∃ t, exec (.dequeBoundsWrite c true v) s = .next t ∧ Spec.OnlyCore s t c { q with rqlim := v, rqtop := 0, rqbot := 0 }) ∧
    (∃ t, exec (.accownerWrite c v) s = .next t ∧
      (v.toNat % 2 ^ 32 ≠ 0 → Spec.OnlyCore s t c { q with accowner := v.setWidth 32 }) ∧
      (v.toNat % 2 ^ 32 = 0 → Spec.OnlyCore s t c { q with accowner := 0, slots := Vector.replicate 64 0, slotPoison := 0 })) ∧
    (∀ e, Spec.selected k = some e → e.isX = true →
      let k2 := { k with acc := k.acc.filter fun a => a.num != e.num }
      (v.toNat % 8 = 0 → ∃ t, exec (.tbinfoWrite c x v) s = .next t ∧
        Only s t i (Spec.editAside k2 { e with state := .dropped, fault := none, acq := none })) ∧
      (v.toNat % 8 = 3 → ∃ t, exec (.tbinfoWrite c x v) s = .next t ∧
        Only s t i (Spec.editAside k2 { e with state := .returned, fault := none, value := e.word.toNat, ext := .whole, acq := none }))) := by
  intro i k q
  refine ⟨fun k2 written => ⟨_, rfl, ?_⟩, ⟨_, rfl, ?_⟩, ⟨_, rfl, ?_⟩, ⟨_, rfl, onlyCore_modCore s c _⟩, ⟨_, rfl, onlyCore_modCore s c _⟩,
    ⟨_, rfl, fun owned => ?_, fun free => ?_⟩, fun e selected isX => ?_⟩
  · obtain rfl := Option.some.inj ((sfPop_eq_written k).symm.trans written)
    exact Only.modCtx s i sfPop
  · rw [← ctxCregWrite_inner]
    exact Only.modCtx s i fun k => ctxCregWrite k 0x11 v
  · rw [← ctxCregWrite_outer]
    exact Only.modCtx s i fun k => ctxCregWrite k 0x1B v
  · exact writeOwner_onlyCore s c _ fun zero => owned (by simpa using congrArg BitVec.toNat zero)
  · have zero : v.setWidth 32 = 0 := BitVec.eq_of_toNat_eq (by simpa using free)
    rw [zero]
    exact writeOwner_zero_onlyCore s c
  · refine ⟨fun drop => ⟨_, rfl, ?_⟩, fun give => ⟨_, rfl, ?_⟩⟩
    · rw [← tbinfoWrite_drops selected drop]
      exact Only.modCtx s i fun k => tbinfoWrite k v
    · rw [← tbinfoWrite_gives selected isX give]
      exact Only.modCtx s i fun k => tbinfoWrite k v

/-- The clauses about partitions. -/
theorem partRegisters_write (s : State) (p : Nat) (v : Word) :
    let q := s.partAt p
    (∃ t, exec (.pevpendClear p v) s = .next t ∧ Spec.OnlyPart s t p { q with pevpend := q.pevpend &&& ~~~(v.setWidth 6) }) ∧
    (stalledOn s p = none → ∃ t, exec (.copyFaultPop p) s = .next t ∧ Spec.OnlyPart s t p { q with copyFaults := q.copyFaults.drop 1 }) ∧
    (∀ cl r, stalledOn s p = some (cl, r) → ∃ t, exec (.copyFaultPop p) s = .next t ∧
      (t.partAt p).copyFaults = q.copyFaults.drop 1 ++ [r] ∧ t.clusterAt cl = { s.clusterAt cl with stalled := none }) ∧
    (q.faultEvents.length ≤ 64 →
      ∃ t, exec (.faultEventPop p) s = .next t ∧ Spec.OnlyPart s t p { q with faultEvents := q.faultEvents.drop 1 }) ∧
    (q.chanEvents.length ≤ 64 →
      ∃ t, exec (.channelEventPop p) s = .next t ∧ Spec.OnlyPart s t p { q with chanEvents := q.chanEvents.drop 1 }) ∧
    (q.pcra.getLsbD 61 = false →
      (∃ t, exec (.pcraRead p v) s = .next t ∧ Spec.OnlyPart s t p { q with pcra := Spec.w64 (2 ^ 61 + v.toNat % 2 ^ 22) }) ∧
      (∃ t, exec (.pcraWrite p v) s = .next t ∧ Spec.OnlyPart s t p { q with pcra := Spec.w64 (2 ^ 61 + 2 ^ 22 + v.toNat % 2 ^ 22) })) ∧
    (q.pcra.getLsbD 61 = true →
      (PcraAllowed s p q.pcra → q.pcra.getLsbD 22 = false → ∃ t, exec (.pcraComplete p) s = .next t ∧
        Spec.OnlyPart s t p { q with pcdata := cregRead s (pcraCtx q.pcra) (pcraNum q.pcra), pcra := pcraDone q.pcra 0 }) ∧
      (PcraAllowed s p q.pcra → q.pcra.getLsbD 22 = true → ∃ t, exec (.pcraComplete p) s = .next t ∧
        Spec.OnlyPart (cregWrite s (pcraCtx q.pcra) (pcraNum q.pcra) q.pcdata) t p { q with pcra := pcraDone q.pcra 0 }) ∧
      (¬ PcraAllowed s p q.pcra → pcraNum q.pcra < 0x80 → ∃ t, exec (.pcraComplete p) s = .next t ∧ Spec.OnlyPart s t p { q with pcra := pcraDone q.pcra 1 })) := by
  classical
  intro q
  refine ⟨⟨_, rfl, onlyPart_modPart s p _⟩, fun running => ⟨_, rfl, popCopyFault_onlyPart running⟩,
    fun cl r stalled => ⟨_, rfl, popCopyFault_stalled stalled⟩, fun shown => ⟨_, rfl, popFaultEvent_onlyPart shown⟩,
    fun shown => ⟨_, rfl, popChanEvent_onlyPart shown⟩, fun idle => ⟨⟨_, rfl, ?_⟩, ⟨_, rfl, ?_⟩⟩, fun started => ?_⟩
  · simpa only [boolNat, Bool.false_eq_true, if_false, Nat.zero_mul, Nat.add_zero] using pcraWrite_onlyPart idle v false
  · simpa only [boolNat, if_true, Nat.one_mul] using pcraWrite_onlyPart idle v true
  · have complete := pcraComplete_eq (s := s) (p := p) rfl started
    refine ⟨fun allowed read => ⟨_, rfl, ?_⟩, fun allowed write => ⟨_, rfl, ?_⟩, fun refused _ => ⟨_, rfl, ?_⟩⟩
    · rw [complete, if_pos allowed, read, if_neg Bool.false_ne_true]
      exact onlyPart_then (onlyPart_modPart s p fun k => { k with pcdata := cregRead s (pcraCtx q.pcra) (pcraNum q.pcra) })
        fun k => { k with pcra := pcraDone q.pcra 0 }
    · rw [complete, if_pos allowed, write, if_pos rfl]
      simpa only [partAt_cregWrite] using endPcra_onlyPart (cregWrite s (pcraCtx q.pcra) (pcraNum q.pcra) q.pcdata) p q.pcra 0
    · rw [complete, if_neg refused]
      exact endPcra_onlyPart s p q.pcra 1

/-- Settles O43: the step of each register is its update. -/
theorem registerEventsWrite : Obligations.RegisterEventsWrite := by
  refine ⟨⟨coreRegisters_write, partRegisters_write⟩, fun s v => ?_⟩
  refine ⟨fun a e => ⟨?_, rfl, ?_⟩, rfl, fun d => ?_, fun d j low => ?_, ⟨fun fits => ?_, fun misfits => ?_⟩, fun n pending => ?_,
    fun c cls j core => ?_⟩
  · exact congrArg Host.Outcome.next (freeLogEntry_eq s a e)
  · exact congrArg Host.Outcome.next (armInjection_eq s a v)
  · exact congrArg Host.Outcome.next (clearHevent_eq s d v)
  · exact congrArg Host.Outcome.next (if_pos low)
  · exact congrArg Host.Outcome.next ((writeBar2base_eq s v).trans (if_pos fits))
  · exact congrArg Host.Outcome.next ((writeBar2base_eq s v).trans (if_neg misfits))
  · refine ⟨_, congrArg Host.Outcome.next (unmaskMsix_pending pending), rfl, rfl, ?_, rfl⟩
    simp only [Fin.getElem_fin, Vector.getElem_set_self, getLsbD_withField_self]
  · refine ⟨_, exec_registerWrite_handler s core cls j v, ?_⟩
    rw [coreWinWrite_handler]
    exact onlyCore_modCore s c _

end Sys2Proof.Machine
end

section
/-!
SUPPORT and the settlement of O44. A message on its way changes what it meets outside the contexts (path errors, error logs, groups, the steal
unit), and in the contexts only what its arrival and its slot say.
-/
namespace Sys2Proof.Machine

/-! ### Contexts are kept by what lies outside them -/

theorem State.ctx_modCore_outside {f : Core → Core} (hn : ∀ c, (f c).n = c.n) (hu : ∀ c, (f c).u = c.u) (s : State) (n : Nat) (j : CtxId) :
    (s.modCore n f).ctx j = s.ctx j := by
  obtain ⟨core, x⟩ := j
  by_cases h : core = n
  · subst h
    cases x
    · simp only [State.ctx, State.modCore, State.coreAt_setCore_self, Core.ctx, hn]
    · simp only [State.ctx, State.modCore, State.coreAt_setCore_self, Core.ctx, hu]
  · simp only [State.ctx, State.modCore, State.coreAt_setCore_of_ne h]

@[simp] theorem ctx_setLog (s : State) (a : ErrArray) (l : ErrLog) (i : CtxId) : (setLog s a l).ctx i = s.ctx i := by
  cases a with
  | core c m => apply State.ctx_modCore_outside <;> intro <;> rfl
  | cluster c => rfl
  | die d m => rfl

@[simp] theorem ctx_logError (s : State) (a : ErrArray) (kind address tag part : Nat) (i : CtxId) :
    (logError s a kind address tag part).ctx i = s.ctx i := by
  unfold logError
  dsimp only
  split
  · exact ctx_setLog ..
  · split
    · exact ctx_setLog ..
    · exact ctx_setLog ..

@[simp] theorem ctx_strikePath (s : State) (a : ErrArray) (tag part : Nat) (i : CtxId) : (strikePath s a tag part).ctx i = s.ctx i := by
  unfold strikePath
  dsimp only
  split
  · rw [ctx_logError, ctx_setLog]
  · rfl

@[simp] theorem ctx_crossPaths (s : State) (d e tag part : Nat) (i : CtxId) : (crossPaths s d e tag part).ctx i = s.ctx i := by
  unfold crossPaths
  induction pathsBetween d e generalizing s with
  | nil => rfl
  | cons a l ih => rw [List.foldl_cons, ih, ctx_strikePath]

@[simp] theorem ctx_endSteal (s : State) (n : Nat) (i : CtxId) : (endSteal s n).ctx i = s.ctx i := by
  apply State.ctx_modCore_outside <;> intro <;> rfl

@[simp] theorem ctx_partEvent (s : State) (p bit : Nat) (i : CtxId) : (partEvent s p bit).ctx i = s.ctx i :=
  CoreFree.ctx (coreFree_partEvent p bit) s i

@[simp] theorem ctx_countStart (s : State) (p : Nat) (m : Msg) (how : EndKind) (i : CtxId) : (countStart s p m how).ctx i = s.ctx i := by
  unfold countStart
  split
  · exact CoreFree.ctx (coreFree_countEnd p (hdrLaunch m.hdr) (hdrGroup m.hdr) true how) s i
  · rfl

@[simp] theorem ctx_discardUnbound (s : State) (n : Nat) (m : Msg) (i : CtxId) : (discardUnbound s n m).ctx i = s.ctx i := by
  unfold discardUnbound
  rw [ctx_countStart, ctx_partEvent]
  apply State.ctx_modCore_outside <;> intro <;> rfl

/-! ### Injection slots -/

theorem State.inj_modCtx {f : Context → Context} (hf : ∀ k, (f k).inj = k.inj) (s : State) (i j : CtxId) :
    ((s.modCtx i f).ctx j).inj = (s.ctx j).inj := by
  by_cases h : j = i
  · rw [h, State.ctx_modCtx_self, hf]
  · rw [State.ctx_modCtx_of_ne h]

/-- A message that arrives leaves what contexts have to send. -/
theorem inj_acceptMsg (s : State) (n : Nat) (m : Msg) (j : CtxId) : ((acceptMsg s n m).2.ctx j).inj = (s.ctx j).inj := by
  have noted (t : State) (i : CtxId) : ((noteArrival t i).ctx j).inj = (t.ctx j).inj := State.inj_modCtx (by intro; rfl) t i j
  unfold acceptMsg
  dsimp only
  split_ifs
  · rfl
  · rfl
  · rw [ctx_discardUnbound, ctx_endSteal]
  · rw [noted, ctx_endSteal]
    exact State.inj_modCtx (by intro; rfl) s _ j
  · rw [noted, ctx_endSteal]
    exact State.inj_modCtx (by intro; rfl) s _ j
  · rfl

section
variable {s : State} {i : CtxId} {j : Inj} {l : List Inj}

/-- What a message to one core of this device meets on its way, and what its core answers. -/
def offered (s : State) (i : CtxId) (j : Inj) (dest : Nat) : Accept × State :=
  acceptMsg (crossPaths s (dieOf i.core) (dieOf dest) (hdrTag j.msg.hdr) (s.coreAt i.core).partition) dest j.msg

theorem inj_offered (h : (s.ctx i).inj = j :: l) (dest : Nat) : ((offered s i j dest).2.ctx i).inj = j :: l := by
  rw [offered, inj_acceptMsg, ctx_crossPaths, h]

/-- How the slot changes with what the core answers. -/
def answered (s : State) (i : CtxId) (j : Inj) (dest : Nat) : Accept × State → State
  | (.taken, t) => dropTargetOf t i 0 j
  | (.refused, t) => t.modCtx i fun c => { c with inj := setAt 0 { j with targets := [dest], refused := some s.now } c.inj }
  | (.reset, t) => abandonMsg t i 0

theorem transmit_eq {dest : Nat} (h : Spec.Deliverable s i j l dest) : transmit s i 0 = answered s i j dest (offered s i j dest) := by
  obtain ⟨first, device, targets, ready⟩ := h
  have home : ¬ (j.device != deviceNum s) = true := by rw [device, bne_self_eq_false]; exact Bool.false_ne_true
  have slot : (s.ctx i).inj[0]? = some j := by rw [first, List.getElem?_cons_zero]
  rw [transmit, slot]
  dsimp only
  rw [ready, Bool.not_true, if_neg Bool.false_ne_true, targets]
  dsimp only
  rw [if_neg home]
  rfl

/-- A message that its core takes leaves its slot. -/
theorem transmit_taken {dest : Nat} (h : Spec.Deliverable s i j l dest) (taken : (offered s i j dest).1 = .taken) :
    Only (offered s i j dest).2 (transmit s i 0) i { (offered s i j dest).2.ctx i with inj := l } := by
  have kept := inj_offered h.1 dest
  rw [transmit_eq h]
  generalize offered s i j dest = r at taken kept ⊢
  obtain ⟨a, t⟩ := r
  obtain rfl : a = .taken := taken
  have dropped := Only.modCtx t i fun c => { c with inj := delAt 0 c.inj }
  rw [kept] at dropped
  rw [answered, dropTargetOf, h.2.2.1]
  exact dropped

/-- A message that its core refuses stays with the cycle of the refusal. -/
theorem transmit_refused {dest : Nat} (h : Spec.Deliverable s i j l dest) (refused : (offered s i j dest).1 = .refused) :
    Only (offered s i j dest).2 (transmit s i 0) i { (offered s i j dest).2.ctx i with inj := { j with refused := some s.now } :: l } := by
  have kept := inj_offered h.1 dest
  rw [transmit_eq h]
  generalize offered s i j dest = r at refused kept ⊢
  obtain ⟨a, t⟩ := r
  obtain rfl : a = .refused := refused
  have marked := Only.modCtx t i fun c => { c with inj := setAt 0 { j with targets := [dest], refused := some s.now } c.inj }
  rw [kept, ← h.2.2.1] at marked
  rw [answered, ← h.2.2.1]
  exact marked

/-- Both of its steps transmit it: as it arrives, and 64 cycles after a refusal (R84). -/
theorem exec_travel {c : Nat} {x : Ctx} {dest : Nat} {ev : Instr} (h : Spec.Deliverable s ⟨c, x⟩ j l dest)
    (due : (ev = .messageArrival (.ctx c x) 0 ∧ j.refused = none) ∨
      (ev = .messageResend (.ctx c x) 0 ∧ ∃ r, j.refused = some r ∧ r + 64 ≤ s.now)) : exec ev s = .next (transmit s ⟨c, x⟩ 0) := by
  obtain ⟨first, device, -, -⟩ := h
  rcases due with ⟨rfl, new⟩ | ⟨rfl, r, refused, late⟩
  · show Host.Outcome.next (messageArrival s (.ctx c x) 0) = _
    simp [messageArrival, first, new, mayTravel, device]
  · show Host.Outcome.next (messageResend s (.ctx c x) 0) = _
    simp [messageResend, first, refused, late, mayTravel, device]

end

/-! ### One core takes a message -/

theorem noteArrival_eq (s : State) (i : CtxId) : noteArrival s i = s.modCtx i fun k => Spec.hears s k (k.runq.length ≤ 1) := by
  simp only [noteArrival, Spec.hears, Bool.and_eq_true, Bool.not_eq_true', decide_eq_true_eq]

/-- A message enters a context's run queue or hold slot, the core's steal attempt ends, and the context hears of it. -/
theorem only_arrival (s : State) (i : CtxId) (f : Context → Context) :
    Only (Spec.stealEnds s i.core) (noteArrival (endSteal (s.modCtx i f) i.core) i) i
      (Spec.hears s (f (s.ctx i)) ((f (s.ctx i)).runq.length ≤ 1)) := by
  have queued := (Only.modCtx s i f).overCore (f := fun c => { c with steal := { c.steal with
    idleSince := none, tried := 0, roundEnd := none, stale := c.steal.waiting.isSome || c.steal.reply.isSome } })
    (coreMap_id (fun _ => rfl) (fun _ => rfl) fun _ _ _ => rfl) i.core rfl
  rw [noteArrival_eq]
  exact queued.then fun k => Spec.hears s k (k.runq.length ≤ 1)

theorem hears_congr {s : State} {k : Context} {p q : Prop} [Decidable p] [Decidable q] (h : p ↔ q) : Spec.hears s k p = Spec.hears s k q := by
  simp only [Spec.hears, h]

theorem resetRefusing_of_none {s : State} {cl : Nat} (h : (s.clusterAt cl).resetAt = none) : resetRefusing s cl = false := by
  simp only [resetRefusing, h]

/-- A core that takes messages: in its context's queue, in the hold slot, or not at all (R84, R85). -/
theorem acceptMsg_of_takes {s : State} {n : Nat} {m : Msg} (h : Spec.Takes s n m) :
    let i : CtxId := ⟨n, hdrCtx m.hdr⟩
    acceptMsg s n m =
      if (s.ctx i).runq.length < runqCap i.x then
        (.taken, noteArrival (endSteal (s.modCtx i fun k => { k with runq := k.runq ++ [.msg m] }) n) i)
      else if (s.ctx i).hold = none then (.taken, noteArrival (endSteal (s.modCtx i fun k => { k with hold := some m }) n) i)
      else (.refused, s) := by
  obtain ⟨noReset, going, bound⟩ := h
  have going : ((s.coreAt n).ctx (hdrCtx m.hdr)).halted = false := going
  simp only [acceptMsg, resetRefusing_of_none noReset, going, noReset, bound, Option.isSome_none, Bool.or_self, Bool.not_true, Bool.false_eq_true,
    if_false, Option.isNone_iff_eq_none]
  rfl

/-- The clauses about a core that takes messages. -/
theorem message_isTaken {s : State} {n : Nat} {m : Msg} (h : Spec.Takes s n m) :
    let i : CtxId := ⟨n, hdrCtx m.hdr⟩
    let k := s.ctx i
    let r := acceptMsg s n m
    (k.runq.length < runqCap i.x → r.1 = .taken ∧
      Only (Spec.stealEnds s n) r.2 i (Spec.hears s { k with runq := k.runq ++ [.msg m] } (k.runq = []))) ∧
    (¬ k.runq.length < runqCap i.x → k.hold = none → r.1 = .taken ∧
      Only (Spec.stealEnds s n) r.2 i (Spec.hears s { k with hold := some m } (k.runq.length ≤ 1))) ∧
    (¬ k.runq.length < runqCap i.x → k.hold ≠ none → r = (.refused, s)) := by
  intro i k r
  have answer : r = _ := acceptMsg_of_takes h
  refine ⟨fun room => ?_, fun full free => ?_, fun full held => ?_⟩
  · rw [if_pos room] at answer
    have first : (k.runq ++ [QEntry.msg m]).length ≤ 1 ↔ k.runq = [] := by
      rw [List.length_append, List.length_singleton, ← List.length_eq_zero_iff]
      omega
    rw [answer, ← hears_congr first]
    exact ⟨rfl, only_arrival s i fun k => { k with runq := k.runq ++ [.msg m] }⟩
  · rw [if_neg full, if_pos free] at answer
    rw [answer]
    exact ⟨rfl, only_arrival s i fun k => { k with hold := some m }⟩
  · rw [if_neg full, if_neg held] at answer
    exact answer

/-! ### Messages of the engines -/

section
variable {s : State} {m : EngMsg} {l : List EngMsg}

/-- Both steps of an engine's first message transmit it. -/
theorem exec_engineTravel {ev : Instr} (first : s.pkg.engine = m :: l)
    (due : (ev = .messageArrival .engine 0 ∧ m.refused = none) ∨
      (ev = .messageResend .engine 0 ∧ ∃ r, m.refused = some r ∧ r + 64 ≤ s.now)) : exec ev s = .next (transmitEngine s 0) := by
  rcases due with ⟨rfl, new⟩ | ⟨rfl, r, refused, late⟩
  · show Host.Outcome.next (messageArrival s .engine 0) = _
    simp [messageArrival, first, new]
  · show Host.Outcome.next (messageResend s .engine 0) = _
    simp [messageResend, first, refused, late]

/-- What an engine's message meets on its way, and what its core answers. -/
def engineOffered (s : State) (m : EngMsg) : Accept × State :=
  acceptMsg (crossPaths s m.src.die (dieOf m.dest) (hdrTag m.msg.hdr) (s.coreAt m.dest).partition) m.dest m.msg

theorem transmitEngine_taken (first : s.pkg.engine = m :: l) (taken : (engineOffered s m).1 = .taken)
    (noReset : resetRefusing s (clusterOf m.dest) = false) :
    transmitEngine s 0 = (engineOffered s m).2.modPkg fun p => { p with engine := delAt 0 p.engine } := by
  unfold engineOffered at taken ⊢
  generalize answer : acceptMsg _ m.dest m.msg = r at taken ⊢
  obtain ⟨a, t⟩ := r
  obtain rfl : a = .taken := taken
  simp [transmitEngine, first, answer, noReset]

theorem transmitEngine_refused (first : s.pkg.engine = m :: l) (refused : (engineOffered s m).1 = .refused) :
    transmitEngine s 0 = (engineOffered s m).2.modPkg fun p => { p with engine := setAt 0 { m with refused := some s.now } p.engine } := by
  unfold engineOffered at refused ⊢
  generalize answer : acceptMsg _ m.dest m.msg = r at refused ⊢
  obtain ⟨a, t⟩ := r
  obtain rfl : a = .refused := refused
  simp [transmitEngine, first, answer]

end

/-! ### Transmissions that fail -/

/-- A transmission that fails stays (R219). -/
theorem sendFailure_again {s : State} {i : CtxId} {j : Inj} {l : List Inj} (first : (s.ctx i).inj = j :: l) (ready : injReady s i 0 j = true)
    (few : j.fails < 7) : Only s (sendFailure s i 0) i { s.ctx i with inj := { j with fails := j.fails + 1 } :: l } := by
  have counted := Only.modCtx s i fun c => { c with inj := setAt 0 { j with fails := j.fails + 1 } c.inj }
  have below : ¬ 8 ≤ j.fails + 1 := by omega
  simp only [first, setAt] at counted
  simpa [sendFailure, first, ready, below] using counted

theorem extractLsb'_ofNat {n a w : Nat} (inside : a + w ≤ n) (v : Nat) : (BitVec.ofNat n v).extractLsb' a w = BitVec.ofNat w (v / 2 ^ a) := by
  apply BitVec.eq_of_getLsbD_eq
  intro k hk
  have low : a + k < n := by omega
  simp only [BitVec.getLsbD_extractLsb', BitVec.getLsbD_ofNat, Nat.testBit_div_two_pow, hk, low, decide_true, Bool.true_and, Nat.add_comm]

/-- What the sender of an abandoned message to one core hears (R219). -/
def abandonNotice (s : State) (i : CtxId) (j : Inj) : Msg :=
  let h := j.msg.hdr
  ⟨header 0 (BitVec.ofNat 32 (hdrLaunch h)).toNat (BitVec.ofNat 16 (hdrGroup h)).toNat (BitVec.ofNat 4 (fld h 47 44)).toNat
    (BitVec.ofNat 4 (fld h 43 40)).toNat 24 i.core (deviceNum s) i.x 1,
   BitVec.ofNat 1024 (packFields [((0 : Word).toNat, 128), (j.addr.toNat, 64), (hdrLength h % 2 ^ 32, 32), (2, 16), (0xFF, 8), (4, 0)])⟩

theorem abandonMsg_eq {s : State} {i : CtxId} {j : Inj} {l : List Inj} {dest : Nat} (first : (s.ctx i).inj = j :: l) (targets : j.targets = [dest])
    (single : j.gid = none) : abandonMsg s i 0 =
      postEngine (s.modCtx i fun c => { c with inj := delAt 0 c.inj }) (.iface i.core i.x) i.core (abandonNotice s i j) := by
  simp only [abandonMsg, first, List.getElem?_cons_zero, dropTargetOf, targets, List.drop_one, List.tail_cons, List.isEmpty_nil, if_true, single,
    Option.isSome_none, Bool.false_eq_true, if_false]
  rfl

/-- Fields from bit n on leave the bits below. -/
theorem packFields_mod {n : Nat} {l : List (Nat × Nat)} (above : ∀ f ∈ l, n ≤ f.2) (k : Nat × Nat) (hk : k.2 = 0) :
    packFields (l ++ [k]) % 2 ^ n = k.1 % 2 ^ n := by
  induction l with
  | nil => rw [List.nil_append, packFields, packFields, hk, Nat.pow_zero, Nat.mul_one, Nat.add_zero]
  | cons f l ih =>
    rw [List.cons_append, packFields, ← ih fun g hg => above g (List.mem_cons_of_mem f hg)]
    obtain ⟨m, hm⟩ := Nat.pow_dvd_pow 2 (above f List.mem_cons_self)
    rw [hm, ← Nat.mul_assoc, Nat.mul_comm f.1, Nat.mul_assoc, Nat.mul_add_mod]

/-- The fields of a completion for an abandoned message: kind 4, status 2 and the address (R219). -/
theorem completion_fields (addr : Word) (bytes : Nat) :
    let pay : Vec := BitVec.ofNat 1024 (packFields [((0 : Word).toNat, 128), (addr.toNat, 64), (bytes % 2 ^ 32, 32), (2, 16), (0xFF, 8), (4, 0)])
    pay.extractLsb' 0 8 = 4#8 ∧ pay.extractLsb' 16 16 = 2#16 ∧ pay.extractLsb' 64 64 = addr := by
  have hb := Nat.mod_lt bytes (show 0 < 2 ^ 32 by decide)
  generalize bytes % 2 ^ 32 = b at hb
  have parts : packFields [((0 : Word).toNat, 128), (addr.toNat, 64), (b, 32), (2, 16), (0xFF, 8), (4, 0)] =
      2 ^ 64 * addr.toNat + (2 ^ 32 * b + 0x2FF04) := by
    have zero : (0 : Word).toNat = 0 := rfl
    rw [packFields, packFields, packFields, zero, Nat.zero_mul, Nat.zero_add, Nat.mul_comm _ (2 ^ 64), Nat.mul_comm _ (2 ^ 32)]
    rfl
  have low : 2 ^ 32 * b + 0x2FF04 < 2 ^ 64 := by omega
  have halves : 2 ^ 64 * addr.toNat + (2 ^ 32 * b + 0x2FF04) = 2 ^ 16 * (2 ^ 16 * (2 ^ 32 * addr.toNat + b) + 2) + 0xFF04 := by omega
  have kind := packFields_mod (n := 8) (l := [((0 : Word).toNat, 128), (addr.toNat, 64), (b, 32), (2, 16), (0xFF, 8)]) (by simp) (4, 0) rfl
  refine ⟨?_, ?_, ?_⟩ <;> rw [extractLsb'_ofNat (by decide)] <;> apply BitVec.eq_of_toNat_eq <;> rw [BitVec.toNat_ofNat]
  · rw [Nat.pow_zero, Nat.div_one]
    exact kind
  · rw [parts, halves, Nat.mul_add_div (by decide), Nat.div_eq_of_lt (show 0xFF04 < 2 ^ 16 by decide), Nat.add_zero, Nat.mul_add_mod]
    rfl
  · rw [parts, Nat.mul_add_div (by decide), Nat.div_eq_of_lt low, Nat.add_zero, Nat.mod_eq_of_lt addr.isLt]

/-- Its class is 1. -/
theorem completion_class (tag launch group depth stage length source device : Nat) (x : Ctx) :
    hdrClass (header tag launch group depth stage length source device x 1) = 1 := by
  have low := packFields_mod (n := 5) (l := [(tag, 96), (launch, 64), (group, 48), (depth, 44), (stage, 40), (length, 32), (source, 19), (device, 7),
    ((match x with | .n => 0 | .u => 1), 5)]) (by simp) (1, 0) rfl
  have word : hdrClass (header tag launch group depth stage length source device x 1) = bitsOf (BitVec.ofNat 128 _).toNat 4 0 := rfl
  rw [word, bitsOf, BitVec.toNat_ofNat, Nat.pow_zero, Nat.div_one, Nat.mod_mod_of_dvd _ (by decide)]
  exact low

/-- The eighth failure abandons a message to one core: the error is logged, and the sender hears of it (R128, R219). -/
theorem sendFailure_abandons {s : State} {i : CtxId} {j : Inj} {l : List Inj} {dest : Nat} (first : (s.ctx i).inj = j :: l)
    (ready : injReady s i 0 j = true) (many : 7 ≤ j.fails) (targets : j.targets = [dest]) (single : j.gid = none) :
    let base := logError s (.die (dieOf i.core) 0) 5 (scratchPa dest 0) (hdrTag j.msg.hdr) (s.coreAt i.core).partition
    ∃ m, Only { base with pkg := { base.pkg with engine := base.pkg.engine ++ [m] } } (sendFailure s i 0) i { s.ctx i with inj := l } ∧
      m.dest = i.core ∧ hdrClass m.msg.hdr = 1 ∧ m.msg.payload.extractLsb' 0 8 = 4#8 ∧
      m.msg.payload.extractLsb' 16 16 = 2#16 ∧ m.msg.payload.extractLsb' 64 64 = j.addr := by
  intro base
  have here : (base.ctx i).inj = j :: l := by rw [ctx_logError, first]
  have last : 8 ≤ j.fails + 1 := by omega
  have failed : sendFailure s i 0 = abandonMsg base i 0 := by
    simp only [sendFailure, first, List.getElem?_cons_zero, ready, targets, List.headD_cons, last, if_true, Bool.not_true,
      Bool.false_eq_true, if_false, base]
  have dropped := Only.modCtx base i fun c => { c with inj := delAt 0 c.inj }
  simp only [here, delAt] at dropped
  rw [show base.ctx i = s.ctx i from ctx_logError ..] at dropped
  obtain ⟨kind, status, address⟩ := completion_fields j.addr (hdrLength j.msg.hdr)
  have posted := dropped.overFree (coreFree_postEngine (.iface i.core i.x) i.core (abandonNotice base i j))
  rw [failed, abandonMsg_eq here targets single]
  exact ⟨⟨.iface i.core i.x, i.core, abandonNotice base i j, none⟩, posted, rfl, completion_class .., kind, status, address⟩

/-! ### O44 -/

/-- Settles O44: a transmission ends in what the core answers, and `acceptMsg` answers by the room it has. -/
theorem messagesTravel : Obligations.MessagesTravel := by
  refine ⟨⟨?_, ?_, ?_⟩, fun s n m takes => message_isTaken takes⟩
  · intro s c x j l dest ev i deliverable due r
    rw [show r = offered s i j dest from rfl]
    exact ⟨fun taken => ⟨_, exec_travel deliverable due, transmit_taken deliverable taken⟩,
      fun refused => ⟨_, exec_travel deliverable due, transmit_refused deliverable refused⟩⟩
  · intro s m l ev first due r
    rw [show r = engineOffered s m from rfl]
    exact ⟨fun taken noReset => ⟨_, exec_engineTravel first due, transmitEngine_taken first taken noReset⟩,
      fun refused => ⟨_, exec_engineTravel first due, transmitEngine_refused first refused⟩⟩
  · intro s c x j l i first ready
    refine ⟨fun few => ⟨_, rfl, sendFailure_again first ready few⟩, fun dest many targets single => ⟨sendFailure s i 0, rfl, ?_⟩⟩
    have abandoned := sendFailure_abandons first ready many targets single
    exact abandoned

end Sys2Proof.Machine
end

section
/-!
SUPPORT and the settlement of O42. The issue slot and what happens to a context beside its instructions (R85 to R91, R96, R174, R324).
-/
namespace Sys2Proof.Machine

/-! ### The issue slot (R88, R89) -/

section
variable {s : State} {i : CtxId}

/-- A context whose boundary lets an instruction issue is ready. -/
theorem readiness_go (h : ∃ g, nextGate s i = .go g) : readiness s i = (true, Spec.parkedFor s i 0 none) := by
  obtain ⟨g, h⟩ := h
  simp only [readiness, h]
  rfl

theorem readiness_park {r : Nat} {ch : Option Nat} {g : State} (h : nextGate s i = .park r ch g) :
    readiness s i = (false, Spec.parkedFor g i r ch) := by
  simp only [readiness, h]
  rfl

/-- A context at no boundary that does not wait for its next cycle keeps its park state. -/
theorem readiness_stay (h : nextGate s i = .stay) (begun : (s.ctx i).readyAt ≤ s.now) : readiness s i = (false, s) := by
  simp only [readiness, h, Nat.not_lt.2 begun, decide_false, Bool.and_false, Bool.false_eq_true, if_false]

theorem resumeTrap_of_none (h : (s.ctx i).trapping = none) : resumeTrap s i = s := by simp only [resumeTrap, h]

end

/-- What the cycle does once both contexts have said whether they are ready. -/
theorem issueCycle_eq {s s1 s2 : State} {c : Nat} {u n : Bool} (going : coreStopped s c = false) (open_ : (s.dieAt (dieOf c)).gates = [])
    (uFree : (s.ctx ⟨c, .u⟩).trapping = none) (nFree : (s1.ctx ⟨c, .n⟩).trapping = none) (hu : readiness s ⟨c, .u⟩ = (u, s1))
    (hn : readiness s1 ⟨c, .n⟩ = (n, s2)) :
    issueCycle s c = if u && (!n || (s2.coreAt c).nwait < 15) then grant s2 ⟨c, .u⟩ (if n then (s2.coreAt c).nwait + 1 else 0)
      else if n then grant s2 ⟨c, .n⟩ 0 else s2.modCore c fun q => { q with nwait := 0 } := by
  have ungated : gatedOff s (dieOf c) = false := by simp [gatedOff, open_, Nat.mod_one]
  simp only [issueCycle, going, ungated, Bool.or_self, Bool.false_eq_true, if_false, resumeTrap_of_none uFree, hu, resumeTrap_of_none nFree, hn]

theorem parkedFor_other {s : State} {i j : CtxId} (h : j ≠ i) (r : Nat) (ch : Option Nat) : (Spec.parkedFor s i r ch).ctx j = s.ctx j :=
  State.ctx_modCtx_of_ne h s _

theorem nwait_parkedFor (s : State) (i : CtxId) (r : Nat) (ch : Option Nat) (n : Nat) :
    ((Spec.parkedFor s i r ch).coreAt n).nwait = (s.coreAt n).nwait := State.nwait_modCtx s i _ n

theorem n_ne_u (c : Nat) : (⟨c, .n⟩ : CtxId) ≠ ⟨c, .u⟩ := fun h => Ctx.noConfusion (congrArg CtxId.x h)

section
variable {s : State} {c : Nat} (going : coreStopped s c = false) (open_ : (s.dieAt (dieOf c)).gates = [])
  (uFree : (s.ctx ⟨c, .u⟩).trapping = none)
include going open_ uFree

/-- With both ready the slot goes to U, and to N after 15 cycles of waiting. -/
theorem issueCycle_both (nFree : (s.ctx ⟨c, .n⟩).trapping = none) (hu : ∃ g, nextGate s ⟨c, .u⟩ = .go g)
    (hn : ∃ g, nextGate (Spec.parkedFor s ⟨c, .u⟩ 0 none) ⟨c, .n⟩ = .go g) :
    issueCycle s c = (let w := (s.coreAt c).nwait
      { (Spec.parkedFor (Spec.parkedFor s ⟨c, .u⟩ 0 none) ⟨c, .n⟩ 0 none).modCore c
          fun q => { q with nwait := if w < 15 then w + 1 else 0 } with
        slot := if w < 15 then ⟨c, .u⟩ else ⟨c, .n⟩, granted := true }) := by
  have nFree' : ((Spec.parkedFor s ⟨c, .u⟩ 0 none).ctx ⟨c, .n⟩).trapping = none := by rw [parkedFor_other (n_ne_u c), nFree]
  rw [issueCycle_eq going open_ uFree nFree' (readiness_go hu) (readiness_go hn), nwait_parkedFor, nwait_parkedFor]
  by_cases short : (s.coreAt c).nwait < 15
  · simp only [short, decide_true, Bool.not_true, Bool.or_true, Bool.and_self, if_true, grant]
  · simp only [short, decide_false, Bool.not_true, Bool.or_self, Bool.and_false, Bool.false_eq_true, if_false, if_true, grant]

/-- With U not ready it goes to N. -/
theorem issueCycle_n {s1 : State} (hu : readiness s ⟨c, .u⟩ = (false, s1)) (nFree : (s1.ctx ⟨c, .n⟩).trapping = none)
    (hn : ∃ g, nextGate s1 ⟨c, .n⟩ = .go g) :
    issueCycle s c = { (Spec.parkedFor s1 ⟨c, .n⟩ 0 none).modCore c fun q => { q with nwait := 0 } with slot := ⟨c, .n⟩, granted := true } := by
  rw [issueCycle_eq going open_ uFree nFree hu (readiness_go hn)]
  rfl

end

/-! ### The store-fault trap (R103, R324) -/

/-- Outside a handler a trap is entered. -/
theorem enterTrap_eq {t : State} {i : CtxId} (outside : (t.ctx i).fir.intrap = false) (x : TrapInfo) :
    enterTrap t i x = t.setCtx i ((t.ctx i).enter (x.atEntry (t.ctx i))) := by
  have free : ¬ (t.ctx i).fir.intrap = true := by rw [outside]; exact Bool.false_ne_true
  exact (if_neg fun both => free (Bool.and_elim_left both)).trans ((if_neg free).trans rfl)

/-- A trap that its entry does not change, outside a handler and with no store check outstanding. -/
theorem Only.takeTrap_of_atEntry {s t : State} {i : CtxId} {k : Context} (h : Only s t i k) {x : TrapInfo} (same : x.atEntry k = x)
    (outside : k.fir.intrap = false) (checked : uncheckedStores k = false) : Only s (Machine.takeTrap t i x) i (k.enter x) := by
  obtain rfl := h.1
  rw [Machine.takeTrap, checked, if_neg Bool.false_ne_true, enterTrap_eq outside, same]
  exact h.then fun _ => (t.ctx i).enter x

/-- The trap that reports the head store-fault record (R324). -/
theorem storeTrap_eq {s : State} {i : CtxId} {r : SfRec} {l : List SfRec} (queue : (s.ctx i).sfq = r :: l) :
    storeTrap s i = ⟨(s.ctx i).fir.pc, Spec.w64 (r.inner.toNat * 256 + 5), r.va, none⟩ := by
  simp only [storeTrap, headFault, queue]
  rfl

theorem storeTrap_atEntry (s : State) (i : CtxId) : (storeTrap s i).atEntry (s.ctx i) = storeTrap s i := by
  rw [TrapInfo.atEntry]
  split <;> rfl

/-- At the twelfth instruction after a failed store the trap comes before a `nop`. -/
theorem nextGate_storeTrap {s : State} {i : CtxId} {o : OpsW} (fetched : fetchNext s i = .ins (.nop o)) (there : Spec.AtBoundary s i)
    (due : (s.ctx i).skid = some 11) : nextGate s i = .trap (storeTrap s i) s := by
  obtain ⟨running, going, entered, awake, loose, begun, kept, sound⟩ := there
  have boundary : atBoundary s i = true := by
    simp only [atBoundary, running, going, entered, awake, loose, begun, kept, Bool.not_false, Option.isNone_none, decide_true, Bool.and_self]
  have first : Machine.boundary s i false false = some (.trap (storeTrap s i) s) := by
    simp [Machine.boundary, sound, due]
  have plain : ownStoreFault s i (.nop o) = none := by
    simp only [ownStoreFault, planOf_nop]
    exact ite_self _
  simp only [nextGate, fetched, gate, planOf_nop, boundary, first, plain, Option.getD_none, ite_self, Bool.not_true, Bool.false_eq_true, if_false]

/-- The code of a store fault (R103). -/
theorem storeFault_code (a : Nat) : fld (Spec.w64 (a * 256 + 5)) 7 0 = 5 := by
  rw [Spec.w64, fld, bitsOf, BitVec.toNat_ofNat, Nat.pow_zero, Nat.div_one, Nat.mod_mod_of_dvd _ (by decide)]
  exact Nat.mul_add_mod_self_right a 256 5

theorem storeFaultTrap_eq {s : State} {i : CtxId} {o : OpsW} {r : SfRec} {l : List SfRec} (fetched : fetchNext s i = .ins (.nop o))
    (there : Spec.AtBoundary s i) (due : (s.ctx i).skid = some 11) (queue : (s.ctx i).sfq = r :: l) :
    storeFaultTrap s i = takeTrap s i ⟨(s.ctx i).fir.pc, Spec.w64 (r.inner.toNat * 256 + 5), r.va, none⟩ := by
  simp only [storeFaultTrap, nextGate_storeTrap fetched there due, storeTrap_eq queue, storeFault_code, if_true]

/-! ### The end of a `park` (R174) -/

/-- The set of events as the instruction delivers it. -/
def eventSet (k : Context) : Word := Spec.w64 (Spec.bit k.fir.evMsg + Spec.bit k.fir.evFlit * 2 + Spec.bit k.evLine * 4)

theorem parkEvents_word (k : Context) : BitVec.ofNat 64 (parkEvents k) = eventSet k := by
  have words : ∀ line flit msg : Bool, BitVec.ofNat 64 (packFields [(boolNat line, 2), (boolNat flit, 1), (boolNat msg, 0)]) =
      Spec.w64 (Spec.bit msg + Spec.bit flit * 2 + Spec.bit line * 4) := by decide
  exact words ..

theorem parkEvents_eq_zero (k : Context) : parkEvents k = 0 ↔ eventSet k = 0 := by
  have zero : ∀ line flit msg : Bool, packFields [(boolNat line, 2), (boolNat flit, 1), (boolNat msg, 0)] = 0 ↔
      Spec.w64 (Spec.bit msg + Spec.bit flit * 2 + Spec.bit line * 4) = 0 := by decide
  exact zero ..

theorem parkWake_of_event {s : State} {i : CtxId} (going : coreStopped s i.core = false) (running : (s.ctx i).halted = false)
    (event : eventSet (s.ctx i) ≠ 0) : parkWake s i = endPark s i (parkEvents (s.ctx i)) := by
  have some_ : ¬ parkEvents (s.ctx i) = 0 := fun none => event ((parkEvents_eq_zero _).1 none)
  simp only [parkWake, some_, going, running, decide_false, Bool.or_self, Bool.false_eq_true, if_false]

section
variable {s : State} {i : CtxId} {q : Parked} (parked : (s.ctx i).parked = some q)
include parked

/-- A `park` completes with a set: it reads its operand's flit, and delivers the set. -/
theorem sends_endPark (set : Nat) :
    let k2 := { s.ctx i with parked := none, evLine := false, fir := { (s.ctx i).fir with evMsg := false, evFlit := false } }
    Sends s (endPark s i set) i (((k2.pop q.a).putX q.d (BitVec.ofNat 64 set)).goesOn 4) q.d ⟨false, (BitVec.ofNat 64 set).setWidth 1024⟩ := by
  intro k2
  have awake := Only.modCtx s i fun k => { k with parked := none, evLine := false, fir := { k.fir with evMsg := false, evFlit := false } }
  have delivered := (awake.takeX q.a).writeDest q.d (BitVec.ofNat 64 set)
  have completed := delivered.complete (.next (((k2.pop q.a).putX q.d (BitVec.ofNat 64 set)).fir.pc + BitVec.ofNat 64 4))
  simp only [endPark, parked, completeNext, State.fir, delivered.1]
  exact completed

variable (going : coreStopped s i.core = false) (running : (s.ctx i).halted = false)
include going running

/-- 65,536 cycles without an event. -/
theorem parkTimeout_of_quiet (quiet : eventSet (s.ctx i) = 0) (late : q.time + 65536 ≤ s.now) : parkTimeout s i = endPark s i 8 := by
  simp only [parkTimeout, parked, (parkEvents_eq_zero _).2 quiet, late, going, running, decide_true, Bool.not_false, Bool.and_self, if_true]

end

/-! ### Flits (R48) -/

/-- A flit that arrives enters its FIFO and is an event. -/
theorem only_flitArrival {s : State} {i : CtxId} {d : Dir} {q rest : List Flit} {f : Flit} (port : portAt (s.ctx i) d = ⟨q, f :: rest⟩) :
    Only s (flitArrival s i d) i { setPort (s.ctx i) d ⟨q ++ [f], rest⟩ with
      fir := { (s.ctx i).fir with evFlit := true }, yieldSlot := (s.ctx i).yieldSlot.map fun y => { y with evFlit := true } } := by
  simp only [flitArrival, port]
  exact Only.modCtx s i _

/-! ### Starts of firings (R85, R86) -/

theorem Only.setCtx {s t : State} {i : CtxId} {k : Context} (h : Only s t i k) (k' : Context) : Only s (t.setCtx i k') i k' := h.then fun _ => k'

/-- The entry at the head leaves the run queue, and the held message enters (R85). -/
theorem popRunq_eq {k : Context} {e : QEntry} {l : List QEntry} (queue : k.runq = e :: l) :
    popRunq k = { k with runq := l ++ (k.hold.map QEntry.msg).toList, hold := none } := by
  unfold popRunq
  split
  next m held => simp only [queue, held, List.drop_one, List.tail_cons, Option.map_some, Option.toList_some]
  next free =>
    simp only [queue, free, List.drop_one, List.tail_cons, Option.map_none, Option.toList_none, List.append_nil]

/-- Words written to consecutive registers. -/
theorem getElem_foldl_set (l : List Word) (v : Vector Word 32) (n r : Nat) (fits : n + l.length ≤ 32) (hr : r < 32) :
    (l.foldl (fun (acc : Vector Word 32 × Nat) w => (acc.1.set (Fin.ofNat 32 acc.2) w, acc.2 + 1)) (v, n)).1[r] =
      if n ≤ r then (l[r - n]?).getD v[r] else v[r] := by
  induction l generalizing v n with
  | nil => rw [List.foldl_nil, List.getElem?_nil, Option.getD_none, ite_self]
  | cons w l ih =>
    have below : n < 32 := Nat.lt_of_lt_of_le (Nat.lt_add_of_pos_right (Nat.succ_pos _)) fits
    have at_ : (Fin.ofNat 32 n).val = n := Nat.mod_eq_of_lt below
    rw [List.foldl_cons, ih _ _ (Nat.succ_add_eq_add_succ n l.length ▸ fits), Vector.getElem_set, at_]
    rcases Nat.lt_trichotomy n r with after | rfl | before
    · have index : r - n = r - (n + 1) + 1 := (Nat.succ_pred_eq_of_pos (Nat.sub_pos_of_lt after)).symm
      rw [if_pos (Nat.succ_le_of_lt after), if_neg (Nat.ne_of_lt after), if_pos (Nat.le_of_lt after), index, List.getElem?_cons_succ]
    · rw [if_neg (Nat.not_succ_le_self n), if_pos rfl, if_pos (Nat.le_refl n), Nat.sub_self]
      rfl
    · rw [if_neg (Nat.not_le.2 (Nat.lt_succ_of_lt before)), if_neg (Nat.ne_of_gt before), if_neg (Nat.not_le.2 before)]

/-- The registers of R86. -/
theorem startRegs_eq (k : Context) (hdr : BitVec 128) (pay : Vec) :
    startRegs k hdr ((List.range 8).map (payloadWord pay)) pay =
      (Vector.ofFn fun (r : Fin 32) =>
        if r.val = 2 then k.stklim - 16
        else if r.val = 8 then hdr.setWidth 64
        else if r.val = 9 then hdr.extractLsb' 64 64
        else if 10 ≤ r.val ∧ r.val ≤ 17 then pay.extractLsb' (64 * (r.val - 10)) 64
        else 0,
       Vector.ofFn fun (r : Fin 28) => if r.val = 27 then pay else 0) := by
  refine Prod.ext (Vector.ext fun r hr => ?_) (Vector.ext fun r hr => ?_)
  · have fits : 10 + ((List.range 8).map (payloadWord pay)).length ≤ 32 := show 10 + 8 ≤ 32 by decide
    refine (getElem_foldl_set _ _ 10 r fits hr).trans ?_
    rw [Vector.getElem_ofFn]
    interval_cases r <;> rfl
  · show ((Vector.replicate 28 (0 : Vec)).set 27 pay)[r] = _
    rw [Vector.getElem_ofFn, Vector.getElem_set, Vector.getElem_replicate]
    exact if_congr eq_comm rfl rfl

theorem fld_eq_extractLsb' {n : Nat} (w : BitVec n) (hi lo : Nat) : BitVec.ofNat (hi + 1 - lo) (fld w hi lo) = w.extractLsb' lo (hi + 1 - lo) := by
  apply BitVec.eq_of_toNat_eq
  simp only [BitVec.toNat_ofNat, BitVec.extractLsb'_toNat, fld, bitsOf, Nat.shiftRight_eq_div_pow, Nat.mod_mod]

/-- What starts in a context that only its own queue has changed. -/
theorem startFiring_eq {s t : State} {i : CtxId} {k : Context} (h : Only s t i k) (stack : k.stklim = (s.ctx i).stklim)
    (spm : k.fir.spm = (s.ctx i).fir.spm) (seq : k.seq = (s.ctx i).seq) (m : Msg) :
    startFiring t i m.hdr ((List.range 8).map (payloadWord m.payload)) m.payload none none [] (isGroupStart m.hdr) =
      t.setCtx i { k with running := true, fir := Spec.startOf s i m, seq := nextSeq s i, rb := [], reason := 0, parked := none, skid := none } := by
  have ctx : (t.coreAt i.core).ctx i.x = k := h.1
  have handlers (cls : Nat) : handlerOf (t.coreAt i.core) cls = handlerOf (s.coreAt i.core) cls := by
    simp only [handlerOf, Core.handlers_eq_of_shell (h.2.2.shell i.core)]
  have next : nextSeq t i = nextSeq s i := by
    simp only [nextSeq, h.1, seq, Core.accowner_eq_of_shell (h.2.2.shell i.core)]
  have cap : capOf t = capOf s := by
    rw [h.2.2.eq_cores]
    rfl
  have class_ : hdrClass m.hdr = m.hdr.toNat % 32 := congrArg (· % 32) (Nat.div_one m.hdr.toNat)
  have launch : BitVec.ofNat 32 (hdrLaunch m.hdr) = m.hdr.extractLsb' 64 32 := fld_eq_extractLsb' m.hdr 95 64
  have group : BitVec.ofNat 16 (hdrGroup m.hdr) = m.hdr.extractLsb' 48 16 := fld_eq_extractLsb' m.hdr 63 48
  have depth : BitVec.ofNat 4 (fld m.hdr 47 44) = m.hdr.extractLsb' 44 4 := fld_eq_extractLsb' m.hdr 47 44
  have stage : BitVec.ofNat 4 (fld m.hdr 43 40) = m.hdr.extractLsb' 40 4 := fld_eq_extractLsb' m.hdr 43 40
  simp only [startFiring, ctx, handlers, next, cap, class_, launch, group, depth, stage, startRegs_eq, h.partition, stack, spm, bitAt_eq_getLsbD]
  rfl

/-- The context once the head entry has left its queue. -/
def unqueued (k : Context) (l : List QEntry) : Context := { k with runq := l ++ (k.hold.map QEntry.msg).toList, hold := none }

section
variable {s : State} {i : CtxId} {l : List QEntry}

theorem only_unqueued {e : QEntry} (queue : (s.ctx i).runq = e :: l) : Only s (s.setCtx i (popRunq (s.ctx i))) i (unqueued (s.ctx i) l) := by
  rw [popRunq_eq queue]
  exact (Only.refl s i).setCtx _

variable (idle : Spec.Idle s i)
include idle

/-- Nothing keeps a context that can start from starting (R85). -/
theorem firingStart_free : ¬ ((s.ctx i).running || (s.ctx i).halted || coreStopped s i.core || (s.ctx i).fir.range.isSome) = true := by
  obtain ⟨stopped, going, running, whole⟩ := idle
  rw [stopped, going, running, whole]
  exact Bool.false_ne_true

theorem firingStart_msg {m : Msg} (queue : (s.ctx i).runq = .msg m :: l) : firingStart s i =
    (let s1 := s.setCtx i (popRunq (s.ctx i))
      if !boundMsg (s.coreAt i.core) m.hdr then discardUnbound s1 i.core m
      else startFiring (if isGroupStart m.hdr then noteStarted s1 (hdrGroup m.hdr) else s1) i m.hdr
        ((List.range 8).map (payloadWord m.payload)) m.payload none none [] (isGroupStart m.hdr)) := by
  have head : ((s.coreAt i.core).ctx i.x).runq.head? = some (.msg m) := congrArg List.head? queue
  refine (if_neg (firingStart_free idle)).trans ?_
  rw [head]
  rfl

theorem firingStart_bound {m : Msg} (queue : (s.ctx i).runq = .msg m :: l) (bound : boundMsg (s.coreAt i.core) m.hdr = true) :
    let s1 := if isGroupStart m.hdr then modGroup s (hdrGroup m.hdr) fun g => { g with started := g.started + 1 } else s
    Only s1 (firingStart s i) i { unqueued (s.ctx i) l with
      running := true, fir := Spec.startOf s i m, seq := nextSeq s i, rb := [], reason := 0, parked := none, skid := none } := by
  have popped := only_unqueued queue
  rw [firingStart_msg idle queue, bound, Bool.not_true, if_neg Bool.false_ne_true]
  cases start : isGroupStart m.hdr with
  | true =>
    have counted := popped.overFree (coreFree_modGroup (hdrGroup m.hdr) fun g => { g with started := g.started + 1 })
    have started := startFiring_eq counted (show _ = (s.ctx i).stklim from rfl) rfl rfl m
    rw [start] at started
    rw [if_pos rfl, if_pos rfl, noteStarted, started]
    exact counted.setCtx _
  | false =>
    have started := startFiring_eq popped rfl rfl rfl m
    rw [start] at started
    rw [if_neg Bool.false_ne_true, if_neg Bool.false_ne_true, started]
    exact popped.setCtx _

theorem firingStart_unbound {m : Msg} (queue : (s.ctx i).runq = .msg m :: l) (unbound : boundMsg (s.coreAt i.core) m.hdr = false)
    (single : isGroupStart m.hdr = false) :
    Only (partEvent (s.modCore i.core fun q => { q with evlog := q.evlog ++ [m.hdr] }) (s.coreAt i.core).partition 4) (firingStart s i) i
      (unqueued (s.ctx i) l) := by
  have popped := only_unqueued queue
  rw [firingStart_msg idle queue, unbound, Bool.not_false, if_pos rfl, discardUnbound, countStart, single, if_neg Bool.false_ne_true, popped.partition]
  exact (popped.overCore (f := fun q => { q with evlog := q.evlog ++ [m.hdr] })
    (coreMap_id (fun _ => rfl) (fun _ => rfl) fun _ _ _ => rfl) i.core rfl).overFree (coreFree_partEvent (s.coreAt i.core).partition 4)

theorem firingStart_cont {f : Firing} (queue : (s.ctx i).runq = .cont :: l) (yielded : (s.ctx i).yieldSlot = some f) :
    Only s (firingStart s i) i { unqueued (s.ctx i) l with running := true, fir := f, yieldSlot := none, rb := [], reason := 0 } := by
  have head : ((s.coreAt i.core).ctx i.x).runq.head? = some .cont := congrArg List.head? queue
  have slot : ((s.coreAt i.core).ctx i.x).yieldSlot = some f := yielded
  have goes : firingStart s i = s.setCtx i { popRunq (s.ctx i) with running := true, fir := f, yieldSlot := none, rb := [], reason := 0 } := by
    refine (if_neg (firingStart_free idle)).trans ?_
    rw [head, slot]
    rfl
  rw [goes, popRunq_eq queue]
  exact (Only.refl s i).setCtx _

end

/-! ### Remainders and actors (R87, R91) -/

@[simp] theorem ctx_injectOn (s : State) (tag pa n : Nat) (i : CtxId) : (injectOn s tag pa n).ctx i = s.ctx i := by
  have poisoned (t : State) (l : List Nat) : ({ t with poison := l } : State).ctx i = t.ctx i := rfl
  unfold injectOn
  split
  · rfl
  next a _ =>
    dsimp only
    split
    · split
      · rw [ctx_logError, ctx_setLog]
      · split
        · rw [ctx_logError, poisoned, ctx_setLog]
        · split
          · split
            · rw [ctx_logError, ctx_setLog]
            · exact ctx_setLog ..
          · exact ctx_setLog ..
    · rfl

theorem ctx_dequePush (s : State) (n : Nat) (r : Range) (i : CtxId) : (dequePush s n r).ctx i = s.ctx i := by
  have outside (t : State) (f : Core → Nat) : (t.modCore n fun c => { c with rqbot := f c }).ctx i = t.ctx i := by
    apply State.ctx_modCore_outside <;> intro <;> rfl
  have elsewhere (m : List Host.Cell) (l : List Nat) : ({ s with mem := m, poison := l } : State).ctx i = s.ctx i := rfl
  rw [dequePush, outside, dequeWrite, writeMem, writeMemBy, ctx_injectOn, elsewhere]

/-- A remainder goes back once the deque has room (R91). -/
theorem only_rangeRemainderPush {s : State} {i : CtxId} {r : Range} (idle : (s.ctx i).running = false) (kept : (s.ctx i).fir.range = some r)
    (room : dequeFull (s.coreAt i.core) = false) :
    Only (dequePush s i.core r) (rangeRemainderPush s i) i { s.ctx i with fir := { (s.ctx i).fir with range := none } } := by
  have cleared := Only.modCtx (dequePush s i.core r) i fun k => { k with fir := { k.fir with range := none } }
  rw [ctx_dequePush] at cleared
  have pushes : rangeRemainderPush s i = (dequePush s i.core r).modFir i fun f => { f with range := none } := by
    simp only [rangeRemainderPush, idle, kept, room, Bool.false_eq_true, if_false]
  rw [pushes]
  exact cleared

/-- A context whose queue an actor firing enters (R87). -/
def withActor (s : State) (k : Context) (a : Actor) : Context := { k with
  runq := k.runq ++ [.actor a], readyAt := if k.running = false ∧ k.runq = [] then Nat.max k.readyAt (s.now + 4) else k.readyAt }

/-- The firing of an actor entry. -/
def actorOf (h : BitVec 128) (cls : Nat) : Actor := ⟨cls, (hActor h).map (·.1), fld h 67 60, fld h 87 80, fld h 107 100, fld h 127 120⟩

/-- An actor entry that is ready enters the run queue, and the core's steal attempt ends (R87, R94). -/
theorem only_actorReady {s : State} {c cls : Nat} {x : Ctx} (valid : hValid (handlerOf (s.coreAt c) cls) = true)
    (kind : hKind (handlerOf (s.coreAt c) cls) = 1) (context : hCtx (handlerOf (s.coreAt c) cls) = x) (class_ : 3 ≤ cls)
    (free : actorBusy s c cls = false) (ready : actorShort s c cls = [])
    (closed : ∀ ch ∈ hChans (handlerOf (s.coreAt c) cls), openIn s ⟨c, .n⟩ ch = false ∧ openIn s ⟨c, .u⟩ ch = false)
    (going : (s.ctx ⟨c, x⟩).halted = false) (noReset : (s.clusterAt (clusterOf c)).resetAt = none) (sound : s.pkg.error ≠ 8)
    (room : (s.ctx ⟨c, x⟩).runq.length < runqCap x) :
    Only (Spec.stealEnds s c) (actorReady s c cls) ⟨c, x⟩ (withActor s (s.ctx ⟨c, x⟩) (actorOf (handlerOf (s.coreAt c) cls) cls)) := by
  have unused : ((hChans (handlerOf (s.coreAt c) cls)).all fun ch => !openOn s c ch) = true := List.all_eq_true.2 fun ch used => by
    rw [openOn, (closed ch used).1, (closed ch used).2]
    rfl
  have ctx (x : Ctx) : (s.coreAt c).ctx x = s.ctx ⟨c, x⟩ := rfl
  have numbers : (s.pkg.error != 8) = true := bne_iff_ne.2 sound
  have enters : actorReady s c cls =
      endSteal (s.modCtx ⟨c, x⟩ fun k => withActor s k (actorOf (handlerOf (s.coreAt c) cls) cls)) c := by
    simp only [actorReady, valid, kind, context, class_, free, ready, noReset, numbers, unused, ctx, going, room, hActor, List.map_cons, List.map_nil,
      beq_self_eq_true, decide_true, Bool.not_false, List.isEmpty_nil, Option.isNone_none, Bool.and_self, if_true, withActor, actorOf,
      Bool.and_eq_true, Bool.not_eq_true', List.isEmpty_iff]
  rw [enters]
  exact (Only.modCtx s ⟨c, x⟩ fun k => withActor s k (actorOf (handlerOf (s.coreAt c) cls) cls)).overCore
    (f := fun c => { c with steal := { c.steal with
      idleSince := none, tried := 0, roundEnd := none, stale := c.steal.waiting.isSome || c.steal.reply.isSome } })
    (coreMap_id (fun _ => rfl) (fun _ => rfl) fun _ _ _ => rfl) c rfl

/-! ### O42 -/

/-- Settles O42: each of these events is its step of the context, outside which only what the statement names changes. -/
theorem contextEventsHappen : Obligations.ContextEventsHappen := by
  intro s c x i k
  refine ⟨fun going open_ uFree nFree => ⟨fun hu hn => ?_, fun r ch g hu nFree' hn => ?_, fun hu begun hn => ?_⟩, ?_, ?_, ?_, ?_, ?_, ?_⟩
  · exact congrArg Host.Outcome.next (issueCycle_both going open_ uFree nFree hu hn)
  · exact congrArg Host.Outcome.next (issueCycle_n going open_ uFree (readiness_park hu) nFree' hn)
  · exact congrArg Host.Outcome.next (issueCycle_n going open_ uFree (readiness_stay hu begun) nFree hn)
  · intro o r l fetched there due queue outside checked
    refine ⟨_, congrArg Host.Outcome.next (storeFaultTrap_eq fetched there due queue), ?_⟩
    exact (Only.refl s i).takeTrap_of_atEntry (storeTrap_eq queue ▸ storeTrap_atEntry s i) outside checked
  · intro q parked going running
    refine ⟨fun event => ⟨_, congrArg Host.Outcome.next (parkWake_of_event going running event), ?_⟩,
      fun quiet late => ⟨_, congrArg Host.Outcome.next (parkTimeout_of_quiet parked going running quiet late), ?_⟩⟩
    · have ended := sends_endPark parked (parkEvents k)
      rw [parkEvents_word] at ended
      exact ended
    · have flit : (BitVec.ofNat 64 8).setWidth 1024 = (8 : BitVec 1024) := BitVec.setWidth_ofNat_of_le_of_lt (by decide) (by decide)
      have ended := sends_endPark parked 8
      rw [flit] at ended
      exact ended
  · exact fun d q f rest port => ⟨_, rfl, only_flitArrival port⟩
  · exact fun e l idle queue => ⟨fun m head bound => ⟨_, rfl, firingStart_bound idle (head ▸ queue) bound⟩,
      fun m head unbound single => ⟨_, rfl, firingStart_unbound idle (head ▸ queue) unbound single⟩,
      fun f head yielded => ⟨_, rfl, firingStart_cont idle (head ▸ queue) yielded⟩⟩
  · intro r idle kept room
    have pushed := only_rangeRemainderPush (i := ⟨c, x⟩) idle kept room
    exact ⟨rangeRemainderPush s ⟨c, x⟩, rfl, pushed⟩
  · exact fun cls valid kind context class_ free ready closed going noReset sound room =>
      ⟨_, rfl, only_actorReady valid kind context class_ free ready closed going noReset sound room⟩

end Sys2Proof.Machine
end


section
/-!
SUPPORT and the settlement of O55. The record of a thawed core holds the pulses that its cell has completed (R282); the model's count of them is
a number with no bound, and one of more than 20 bits reaches into the record's kind.
-/
namespace Sys2Proof.Machine

/- A cell in a gang of one core, core 0 (descriptor 0), that has completed 2^20 pulses. -/
noncomputable def longCell : Cell := ⟨.n, 0, false, 0, 1, 0, 2 ^ 20⟩

/- Core 0 frozen with that cell. -/
noncomputable def longFrozen : State :=
  { State.reset with cores := [(0, { Core.reset with n := { Context.reset with running := true, barrier := some ⟨0, 0, 5, 6⟩ }, cell := some longCell })] }

/- A parity error in x7 of core 0's context N. -/
noncomputable def registerParity : ErrorReport := ⟨.core 0 2, .parity, .xreg 0 .n 7, 0, 0⟩

theorem partition_longFrozen (n : Nat) : (longFrozen.coreAt n).partition < 16 :=
  iteInduction (motive := fun o : Option Core => (o.getD Core.reset).partition < 16) (fun _ => Nat.succ_pos 15) fun _ => Nat.succ_pos 15

/- The kind in core 0's record of a thaw, bits [33:24], after a step. -/
noncomputable def thawKind : Host.Outcome State Fault Refusal → Nat
  | .next t => fld (t.coreAt 0).gstat 33 24
  | _ => 0

/- The pulses reach into the kind. -/
theorem thawKind_registerParity : thawKind (exec (.errorDetected registerParity) longFrozen) = 3 := by decide +kernel

theorem third_of_four {a b c d : Prop} (h : a ∧ b ∧ c ∧ d) : c := h.2.2.1

theorem exists_first_and_sixth {p a b c d e f : State → Prop} (h : ∃ t, p t ∧ a t ∧ b t ∧ c t ∧ d t ∧ e t ∧ f t) : ∃ t, p t ∧ e t :=
  h.imp fun _ all => ⟨all.1, all.2.2.2.2.2.1⟩

/-- Refutes O55: its clause about a frozen member asks for kind 2 in the record of the thaw whatever number of pulses its cell has completed. In
`longFrozen`, which no reachable state is, since a descriptor's pulses have 16 bits (R269), it is 2^20, which adds 1 to the kind. -/
theorem not_errorsAreDetected : ¬ Obligations.ErrorsAreDetected := fun holds =>
  have frozen := third_of_four (holds longFrozen registerParity rfl partition_longFrozen)
  have thaws := exists_first_and_sixth (frozen 0 .n 7 longCell ⟨0, 0, 5, 6⟩ rfl rfl rfl (List.mem_singleton_self 0) rfl)
  thaws.elim fun _ step => absurd (thawKind_registerParity.symm.trans ((congrArg thawKind step.1).trans step.2)) (by decide)

end Sys2Proof.Machine
end


section
/-
SUPPORT and the settlement of O54: the service hart's work on a lone request, and the walker's leaf.

The obligation fixes what each step meets (the queue, the states, a home or a fault), and each clause is the equation of the step that meets it. A
definition here whose comment names a function of the model ("`endRequest`, by …") is that function's body with what it looks at as arguments: the two
are equal by definition, so that `congrArg` puts what a step meets in the place of what the function looks up, and no proof splits the other cases.
Comments on helpers are plain comments, and equations are proof terms, to keep the compiled text small.
-/
namespace Sys2Proof.Machine

/- ### Paths and walks (R110, R130) -/

section
variable {P : State → Prop} (strike : ∀ s a tag part, P s → P (strikePath s a tag part))
include strike

theorem homePaths_keeps (s : State) (d tag part pa : Nat) (h : P s) : P (homePaths s d tag part pa) := by
  delta homePaths
  rcases destUnit pa with _ | u
  · exact h
  · exact List.foldlRecOn _ _ h fun t ht a _ => strike t a tag part ht

theorem walkPaths_keeps (s : State) (cl p va : Nat) (h : P s) : P (walkPaths s cl p va) :=
  iteInduction (motive := P) (fun _h => h) fun _h => List.foldlRecOn _ _ h fun t ht pa _h => homePaths_keeps strike t _ 0 p pa ht
end

theorem insertEntry_unarmed {s : State} {cl : Nat} (unarmed : (s.clusterAt cl).log.inject.getLsbD 0 = false) (e : TEntry) :
    insertEntry s cl e = s.modCluster cl fun c => { c with tcache := e :: c.tcache.take 511 } :=
  if_neg fun armed => ne_true_of_eq_false ((bitAt_zero _).trans unarmed) (Bool.and_elim_left (Bool.and_elim_left (Bool.and_elim_left armed)))

/- ### No message of the hart on its way (R294) -/

/- Every message of an engine is another one's. -/
def Alone (cl : Nat) (s : State) : Prop := ∀ m ∈ s.pkg.engine, m.src ≠ .hart cl

/- A lookup in the translation cache, by what it finds and by what a walk gives. -/
noncomputable def cacheWith (hit walked : Option TEntry) (s : State) (cl p va : Nat) : Option TEntry × State :=
  let _ := s.clusterAt cl
  match hit with
  | some e => (some e, s.modCluster cl fun c => { c with tcache := e :: c.tcache.filter fun t => t != e })
  | none =>
    match walked with
    | none => (none, walkPaths s cl p va)
    | some e => (some e, insertEntry (walkPaths s cl p va) cl e)

/- The home of an address, by its fixed window. -/
noncomputable def homeWith (o : Option Home) (s : State) (cl : Nat) (w : Requester) (va : Nat) (n : Need) : Home × State :=
  match o with
  | some h => (h, s)
  | none => translate s cl w.part w.sup va n

/- The homes of pieces, by the home of the first. -/
noncomputable def homesWith (cl : Nat) (w : Requester) (need : Need) (at_ : Nat → Nat) (q : Nat × Nat) (l : List (Nat × Nat))
    (acc : List (Nat × Nat × Nat)) (x : Home × State) : Except (Nat × Nat) (List (Nat × Nat × Nat)) × State :=
  match x with
  | (.error c, s1) => (.error (at_ q.1, c), s1)
  | (.ok pa, s1) => pieceHomes cl w need at_ l s1 ((q.1, q.2, pa) :: acc)

section
variable {cl : Nat} {s : State}

theorem alone_setLog (h : Alone cl s) (a : ErrArray) (l : ErrLog) : Alone cl (setLog s a l) :=
  a.casesOn (motive := fun a => Alone cl (setLog s a l)) (fun _h _h => h) (fun _h => h) fun _h _h => h

theorem alone_logError (h : Alone cl s) (a : ErrArray) (kind address tag part : Nat) : Alone cl (logError s a kind address tag part) := by
  delta logError
  extract_lets l
  rcases findEntry _ l with _ | i
  · rcases findEntry _ l with _ | i
    · exact alone_setLog h _ _
    · exact alone_setLog (s := s.nextFresh.2) h _ _
  · exact alone_setLog h _ _

theorem alone_walkPaths (h : Alone cl s) (c p va : Nat) : Alone cl (walkPaths s c p va) :=
  walkPaths_keeps (fun _h _h _h part ht => iteInduction (motive := Alone cl) (fun _h => alone_logError (alone_setLog ht _ _) _ _ _ _ part)
    fun _h => ht) s c p va h

theorem alone_insertEntry (s : State) (c : Nat) (e : TEntry) (h : Alone cl s) : Alone cl (insertEntry s c e) :=
  iteInduction (motive := Alone cl) (fun _h => alone_logError (alone_setLog h _ _) _ _ _ _ e.part) fun _h => h

theorem alone_cacheWith (h : Alone cl s) (c p va : Nat) (hit walked : Option TEntry) : Alone cl (cacheWith hit walked s c p va).2 := by
  rcases hit with _ | e
  · rcases walked with _ | e
    · exact alone_walkPaths h c p va
    · exact alone_insertEntry _ c e (alone_walkPaths h c p va)
  · exact h

theorem alone_cacheWalk (c p va : Nat) (h : Alone cl s) : Alone cl (cacheWalk s c p va).2 :=
  iteInduction (motive := fun t : _ × State => Alone cl t.2) (fun _h => h) fun _h => alone_cacheWith h c p va _ _

theorem alone_translate (c p : Nat) (sup : Bool) (va : Nat) (n : Need) (h : Alone cl s) : Alone cl (translate s c p sup va n).2 := by
  delta translate
  rcases rangeLookup s p va with _ | q
  · have walked := alone_cacheWalk c p va h
    generalize cacheWalk s c p va = x at walked ⊢
    rcases x with ⟨_ | e, s1⟩ <;> exact walked
  · exact h

theorem alone_pieceHomes (c : Nat) (w : Requester) (need : Need) (at_ : Nat → Nat) (l : List (Nat × Nat)) :
    ∀ (s : State) acc, Alone cl s → Alone cl (pieceHomes c w need at_ l s acc).2 := by
  induction l with
  | nil => exact fun _h _h h => h
  | cons q l ih =>
    intro s acc h
    have home : Alone cl (homeWith (fixedWindow w.core (at_ q.1)) s c w (at_ q.1) need).2 := by
      rcases fixedWindow w.core (at_ q.1) with _ | o
      · exact alone_translate _ _ _ _ _ h
      · exact h
    suffices rest : ∀ x, Alone cl x.2 → Alone cl (homesWith c w need at_ q l acc x).2 from rest _ home
    rintro ⟨e | pa, s1⟩ h1
    · exact h1
    · exact ih s1 _ h1

theorem piecesBehind_of_alone (h : Alone cl s) (l : List (Nat × Nat × Nat)) : piecesBehind s cl l = false :=
  List.any_eq_false.2 fun _h _h => ne_true_of_eq_false <| (congrArg (and _) (List.any_eq_false.2 fun m sent own =>
    h m sent (eq_of_beq (Bool.and_elim_left (Bool.and_elim_left own))))).trans (Bool.and_false _)
end

/- ### The hart's work on a lone request (R110, R118) -/

/- What the hart does with a request that it has found, by all that this rests on. -/
noncomputable def chunkOf (s : State) (cl : Nat) (r : HartReq) (late cancel : Bool) (st : HartState) : State × List (Nat × Word) :=
  match st with
  | .ending bytes code => endRequest s cl r bytes code
  | .entered => startRequest s cl r
  | .descFault | .faulted => if cancel then cancelRequest s cl r else (s, [])
  | .active =>
    if cancel then cancelRequest s cl r
    else if late then (s, [])
    else moveChunk s cl r

/- A request that is not among the first four active ones, or that an access of its requester still holds back. -/
noncomputable def late (s : State) (slot : Nat) (r : HartReq) (active : List HartReq) (after : Option Nat) : Bool :=
  !((active.take 4).any fun q => q.slot == slot)
    || after.any (fun n => !releasedBefore s ⟨r.who.core, r.who.x⟩ n .package allMsgs)

/- A visit of the hart (`hartChunk`), by the request that it finds. -/
noncomputable def hartWork (s : State) (cl slot : Nat) (queue : List HartReq) (held : Bool) : Option HartReq → State × WinWrites
  | none => (s, [])
  | some r => if held then (s, []) else chunkOf s cl r (late s slot r (queue.filter fun q => q.state == .active) r.after) r.cancel r.state

theorem find_lone {l : List HartReq} {r : HartReq} (lone : l = [r]) : l.find? (fun q => q.slot == r.slot) = some r :=
  (congrArg (List.find? fun q : HartReq => q.slot == r.slot) lone).trans (List.find?_cons_of_pos (beq_self_eq_true r.slot))

theorem hartChunk_lone {s : State} {cl : Nat} {r : HartReq} (lone : (s.clusterAt cl).reqs = [r]) (noReset : (s.clusterAt cl).resetAt = none)
    (running : (s.clusterAt cl).stalled = none) :
    hartChunk s cl r.slot = chunkOf s cl r (late s r.slot r ([r].filter fun q => q.state == .active) r.after) r.cancel r.state :=
  have idle := congrArg₂ (fun (a : Option Nat) (b : Option (Nat × BitVec 256)) => a.isSome || b.isSome) noReset running
  (congrArg (hartWork s cl r.slot _ _) (find_lone lone)).trans (congrArg₂ (fun q h => hartWork s cl r.slot q h (some r)) lone idle)

/- A step of the hart that leaves no window write ends in the state that it gives. -/
theorem next_settlePart {s t : State} {p : Nat} {x : State × WinWrites} (h : x = (t, [])) :
    (.next (settlePart s p x) : Host.Outcome State Fault Refusal) = .next t :=
  congrArg Host.Outcome.next ((congrArg (settlePart s p) h).trans (settlePart_nil s p t))

theorem step_moveChunk {s t : State} {cl : Nat} {r : HartReq} (lone : (s.clusterAt cl).reqs = [r]) (active : r.state = .active)
    (going : r.cancel = false) (noReset : (s.clusterAt cl).resetAt = none) (running : (s.clusterAt cl).stalled = none) (released : r.after = none)
    (moved : moveChunk s cl r = (t, [])) : exec (.serviceHartChunk cl r.slot) s = .next t :=
  next_settlePart <| (hartChunk_lone lone noReset running).trans <| (congrArg₂ (chunkOf s cl r _) going active).trans <|
    (congrArg (fun b => chunkOf s cl r b false .active) <|
      (congrArg₂ (late s r.slot r) (List.filter_cons_of_pos (p := fun q : HartReq => q.state == .active) (l := []) (beq_of_eq active)) released).trans
        (congrArg (fun b => !(b || false) || false) (beq_self_eq_true r.slot))).trans moved

/- The end of a request (`endRequest`), by what it rests on. -/
noncomputable def endOf (notify : Bool) (win : Option Nat) (o : Option (State × List (Nat × Word)))
    (s : State) (cl : Nat) (r : HartReq) (bytes code : Nat) :
    State × List (Nat × Word) :=
  match o with
  | none => (modReq s cl r.slot fun _h => { r with state := .ending bytes code }, [])
  | some (s1, w) =>
    let status := if code = 1 then boolNat r.replayed else code
    let s2 := if notify then
        postCompletion s1 (.hart cl) r.who r.nctx r.arg r.addr bytes status (win.getD 0xFF) (if win.isSome then 1 else 2)
      else s1
    let s3 := match win with
      | none => s2
      | some e =>
        let w := winAt (s2.coreAt r.who.core) e
        let st := if code = 1 && !w.drop then 2 else 0
        setWin s2 r.who.core e { w with bits := withField w.bits 3 2 st, drop := false }
    (dropReq s3 cl r.slot, w)

/- The status written to a mailbox, by its address. -/
noncomputable def mailWith (mbox : Word) (s : State) (cl : Nat) (r : HartReq) (bytes code : Nat) : Option (State × List (Nat × Word)) :=
  if mbox = 0 then some (s, [])
  else
    let v := bytes * 2 ^ 32 + code
    match hartHome s cl r.who mbox.toNat .write with
    | (.error _, s1) => some (s1, [])
    | (.ok pa, s1) =>
      if engineBefore s1 (· == .hart cl) pa then none
      else if isWindow pa then some (s1, [(pa, BitVec.ofNat 64 v)])
      else match lineOf pa with
        | some (n, l) => if lineFilling s1 n l then none
          else some (setFull (storeBytes (hartPass s1 cl r.who.part pa) r.who.part pa 8 v) n l, [])
        | none => if linkWaits s1 pa then none else some (storeBytes (hartPass s1 cl r.who.part pa) r.who.part pa 8 v, [])

/- A request with no mailbox, no completion and no window leaves the queue at its end. -/
theorem endRequest_silent {r : HartReq} (mbox : r.mbox = 0) (silent : r.notify = false) (copy : r.win = none)
    (s : State) (cl bytes code : Nat) :
    endRequest s cl r bytes code = (dropReq s cl r.slot, []) :=
  (congrArg (fun m => endOf r.notify r.win (mailWith m s cl r bytes code) s cl r bytes code) mbox).trans
    (congrArg₂ (fun n w => endOf n w (some (s, [])) s cl r bytes code) silent copy)

/- The stream byte behind the next chunk. -/
noncomputable def chunkStop (r : HartReq) : Nat := Nat.min (r.cursor + 4096) r.total

/- The request goes on behind its chunk, or ends. -/
noncomputable def fin (cl : Nat) (r : HartReq) (s : State) : State × WinWrites :=
  if chunkStop r = r.total then endRequest s cl { r with cursor := chunkStop r } r.total 1
  else (modReq s cl r.slot fun q => { q with cursor := chunkStop r }, [])

theorem fin_more {r : HartReq} (more : chunkStop r < r.total) (cl : Nat) (s : State) :
    fin cl r s = (modReq s cl r.slot fun q => { q with cursor := chunkStop r }, []) := if_neg more.ne

theorem fin_last {r : HartReq} (last : chunkStop r = r.total) (mbox : r.mbox = 0) (silent : r.notify = false) (copy : r.win = none)
    (cl : Nat) (s : State) :
    fin cl r s = (dropReq s cl r.slot, []) :=
  (if_pos last).trans (endRequest_silent (r := { r with cursor := chunkStop r }) mbox silent copy s cl r.total 1)

/- A chunk for the scratchpad whose sources have been read, or not. -/
noncomputable def chunkRead (s2 : State) (cl : Nat) (r : HartReq) (src : List (Nat × Nat × Nat))
    (o : Option (Except (Nat × Nat) Nat)) : State × List (Nat × Word) :=
  match o with
  | none => (s2, [])
  | some (.error (va, c)) => (stopRequest s2 cl r .faulted va c 0, [])
  | some (.ok v) => fin cl r (writeLines r r.cursor (chunkStop r) v (piecesPass s2 cl r.who.part src))

/- A chunk (`moveChunk`), by its destination and the homes of its source. -/
noncomputable def chunkTo (toScratch : Bool) (x : Except (Nat × Nat) (List (Nat × Nat × Nat)) × State)
    (_s : State) (cl : Nat) (r : HartReq) : State × List (Nat × Word) :=
  let b0 := r.cursor
  let stop := Nat.min (b0 + 4096) r.total
  let fin (s : State) : State × List (Nat × Word) :=
    if stop = r.total then endRequest s cl { r with cursor := stop } r.total 1
    else (modReq s cl r.slot fun q => { q with cursor := stop }, [])
  match x with
  | (.error (va, c), s1) => (stopRequest s1 cl r .faulted va c 0, [])
  | (.ok src, s1) =>
    match pieceHomes cl r.who .write r.dstAt (if toScratch then [] else pieces r.rowbytes r.dstAt 4096 b0 stop) s1 [] with
    | (.error (va, c), s2) => (stopRequest s2 cl r .faulted va c 1, [])
    | (.ok dst, s2) =>
      match if piecesBehind s2 cl (src ++ if toScratch then linePieces r b0 stop else dst) then none else readPieces s2 r b0 src 0 with
      | none => (s2, [])
      | some (.error (va, c)) => (stopRequest s2 cl r .faulted va c 0, [])
      | some (.ok v) =>
        if toScratch then fin (writeLines r b0 stop v (piecesPass s2 cl r.who.part src))
        else if piecesHeld s2 dst then (s2, [])
        else
          let (s3, w) := writeOthers r b0 v dst (piecesPass s2 cl r.who.part (src ++ dst))
          let (s4, w2) := fin s3
          (s4, w ++ w2)

/- ### The record of a copy fault (R122) -/

theorem packFields_lt {v b lo n : Nat} {l : List (Nat × Nat)} (hv : v < b) (rest : packFields l < 2 ^ lo)
    (fits : (b * 2 ^ lo).ble (2 ^ n) = true) :
    packFields ((v, lo) :: l) < 2 ^ n :=
  calc v * 2 ^ lo + packFields l < v * 2 ^ lo + 2 ^ lo := Nat.add_lt_add_left rest _
    _ = (v + 1) * 2 ^ lo := (Nat.succ_mul ..).symm
    _ ≤ b * 2 ^ lo := Nat.mul_le_mul_right _ hv
    _ ≤ 2 ^ n := Nat.le_of_ble_eq_true fits

theorem packFields_append_mod {n : Nat} (l rest : List (Nat × Nat)) (above : l.all (fun f => n.ble f.2) = true) :
    packFields (l ++ rest) % 2 ^ n = packFields rest % 2 ^ n := by
  induction l with
  | nil => rfl
  | cons f l ih =>
    have ok := Bool.and_eq_true_iff.1 above
    exact (Nat.add_modEq_right_iff.2 (Dvd.dvd.mul_left (Nat.pow_dvd_pow 2 (Nat.le_of_ble_eq_true ok.1)) _)).trans (ih ok.2)

/- A field of a packed word, whatever stands above it. -/
theorem extractLsb'_packFields {n v lo w : Nat} (l rest : List (Nat × Nat)) (below : packFields rest < 2 ^ lo)
    (inside : (lo + w).ble n = true)
    (above : l.all (fun f => (lo + w).ble f.2) = true) :
    (BitVec.ofNat n (packFields (l ++ (v, lo) :: rest))).extractLsb' lo w = BitVec.ofNat w v := by
  rw [extractLsb'_ofNat (Nat.le_of_ble_eq_true inside)]
  apply BitVec.eq_of_toNat_eq
  exact (Nat.mod_mul_right_div_self ..).symm.trans (
    (congrArg (fun m => m / 2 ^ lo) (Nat.pow_add 2 lo w ▸ packFields_append_mod l _ above)).trans (
    (Nat.mod_mul_right_div_self ..).trans
    (congrArg (fun m => m % 2 ^ w) (Nat.div_eq_of_lt_le (Nat.le_add_right _ _) (Nat.succ_mul v _ ▸ Nat.add_lt_add_left below _)))))

/- The fields of a request's record below the cursor. -/
noncomputable def recordLow (cl : Nat) (r : HartReq) (cause : Nat) : List (Nat × Nat) :=
  [(r.who.tag.toNat, 128), (r.who.group.toNat, 112), (r.who.core, 99), (cause, 88), (r.slot, 80), (r.win.getD 0xFF, 72), (0, 64), (cl, 0)]

theorem copyFaultRecord_fields {cl : Nat} {r : HartReq} {cause : Nat} (copy : r.win = none) (cluster : cl < 288) (core : r.who.core < 4608)
    (slot : r.slot < 32) (code : cause < 256) (cursor : r.cursor < 2 ^ 32) (va : Nat) {P : Prop} (h : P) :
    let e := copyFaultRecord cl r va r.cursor cause 0
    e.extractLsb' 192 64 = BitVec.ofNat 64 va ∧ e.extractLsb' 160 32 = BitVec.ofNat 32 r.cursor ∧ e.extractLsb' 64 1 = 0 ∧ P :=
  have cluster : packFields [(cl, 0)] < 2 ^ 64 := packFields_lt (l := []) cluster Nat.one_pos (.refl true)
  have low : packFields (recordLow cl r cause) < 2 ^ 160 :=
    packFields_lt r.who.tag.isLt (packFields_lt r.who.group.isLt (packFields_lt core (packFields_lt code (packFields_lt slot
      (packFields_lt (b := 256) (copy ▸ Nat.lt_add_one _) (packFields_lt Nat.one_pos cluster (.refl true)) (.refl true))
      (.refl true)) (.refl true)) (.refl true)) (.refl true)) (.refl true)
  ⟨extractLsb'_packFields [] ((r.cursor, 160) :: recordLow cl r cause) (packFields_lt cursor low (.refl true)) (.refl true) (.refl true),
    extractLsb'_packFields [(va, 192)] (recordLow cl r cause) low (.refl true) (.refl true),
    extractLsb'_packFields ((va, 192) :: (r.cursor, 160) :: (recordLow cl r cause).take 6) [(cl, 0)] cluster (.refl true) (.refl true), h⟩

theorem clusterAt_modCluster (s : State) (cl : Nat) (f : Cluster → Cluster) : (s.modCluster cl f).clusterAt cl = f (s.clusterAt cl) :=
  State.clusterAt_setCluster_self ..

/- A copy-fault record enters a partition's queue, or stalls the service hart while that is full. -/
noncomputable def recordFault (s : State) (cl p : Nat) (e : BitVec 256) (records : Nat) : State :=
  if records ≥ queueMax then s.modCluster cl fun c => { c with stalled := some (p, e) } else copyFault s p e

section
variable (s : State) (cl p : Nat) (e : BitVec 256)

theorem reqs_recordFault (n : Nat) : ((recordFault s cl p e n).clusterAt cl).reqs = (s.clusterAt cl).reqs :=
  iteInduction (motive := fun t : State => (t.clusterAt cl).reqs = (s.clusterAt cl).reqs)
    (fun _h => (congrArg Cluster.reqs (clusterAt_modCluster s cl _) :))
    fun _h => congrArg Cluster.reqs (clusterAt_partEvent _ p 2 cl)

theorem stalled_recordFault {n : Nat} (full : queueMax ≤ n) : ((recordFault s cl p e n).clusterAt cl).stalled = some (p, e) :=
  (congrArg (fun t : State => (t.clusterAt cl).stalled) (if_pos full)).trans (congrArg Cluster.stalled (clusterAt_modCluster s cl _) :)

theorem copyFaults_recordFault_full {n : Nat} (full : queueMax ≤ n) : ((recordFault s cl p e n).partAt p).copyFaults = (s.partAt p).copyFaults :=
  (congrArg (fun t : State => (t.partAt p).copyFaults) (if_pos full) :)

theorem copyFaults_copyFault : ((copyFault s p e).partAt p).copyFaults = (s.partAt p).copyFaults ++ [e] := by
  obtain ⟨_, after⟩ := partAt_partEvent (s.modPart p fun q => { q with copyFaults := q.copyFaults ++ [e] }) p 2
  exact (congrArg Partition.copyFaults after).trans (congrArg Partition.copyFaults (State.partAt_modPart_self s p _) :)

theorem copyFaults_recordFault {n : Nat} (room : n < queueMax) :
    ((recordFault s cl p e n).partAt p).copyFaults = (s.partAt p).copyFaults ++ [e] :=
  (congrArg (fun t : State => (t.partAt p).copyFaults) (if_neg (Nat.not_le_of_lt room))).trans (copyFaults_copyFault s p e)
end

/- `stopRequest`, by the window of the request. -/
noncomputable def stopOf (win : Option Nat) (s : State) (cl : Nat) (r : HartReq) (st : HartState) (va cause side : Nat) : State :=
  let s1 := modReq s cl r.slot fun r => { r with state := st }
  let s2 := match win with
    | some e => setWinState s1 r.who.core e 3
    | none => s1
  let rec_ := copyFaultRecord cl r va r.cursor cause side
  if (s.partAt r.who.part).copyFaults.length ≥ queueMax then s2.modCluster cl fun c => { c with stalled := some (r.who.part, rec_) }
  else copyFault s2 r.who.part rec_

theorem stopRequest_of_copy {r : HartReq} (copy : r.win = none) (s : State) (cl : Nat) (st : HartState) (va cause side : Nat) :
    stopRequest s cl r st va cause side =
      recordFault (modReq s cl r.slot fun r => { r with state := st }) cl r.who.part
      (copyFaultRecord cl r va r.cursor cause side) (s.partAt r.who.part).copyFaults.length :=
  (congrArg (fun w => stopOf w s cl r st va cause side) copy :)

/- The state of a request without a window that a fault of a source has stopped. -/
noncomputable def stopped (s : State) (cl : Nat) (r : HartReq) (va cause : Nat) : State :=
  recordFault (modReq s cl r.slot fun q => { q with state := .faulted }) cl r.who.part (copyFaultRecord cl r va r.cursor cause 0)
    (s.partAt r.who.part).copyFaults.length

theorem reqs_stopped (s : State) (cl : Nat) (r : HartReq) (va cause : Nat) :
    ((stopped s cl r va cause).clusterAt cl).reqs = (s.clusterAt cl).reqs.map
      fun q => if q.slot = r.slot then { q with state := .faulted } else q :=
  (reqs_recordFault ..).trans (congrArg Cluster.reqs (clusterAt_modCluster s cl _) :)

/- ### A chunk of the lone request (R119, R122)

The statements repeat the binders of the obligation, which share their terms with it. -/

theorem step_chunkRead (s : State) (cl : Nat) :
    let c := s.clusterAt cl
    let alone := ∀ m ∈ s.pkg.engine, m.src ≠ .hart cl
    ∀ r, let stop := Nat.min (r.cursor + 4096) r.total
      let sources := pieceHomes cl r.who .read r.srcAt (pieces r.rowbytes r.srcAt 4096 r.cursor stop) (bump s) []
      c.reqs = [r] → r.state = .active → r.cancel = false → c.resetAt = none → c.stalled = none → r.after = none → r.win = none → alone →
      ∀ l s1, sources = (.ok l, s1) → r.toScratch = true → ∀ {x t}, readPieces s1 r r.cursor l 0 = x → chunkRead s1 cl r l x = (t, []) →
        exec (.serviceHartChunk cl r.slot) s = .next t := by
  intro c alone r stop sources lone active going noReset running released copy free l s1 found scratch x t read moved
  exact step_moveChunk lone active going noReset running released <| (congrArg₂ (fun b x => chunkTo b x s cl r) scratch found).trans <|
    (congrArg (chunkRead s1 cl r l) <| (if_neg <| ne_true_of_eq_false <| piecesBehind_of_alone
      ((congrArg (fun x => Alone cl x.2) found).mp (alone_pieceHomes cl r.who .read r.srcAt _ (bump s) [] free))
        (l ++ linePieces r r.cursor stop)).trans read).trans moved

theorem step_chunkFault (s : State) (cl : Nat) :
    let c := s.clusterAt cl
    let alone := ∀ m ∈ s.pkg.engine, m.src ≠ .hart cl
    ∀ r, let stop := Nat.min (r.cursor + 4096) r.total
      let sources := pieceHomes cl r.who .read r.srcAt (pieces r.rowbytes r.srcAt 4096 r.cursor stop) (bump s) []
      c.reqs = [r] → r.state = .active → r.cancel = false → c.resetAt = none → c.stalled = none → r.after = none → r.win = none → alone →
      ∀ va cause s1, (sources = (.error (va, cause), s1) ∨
          ∃ l, sources = (.ok l, s1) ∧ r.toScratch = true ∧ readPieces s1 r r.cursor l 0 = some (.error (va, cause))) →
        exec (.serviceHartChunk cl r.slot) s = .next (stopped s1 cl r va cause) := by
  intro c alone r stop sources lone active going noReset running released copy free va cause s1 fault
  exact (fault.elim
    (fun found => step_moveChunk lone active going noReset running released
    (congrArg (fun x => chunkTo r.toScratch x s cl r) found))
    fun reads => reads.elim fun l reads =>
      step_chunkRead s cl r lone active going noReset running released copy free l s1 reads.1 reads.2.1 reads.2.2 rfl).trans
    (congrArg _ (stopRequest_of_copy copy s1 cl .faulted va cause 0))

/- ### Replay and cancel (R126) -/

/- The state with these requests in a cluster's queue. -/
noncomputable def setQueue (s : State) (cl : Nat) (l : List HartReq) : State := s.modCluster cl fun c => { c with reqs := l }

theorem clusterAt_setQueue (s : State) (cl : Nat) (l : List HartReq) : (setQueue s cl l).clusterAt cl = { s.clusterAt cl with reqs := l } :=
  State.clusterAt_setCluster_self ..

theorem modReq_lone {s : State} {cl : Nat} {r : HartReq} (lone : (s.clusterAt cl).reqs = [r]) (f : HartReq → HartReq) :
    modReq s cl r.slot f = setQueue s cl [f r] :=
  congrArg (setQueue s cl) (
    (congrArg (List.map fun q => if q.slot = r.slot then f q else q) lone).trans (congrArg (fun q => [q]) (if_pos rfl)))

/- `hartReplay` and `hartCancel`, by the state of the request that they find. -/
noncomputable def replayOf (st : HartState) (win : Option Nat) (s : State) (cl slot : Nat) (r : HartReq) : State × List (Nat × Word) :=
  match st with
  | .faulted =>
    let s1 := modReq s cl slot fun r => { r with state := .active, replayed := true }
    (match win with
      | some e => setWinState s1 r.who.core e 1
      | none => s1, [])
  | .descFault => hartChunk (modReq s cl slot fun r => { r with state := .entered, replayed := true }) cl slot
  | .entered | .active | .ending _ _ => (s, [])

noncomputable def cancelOf (st : HartState) (s : State) (cl slot : Nat) (_r : HartReq) : State × List (Nat × Word) :=
  match st with
  | .faulted | .descFault => hartChunk (modReq s cl slot fun r => { r with cancel := true }) cl slot
  | .entered | .active | .ending _ _ => (s, [])

/- A request that is to end. -/
noncomputable def cancelling (r : HartReq) : HartReq := { r with cancel := true }

/- Work on a request, by a search for it. -/
noncomputable def foundOf (s : State) (f : HartReq → State × WinWrites) : Option HartReq → State × WinWrites
  | some r => f r
  | none => (s, [])

theorem hartReplay_faulted {s : State} {cl : Nat} {r : HartReq} (lone : (s.clusterAt cl).reqs = [r]) (faulted : r.state = .faulted)
    (copy : r.win = none) : hartReplay s cl r.slot = (setQueue s cl [{ r with state := .active, replayed := true }], []) :=
  ((congrArg (foundOf s fun q => replayOf q.state q.win s cl r.slot q) (find_lone lone)).trans
    (congrArg₂ (fun st w => replayOf st w s cl r.slot r) faulted copy)).trans (congrArg (fun t => (t, [])) (modReq_lone lone _))

theorem putN_putN_self {α : Type} (n : Nat) (a b : α) (l : List (Nat × α)) : putN n a (putN n b l) = putN n a l := by
  have head (c : List (Nat × α)) : putN n a ((n, b) :: c) = (n, a) :: c := (if_neg (Nat.lt_irrefl n)).trans (if_pos rfl)
  induction l with
  | nil => exact head []
  | cons q l ih =>
    exact (apply_ite (putN n a) _ _ _).trans (ite_congr rfl (fun _h => head _) fun below => (apply_ite (putN n a) _ _ _).trans
      (ite_congr rfl (fun _h => head _) fun other => ((if_neg below).trans (if_neg other)).trans (congrArg (List.cons q) ih)))

/- A cluster whose queue a request has left. -/
noncomputable def dropFrom (waiting : List HartReq) (c : Cluster) (reqs : List HartReq) : Cluster :=
  match waiting with
  | [] => { c with reqs := reqs }
  | w :: ws => match freeSlot { c with reqs := reqs } with
    | some k => { c with reqs := reqs ++ [{ w with slot := k }], waiting := ws }
    | none => { c with reqs := reqs }

theorem dropReq_lone {s : State} {cl slot : Nat} {q : HartReq} (lone : (s.clusterAt cl).reqs = [q]) (same : q.slot = slot) :
    dropReq s cl slot = s.setCluster cl (dropFrom (s.clusterAt cl).waiting (s.clusterAt cl) []) :=
  have gone := (congrArg (List.filter fun r : HartReq => r.slot != slot) lone).trans
    (List.filter_cons_of_neg (l := []) fun other => bne_iff_ne.1 other same)
  congrArg (fun l => s.setCluster cl (dropFrom (s.clusterAt cl).waiting (s.clusterAt cl) l)) gone

theorem dropReq_queued {s : State} {cl slot : Nat} {q : HartReq} (same : q.slot = slot) :
    dropReq (setQueue s cl [q]) cl slot = s.setCluster cl (dropFrom (s.clusterAt cl).waiting (s.clusterAt cl) []) :=
  (dropReq_lone (congrArg Cluster.reqs (clusterAt_setQueue s cl [q])) same).trans <|
    (congrArg (fun c => (setQueue s cl [q]).setCluster cl (dropFrom c.waiting c [])) (clusterAt_setQueue s cl [q])).trans <|
    congrArg (fun l => { s with clusters := l }) (putN_putN_self cl (dropFrom (s.clusterAt cl).waiting (s.clusterAt cl) []) _ s.clusters)

/- A request leaves the queue whatever has been changed of it before. -/
theorem dropReq_setQueue {s : State} {cl : Nat} {r q : HartReq} (lone : (s.clusterAt cl).reqs = [r]) (slot : q.slot = r.slot) :
    dropReq (setQueue s cl [q]) cl r.slot = dropReq s cl r.slot :=
  (dropReq_queued slot).trans (dropReq_lone lone rfl).symm

theorem reqs_dropReq {s : State} {cl : Nat} (q : HartReq) (idle : (s.clusterAt cl).waiting = []) :
    ((dropReq (setQueue s cl [q]) cl q.slot).clusterAt cl).reqs = [] :=
  (congrArg (fun t : State => (t.clusterAt cl).reqs) (dropReq_queued rfl)).trans
    ((congrArg Cluster.reqs (State.clusterAt_setCluster_self ..)).trans (congrArg (fun w => (dropFrom w (s.clusterAt cl) []).reqs) idle))

/- The lines of a core's scratchpad have nothing to do with a cluster's queue. -/
theorem releaseLines_dropReq (s : State) (cl slot n : Nat) (l : List Nat) :
    l.foldl (fun s l => releaseLine s n l) (dropReq s cl slot) = dropReq (l.foldl (fun s l => releaseLine s n l) s) cl slot :=
  List.foldl_hom (fun s : State => dropReq s cl slot) fun _h _h => rfl

/- The lines that a request still holds. -/
noncomputable def heldOf (win : Option Nat) (s : State) (r : HartReq) : List Nat :=
  match win with
  | none => r.linesFrom r.cursor
  | some e =>
    let first := r.dst.toNat / 128 + r.cursor / 128
    (List.range (r.dst.toNat / 128 + wLines (winAt (s.coreAt r.who.core) e) - first)).map fun k => first + k

/- `cancelRequest`, by the request's window, destination and state. -/
noncomputable def cancelWork (win : Option Nat) (toScratch : Bool) (st : HartState) (s : State) (cl : Nat) (r : HartReq) :
    State × List (Nat × Word) :=
  let s1 := if toScratch && (st == .active || st == .faulted) then
      (heldOf win s r).foldl (fun (s : State) l => releaseLine s r.who.core l) s
    else s
  endRequest s1 cl r r.cursor 2

theorem hartChunk_setQueue {s : State} {cl : Nat} (noReset : (s.clusterAt cl).resetAt = none) (running : (s.clusterAt cl).stalled = none)
    (r : HartReq) :
    hartChunk (setQueue s cl [r]) cl r.slot =
      chunkOf (setQueue s cl [r]) cl r (late (setQueue s cl [r]) r.slot r ([r].filter fun q => q.state == .active) r.after)
        r.cancel r.state :=
  have queue := clusterAt_setQueue s cl [r]
  hartChunk_lone (congrArg Cluster.reqs queue) ((congrArg Cluster.resetAt queue).trans noReset)
    ((congrArg Cluster.stalled queue).trans running)

theorem hartCancel_faulted {s : State} {cl : Nat} {r : HartReq} (lone : (s.clusterAt cl).reqs = [r]) (faulted : r.state = .faulted)
    (copy : r.win = none) (mbox : r.mbox = 0) (silent : r.notify = false) (scratch : r.toScratch = true)
    (running : (s.clusterAt cl).stalled = none) (noReset : (s.clusterAt cl).resetAt = none) :
    hartCancel s cl r.slot = (dropReq ((r.linesFrom r.cursor).foldl (fun s l => releaseLine s r.who.core l) s) cl r.slot, []) :=
  (congrArg (foundOf s fun q => cancelOf q.state s cl r.slot q) (find_lone lone)).trans <|
  (congrArg (fun st => cancelOf st s cl r.slot r) faulted).trans <|
  (congrArg (fun t => hartChunk t cl r.slot) (modReq_lone lone cancelling)).trans <|
  (hartChunk_setQueue noReset running (cancelling r)).trans <|
  (congrArg (chunkOf (setQueue s cl [cancelling r]) cl (cancelling r) _ true) faulted).trans <|
  (congrArg₂ (fun w b => cancelWork w b r.state (setQueue s cl [cancelling r]) cl (cancelling r)) copy scratch).trans <|
  (congrArg (fun st => cancelWork none true st (setQueue s cl [cancelling r]) cl (cancelling r)) faulted).trans <|
  (endRequest_silent (r := cancelling r) mbox silent copy _ cl r.cursor 2).trans <|
  congrArg (fun t => (t, [])) <| (releaseLines_dropReq ..).symm.trans <|
    (congrArg (fun t => (r.linesFrom r.cursor).foldl (fun s l => releaseLine s r.who.core l) t)
      (dropReq_setQueue (q := cancelling r) lone rfl)).trans (releaseLines_dropReq ..)

/- ### A kick (R121) -/

/- 64 bytes that do not pass the end of their line are one piece. -/
noncomputable def descFrom (addr n : Nat) : List (Nat × Nat) := (0, n) :: pieces 64 (fun b => addr + b) 63 (0 + n) 64

/- The request that a kick puts into an empty queue, its descriptor still to be read. -/
noncomputable def kicked (s : State) (who : Requester) (addr : Word) (k : Nat) : HartReq :=
  { slot := k, who := who, win := none, addr := addr, state := .entered, src := 0, dst := 0, sstride := 0, dstride := 0
    rowbytes := 1, rows := 0, mbox := 0, notify := false, nctx := .n, arg := 0, cursor := 0, replayed := false
    cancel := beingKilled s who, after := none }

/- `enterKick`, by the free place that it finds. -/
noncomputable def enterWith (o : Option Nat) (s : State) (cl : Nat) (who : Requester) (addr : Word) :
    Option (State × List (Nat × Word)) :=
  match o with
  | none => none
  | some k =>
    let r := kicked s who addr k
    some (hartChunk (s.modCluster cl fun c => { c with reqs := c.reqs ++ [r] }) cl k)

/- A descriptor in one line of the requester's own scratchpad is read from one home. -/
theorem pieceHomes_desc {w : Requester} {addr : Word} {core : Nat} (self : w.core = core) (line : addr.toNat % 128 ≤ 64)
    (inside : addr.toNat < 0x18000)
    (cl : Nat) (s : State) :
    pieceHomes cl w .read (fun b => (addr.toNat + b) % 2 ^ 64) (descPieces addr.toNat) s [] =
      (.ok [(0, 64, scratchPa core addr.toNat)], s) :=
  (congrArg (fun n => pieceHomes cl w .read (fun b => (addr.toNat + b) % 2 ^ 64) (descFrom addr.toNat n) s [])
    (Nat.min_eq_left (Nat.le_sub_of_add_le (Nat.add_le_add_left line 64)))).trans
  (congrArg (fun h => homesWith cl w .read (fun b => (addr.toNat + b) % 2 ^ 64) (0, 64) [] []
      (homeWith h s cl w ((addr.toNat + 0) % 2 ^ 64) .read))
    ((congrArg₂ fixedWindow self (Nat.mod_eq_of_lt addr.isLt)).trans (if_pos inside)))

/- What `hartRead` rests on (`linkWaits`, `peerRefuses`, `lineOf`, `readHome`), each by the region of the home. -/
noncomputable def linkWaitsAt (o : Option Region) (s : State) (_ : Nat) : Bool :=
  match o with
  | some (.peer d _) => !linkUp s d
  | _ => false

noncomputable def peerRefusesAt (o : Option Region) (s : State) (_ : Nat) : Bool :=
  match o with
  | some (.peer _ _) => Config.peerRefuses s.fresh
  | _ => false

noncomputable def lineAt : Option Region → Option (Nat × Nat)
  | some (.scratch c o) => some (c, o / 128)
  | _ => none

noncomputable def readHomeAt (o : Option Region) (s : State) (pa n : Nat) : Nat :=
  match o with
  | some (.host o) => (List.range n).foldl (fun v k => v + (Config.hostByte s.fresh (o + k)).toNat * 256 ^ k) 0
  | some (.peer d o) => (List.range n).foldl (fun v k => v + (Config.peerByte s.fresh d (o + k)).toNat * 256 ^ k) 0
  | some .hbm | some (.scratch _ _) | some (.hamper _ _) => readMem s pa n
  | some _ =>
    (List.range ((pa % 8 + n + 7) / 8)).foldl (fun v k => v + (winRead s (pa - pa % 8 + 8 * k)).toNat * 2 ^ (64 * k)) 0
      / 2 ^ (8 * (pa % 8)) % 2 ^ (8 * n)
  | none => 0

/- `hartRead`, by the region of the home. -/
noncomputable def hartReadAt (o : Option Region) (s : State) (pa n : Nat) : Option (Except Nat Nat) :=
  if linkWaitsAt o s pa || (lineAt o).any fun q => lineEmpty s q.1 q.2 then none
  else if peerRefusesAt o s pa then some (.error 0x03)
  else if (poisonedIn s pa n).isSome then some (.error 0x0F)
  else some (.ok (readHomeAt o s pa n))

/- What the hart reads in a scratchpad, by its line and its poison. -/
noncomputable def readWith (s : State) (pa n : Nat) (empty : Bool) (poison : Option Nat) : Option (Except Nat Nat) :=
  if empty then none else if poison.isSome then some (.error 0x0F) else some (.ok (readMem s pa n))

/- The hart reads bytes of a full line of a scratchpad that no poison touches. -/
theorem hartRead_scratch {core o pa : Nat} (scratch : regionOf pa = some (.scratch core o)) {s : State} {n : Nat}
    (full : lineEmpty s core (o / 128) = false) (clean : poisonedIn s pa n = none) :
    hartRead s pa n = some (.ok (readMem s pa n)) :=
  (congrArg (hartReadAt · s pa n) scratch).trans (congrArg₂ (readWith s pa n) full clean)

theorem readPieces_single {s : State} {n pa d : Nat} (bytes : hartRead s pa n = some (.ok d)) (r : HartReq) :
    readPieces s r 0 [(0, n, pa)] 0 = some (.ok d) :=
  (congrArg (fun x : Option (Except Nat Nat) => match x with
    | none => none
    | some (.error c) => some (Except.error (r.srcAt 0, c))
    | some (.ok v) => readPieces s r 0 [] (0 + v * 2 ^ (8 * (0 - 0)))) bytes).trans
    (congrArg (fun v => some (Except.ok v)) ((Nat.zero_add _).trans (Nat.mul_one d)))

/- `hartPass`, by the unit of the home. -/
noncomputable def passWith (u : Option DestUnit) (s : State) (cl part pa : Nat) : State :=
  match u with
  | some (.core n) => if clusterOf n = cl then s else passPaths s (dieOfCluster cl) 0 part pa
  | _ => passPaths s (dieOfCluster cl) 0 part pa

/- A core's flits inside its cluster pass no path of R129. -/
theorem hartPass_own {core o pa : Nat} (scratch : regionOf pa = some (.scratch core o)) {cl : Nat} (own : clusterOf core = cl)
    (s : State) (part : Nat) :
    hartPass s cl part pa = s :=
  (congrArg (fun u => passWith u s cl part pa) (congrArg (Option.map _) scratch : destUnit pa = some (.core core))).trans (if_pos own)

/- The start of a request whose descriptor has been read. -/
noncomputable def startEnd (s2 : State) (cl : Nat) (q : HartReq) (ok toScratch : Bool) : State × WinWrites :=
  if !ok then endRequest s2 cl q 0 3
  else if q.total = 0 then endRequest s2 cl q 0 1
  else if toScratch then ((q.linesFrom 0).foldl (fun (s : State) l => claimLine s q.who.core l) s2, [])
  else (s2, [])

/- The start of a request, by what it reads as its descriptor. -/
noncomputable def startRead (s1 : State) (cl : Nat) (r : HartReq) (l : List (Nat × Nat × Nat))
    (o : Option (Except (Nat × Nat) Nat)) : State × List (Nat × Word) :=
  match o with
  | none => if r.cancel then cancelRequest s1 cl r else (s1, [])
  | some (.error (_, c)) => (stopRequest s1 cl r .descFault r.addr.toNat c 0, [])
  | some (.ok d) =>
    startEnd (modReq (piecesPass s1 cl r.who.part l) cl r.slot fun _h => (descRequest r d).1) cl (descRequest r d).1
    (descRequest r d).2 (descRequest r d).1.toScratch

/- `startRequest`, by the homes of the descriptor. -/
noncomputable def startWith (x : Except (Nat × Nat) (List (Nat × Nat × Nat)) × State) (_s : State) (cl : Nat) (r : HartReq) :
    State × List (Nat × Word) :=
  let _at (b : Nat) : Nat := (r.addr.toNat + b) % 2 ^ 64
  let stop (s : State) (cause : Nat) : State × List (Nat × Word) := (stopRequest s cl r .descFault r.addr.toNat cause 0, [])
  match x with
  | (.error (_, c), s1) => stop s1 c
  | (.ok l, s1) =>
    match if piecesBehind s1 cl l then none else readPieces s1 { r with src := r.addr, rowbytes := 64 } 0 l 0 with
    | none => if r.cancel then cancelRequest s1 cl r else (s1, [])
    | some (.error (_, c)) => stop s1 c
    | some (.ok d) =>
      let (q, ok) := descRequest r d
      let s2 := modReq (piecesPass s1 cl r.who.part l) cl r.slot fun _h => q
      if !ok then endRequest s2 cl q 0 3
      else if q.total = 0 then endRequest s2 cl q 0 1
      else if q.toScratch then ((q.linesFrom 0).foldl (fun (s : State) l => claimLine s q.who.core l) s2, [])
      else (s2, [])

theorem startRequest_scratch {s : State} {cl core d : Nat} {r : HartReq} (own : r.who.core = core) (mesh : core < 4608)
    (cluster : clusterOf core = cl) (line : r.addr.toNat % 128 ≤ 64) (inside : r.addr.toNat < 0x18000)
    (full : lineEmpty s core (r.addr.toNat / 128) = false) (clean : poisonedIn s (scratchPa core r.addr.toNat) 64 = none)
    (alone : Alone cl s) (word : readMem s (scratchPa core r.addr.toNat) 64 = d) :
    startRequest s cl r = startRead (bump s) cl r [] (some (.ok d)) :=
  (congrArg (fun x => startWith x s cl r) (pieceHomes_desc own line inside cl (bump s))).trans
  ((congrArg (startRead (bump s) cl r _) ((if_neg (ne_true_of_eq_false (piecesBehind_of_alone (s := bump s) alone _))).trans
    (readPieces_single (
      (hartRead_scratch (s := bump s) (regionOf_scratch mesh inside) full clean).trans (congrArg (fun v => some (Except.ok v)) word))
      { r with src := r.addr, rowbytes := 64 }))).trans
    (congrArg (fun t => startEnd (modReq t cl r.slot fun _h => (descRequest r d).1) cl (descRequest r d).1 (descRequest r d).2
      (descRequest r d).1.toScratch)
      (hartPass_own (regionOf_scratch mesh inside) cluster (bump s) r.who.part)))

theorem ands_eq_true : ∀ a b c d e f : Bool, (a && b && c && d && e && f && true) = true ↔
    a = true ∧ b = true ∧ c = true ∧ d = true ∧ e = true ∧ f = true := by
  decide

/- What R120 and R123 ask of the other fields of a descriptor at `addr` whose destination is no scratchpad. -/
noncomputable def FieldsOk (addr d : Nat) : Prop :=
  addr % 64 = 0 ∧ bitsOf d 287 272 = 0 ∧ bitsOf d 383 322 = 0 ∧ bitsOf d 511 448 = 0 ∧
    bitsOf d 191 128 % 8 = 0 ∧ bitsOf d 271 256 * bitsOf d 319 288 < 2 ^ 32

theorem descRequest_ok {d : Nat} (far : 0x18000 ≤ bitsOf d 127 64) (r : HartReq) : (descRequest r d).2 = true ↔ FieldsOk r.addr.toNat d :=
  (Iff.of_eq (congrArg (fun x => (and _ x) = true) (
    congrArg (fun b => or (not b) _) (decide_eq_false (Nat.not_lt_of_le far)))) :).trans <|
    (ands_eq_true ..).trans <|
    and_congr beq_iff_eq <| and_congr beq_iff_eq <| and_congr beq_iff_eq <| and_congr beq_iff_eq <| and_congr beq_iff_eq decide_eq_true_iff

/- `mayPerform`, by its three conditions. -/
noncomputable def mayWith (a : Access) (released message fences : Bool) : Bool :=
  !message && (!a.kind.fenced || fences) && released

theorem release_passed {p : Scope → Bool} (o : Option Scope) : (∀ sc, o = some sc → p sc = true) →
    (match o with | some sc => p sc | none => true) = true := by
  rcases o with _ | sc
  · exact fun _h => rfl
  · exact fun h => h sc rfl

/- `withAccess`, by the access that it finds. -/
noncomputable def accessWith (o : Option Access) (s : State) (i : CtxId) (k : Nat) (f : Access → State) : State :=
  match o with
  | none => s
  | some a => if mayPerform s i k a && resendDue s a then f a else s

theorem withAccess_of_goes {s : State} {i : CtxId} {a : Access} (goes : Spec.Goes s i a []) (f : Access → State) :
    withAccess s i 0 f = f a :=
  (congrArg (fun o => accessWith o s i 0 f) (congrArg (fun l => l[0]?) goes.first.1)).trans <| if_pos <|
  congrArg₂ and ((congrArg₂ (mayWith a _) (messageBefore_of_quiet goes.quiet a)
      ((congrArg (List.all · _) goes.first.1).trans (congrArg (fun b => (b || _) && true) (decide_eq_true (Nat.le_refl a.num))) :
        fencesPassed s i a.num (fun sc => accInScope s sc i a) = true)).trans
    (congrArg₂ (fun f r => !false && f && r) (Bool.or_true (!a.kind.fenced))
      (release_passed (p := fun sc => a.kind == .fence || releasedBefore s i a.num sc allMsgs) a.rel
        fun sc release => Bool.or_eq_true_iff.2 (.inr (goes.first.2.1 sc release)))))
  (congrArg (fun o => Option.all _ o) goes.kept)

/- `performKick`, by what the hart does with the kick. -/
noncomputable def kickWith (o : Option (State × List (Nat × Word))) (s : State) (i : CtxId) (k : Nat) (a : Access) : State :=
  match o with
  | none => if a.pos = 1 then dropAcc (modEntry s i a.num fun e => { e with value := 1 }) i k else s
  | some (s1, w) =>
    match drainWrites false a.who drainFuel s1 w with
    | none => s
    | some s2 => dropAcc (modEntry s2 i a.num fun e => { e with value := 0 }) i k

/- The state with a kick answered. -/
noncomputable def kickAnswered (i : CtxId) (a : Access) (t : State) : State :=
  dropAcc (modEntry t i a.num fun e => { e with value := 0 }) i 0

/- The request of a kick once its descriptor has been read, and whether that is well formed. -/
noncomputable def kickReq (s : State) (a : Access) (d : Nat) : HartReq × Bool := descRequest (kicked s a.who a.va 0) d

/- The state with that request in the queue. -/
noncomputable def kickQueued (s : State) (cl : Nat) (a : Access) (d : Nat) : State :=
  setQueue (bump (setQueue s cl [kicked s a.who a.va 0])) cl [(kickReq s a d).1]

/- ### The walk (R111) -/

/- A level of a walk (`walkFrom`), by what its entry says. -/
noncomputable def walkStep (s : State) (p va : Nat) (ls : List Nat) (w : WalkStep) : Option TEntry :=
  match w with
  | .fault => none
  | .table pa => walkFrom s p va ls pa
  | .page size pa perm => some ⟨p, va / size, size, pa, BitVec.ofNat 3 perm⟩

theorem walk_goes {va : Nat} {root : Word} (low : va < 2 ^ 48) (valid : root.getLsbD 0 = true) :
    (decide (va ≥ 2 ^ 48) || !bitAt root 0) = false :=
  congrArg₂ (fun a b => a || !b) (decide_eq_false (Nat.not_le_of_lt low)) ((bitAt_zero _).trans valid)

theorem walkPaths_unarmed {s : State} (unarmed : ∀ a, (getLog s a).inject.getLsbD 0 = false) (cl p va : Nat) : walkPaths s cl p va = s :=
  walkPaths_keeps (P := fun t => t = s) (fun _t a tag part same => (congrArg (fun t => strikePath t a tag part) same).trans
    (if_neg fun armed => ne_true_of_eq_false ((bitAt_zero _).trans (unarmed a)) (Bool.and_elim_left (Bool.and_elim_left armed)))) s cl p va rfl

theorem exec_walk_unarmed {s : State} {cl p : Nat} {va : Word} {e : TEntry}
    (goes : (decide (va.toNat ≥ 2 ^ 48) || !bitAt (s.partAt p).ptroot 0) = false)
    (miss : ∀ e ∈ (s.clusterAt cl).tcache, e.covers p va.toNat = false) (unarmed : ∀ a, (getLog s a).inject.getLsbD 0 = false)
    (walked : walk s p va.toNat = some e) :
    exec (.translationWalk cl p va) s = .next (s.modCluster cl fun c => { c with tcache := e :: c.tcache.take 511 }) :=
  congrArg (fun x : _ × State => Host.Outcome.next x.2) <| (if_neg (ne_true_of_eq_false goes)).trans
    ((congrArg₂ (fun h w => cacheWith h w s cl p va.toNat)
      (List.find?_eq_none.2 fun e he => ne_true_of_eq_false (miss e he)) walked).trans
    (congrArg (Prod.mk _) ((congrArg (fun t => insertEntry t cl e) (walkPaths_unarmed unarmed cl p va.toNat)).trans
      (insertEntry_unarmed (unarmed (.cluster cl)) e))))

/- ### The kick's step -/

theorem dropAcc_shows {s : State} {i : CtxId} {a : Access} {l : List Access} (h : (s.ctx i).acc = a :: l)
    (hf : ∀ b ∈ a :: l, b.kind ≠ .fence) :
    ((dropAcc s i 0).ctx i).acc = l ∧ ((dropAcc s i 0).ctx i).rb = (s.ctx i).rb ∧
      (dropAcc s i 0).clusters = s.clusters ∧ (dropAcc s i 0).mem = s.mem :=
  ⟨(congrArg Context.acc (dropAcc_first h hf).1 :), (congrArg Context.rb (dropAcc_first h hf).1 :),
    (dropAcc_first h hf).2.2.clusters, (dropAcc_first h hf).2.2.mem⟩

theorem acc_modEntry (s : State) (i : CtxId) (num : Nat) (f : Entry → Entry) : ((modEntry s i num f).ctx i).acc = (s.ctx i).acc :=
  (congrArg Context.acc (modEntry_only s i num f).1 :)

theorem rb_modEntry (s : State) (i : CtxId) (num : Nat) (f : Entry → Entry) :
    ((modEntry s i num f).ctx i).rb = (s.ctx i).rb.map fun e => if e.num = num then f e else e :=
  (congrArg Context.rb (modEntry_only s i num f).1 :)

/- A kick whose descriptor is read in the requester's scratchpad, by the state `t` in which its request has started. The statement repeats
the binders of the obligation, which share their terms with it. -/
theorem exec_kick (s : State) (cl : Nat) :
    let c := s.clusterAt cl
    let alone := ∀ m ∈ s.pkg.engine, m.src ≠ .hart cl
    ∀ core x a, let i : CtxId := ⟨core, x⟩
      let d := readMem s (scratchPa core a.va.toNat) 64
      let _field (hi lo : Nat) : Nat := d / 2 ^ lo % 2 ^ (hi + 1 - lo)
      Spec.Goes s i a [] → a.kind = .kick → a.who.core = core → core < 4608 → clusterOf core = cl → c.reqs = [] → c.waiting = [] →
      c.stalled = none → c.resetAt = none → a.va.toNat % 128 ≤ 64 → a.va.toNat < 0x18000 → lineEmpty s core (a.va.toNat / 128) = false →
      poisonedIn s (scratchPa core a.va.toNat) 64 = none → alone → ∀ {t l} {p : Prop}, t.ctx i = s.ctx i →
      startEnd (kickQueued s cl a d) cl (kickReq s a d).1 (kickReq s a d).2 (kickReq s a d).1.toScratch = (t, []) → (t.clusterAt cl).reqs = l →
      (((kickAnswered i a t).ctx i).rb = (s.ctx i).rb.map (fun e => if e.num = a.num then { e with value := 0 } else e) →
        (kickAnswered i a t).mem = t.mem → p) →
      exec (.copyKick core x 0) s = .next (kickAnswered i a t) ∧ ((kickAnswered i a t).clusterAt cl).reqs = l ∧
        ((kickAnswered i a t).ctx i).acc = [] ∧ p := by
  intro c alone core x a i d _field goes kick own mesh cluster empty idle running noReset line inside full clean free t l p same started queue rest
  have shows := dropAcc_shows
    ((acc_modEntry t i a.num fun e => { e with value := 0 }).trans ((congrArg Context.acc same).trans goes.first.1))
    goes.first.2.2
  exact ⟨congrArg Host.Outcome.next <| (withAccess_of_goes goes _).trans <| (congrArg (fun k : AccKind => match k with
      | .kick => performKick s i 0 a
      | _ => s) kick).trans <|
    (congrArg (fun o => kickWith o s i 0 a) <| (congrArg (fun c => enterKick s c a.who a.va) cluster).trans <|
      (congrArg (fun o => enterWith o s cl a.who a.va)
        (congrArg (fun l : List HartReq => (List.range hartMax).find? fun k => !l.any fun r => r.slot == k) empty)).trans <|
      (congrArg (fun l => some (hartChunk (setQueue s cl (l ++ [kicked s a.who a.va 0])) cl 0)) empty).trans <| congrArg some <|
      (hartChunk_setQueue noReset running (kicked s a.who a.va 0)).trans <|
      (startRequest_scratch (s := setQueue s cl [kicked s a.who a.va 0]) (r := kicked s a.who a.va 0) own mesh cluster
        line inside full clean free (.refl d)).trans <|
      (congrArg (fun t => startEnd t cl (kickReq s a d).1 (kickReq s a d).2 (kickReq s a d).1.toScratch) <|
        modReq_lone (s := bump (setQueue s cl [kicked s a.who a.va 0])) (r := kicked s a.who a.va 0)
          (congrArg Cluster.reqs (clusterAt_setQueue s cl [kicked s a.who a.va 0])) _).trans
        started).trans
    (congrArg (fun o : Option State => o.elim s (kickAnswered i a)) (drainWrites_nil false a.who drainFuel t)),
    (congrArg (fun c => ((getN cl c).getD Cluster.reset).reqs) shows.2.2.1).trans queue, shows.1,
    rest (shows.2.1.trans ((rb_modEntry t i a.num _).trans (congrArg (fun k : Context => k.rb.map _) same))) shows.2.2.2⟩

theorem startEnd_sound {s : State} {cl : Nat} {q : HartReq} {ok toScratch : Bool} (sound : ok = true) (far : toScratch = false)
    (bytes : q.total ≠ 0) :
    startEnd s cl q ok toScratch = (s, []) :=
  (congrArg₂ (startEnd s cl q) sound far).trans (if_neg bytes)

theorem startEnd_malformed {s : State} {cl : Nat} {q : HartReq} {ok : Bool} (malformed : ok = false) (mbox : q.mbox = 0) (silent : q.notify = false)
    (copy : q.win = none) (toScratch : Bool) : startEnd s cl q ok toScratch = (dropReq s cl q.slot, []) :=
  (congrArg (startEnd s cl q · toScratch) malformed).trans (endRequest_silent mbox silent copy s cl 0 3)

/- ### The obligation -/

theorem exists_let {α : Type} {p : α → Prop} (a : α) (h : let x := a; p x) : ∃ x, p x := ⟨a, h⟩

theorem and_rest {a b c : Prop} (h : c) (ha : a) (_ : b) : a ∧ c := ⟨ha, h⟩

/-- Settles O54: kicks, chunks, replays and cancels of a lone request, and the walker's leaf, each by the equation of its step. -/
theorem hartRequestsProceed : Obligations.HartRequestsProceed := by
  intro s cl c alone
  refine ⟨?_, ?_, ?_, ?_⟩
  · intro core x a i d field goes kick own mesh cluster empty idle running noReset line inside full clean free sound
    refine ⟨fun ok far rows rowbytes => ?_, fun unsound far mbox silent => ?_⟩
    · refine exists_let (kickAnswered i a (kickQueued s cl a d)) ?_
      intro t
      refine exists_let (kickReq s a d).1 ?_
      intro q
      refine exec_kick s cl core x a goes kick own mesh cluster empty idle running noReset line inside full clean free
        (t := kickQueued s cl a d) rfl
        (startEnd_sound ((descRequest_ok far (kicked s a.who a.va 0)).2 ok) (decide_eq_false ?_) (Nat.mul_pos rows rowbytes).ne') ?_
        (and_rest ⟨rfl, rfl, rfl, rfl, Nat.mod_mod (d / 2 ^ 0) (2 ^ 64), Nat.mod_mod (d / 2 ^ 64) (2 ^ 64),
          Nat.mod_mod (d / 2 ^ 128) (2 ^ 64), rfl, rfl, rfl, rfl⟩)
      · exact Nat.not_lt_of_le (far.trans_eq (Nat.mod_mod (d / 2 ^ 64) (2 ^ 64)).symm)
      · exact congrArg Cluster.reqs (clusterAt_setQueue (bump (setQueue s cl [kicked s a.who a.va 0])) cl [(kickReq s a d).1])
    · refine exists_let (kickAnswered i a (dropReq (kickQueued s cl a d) cl (kickReq s a d).1.slot)) ?_
      intro t
      refine exec_kick s cl core x a goes kick own mesh cluster empty idle running noReset line inside full clean free
        (t := dropReq (kickQueued s cl a d) cl (kickReq s a d).1.slot) rfl
         (startEnd_malformed (eq_false_of_ne_true fun ok => unsound ((descRequest_ok far (kicked s a.who a.va 0)).1 ok))
          (congrArg (BitVec.ofNat 64) mbox)
            (beq_eq_false_iff_ne.2 fun set => Nat.zero_ne_one (silent.symm.trans set)) rfl _) ?_
         fun _h mem => mem
      · exact reqs_dropReq (s := bump (setQueue s cl [kicked s a.who a.va 0])) (kickReq s a d).1
          ((congrArg Cluster.waiting (clusterAt_setQueue s cl [kicked s a.who a.va 0])).trans idle)
  · intro r stop sources lone active going noReset running released copy free
    refine ⟨fun l s1 read scratch => ⟨?_, fun held => ?_⟩, fun va cause s1 fault cluster core slot code cursor => ?_⟩
    · intro v got t
      exact ⟨fun more =>
          step_chunkRead s cl r lone active going noReset running released copy free l s1 read scratch got (fin_more more cl t),
        fun last mbox silent =>
          step_chunkRead s cl r lone active going noReset running released copy free l s1 read scratch got (fin_last last mbox silent copy cl t)⟩
    · exact step_chunkRead s cl r lone active going noReset running released copy free l s1 read scratch held rfl
    · refine exists_let (stopped s1 cl r va cause) ?_
      intro t
      refine ⟨step_chunkFault s cl r lone active going noReset running released copy free va cause s1 fault,
        reqs_stopped s1 cl r va cause, ?_⟩
      refine exists_let (copyFaultRecord cl r va r.cursor cause 0) ?_
      intro e
      exact copyFaultRecord_fields copy cluster core slot code cursor va ⟨fun room => copyFaults_recordFault _ _ _ _ room,
      fun full => ⟨stalled_recordFault _ _ _ _ full, copyFaults_recordFault_full _ _ _ _ full⟩⟩
  · intro r lone faulted copy
    exact ⟨next_settlePart (hartReplay_faulted lone faulted copy), fun mbox silent scratch running noReset =>
      next_settlePart (hartCancel_faulted lone faulted copy mbox silent scratch running noReset)⟩
  · intro p va a1 a2 a3 pa perm root at_ low valid inHbm miss _ unarmed first second third leaf
    exact exec_walk_unarmed (walk_goes low valid) miss unarmed <|
      (if_neg (ne_true_of_eq_false (congrArg₂ or (walk_goes low valid) (decide_eq_false (Nat.not_le_of_lt inHbm))))).trans <|
      (congrArg (walkStep s p va.toNat [1, 2, 3]) first).trans <| (congrArg (walkStep s p va.toNat [2, 3]) second).trans <|
      (congrArg (walkStep s p va.toNat [3]) third).trans (congrArg (walkStep s p va.toNat []) leaf)

end Sys2Proof.Machine
end
